-- ==== Sys2Proof/Word.lean ====
section
/-! DEFINITION. The words of the Imaixa instruction set (R3, R13, R39): a byte, a 32-bit parcel, a
64-bit scalar value, and the sign reading of a bit field. -/

namespace Sys2Proof

/-- One byte of memory, of scratchpad or of a row. -/
abbrev Byte := BitVec 8

/-- A parcel: the 32-bit unit instructions are made of (R39). -/
abbrev Parcel := BitVec 32

/-- A scalar register value, an address, a CSR value (R13). -/
abbrev Word := BitVec 64

/-- The number of a scalar register s0–s31. -/
abbrev Reg := BitVec 5

/-- A granule of 8 bytes, the unit of every memory rule (R91). -/
abbrev Granule := BitVec 64

/-- The 256 data bytes of a row, or one 256-byte line (R18). -/
abbrev RowBits := BitVec 2048

end Sys2Proof
end

