-- ==== Sys2Proof/Syntax.lean ====
section
/-! DEFINITION. The syntax of the machine's steps: one constructor of `Instr` per row of the opcode
table. Rows with an encoding are the Imaixa instructions (R39–R52); the other rows are the device's
own events and host operations, whose operands name the object they act on. -/

namespace Sys2Proof

/-- The guard of an SR, SB or V-class instruction: P(p) XOR pn (R43, R45). -/
structure Guard where
  p : BitVec 4
  pn : Bool
  deriving DecidableEq, Repr, Inhabited

/-- The three streams of a job (R11). -/
inductive Strm where
  | l | c | s
  deriving DecidableEq, Repr, Inhabited

/-- One stream of one residency slot of one core. -/
structure Hart where
  core : Nat
  slot : Nat
  strm : Strm
  deriving DecidableEq, Repr, Inhabited

/-- The acquire bit and scope of an SA instruction (R43, R92); codes 8–15 are reserved. -/
structure ScopeAcq where
  scope : BitVec 4
  acq : Bool
  deriving DecidableEq, Repr, Inhabited

/-- Lane modes of a row or queue source (R46, R285). -/
inductive Lane where
  | straight | first | reversed
  deriving DecidableEq, Repr, Inhabited

/-- A V-class operand descriptor (R46). -/
inductive Desc where
  | row (index : BitVec 10) (stride : BitVec 4) (rot neg : Bool) (lane : Lane)
  | queue (q : BitVec 3) (neg : Bool) (lane : Lane)
  | scalar (r : Reg) (neg : Bool)
  | imm (v : BitVec 14)
  | none
  deriving DecidableEq, Repr, Inhabited

/-- The fields of a V-class instruction beside its opcode (R45). -/
structure VOp where
  fmt : BitVec 4
  k : BitVec 3
  g : Guard
  fn : BitVec 4
  rnd : BitVec 3
  sat : Bool
  ftz : Bool
  D : Desc
  A : Desc
  B : Desc
  n : BitVec 4
  deriving DecidableEq, Repr, Inhabited

/-- Parcel 0 of an M-class instruction other than LOOP, beside its opcode (R50). -/
structure MHead where
  fmt : BitVec 4
  td : Reg
  ta : Reg
  tb : Reg
  prio : BitVec 2
  det : Bool
  deriving DecidableEq, Repr, Inhabited

/-- The engine word of opcodes 0x10–0x1D and 0x28–0x31 (R200). -/
structure EngOp where
  h : MHead
  ra : Reg
  rb : Reg
  rc : Reg
  rd : Reg
  re : Reg
  rw : Reg
  ln : BitVec 12
  ln2 : BitVec 12
  cnt : BitVec 7
  op : BitVec 4
  lvl : BitVec 3
  deriving DecidableEq, Repr, Inhabited

/-- The engine word of opcodes 0x01–0x08 and 0x20–0x22 (R313). -/
structure MatOp where
  h : MHead
  la : BitVec 12
  lb : BitVec 12
  acc : BitVec 3
  sa : BitVec 12
  sb : BitVec 12
  m : BitVec 7
  n : BitVec 7
  kb : BitVec 8
  lc : BitVec 12
  rnd : BitVec 3
  sat : Bool
  norm : Bool
  side : Bool
  causal : Bool
  scsrc : Bool
  prior : Bool
  srcfmt : BitVec 4
  ra : Reg
  rb : Reg
  rc : Reg
  rd : Reg
  deriving DecidableEq, Repr, Inhabited

/-- A rotating value of LOOP: base row and ring length − 1; all zero is unused (R76). -/
structure RotField where
  base : BitVec 10
  len : BitVec 4
  deriving DecidableEq, Repr, Inhabited

/-- The LOOP word (R76). -/
structure LoopOp where
  st : BitVec 3
  trip : Reg
  sp : BitVec 4
  body : BitVec 16
  rot0 : RotField
  rot1 : RotField
  rot2 : RotField
  rot3 : RotField
  rot4 : RotField
  rot5 : RotField
  rot6 : RotField
  rot7 : RotField
  deriving DecidableEq, Repr, Inhabited

/-- The engine classes of a core among which READY operations are chosen (R162). -/
inductive Engine where
  | matrix | copy | kv | collective | media
  deriving DecidableEq, Repr, Inhabited

/-- The operands of a control operation made by the host in the management window (R402, R411):
the target partition, the WRT bit, INDEX and the argument. -/
structure HostOp where
  part : Nat
  wrt : Bool
  index : BitVec 16
  arg : Word
  deriving DecidableEq, Repr, Inhabited

/-- A host register write (R410): function, BAR0 byte offset, width in bytes and value. -/
structure RegWrite where
  fn : Nat
  offset : Nat
  width : Nat
  value : Word
  deriving DecidableEq, Repr, Inhabited

/-- The source a peer message names (R420, R421): chip, partition and fabric id, and the partition it
is addressed to at this chip. -/
structure PeerSrc where
  chip : Nat
  part : Nat
  fabric : Nat
  target : Nat
  deriving DecidableEq, Repr, Inhabited

/-- Which request a reply answers (R420, R422): the peer that it comes from, and the tag that it repeats. -/
structure ReplyTag where
  src : PeerSrc
  number : BitVec 32
  deriving DecidableEq, Repr, Inhabited

/-- What a release flag carries (R421): a sync-word update, a barrier arrival, the data of one member of a level-6
collective, or that a member of one has failed, before or after its data were sent (R225). -/
inductive FlagBody where
  | syncWord (pa : Nat) (bytes : BitVec 32)
  | barrier (number : BitVec 11) (expected : Nat)
  | collective (cid : BitVec 11) (ordinal : Nat) (member : Nat) (fmt op : BitVec 4) (count root : Nat)
      (data : List Byte)
  | failed (cid : BitVec 11) (ordinal member : Nat) (sent : Bool)
  deriving DecidableEq, Repr, Inhabited

/-- The body of a peer's reply to a request of this chip (R422). -/
inductive ReplyBody where
  | done
  | failed
  | entry (bytes : List Byte)
  | page (bytes : List Byte)
  | partials (rows : List (BitVec 32 × BitVec 32 × List (BitVec 32)))
  deriving DecidableEq, Repr, Inhabited

/-- Where a soft error or a poisoned granule lies (R456, R458): GDDR 7; the LLC, in the line as every agent reads it
or in a job's wet version of it, a data granule or the tag; the scratchpads; a resident job's rows, accumulators
and tables; a saved context's; a record of a cluster's trace SRAM. [DEDUCED, log 100] -/
inductive ErrLoc where
  | mem (granule : Nat)
  | llc (job : Option Nat) (granule : Nat)
  | llcTag (job : Option Nat) (line : Nat)
  | savedRow (jobid row granule : Nat)
  | savedAcc (jobid a element : Nat)
  | savedTable (jobid : Nat)
  | trace (cluster record : Nat)
  | spad (core : Nat) (granule : Nat)
  | row (core slot row granule : Nat)
  | acc (core slot a element : Nat)
  | table (core slot : Nat)
  deriving DecidableEq, Repr, Inhabited

/-- The steps of the machine: one constructor per row of the opcode table. -/
inductive Instr where
  -- scalar arithmetic (R64–R69)
  | nop (g : Guard)
  | add (g : Guard) (d a b : Reg)
  | sub (g : Guard) (d a b : Reg)
  | and (g : Guard) (d a b : Reg)
  | or (g : Guard) (d a b : Reg)
  | xor (g : Guard) (d a b : Reg)
  | shl (g : Guard) (d a b : Reg)
  | shr (g : Guard) (d a b : Reg)
  | sra (g : Guard) (d a b : Reg)
  | mul (g : Guard) (d a b : Reg)
  | mulh (g : Guard) (d a b : Reg)
  | mulhu (g : Guard) (d a b : Reg)
  | div (g : Guard) (d a b : Reg)
  | divu (g : Guard) (d a b : Reg)
  | rem (g : Guard) (d a b : Reg)
  | remu (g : Guard) (d a b : Reg)
  | min (g : Guard) (d a b : Reg)
  | minu (g : Guard) (d a b : Reg)
  | max (g : Guard) (d a b : Reg)
  | maxu (g : Guard) (d a b : Reg)
  | clz (g : Guard) (d a : Reg)
  | ctz (g : Guard) (d a : Reg)
  | popc (g : Guard) (d a : Reg)
  | brev (g : Guard) (d a : Reg)
  | sel (g : Guard) (d a b : Reg)
  -- predicates and mask pairs (R70, R71)
  | psetEq (g : Guard) (d : BitVec 4) (a b : Reg)
  | psetNe (g : Guard) (d : BitVec 4) (a b : Reg)
  | psetLt (g : Guard) (d : BitVec 4) (a b : Reg)
  | psetLtu (g : Guard) (d : BitVec 4) (a b : Reg)
  | psetGe (g : Guard) (d : BitVec 4) (a b : Reg)
  | psetGeu (g : Guard) (d : BitVec 4) (a b : Reg)
  | plogAnd (g : Guard) (d a b : BitVec 4)
  | plogOr (g : Guard) (d a b : BitVec 4)
  | plogXor (g : Guard) (d a b : BitVec 4)
  | plogAndn (g : Guard) (d a b : BitVec 4)
  | pmov (g : Guard) (d : BitVec 4) (a : Reg)
  | pmovGet (g : Guard) (d : Reg)
  | pmovPut (g : Guard) (a : Reg)
  | ksetRow (g : Guard) (d : BitVec 3) (a : Reg)
  | ksetCol (g : Guard) (d : BitVec 3) (a : Reg)
  | ksetBoth (g : Guard) (d : BitVec 3) (a b : Reg)
  | kgetRow (g : Guard) (d : Reg) (a : BitVec 3)
  | kgetCol (g : Guard) (d : Reg) (a : BitVec 3)
  -- immediates (R67, R69)
  | addi (d a : Reg) (i : BitVec 13)
  | andi (d a : Reg) (i : BitVec 13)
  | ori (d a : Reg) (i : BitVec 13)
  | xori (d a : Reg) (i : BitVec 13)
  | shli (d a : Reg) (i : BitVec 6)
  | shri (d a : Reg) (i : BitVec 6)
  | srai (d a : Reg) (i : BitVec 6)
  | ldhi (d : Reg) (i : BitVec 18)
  | addpc (d : Reg) (i : BitVec 18)
  -- loads and stores (R174, R175)
  | ldb (d a : Reg) (i : BitVec 13)
  | ldbu (d a : Reg) (i : BitVec 13)
  | ldh (d a : Reg) (i : BitVec 13)
  | ldhu (d a : Reg) (i : BitVec 13)
  | ldw (d a : Reg) (i : BitVec 13)
  | ldwu (d a : Reg) (i : BitVec 13)
  | ldd (d a : Reg) (i : BitVec 13)
  | stb (d a : Reg) (i : BitVec 13)
  | sth (d a : Reg) (i : BitVec 13)
  | stw (d a : Reg) (i : BitVec 13)
  | std (d a : Reg) (i : BitVec 13)
  | ldpiB (g : Guard) (d a b : Reg)
  | ldpiBu (g : Guard) (d a b : Reg)
  | ldpiH (g : Guard) (d a b : Reg)
  | ldpiHu (g : Guard) (d a b : Reg)
  | ldpiW (g : Guard) (d a b : Reg)
  | ldpiWu (g : Guard) (d a b : Reg)
  | ldpiD (g : Guard) (d a b : Reg)
  | stpiB (g : Guard) (d a b : Reg)
  | stpiH (g : Guard) (d a b : Reg)
  | stpiW (g : Guard) (d a b : Reg)
  | stpiD (g : Guard) (d a b : Reg)
  -- atomics and synchronisation (R176–R186)
  | amoAdd (q : ScopeAcq) (d a b : Reg)
  | amoMin (q : ScopeAcq) (d a b : Reg)
  | amoMax (q : ScopeAcq) (d a b : Reg)
  | amoMinu (q : ScopeAcq) (d a b : Reg)
  | amoMaxu (q : ScopeAcq) (d a b : Reg)
  | amoAnd (q : ScopeAcq) (d a b : Reg)
  | amoOr (q : ScopeAcq) (d a b : Reg)
  | amoSwap (q : ScopeAcq) (d a b : Reg)
  | cas (q : ScopeAcq) (d a b : Reg)
  | amoq (q : ScopeAcq) (d a b : Reg)
  | acq (sc : BitVec 4) (a : Reg)
  | rel (sc : BitVec 4) (a : Reg)
  | fenceFull (sc : BitVec 4)
  | fenceAcqside (sc : BitVec 4)
  | fenceRelside (sc : BitVec 4)
  | waitaNe (q : ScopeAcq) (d a b : Reg)
  | waitaEq (q : ScopeAcq) (d a b : Reg)
  | waitaGeu (q : ScopeAcq) (d a b : Reg)
  | bind (d a b : Reg)
  | unbind (d a b : Reg)
  | swset (sc : BitVec 4) (a b : Reg)
  | swwait (q : ScopeAcq) (d a b : Reg)
  | barArrive (sc : BitVec 4) (d a : Reg)
  | barWait (sc : BitVec 4) (d a b : Reg)
  | barArrivewait (sc : BitVec 4) (d a : Reg)
  -- control flow (R72–R75, R81–R84, R430–R435, R468–R476)
  | br (g : Guard) (ht : Bool) (o : BitVec 17)
  | jmp (i : BitVec 18)
  | jal (d : Reg) (i : BitVec 18)
  | jalr (d a : Reg) (i : BitVec 13)
  | brq (q pn ht : Bool) (o : BitVec 17)
  | pushb (g : Guard) (a : BitVec 4)
  | rdv
  | end_
  | yield_ (g : Guard)
  | rgn (i : BitVec 18)
  | trapi (i : BitVec 18)
  | tret
  | brk (i : BitVec 18)
  | snap (i : BitVec 18)
  | trcm (a : Reg) (i : BitVec 13)
  -- the lane-mask stack (R85)
  | mpush (g : Guard) (a : Reg)
  | mpushPair (g : Guard) (a : BitVec 3)
  | minv (g : Guard)
  | mpop (g : Guard)
  | bmz (ht : Bool) (o : BitVec 17)
  -- queues (R187–R189)
  | sqpush (g : Guard) (f : BitVec 2) (a : Reg)
  | sqpop (g : Guard) (f : BitVec 2) (d : Reg)
  | rdq (g : Guard) (f : BitVec 3) (d : BitVec 2) (a b : Reg)
  | wrq (g : Guard) (f : BitVec 3) (d : BitVec 2) (a : Reg)
  -- tokens (R190–R196)
  | twait (g : Guard) (a : Reg)
  | ttest (g : Guard) (d : BitVec 4) (a : Reg)
  | cncl (g : Guard) (a : Reg)
  | dtch (g : Guard) (a b : Reg)
  | adopt (g : Guard) (d a : Reg)
  | tstat (g : Guard) (d a : Reg)
  | tpri (g : Guard) (a b : Reg)
  | tfree (g : Guard) (a : Reg)
  -- recipes (R441–R453)
  | fix (i : BitVec 13)
  | unfix (i : BitVec 13)
  | drop (i : BitVec 13)
  | rcpclr (i : BitVec 13)
  | seal (g : Guard) (a b : Reg)
  | unseal (g : Guard) (a b : Reg)
  | rcp (d : BitVec 2) (i : BitVec 13)
  -- launches (R344–R361)
  | arm (g : Guard) (a : Reg)
  | lputDeadline (g : Guard) (a b : Reg)
  | lputArgs (g : Guard) (a b : Reg)
  | lputCount (g : Guard) (a b : Reg)
  | lputPatch (g : Guard) (f : BitVec 3) (a b : Reg)
  | lsuc (g : Guard)
  | lprw (g : Guard)
  | rung (g : Guard) (d a : Reg)
  | rungReq (g : Guard) (d a b : Reg)
  | migr (g : Guard) (d a b : Reg)
  -- system (R86, R396, R397, R402, R218)
  | csrr (d : Reg) (c : BitVec 12)
  | csrw (c : BitVec 12) (a : Reg)
  | csrs (d a : Reg) (c : BitVec 12)
  | csrc (d a : Reg) (c : BitVec 12)
  | tlbiAll (g : Guard)
  | tlbiPasid (g : Guard) (b : Reg)
  | tlbiVa (g : Guard) (a b : Reg)
  | xlatRd (g : Guard) (d a : Reg)
  | xlatWr (g : Guard) (d a : Reg)
  | xlatEx (g : Guard) (d a : Reg)
  | pctl (g : Guard) (d a b : Reg)
  | kvslot (g : Guard) (d a b : Reg)
  -- vector (R284–R307)
  | vadd (v : VOp) | vsub (v : VOp) | vmul (v : VOp) | vfma (v : VOp) | vfms (v : VOp)
  | vmin (v : VOp) | vmax (v : VOp) | vabs (v : VOp) | vand (v : VOp) | vor (v : VOp)
  | vxor (v : VOp) | vshl (v : VOp) | vshr (v : VOp) | vsra (v : VOp) | vcmp (v : VOp)
  | vcmpPush (v : VOp) | vsel (v : VOp) | vclamp (v : VOp) | vlerp (v : VOp) | vcvt (v : VOp)
  | vpack (v : VOp) | vunpk (v : VOp) | vtag (v : VOp) | vgain (v : VOp) | vrnd (v : VOp)
  | vexp2 (v : VOp) | vrcp (v : VOp) | vrsq (v : VOp) | vsqrt (v : VOp) | vdiv (v : VOp)
  | vmov (v : VOp) | vext (v : VOp) | vins (v : VOp) | vperm (v : VOp) | vrot (v : VOp)
  | viota (v : VOp) | vrsum (v : VOp) | vrmax (v : VOp) | vrmin (v : VOp) | vamax (v : VOp)
  | vamin (v : VOp) | vscan (v : VOp) | vpopc (v : VOp) | vpfx (v : VOp) | vld (v : VOp)
  | vst (v : VOp)
  -- matrix engine (R319–R333)
  | mma (m : MatOp) | mmi (m : MatOp) | attn (m : MatOp) | accz (m : MatOp) | accrd (m : MatOp)
  | accwr (m : MatOp) | drnq (m : MatOp) | mtrn (m : MatOp) | qnt (m : MatOp) | dqnt (m : MatOp)
  | rqnt (m : MatOp)
  -- copy, KV, directory, collective and media engines (R205–R229)
  | cpy (e : EngOp) | gath (e : EngOp) | scat (e : EngOp) | put (e : EngOp) | dcmp (e : EngOp)
  | pfch (e : EngOp) | kvapp (e : EngOp) | kvget (e : EngOp) | kvevt (e : EngOp)
  | dirlk (e : EngOp) | dirpub (e : EngOp) | kvfet (e : EngOp) | cred (e : EngOp) | cbc (e : EngOp)
  | cgth (e : EngOp) | crsc (e : EngOp) | enqf (e : EngOp) | fradvPub (e : EngOp)
  | fradvPin (e : EngOp) | fradvUnpin (e : EngOp)
  | loop (o : LoopOp)
  -- events of the cores and their tables
  | waittmoExpiry (h : Hart)
  | deadlockDetect (core slot : Nat)
  | engineSelect (core : Nat) (eng : Engine)
  | childOpDone (core tok : Nat)
  | childOpFault (core tok : Nat)
  | collectiveInstance (part lvl dom cid ordinal : Nat)
  | tokenRelease (core tok : Nat)
  | orphanReap (core tok : Nat)
  -- events of the dispatcher and the scheduler
  | launchAllot (part : Nat)
  | jobDeal (core : Nat)
  | launchWindowArm (index : Nat)
  | periodBoundary (stream : Nat)
  | rungRequestApply (part : Nat)
  | migrationApply (part : Nat)
  | balancerTick
  | clusterGate (cluster : Nat)
  | clusterWakeDone (cluster : Nat)
  | preemptRequest (part : Nat)
  | forcedSave (core slot : Nat)
  | drainlimExpiry (core slot : Nat)
  | flipDone (core slot : Nat)
  | contextSpill (core : Nat)
  | jobResume (core : Nat)
  | restoreDone (core slot : Nat)
  | protectionExpiry (core slot : Nat)
  -- stash windows of the current stream's job (R96)
  | stashMap (n : BitVec 2) (v : Word)
  | stashUnmap (n : BitVec 2) (v : Word)
  -- control operations of the host (R403, R411, R464, R493)
  | pinfo (o : HostOp) | llcrngWord0 (o : HostOp) | llcrngWord1 (o : HostOp) | share (o : HostOp)
  | lpasid (o : HostOp) | sched (o : HostOp) | evlog (o : HostOp) | ctxarea (o : HostOp)
  | ctltmpl (o : HostOp) | preq (o : HostOp) | netmap (o : HostOp) | perms (o : HostOp)
  | s2root (o : HostOp) | pasidtbl (o : HostOp) | unit (o : HostOp) | cluster (o : HostOp)
  | own (o : HostOp) | pcreate (o : HostOp) | pdestroy (o : HostOp) | sealPartition (o : HostOp)
  | measure (o : HostOp) | extend (o : HostOp) | quote (o : HostOp) | idpub (o : HostOp)
  | chips (o : HostOp) | pcount (o : HostOp) | strdesc (o : HostOp) | streamEnable (o : HostOp)
  | fabjoin (o : HostOp) | dirpool (o : HostOp) | errcnt (o : HostOp) | dbgBuffer (o : HostOp)
  | dbgStop (o : HostOp)
  | stopComplete (part : Nat)
  | dbgResume (o : HostOp) | dbgStep (o : HostOp) | breakpointSet (o : HostOp)
  | breakpointRecord (o : HostOp) | trcfg (o : HostOp) | stall (o : HostOp) | mon (o : HostOp)
  | snapcfg (o : HostOp) | chalk (o : HostOp) | replay (o : HostOp)
  | replayEvent (part : Nat)
  | plat (o : HostOp) | fwstage (o : HostOp)
  -- host interfaces (R410–R419)
  | registerWrite (w : RegWrite)
  | queueEnable (fn iface q : Nat) (v : BitVec 32)
  | queueRevoke (fn iface q : Nat)
  | doorbell (fn iface q : Nat) (value : BitVec 32) (pasid : Option (BitVec 20))
  | packetArm (fn iface q : Nat)
  | packetNop (fn iface q : Nat)
  | remapUnmask (fn entry : Nat)
  | hostMemoryAccess (fn : Nat) (offset : Nat) (cxl : Bool) (write : Option (List Byte)) (len : Nat)
      (poisoned : Bool)
  | atsInvalidate (part : Nat) (page : Nat)
  | priResponse (page : Nat) (granted : Bool)
  | encoderEnable (e : Nat) (v : Word)
  | encodeFrame (e : Nat)
  | rheadWrite (e : Nat) (v : BitVec 32)
  | decodeRecord (d : Nat)
  -- the peer fabric (R420–R422, R462, R463)
  | peerReleaseFlag (src : PeerSrc) (seq : BitVec 32) (body : FlagBody)
  | flagResend (id : Nat)
  | dirPubRequest (src : PeerSrc) (tag : BitVec 32) (entry page : List Byte)
  | dirLookupRequest (src : PeerSrc) (tag : BitVec 32) (id : Word)
  | dirFetchRequest (src : PeerSrc) (tag : BitVec 32) (id : Word)
  | dirAttendRequest (src : PeerSrc) (tag : BitVec 32) (id : Word) (d m : Nat) (sc : BitVec 32)
      (block : BitVec 32) (causal : Option Word) (query : List Byte)
  | dirReleaseRequest (src : PeerSrc) (id : Word) (version : BitVec 16)
  | peerReply (tag : ReplyTag) (body : ReplyBody)
  | linkTimeout (core tok : Nat)
  -- errors, reset, power, trace
  | patrolScrub (loc : ErrLoc) (uncorrectable : Bool)
  | deviceReset
  | portReset (port : Nat)
  | thermalThrottle
  | throttleRecover
  | thermalHold
  | thermalHoldEnd
  | thermalShutdown
  | hostCxlCacheWrite (pa : Nat) (bytes : List Byte)
  | peerDataWrite (src : PeerSrc) (pa : Nat) (bytes : List Byte)
  | clusterWakeStart (cluster : Nat)
  | traceEgress (cluster : Nat)
  deriving DecidableEq, Repr, Inhabited

end Sys2Proof
end

