-- ==== Sys2Proof/WellFormed.lean ====
section
/-! DEFINITION. Which terms of `Instr` are instructions: the checks of order 2 and 4 of R42 that
depend on the encoding alone (reserved function codes, reserved field values, must-be-zero fields,
operand kinds). A word whose term fails one of them is no instruction and raises ILLEGAL (R41). -/

namespace Sys2Proof

/-! ### V-class (R45–R47, R284) -/

/-- The operand kinds of the table of R284: row, source queue q0–q3, destination queue q4–q7, scalar
broadcast, immediate, none. -/
inductive Kind where
  | w | q | o | s | i | n
  deriving DecidableEq, Repr

/-- The kind of a descriptor (R46, R284). -/
def Desc.kind : Desc → Kind
  | .row .. => .w
  | .queue q .. => if q.toNat < 4 then .q else .o
  | .scalar .. => .s
  | .imm .. => .i
  | .none => .n

/-- The neg bit of a descriptor (R46). -/
def Desc.neg : Desc → Bool
  | .row _ _ _ n _ => n
  | .queue _ n _ => n
  | .scalar _ n => n
  | .imm _ => false
  | .none => false

/-- The lane mode of a descriptor (R46). -/
def Desc.lane : Desc → Lane
  | .row _ _ _ _ l => l
  | .queue _ _ l => l
  | _ => .straight

/-- Whether a descriptor asks for LOOP rotation (R48). -/
def Desc.rot : Desc → Bool
  | .row _ _ r _ _ => r
  | _ => false

/-- Whether a descriptor is a row or a queue, so that it carries a tag (R286). -/
def Desc.tagged (d : Desc) : Bool := d.kind == .w || d.kind == .q || d.kind == .o

/-- The fmt column of R284. -/
inductive FmtRule where
  | any | dest | zero | zeroOrInt
  deriving DecidableEq, Repr

/-- The fn column of R284. -/
inductive FnRule where
  | zero | upTo1 | free | cond | condPush
  deriving DecidableEq, Repr

/-- One row of the table of R284. -/
structure VRow where
  fmt : FmtRule
  fn : FnRule
  d : List Kind
  a : List Kind
  b : List Kind
  rounds : Bool
  neg : Bool
  /-- R286: fmt 0x0 is accepted although no operand carries a tag. -/
  ownTag : Bool := false
  deriving DecidableEq, Repr

def FmtRule.ok (r : FmtRule) (fmt : BitVec 4) : Bool :=
  match r with
  | .any => fmt.toNat ≤ 7 || fmt.toNat == 15
  | .dest => 1 ≤ fmt.toNat && fmt.toNat ≤ 7
  | .zero => fmt.toNat == 0
  | .zeroOrInt => fmt.toNat == 0 || fmt.toNat == 4

def FnRule.ok (r : FnRule) (fn : BitVec 4) : Bool :=
  match r with
  | .zero => fn.toNat == 0
  | .upTo1 => fn.toNat ≤ 1
  | .free => true
  | .cond => fn.toNat ≤ 5
  | .condPush => 8 ≤ fn.toNat && fn.toNat ≤ 13

/-- R284, R285: an immediate B of VCVT, VPACK, VUNPK and VGAIN is a gain index, one of VTAG a gain
index with a sign bit. -/
def Desc.immAtMost (d : Desc) (m : Nat) : Bool :=
  match d with
  | .imm v => v.toNat ≤ m
  | _ => true

/-- The checks of R45, R47 and R284 on one V-class instruction. -/
def VRow.ok (r : VRow) (v : VOp) : Bool :=
  r.fmt.ok v.fmt && r.fn.ok v.fn
  && r.d.contains v.D.kind && r.a.contains v.A.kind && r.b.contains v.B.kind
  && v.rnd.toNat != 5 && v.rnd.toNat != 6
  && (r.rounds || (v.rnd.toNat == 7 && !v.sat && !v.ftz))
  && (r.neg || (!v.A.neg && !v.B.neg))
  && !v.D.neg && v.D.lane == .straight
  && (r.ownTag || v.fmt.toNat != 0 || v.A.tagged || v.B.tagged)

def VRow.arith : VRow := ⟨.any, .zero, [.w, .o], [.w, .q, .s, .i], [.w, .q, .s, .i], true, true, false⟩
def VRow.fused : VRow := ⟨.any, .zero, [.w], [.w, .q, .s, .i], [.w, .q, .s, .i], true, true, false⟩
def VRow.one : VRow := ⟨.any, .zero, [.w, .o], [.w, .q], [.n], true, true, false⟩
def VRow.bits : VRow := ⟨.any, .zero, [.w, .o], [.w, .q, .s, .i], [.w, .q, .s, .i], false, false, false⟩
def VRow.shift : VRow := ⟨.any, .zero, [.w, .o], [.w, .q], [.w, .q, .s, .i], false, false, false⟩
def VRow.cmp : VRow := ⟨.any, .cond, [.w, .o], [.w, .q, .s, .i], [.w, .q, .s, .i], false, true, false⟩
def VRow.cmpPush : VRow := ⟨.any, .condPush, [.n], [.w, .q, .s, .i], [.w, .q, .s, .i], false, true, false⟩
def VRow.lerp : VRow := ⟨.any, .free, [.w, .o], [.w, .q], [.w, .q], true, true, false⟩
def VRow.cvt : VRow := ⟨.dest, .zero, [.w, .o], [.w, .q], [.s, .i, .n], true, true, false⟩
def VRow.tag : VRow := ⟨.any, .zero, [.w, .o], [.w, .q], [.s, .i], false, false, false⟩
def VRow.gain : VRow := ⟨.any, .zero, [.w, .o], [.w, .q], [.s, .i], true, true, false⟩
def VRow.func : VRow := ⟨.any, .zero, [.w, .o], [.w, .q, .s, .i], [.n], true, true, false⟩
def VRow.move : VRow := ⟨.any, .zero, [.w, .o], [.w, .q, .s, .i], [.n], false, false, false⟩
def VRow.index : VRow := ⟨.any, .zero, [.w, .o], [.w, .q], [.s, .i], false, false, false⟩
def VRow.insert : VRow := ⟨.any, .zero, [.w], [.w, .q, .s, .i], [.s, .i], false, false, false⟩
def VRow.perm : VRow := ⟨.any, .zero, [.w, .o], [.w, .q], [.w, .q], false, false, false⟩
def VRow.iota : VRow := ⟨.dest, .zero, [.w, .o], [.s, .i, .n], [.n], true, false, false⟩
def VRow.sum : VRow := ⟨.any, .upTo1, [.w, .o], [.w, .q], [.n], true, true, false⟩
def VRow.ext : VRow := ⟨.any, .upTo1, [.w, .o], [.w, .q], [.n], false, true, false⟩
def VRow.arg : VRow := ⟨.zeroOrInt, .upTo1, [.w, .o], [.w, .q], [.n], false, true, true⟩
def VRow.count : VRow := ⟨.zeroOrInt, .zero, [.w, .o], [.w, .q], [.n], false, false, true⟩
def VRow.slots : VRow := ⟨.zeroOrInt, .zero, [.w, .o], [.w, .q, .s], [.n], false, false, true⟩
def VRow.load : VRow := ⟨.zero, .free, [.w], [.s], [.s, .i], false, false, true⟩
def VRow.store : VRow := ⟨.zero, .free, [.n], [.w, .q], [.s], false, false, true⟩

/-- The opcode (R49), table row (R284) and fields of a V-class instruction. -/
def Instr.vParts : Instr → Option (Nat × VRow × VOp)
  | .vadd v => some (0x01, .arith, v)
  | .vsub v => some (0x02, .arith, v)
  | .vmul v => some (0x03, .arith, v)
  | .vfma v => some (0x04, .fused, v)
  | .vfms v => some (0x05, .fused, v)
  | .vmin v => some (0x06, .arith, v)
  | .vmax v => some (0x07, .arith, v)
  | .vabs v => some (0x08, .one, v)
  | .vand v => some (0x09, .bits, v)
  | .vor v => some (0x0A, .bits, v)
  | .vxor v => some (0x0B, .bits, v)
  | .vshl v => some (0x0C, .shift, v)
  | .vshr v => some (0x0D, .shift, v)
  | .vsra v => some (0x0E, .shift, v)
  | .vcmp v => some (0x0F, .cmp, v)
  | .vcmpPush v => some (0x0F, .cmpPush, v)
  | .vsel v => some (0x10, .bits, v)
  | .vclamp v => some (0x11, .fused, v)
  | .vlerp v => some (0x12, .lerp, v)
  | .vcvt v => some (0x14, .cvt, v)
  | .vpack v => some (0x15, .cvt, v)
  | .vunpk v => some (0x16, .cvt, v)
  | .vtag v => some (0x17, .tag, v)
  | .vgain v => some (0x18, .gain, v)
  | .vrnd v => some (0x19, .one, v)
  | .vexp2 v => some (0x1C, .func, v)
  | .vrcp v => some (0x1D, .func, v)
  | .vrsq v => some (0x1E, .func, v)
  | .vsqrt v => some (0x1F, .func, v)
  | .vdiv v => some (0x20, .arith, v)
  | .vmov v => some (0x24, .move, v)
  | .vext v => some (0x25, .index, v)
  | .vins v => some (0x26, .insert, v)
  | .vperm v => some (0x27, .perm, v)
  | .vrot v => some (0x28, .index, v)
  | .viota v => some (0x29, .iota, v)
  | .vrsum v => some (0x2C, .sum, v)
  | .vrmax v => some (0x2D, .ext, v)
  | .vrmin v => some (0x2E, .ext, v)
  | .vamax v => some (0x2F, .arg, v)
  | .vamin v => some (0x30, .arg, v)
  | .vscan v => some (0x31, .sum, v)
  | .vpopc v => some (0x32, .count, v)
  | .vpfx v => some (0x33, .slots, v)
  | .vld v => some (0x38, .load, v)
  | .vst v => some (0x39, .store, v)
  | _ => none

/-- What R284, R294, R305 ask of single instructions beside their table row. -/
def Instr.vExtra : Instr → Bool
  | .vcvt v | .vpack v | .vunpk v | .vgain v => v.B.immAtMost 63
  | .vtag v => v.B.immAtMost 127
  | .vcmpPush v => v.n.toNat == 0
  | .vpfx v => v.A.lane == .straight
  | _ => true

/-! ### M-class (R50–R52, R204, R314) -/

/-- A row of the table of R204: the fmt values, and which fields the instruction uses. -/
structure ERow where
  fmt : List Nat
  ra : Bool := false
  rb : Bool := false
  rc : Bool := false
  rd : Bool := false
  re : Bool := false
  rw : Bool := false
  ln : Bool := false
  ln2 : Bool := false
  cnt : Bool := false
  ops : List Nat := [0]
  lvl : Bool := false
  deriving DecidableEq, Repr

/-- R50: a detached operation must have a token register. -/
def MHead.ok (h : MHead) : Bool := !(h.det && h.td == 0)

/-- A 7-bit extent of 1 to 64 where used, zero where not (R51). -/
def shapeOk (used : Bool) (x : BitVec 7) : Bool :=
  if used then 1 ≤ x.toNat && x.toNat ≤ 64 else x.toNat == 0

/-- The checks of R200, R204 on one engine instruction. -/
def ERow.ok (r : ERow) (e : EngOp) : Bool :=
  e.h.ok && r.fmt.contains e.h.fmt.toNat
  && (r.ra || e.ra == 0) && (r.rb || e.rb == 0) && (r.rc || e.rc == 0)
  && (r.rd || e.rd == 0) && (r.re || e.re == 0) && (r.rw || e.rw == 0)
  && (r.ln || e.ln == 0) && (r.ln2 || e.ln2 == 0) && shapeOk r.cnt e.cnt
  && r.ops.contains e.op.toNat
  && (if r.lvl then 1 ≤ e.lvl.toNat && e.lvl.toNat ≤ 6 else e.lvl.toNat == 0)

def ERow.coll (fmt ops : List Nat) : ERow :=
  { fmt := fmt, ra := true, rb := true, rc := true, rd := true, re := true, rw := true,
    ops := ops, lvl := true }

def ERow.fradv (op : Nat) : ERow :=
  { fmt := [0], ra := true, rb := true, rc := true, rd := true, re := true, ops := [op] }

/-- The opcode (R52), table row (R204) and fields of an engine instruction. -/
def Instr.eParts : Instr → Option (Nat × ERow × EngOp)
  | .cpy e => some (0x10, { fmt := [0], ra := true, rb := true, rc := true, rw := true }, e)
  | .gath e => some (0x11, { fmt := [0], rb := true, rc := true, rw := true, ln := true, ln2 := true,
                             cnt := true }, e)
  | .scat e => some (0x12, { fmt := [0], rb := true, rc := true, rw := true, ln := true, ln2 := true,
                             cnt := true }, e)
  | .put e => some (0x13, { fmt := [0], ra := true, rb := true, rc := true, rw := true, ln := true,
                            cnt := true }, e)
  | .dcmp e => some (0x14, { fmt := [0], ra := true, rc := true, rw := true }, e)
  | .pfch e => some (0x15, { fmt := [0, 1], ra := true, rc := true }, e)
  | .kvapp e => some (0x18, { fmt := [1, 2], ra := true, rb := true, rc := true, ln := true }, e)
  | .kvget e => some (0x19, { fmt := [1, 2, 15], ra := true, rw := true, ln := true }, e)
  | .kvevt e => some (0x1A, { fmt := [0], ra := true, rb := true, rc := true }, e)
  | .dirlk e => some (0x1B, { fmt := [0], ra := true, rb := true }, e)
  | .dirpub e => some (0x1C, { fmt := [0], ra := true }, e)
  | .kvfet e => some (0x1D, { fmt := [0], ra := true, rb := true, rc := true }, e)
  | .cred e => some (0x28, .coll [1, 2, 4] [0, 1, 2], e)
  | .cbc e => some (0x29, .coll [15] [0], e)
  | .cgth e => some (0x2A, .coll [15] [0], e)
  | .crsc e => some (0x2B, .coll [1, 2, 4] [0, 1, 2], e)
  | .enqf e => some (0x30, { fmt := [0], ra := true, rb := true, ln := true }, e)
  | .fradvPub e => some (0x31, .fradv 0, e)
  | .fradvPin e => some (0x31, .fradv 1, e)
  | .fradvUnpin e => some (0x31, .fradv 2, e)
  | _ => none

/-- A row of the table of R314. -/
structure MRow where
  fmt : List Nat
  acc : Bool := false
  la : Bool := false
  lb : Bool := false
  /-- the stride of the LB operand is used -/
  sb : Bool := false
  m : Bool := false
  n : Bool := false
  kb : Bool := false
  lc : Bool := false
  rnd : Bool := false
  sat : Bool := false
  norm : Bool := false
  side : Bool := false
  causal : Bool := false
  scsrc : Bool := false
  prior : Bool := false
  srcfmt : List Nat := [0]
  ra : Bool := false
  rb : Bool := false
  rc : Bool := false
  rd : Bool := false
  deriving DecidableEq, Repr

/-- The checks of R50, R313, R314 on one matrix instruction. -/
def MRow.ok (r : MRow) (o : MatOp) : Bool :=
  o.h.ok && !(r.acc && o.h.det) && r.fmt.contains o.h.fmt.toNat
  && (r.acc || o.acc == 0) && (r.la || (o.la == 0 && o.sa == 0)) && (r.lb || o.lb == 0)
  && (r.sb || o.sb == 0)
  && shapeOk r.m o.m && shapeOk r.n o.n
  && (if r.kb then 1 ≤ o.kb.toNat && o.kb.toNat ≤ 128 else o.kb.toNat == 0)
  && (r.lc || o.lc == 0)
  && (if r.rnd then o.rnd.toNat != 5 && o.rnd.toNat != 6 else o.rnd.toNat == 0)
  && (r.sat || !o.sat) && (r.norm || !o.norm) && (r.side || !o.side) && (r.causal || !o.causal)
  && (r.scsrc || !o.scsrc) && (r.prior || !o.prior)
  && r.srcfmt.contains o.srcfmt.toNat
  && (r.ra || o.ra == 0) && (r.rb || o.rb == 0) && (r.rc || o.rc == 0) && (r.rd || o.rd == 0)

/-- The opcode (R52), table row (R314) and fields of a matrix instruction. RA of MMA is used by
fmt 0x7 alone, RD of ATTN with CAUSAL alone, LC of ACCRD with SIDE alone. -/
def Instr.mParts : Instr → Option (Nat × MRow × MatOp)
  | .mma o => some (0x01, { fmt := [2, 3, 7], acc := true, la := true, lb := true, sb := true,
                            m := true, n := true, kb := true, ra := o.h.fmt == 7 }, o)
  | .mmi o => some (0x02, { fmt := [0, 1, 2, 3, 4, 5, 6, 7], acc := true, la := true, lb := true,
                            sb := true, m := true, n := true, kb := true }, o)
  | .attn o => some (0x03, { fmt := [2], acc := true, la := true, m := true, causal := true,
                             ra := true, rb := true, rc := true, rd := o.causal }, o)
  | .accz o => some (0x04, { fmt := [1, 4], acc := true }, o)
  | .accrd o => some (0x05, { fmt := [1, 2, 3, 4], acc := true, la := true, m := true, n := true,
                              lc := o.side, rnd := true, sat := true, norm := true, side := true, prior := true }, o)
  | .accwr o => some (0x06, { fmt := [1, 2, 3, 4, 5, 6], acc := true, la := true, m := true,
                              n := true, lc := true, side := true }, o)
  | .drnq o => some (0x07, { fmt := [5, 6, 7], acc := true, la := true, lb := true, m := true,
                             n := true, ra := true }, o)
  | .mtrn o => some (0x08, { fmt := [1, 2, 3, 4, 5, 6, 7, 15], la := true, lb := true, sb := true,
                             m := true, n := true }, o)
  | .qnt o => some (0x20, { fmt := [5, 6, 7], la := true, lb := true, sb := true, m := true,
                            n := true, lc := true, scsrc := true, srcfmt := [1, 2] }, o)
  | .dqnt o => some (0x21, { fmt := [1, 2], la := true, lb := true, sb := true, m := true,
                             n := true, lc := true, srcfmt := [5, 6, 7] }, o)
  | .rqnt o => some (0x22, { fmt := [2, 5, 7], ra := true, rb := true }, o)
  | _ => none

/-! ### S-class (R43, R44) -/

/-- The CSR numbers that exist (R87, R185). -/
def csrNumbers : List Nat :=
  [0x000, 0x001, 0x002, 0x003, 0x004, 0x005, 0x008, 0x009, 0x00A, 0x00B, 0x00C,
   0x010, 0x011, 0x012, 0x013, 0x014, 0x015, 0x016, 0x017, 0x018, 0x019, 0x01A,
   0x020, 0x021, 0x030, 0x031, 0x040, 0x041,
   0x050, 0x051, 0x052, 0x053, 0x054, 0x055, 0x056, 0x057]

/-- The range of FIX, UNFIX, DROP and RCPCLR ends at row 1,023 (R453). -/
def rowsInRange (i : BitVec 13) : Bool := i.toNat % 1024 + i.toNat / 1024 ≤ 1023

/-- The field checks of the S-class instructions that the field widths do not make.
[DEDUCED, log 12, 13] -/
def Instr.sOk : Instr → Bool
  | .amoAdd q .. | .amoMin q .. | .amoMax q .. | .amoMinu q .. | .amoMaxu q .. | .amoAnd q ..
  | .amoOr q .. | .amoSwap q .. | .cas q .. | .amoq q .. | .swwait q .. => q.scope.toNat < 8
  | .waitaNe q .. | .waitaEq q .. | .waitaGeu q .. =>
      q.scope.toNat < 8 && (q.acq || q.scope.toNat == 0)
  | .acq sc _ | .rel sc _ | .fenceFull sc | .fenceAcqside sc | .fenceRelside sc
  | .swset sc _ _ => sc.toNat < 8
  | .barArrive sc .. | .barWait sc .. | .barArrivewait sc .. => sc.toNat < 7
  | .ldpiB _ d a _ | .ldpiBu _ d a _ | .ldpiH _ d a _ | .ldpiHu _ d a _ | .ldpiW _ d a _
  | .ldpiWu _ d a _ | .ldpiD _ d a _ => d != a
  | .rgn i => i.toNat != 0
  | .snap i => i.toNat ≤ 15
  | .fix i | .unfix i | .drop i | .rcpclr i => rowsInRange i
  | .lputPatch _ f _ _ => 3 ≤ f.toNat
  | .csrr _ c | .csrw c _ | .csrs _ _ c | .csrc _ _ c => csrNumbers.contains c.toNat
  | _ => true

/-- An instruction whose fields pass every encoding check of R42. The events and host operations
have no encoding and pass vacuously. -/
def Instr.wf (i : Instr) : Bool :=
  i.sOk && i.vExtra
  && (match i.vParts with | some (_, r, v) => r.ok v | none => true)
  && (match i.eParts with | some (_, r, e) => r.ok e | none => true)
  && (match i.mParts with | some (_, r, o) => r.ok o | none => true)

end Sys2Proof
end

