-- ==== Sys2Proof/Decode.lean ====
section
/-! DEFINITION. The decoder and the encoder of the Imaixa instruction words (R39–R52). A word is
decoded in two moves: the fields are cut out at the positions of its layout and a candidate
instruction is named by its class, major opcode and function code; the candidate stands only where it
passes `Instr.wf` and its own encoding gives the word back, which is how a non-zero bit in a field
that must be zero is found (R41). -/

namespace Sys2Proof

/-! ### Fields -/

/-- Bits [lo+len−1:lo] of a parcel, as a number. -/
def fld (w lo len : Nat) : Nat := w / 2 ^ lo % 2 ^ len

/-- Bits [lo+n−1:lo] of a parcel. -/
def bitsAt (n : Nat) (w lo : Nat) : BitVec n := BitVec.ofNat n (w / 2 ^ lo)

/-- Bit lo of a parcel. -/
def flag (w lo : Nat) : Bool := w / 2 ^ lo % 2 == 1

/-- Why a word is no instruction; every one of these is ILLEGAL (R41). -/
inductive DecodeError where
  /-- fewer parcels than the class of parcel 0 needs -/
  | short
  /-- class 11 -/
  | reservedClass
  /-- a major opcode or function code that R44, R49, R52 do not list -/
  | reservedCode
  /-- a reserved value, a non-zero must-be-zero field or an operand kind not accepted -/
  | reservedField
  deriving DecidableEq, Repr

/-- Parcels of an instruction whose parcel 0 is `w` (R39); 0 for the reserved class. -/
def parcelCount (w : Nat) : Nat :=
  match w % 4 with
  | 0 => 1
  | 1 => 3
  | 2 => 6
  | _ => 0

/-! ### S-class layouts (R43) -/

/-- The six S-class layouts. SA is SR with the scope in p and the acquire bit in pn. -/
inductive SWord where
  | sr (op : Nat) (fn : Nat) (g : Guard) (d a b : Reg)
  | si (op : Nat) (d a : Reg) (i : BitVec 13)
  | su (op : Nat) (d : Reg) (i : BitVec 18)
  | sb (op : Nat) (g : Guard) (ht : Bool) (o : BitVec 17)
  | sx (op : Nat) (d a : Reg) (c : BitVec 12)
  deriving DecidableEq, Repr

def SWord.pack : SWord → Nat
  | .sr op fn g d a b =>
      op * 2 ^ 2 + d.toNat * 2 ^ 9 + a.toNat * 2 ^ 14 + b.toNat * 2 ^ 19 + g.p.toNat * 2 ^ 24
        + g.pn.toNat * 2 ^ 28 + fn * 2 ^ 29
  | .si op d a i => op * 2 ^ 2 + d.toNat * 2 ^ 9 + a.toNat * 2 ^ 14 + i.toNat * 2 ^ 19
  | .su op d i => op * 2 ^ 2 + d.toNat * 2 ^ 9 + i.toNat * 2 ^ 14
  | .sb op g ht o =>
      op * 2 ^ 2 + g.p.toNat * 2 ^ 9 + g.pn.toNat * 2 ^ 13 + ht.toNat * 2 ^ 14 + o.toNat * 2 ^ 15
  | .sx op d a c => op * 2 ^ 2 + d.toNat * 2 ^ 9 + a.toNat * 2 ^ 14 + c.toNat * 2 ^ 19

/-- A 3-bit or 4-bit number in a 5-bit register field, whose upper bits must be zero. -/
def wide {n : Nat} (x : BitVec n) : Reg := x.setWidth 5

/-- No guard: p = 0, pn = 0. -/
def Guard.zero : Guard := ⟨0, false⟩

/-- The scope and acquire bit of an SA word, in the places of p and pn. -/
def ScopeAcq.guard (q : ScopeAcq) : Guard := ⟨q.scope, q.acq⟩

/-- The scope and acquire bit read from the places of p and pn. -/
def Guard.scopeAcq (g : Guard) : ScopeAcq := ⟨g.p, g.pn⟩

/-- The S-class word of an instruction (R44). -/
def Instr.sWord : Instr → Option SWord
  | .nop g => some (.sr 0x01 0 g 0 0 0)
  | .add g d a b => some (.sr 0x02 0 g d a b)
  | .sub g d a b => some (.sr 0x03 0 g d a b)
  | .and g d a b => some (.sr 0x04 0 g d a b)
  | .or g d a b => some (.sr 0x05 0 g d a b)
  | .xor g d a b => some (.sr 0x06 0 g d a b)
  | .shl g d a b => some (.sr 0x07 0 g d a b)
  | .shr g d a b => some (.sr 0x08 0 g d a b)
  | .sra g d a b => some (.sr 0x09 0 g d a b)
  | .mul g d a b => some (.sr 0x0A 0 g d a b)
  | .mulh g d a b => some (.sr 0x0A 1 g d a b)
  | .mulhu g d a b => some (.sr 0x0A 2 g d a b)
  | .div g d a b => some (.sr 0x0B 0 g d a b)
  | .divu g d a b => some (.sr 0x0B 1 g d a b)
  | .rem g d a b => some (.sr 0x0B 2 g d a b)
  | .remu g d a b => some (.sr 0x0B 3 g d a b)
  | .min g d a b => some (.sr 0x0C 0 g d a b)
  | .minu g d a b => some (.sr 0x0C 1 g d a b)
  | .max g d a b => some (.sr 0x0C 2 g d a b)
  | .maxu g d a b => some (.sr 0x0C 3 g d a b)
  | .clz g d a => some (.sr 0x0D 0 g d a 0)
  | .ctz g d a => some (.sr 0x0D 1 g d a 0)
  | .popc g d a => some (.sr 0x0D 2 g d a 0)
  | .brev g d a => some (.sr 0x0D 3 g d a 0)
  | .sel g d a b => some (.sr 0x0E 0 g d a b)
  | .psetEq g d a b => some (.sr 0x0F 0 g (wide d) a b)
  | .psetNe g d a b => some (.sr 0x0F 1 g (wide d) a b)
  | .psetLt g d a b => some (.sr 0x0F 2 g (wide d) a b)
  | .psetLtu g d a b => some (.sr 0x0F 3 g (wide d) a b)
  | .psetGe g d a b => some (.sr 0x0F 4 g (wide d) a b)
  | .psetGeu g d a b => some (.sr 0x0F 5 g (wide d) a b)
  | .plogAnd g d a b => some (.sr 0x10 0 g (wide d) (wide a) (wide b))
  | .plogOr g d a b => some (.sr 0x10 1 g (wide d) (wide a) (wide b))
  | .plogXor g d a b => some (.sr 0x10 2 g (wide d) (wide a) (wide b))
  | .plogAndn g d a b => some (.sr 0x10 3 g (wide d) (wide a) (wide b))
  | .pmov g d a => some (.sr 0x11 0 g (wide d) a 0)
  | .pmovGet g d => some (.sr 0x11 1 g d 0 0)
  | .pmovPut g a => some (.sr 0x11 2 g 0 a 0)
  | .ksetRow g d a => some (.sr 0x12 0 g (wide d) a 0)
  | .ksetCol g d a => some (.sr 0x12 1 g (wide d) a 0)
  | .ksetBoth g d a b => some (.sr 0x12 2 g (wide d) a b)
  | .kgetRow g d a => some (.sr 0x13 0 g d (wide a) 0)
  | .kgetCol g d a => some (.sr 0x13 1 g d (wide a) 0)
  | .ldpiB g d a b => some (.sr 0x2B 0 g d a b)
  | .ldpiBu g d a b => some (.sr 0x2B 1 g d a b)
  | .ldpiH g d a b => some (.sr 0x2B 2 g d a b)
  | .ldpiHu g d a b => some (.sr 0x2B 3 g d a b)
  | .ldpiW g d a b => some (.sr 0x2B 4 g d a b)
  | .ldpiWu g d a b => some (.sr 0x2B 5 g d a b)
  | .ldpiD g d a b => some (.sr 0x2B 6 g d a b)
  | .stpiB g d a b => some (.sr 0x2C 0 g d a b)
  | .stpiH g d a b => some (.sr 0x2C 1 g d a b)
  | .stpiW g d a b => some (.sr 0x2C 2 g d a b)
  | .stpiD g d a b => some (.sr 0x2C 3 g d a b)
  | .amoAdd q d a b => some (.sr 0x30 0 q.guard d a b)
  | .amoMin q d a b => some (.sr 0x30 1 q.guard d a b)
  | .amoMax q d a b => some (.sr 0x30 2 q.guard d a b)
  | .amoMinu q d a b => some (.sr 0x30 3 q.guard d a b)
  | .amoMaxu q d a b => some (.sr 0x30 4 q.guard d a b)
  | .amoAnd q d a b => some (.sr 0x30 5 q.guard d a b)
  | .amoOr q d a b => some (.sr 0x30 6 q.guard d a b)
  | .amoSwap q d a b => some (.sr 0x30 7 q.guard d a b)
  | .cas q d a b => some (.sr 0x31 0 q.guard d a b)
  | .amoq q d a b => some (.sr 0x32 0 q.guard d a b)
  | .acq sc a => some (.sr 0x34 0 ⟨sc, false⟩ 0 a 0)
  | .rel sc a => some (.sr 0x35 0 ⟨sc, false⟩ 0 a 0)
  | .fenceFull sc => some (.sr 0x36 0 ⟨sc, false⟩ 0 0 0)
  | .fenceAcqside sc => some (.sr 0x36 1 ⟨sc, false⟩ 0 0 0)
  | .fenceRelside sc => some (.sr 0x36 2 ⟨sc, false⟩ 0 0 0)
  | .waitaNe q d a b => some (.sr 0x37 0 q.guard d a b)
  | .waitaEq q d a b => some (.sr 0x37 1 q.guard d a b)
  | .waitaGeu q d a b => some (.sr 0x37 2 q.guard d a b)
  | .bind d a b => some (.sr 0x38 0 .zero d a b)
  | .unbind d a b => some (.sr 0x38 1 .zero d a b)
  | .swset sc a b => some (.sr 0x39 0 ⟨sc, false⟩ 0 a b)
  | .swwait q d a b => some (.sr 0x3A 0 q.guard d a b)
  | .barArrive sc d a => some (.sr 0x3C 0 ⟨sc, false⟩ d a 0)
  | .barWait sc d a b => some (.sr 0x3C 1 ⟨sc, false⟩ d a b)
  | .barArrivewait sc d a => some (.sr 0x3C 2 ⟨sc, false⟩ d a 0)
  | .pushb g a => some (.sr 0x45 0 g 0 (wide a) 0)
  | .rdv => some (.sr 0x47 0 .zero 0 0 0)
  | .end_ => some (.sr 0x48 0 .zero 0 0 0)
  | .yield_ g => some (.sr 0x49 0 g 0 0 0)
  | .tret => some (.sr 0x4C 0 .zero 0 0 0)
  | .mpush g a => some (.sr 0x50 0 g 0 a 0)
  | .mpushPair g a => some (.sr 0x50 1 g 0 (wide a) 0)
  | .minv g => some (.sr 0x51 0 g 0 0 0)
  | .mpop g => some (.sr 0x52 0 g 0 0 0)
  | .sqpush g f a => some (.sr 0x54 f.toNat g 0 a 0)
  | .sqpop g f d => some (.sr 0x55 f.toNat g d 0 0)
  | .rdq g f d a b => some (.sr 0x56 f.toNat g (wide d) a b)
  | .wrq g f d a => some (.sr 0x57 f.toNat g (wide d) a 0)
  | .twait g a => some (.sr 0x58 0 g 0 a 0)
  | .ttest g d a => some (.sr 0x59 0 g (wide d) a 0)
  | .cncl g a => some (.sr 0x5A 0 g 0 a 0)
  | .dtch g a b => some (.sr 0x5B 0 g 0 a b)
  | .adopt g d a => some (.sr 0x5C 0 g d a 0)
  | .tstat g d a => some (.sr 0x5D 0 g d a 0)
  | .tpri g a b => some (.sr 0x5E 0 g 0 a b)
  | .tfree g a => some (.sr 0x5F 0 g 0 a 0)
  | .seal g a b => some (.sr 0x63 0 g 0 a b)
  | .unseal g a b => some (.sr 0x64 0 g 0 a b)
  | .arm g a => some (.sr 0x68 0 g 0 a 0)
  | .lputDeadline g a b => some (.sr 0x69 0 g 0 a b)
  | .lputArgs g a b => some (.sr 0x69 1 g 0 a b)
  | .lputCount g a b => some (.sr 0x69 2 g 0 a b)
  | .lputPatch g f a b => some (.sr 0x69 f.toNat g 0 a b)
  | .lsuc g => some (.sr 0x6A 0 g 0 0 0)
  | .lprw g => some (.sr 0x6B 0 g 0 0 0)
  | .rung g d a => some (.sr 0x6C 0 g d a 0)
  | .rungReq g d a b => some (.sr 0x6C 1 g d a b)
  | .migr g d a b => some (.sr 0x6D 0 g d a b)
  | .tlbiAll g => some (.sr 0x74 0 g 0 0 0)
  | .tlbiPasid g b => some (.sr 0x74 1 g 0 0 b)
  | .tlbiVa g a b => some (.sr 0x74 2 g 0 a b)
  | .xlatRd g d a => some (.sr 0x75 0 g d a 0)
  | .xlatWr g d a => some (.sr 0x75 1 g d a 0)
  | .xlatEx g d a => some (.sr 0x75 2 g d a 0)
  | .pctl g d a b => some (.sr 0x76 0 g d a b)
  | .kvslot g d a b => some (.sr 0x77 0 g d a b)
  | .addi d a i => some (.si 0x14 d a i)
  | .andi d a i => some (.si 0x15 d a i)
  | .ori d a i => some (.si 0x16 d a i)
  | .xori d a i => some (.si 0x17 d a i)
  | .shli d a i => some (.si 0x18 d a (i.setWidth 13))
  | .shri d a i => some (.si 0x19 d a (i.setWidth 13))
  | .srai d a i => some (.si 0x1A d a (i.setWidth 13))
  | .ldb d a i => some (.si 0x20 d a i)
  | .ldbu d a i => some (.si 0x21 d a i)
  | .ldh d a i => some (.si 0x22 d a i)
  | .ldhu d a i => some (.si 0x23 d a i)
  | .ldw d a i => some (.si 0x24 d a i)
  | .ldwu d a i => some (.si 0x25 d a i)
  | .ldd d a i => some (.si 0x26 d a i)
  | .stb d a i => some (.si 0x27 d a i)
  | .sth d a i => some (.si 0x28 d a i)
  | .stw d a i => some (.si 0x29 d a i)
  | .std d a i => some (.si 0x2A d a i)
  | .jalr d a i => some (.si 0x43 d a i)
  | .trcm a i => some (.si 0x4F 0 a i)
  | .fix i => some (.si 0x60 0 0 i)
  | .unfix i => some (.si 0x61 0 0 i)
  | .drop i => some (.si 0x62 0 0 i)
  | .rcpclr i => some (.si 0x65 0 0 i)
  | .rcp d i => some (.si 0x66 (wide d) 0 i)
  | .ldhi d i => some (.su 0x1C d i)
  | .addpc d i => some (.su 0x1D d i)
  | .jmp i => some (.su 0x41 0 i)
  | .jal d i => some (.su 0x42 d i)
  | .rgn i => some (.su 0x4A 0 i)
  | .trapi i => some (.su 0x4B 0 i)
  | .brk i => some (.su 0x4D 0 i)
  | .snap i => some (.su 0x4E 0 i)
  | .br g ht o => some (.sb 0x40 g ht o)
  | .brq q pn ht o => some (.sb 0x44 ⟨if q then 1 else 0, pn⟩ ht o)
  | .bmz ht o => some (.sb 0x53 .zero ht o)
  | .csrr d c => some (.sx 0x70 d 0 c)
  | .csrw c a => some (.sx 0x71 0 a c)
  | .csrs d a c => some (.sx 0x72 d a c)
  | .csrc d a c => some (.sx 0x73 d a c)
  | _ => none

/-- The instruction that an SR or SA word with these fields may be (R44). [DEDUCED, log 12] -/
def srCandidate (op fn : Nat) (g : Guard) (d a b : Reg) : Option Instr :=
  match op, fn with
  | 0x01, 0 => some (.nop g)
  | 0x02, 0 => some (.add g d a b)
  | 0x03, 0 => some (.sub g d a b)
  | 0x04, 0 => some (.and g d a b)
  | 0x05, 0 => some (.or g d a b)
  | 0x06, 0 => some (.xor g d a b)
  | 0x07, 0 => some (.shl g d a b)
  | 0x08, 0 => some (.shr g d a b)
  | 0x09, 0 => some (.sra g d a b)
  | 0x0A, 0 => some (.mul g d a b)
  | 0x0A, 1 => some (.mulh g d a b)
  | 0x0A, 2 => some (.mulhu g d a b)
  | 0x0B, 0 => some (.div g d a b)
  | 0x0B, 1 => some (.divu g d a b)
  | 0x0B, 2 => some (.rem g d a b)
  | 0x0B, 3 => some (.remu g d a b)
  | 0x0C, 0 => some (.min g d a b)
  | 0x0C, 1 => some (.minu g d a b)
  | 0x0C, 2 => some (.max g d a b)
  | 0x0C, 3 => some (.maxu g d a b)
  | 0x0D, 0 => some (.clz g d a)
  | 0x0D, 1 => some (.ctz g d a)
  | 0x0D, 2 => some (.popc g d a)
  | 0x0D, 3 => some (.brev g d a)
  | 0x0E, 0 => some (.sel g d a b)
  | 0x0F, 0 => some (.psetEq g (d.setWidth 4) a b)
  | 0x0F, 1 => some (.psetNe g (d.setWidth 4) a b)
  | 0x0F, 2 => some (.psetLt g (d.setWidth 4) a b)
  | 0x0F, 3 => some (.psetLtu g (d.setWidth 4) a b)
  | 0x0F, 4 => some (.psetGe g (d.setWidth 4) a b)
  | 0x0F, 5 => some (.psetGeu g (d.setWidth 4) a b)
  | 0x10, 0 => some (.plogAnd g (d.setWidth 4) (a.setWidth 4) (b.setWidth 4))
  | 0x10, 1 => some (.plogOr g (d.setWidth 4) (a.setWidth 4) (b.setWidth 4))
  | 0x10, 2 => some (.plogXor g (d.setWidth 4) (a.setWidth 4) (b.setWidth 4))
  | 0x10, 3 => some (.plogAndn g (d.setWidth 4) (a.setWidth 4) (b.setWidth 4))
  | 0x11, 0 => some (.pmov g (d.setWidth 4) a)
  | 0x11, 1 => some (.pmovGet g d)
  | 0x11, 2 => some (.pmovPut g a)
  | 0x12, 0 => some (.ksetRow g (d.setWidth 3) a)
  | 0x12, 1 => some (.ksetCol g (d.setWidth 3) a)
  | 0x12, 2 => some (.ksetBoth g (d.setWidth 3) a b)
  | 0x13, 0 => some (.kgetRow g d (a.setWidth 3))
  | 0x13, 1 => some (.kgetCol g d (a.setWidth 3))
  | 0x2B, 0 => some (.ldpiB g d a b)
  | 0x2B, 1 => some (.ldpiBu g d a b)
  | 0x2B, 2 => some (.ldpiH g d a b)
  | 0x2B, 3 => some (.ldpiHu g d a b)
  | 0x2B, 4 => some (.ldpiW g d a b)
  | 0x2B, 5 => some (.ldpiWu g d a b)
  | 0x2B, 6 => some (.ldpiD g d a b)
  | 0x2C, 0 => some (.stpiB g d a b)
  | 0x2C, 1 => some (.stpiH g d a b)
  | 0x2C, 2 => some (.stpiW g d a b)
  | 0x2C, 3 => some (.stpiD g d a b)
  | 0x30, 0 => some (.amoAdd g.scopeAcq d a b)
  | 0x30, 1 => some (.amoMin g.scopeAcq d a b)
  | 0x30, 2 => some (.amoMax g.scopeAcq d a b)
  | 0x30, 3 => some (.amoMinu g.scopeAcq d a b)
  | 0x30, 4 => some (.amoMaxu g.scopeAcq d a b)
  | 0x30, 5 => some (.amoAnd g.scopeAcq d a b)
  | 0x30, 6 => some (.amoOr g.scopeAcq d a b)
  | 0x30, 7 => some (.amoSwap g.scopeAcq d a b)
  | 0x31, 0 => some (.cas g.scopeAcq d a b)
  | 0x32, 0 => some (.amoq g.scopeAcq d a b)
  | 0x34, 0 => some (.acq g.p a)
  | 0x35, 0 => some (.rel g.p a)
  | 0x36, 0 => some (.fenceFull g.p)
  | 0x36, 1 => some (.fenceAcqside g.p)
  | 0x36, 2 => some (.fenceRelside g.p)
  | 0x37, 0 => some (.waitaNe g.scopeAcq d a b)
  | 0x37, 1 => some (.waitaEq g.scopeAcq d a b)
  | 0x37, 2 => some (.waitaGeu g.scopeAcq d a b)
  | 0x38, 0 => some (.bind d a b)
  | 0x38, 1 => some (.unbind d a b)
  | 0x39, 0 => some (.swset g.p a b)
  | 0x3A, 0 => some (.swwait g.scopeAcq d a b)
  | 0x3C, 0 => some (.barArrive g.p d a)
  | 0x3C, 1 => some (.barWait g.p d a b)
  | 0x3C, 2 => some (.barArrivewait g.p d a)
  | 0x45, 0 => some (.pushb g (a.setWidth 4))
  | 0x47, 0 => some .rdv
  | 0x48, 0 => some .end_
  | 0x49, 0 => some (.yield_ g)
  | 0x4C, 0 => some .tret
  | 0x50, 0 => some (.mpush g a)
  | 0x50, 1 => some (.mpushPair g (a.setWidth 3))
  | 0x51, 0 => some (.minv g)
  | 0x52, 0 => some (.mpop g)
  | 0x54, 0 => some (.sqpush g 0 a)
  | 0x54, 1 => some (.sqpush g 1 a)
  | 0x54, 2 => some (.sqpush g 2 a)
  | 0x54, 3 => some (.sqpush g 3 a)
  | 0x55, 0 => some (.sqpop g 0 d)
  | 0x55, 1 => some (.sqpop g 1 d)
  | 0x55, 2 => some (.sqpop g 2 d)
  | 0x55, 3 => some (.sqpop g 3 d)
  | 0x56, _ => some (.rdq g (BitVec.ofNat 3 fn) (d.setWidth 2) a b)
  | 0x57, _ => some (.wrq g (BitVec.ofNat 3 fn) (d.setWidth 2) a)
  | 0x58, 0 => some (.twait g a)
  | 0x59, 0 => some (.ttest g (d.setWidth 4) a)
  | 0x5A, 0 => some (.cncl g a)
  | 0x5B, 0 => some (.dtch g a b)
  | 0x5C, 0 => some (.adopt g d a)
  | 0x5D, 0 => some (.tstat g d a)
  | 0x5E, 0 => some (.tpri g a b)
  | 0x5F, 0 => some (.tfree g a)
  | 0x63, 0 => some (.seal g a b)
  | 0x64, 0 => some (.unseal g a b)
  | 0x68, 0 => some (.arm g a)
  | 0x69, 0 => some (.lputDeadline g a b)
  | 0x69, 1 => some (.lputArgs g a b)
  | 0x69, 2 => some (.lputCount g a b)
  | 0x69, _ => some (.lputPatch g (BitVec.ofNat 3 fn) a b)
  | 0x6A, 0 => some (.lsuc g)
  | 0x6B, 0 => some (.lprw g)
  | 0x6C, 0 => some (.rung g d a)
  | 0x6C, 1 => some (.rungReq g d a b)
  | 0x6D, 0 => some (.migr g d a b)
  | 0x74, 0 => some (.tlbiAll g)
  | 0x74, 1 => some (.tlbiPasid g b)
  | 0x74, 2 => some (.tlbiVa g a b)
  | 0x75, 0 => some (.xlatRd g d a)
  | 0x75, 1 => some (.xlatWr g d a)
  | 0x75, 2 => some (.xlatEx g d a)
  | 0x76, 0 => some (.pctl g d a b)
  | 0x77, 0 => some (.kvslot g d a b)
  | _, _ => none

/-- The instruction that an SI word with these fields may be (R44). -/
def siCandidate (op : Nat) (d a : Reg) (i : BitVec 13) : Option Instr :=
  match op with
  | 0x14 => some (.addi d a i)
  | 0x15 => some (.andi d a i)
  | 0x16 => some (.ori d a i)
  | 0x17 => some (.xori d a i)
  | 0x18 => some (.shli d a (i.setWidth 6))
  | 0x19 => some (.shri d a (i.setWidth 6))
  | 0x1A => some (.srai d a (i.setWidth 6))
  | 0x20 => some (.ldb d a i)
  | 0x21 => some (.ldbu d a i)
  | 0x22 => some (.ldh d a i)
  | 0x23 => some (.ldhu d a i)
  | 0x24 => some (.ldw d a i)
  | 0x25 => some (.ldwu d a i)
  | 0x26 => some (.ldd d a i)
  | 0x27 => some (.stb d a i)
  | 0x28 => some (.sth d a i)
  | 0x29 => some (.stw d a i)
  | 0x2A => some (.std d a i)
  | 0x43 => some (.jalr d a i)
  | 0x4F => some (.trcm a i)
  | 0x60 => some (.fix i)
  | 0x61 => some (.unfix i)
  | 0x62 => some (.drop i)
  | 0x65 => some (.rcpclr i)
  | 0x66 => some (.rcp (d.setWidth 2) i)
  | _ => none

/-- The instruction that an SU word with these fields may be (R44). -/
def suCandidate (op : Nat) (d : Reg) (i : BitVec 18) : Option Instr :=
  match op with
  | 0x1C => some (.ldhi d i)
  | 0x1D => some (.addpc d i)
  | 0x41 => some (.jmp i)
  | 0x42 => some (.jal d i)
  | 0x4A => some (.rgn i)
  | 0x4B => some (.trapi i)
  | 0x4D => some (.brk i)
  | 0x4E => some (.snap i)
  | _ => none

/-- The instruction that an SB word with these fields may be (R44). -/
def sbCandidate (op : Nat) (g : Guard) (ht : Bool) (o : BitVec 17) : Option Instr :=
  match op with
  | 0x40 => some (.br g ht o)
  | 0x44 => some (.brq (g.p.getLsbD 0) g.pn ht o)
  | 0x53 => some (.bmz ht o)
  | _ => none

/-- The instruction that an SX word with these fields may be (R44). -/
def sxCandidate (op : Nat) (d a : Reg) (c : BitVec 12) : Option Instr :=
  match op with
  | 0x70 => some (.csrr d c)
  | 0x71 => some (.csrw c a)
  | 0x72 => some (.csrs d a c)
  | 0x73 => some (.csrc d a c)
  | _ => none

/-- The layout of an S-class opcode (R44). -/
inductive Layout where
  | sr | si | su | sb | sx
  deriving DecidableEq, Repr

def layoutOf (op : Nat) : Layout :=
  if op == 0x70 || op == 0x71 || op == 0x72 || op == 0x73 then .sx
  else if op == 0x40 || op == 0x44 || op == 0x53 then .sb
  else if op == 0x1C || op == 0x1D || op == 0x41 || op == 0x42 || op == 0x4A || op == 0x4B || op == 0x4D || op == 0x4E then .su
  else if (0x14 ≤ op && op ≤ 0x1A) || (0x20 ≤ op && op ≤ 0x2A) || op == 0x43 || op == 0x4F || op == 0x60
    || op == 0x61 || op == 0x62 || op == 0x65 || op == 0x66 then .si
  else .sr

/-- The instruction that an S-class parcel may be (R43, R44). -/
def sCandidate (w : Nat) : Option Instr :=
  let op := fld w 2 7
  match layoutOf op with
  | .sr => srCandidate op (fld w 29 3) ⟨bitsAt 4 w 24, flag w 28⟩ (bitsAt 5 w 9) (bitsAt 5 w 14)
      (bitsAt 5 w 19)
  | .si => siCandidate op (bitsAt 5 w 9) (bitsAt 5 w 14) (bitsAt 13 w 19)
  | .su => suCandidate op (bitsAt 5 w 9) (bitsAt 18 w 14)
  | .sb => sbCandidate op ⟨bitsAt 4 w 9, flag w 13⟩ (flag w 14) (bitsAt 17 w 15)
  | .sx => sxCandidate op (bitsAt 5 w 9) (bitsAt 5 w 14) (bitsAt 12 w 19)

/-! ### V-class words (R45, R46) -/

def Lane.code : Lane → Nat
  | .straight => 0
  | .first => 1
  | .reversed => 2

/-- The 20 bits of an operand descriptor (R46). -/
def Desc.pack : Desc → Nat
  | .row index stride rot neg lane =>
      index.toNat * 2 ^ 2 + stride.toNat * 2 ^ 12 + rot.toNat * 2 ^ 16 + neg.toNat * 2 ^ 17
        + lane.code * 2 ^ 18
  | .queue q neg lane => 1 + q.toNat * 2 ^ 2 + neg.toNat * 2 ^ 17 + lane.code * 2 ^ 18
  | .scalar r neg => 2 + r.toNat * 2 ^ 2 + neg.toNat * 2 ^ 17
  | .imm v => 3 + v.toNat * 2 ^ 2
  | .none => 0x10003

def Lane.ofCode (c : Nat) : Lane :=
  match c with
  | 1 => .first
  | 2 => .reversed
  | _ => .straight

/-- The operand descriptor with these 20 bits (R46). -/
def Desc.ofBits (x : Nat) : Desc :=
  match x % 4 with
  | 0 => .row (bitsAt 10 x 2) (bitsAt 4 x 12) (flag x 16) (flag x 17) (.ofCode (fld x 18 2))
  | 1 => .queue (bitsAt 3 x 2) (flag x 17) (.ofCode (fld x 18 2))
  | 2 => .scalar (bitsAt 5 x 2) (flag x 17)
  | _ => if flag x 16 then .none else .imm (bitsAt 14 x 2)

/-- The three parcels of a V-class instruction (R45). -/
def VOp.pack (op : Nat) (v : VOp) : List Nat :=
  [1 + op * 2 ^ 2 + v.fmt.toNat * 2 ^ 9 + v.k.toNat * 2 ^ 13 + v.g.p.toNat * 2 ^ 16
      + v.g.pn.toNat * 2 ^ 20 + v.fn.toNat * 2 ^ 21 + v.rnd.toNat * 2 ^ 25 + v.sat.toNat * 2 ^ 28
      + v.ftz.toNat * 2 ^ 29,
   v.D.pack + v.A.pack % 2 ^ 12 * 2 ^ 20,
   v.A.pack / 2 ^ 12 + v.B.pack * 2 ^ 8 + v.n.toNat * 2 ^ 28]

def VOp.ofParcels (p0 p1 p2 : Nat) : VOp where
  fmt := bitsAt 4 p0 9
  k := bitsAt 3 p0 13
  g := ⟨bitsAt 4 p0 16, flag p0 20⟩
  fn := bitsAt 4 p0 21
  rnd := bitsAt 3 p0 25
  sat := flag p0 28
  ftz := flag p0 29
  D := .ofBits (fld p1 0 20)
  A := .ofBits (fld p1 20 12 + fld p2 0 8 * 2 ^ 12)
  B := .ofBits (fld p2 8 20)
  n := bitsAt 4 p2 28

/-- The instruction of a V-class major opcode (R49); VCMP with a function code of 8 or more is the
form that pushes (R284). -/
def vCandidate (op : Nat) (v : VOp) : Option Instr :=
  match op with
  | 0x01 => some (.vadd v)
  | 0x02 => some (.vsub v)
  | 0x03 => some (.vmul v)
  | 0x04 => some (.vfma v)
  | 0x05 => some (.vfms v)
  | 0x06 => some (.vmin v)
  | 0x07 => some (.vmax v)
  | 0x08 => some (.vabs v)
  | 0x09 => some (.vand v)
  | 0x0A => some (.vor v)
  | 0x0B => some (.vxor v)
  | 0x0C => some (.vshl v)
  | 0x0D => some (.vshr v)
  | 0x0E => some (.vsra v)
  | 0x0F => if v.fn.toNat < 8 then some (.vcmp v) else some (.vcmpPush v)
  | 0x10 => some (.vsel v)
  | 0x11 => some (.vclamp v)
  | 0x12 => some (.vlerp v)
  | 0x14 => some (.vcvt v)
  | 0x15 => some (.vpack v)
  | 0x16 => some (.vunpk v)
  | 0x17 => some (.vtag v)
  | 0x18 => some (.vgain v)
  | 0x19 => some (.vrnd v)
  | 0x1C => some (.vexp2 v)
  | 0x1D => some (.vrcp v)
  | 0x1E => some (.vrsq v)
  | 0x1F => some (.vsqrt v)
  | 0x20 => some (.vdiv v)
  | 0x24 => some (.vmov v)
  | 0x25 => some (.vext v)
  | 0x26 => some (.vins v)
  | 0x27 => some (.vperm v)
  | 0x28 => some (.vrot v)
  | 0x29 => some (.viota v)
  | 0x2C => some (.vrsum v)
  | 0x2D => some (.vrmax v)
  | 0x2E => some (.vrmin v)
  | 0x2F => some (.vamax v)
  | 0x30 => some (.vamin v)
  | 0x31 => some (.vscan v)
  | 0x32 => some (.vpopc v)
  | 0x33 => some (.vpfx v)
  | 0x38 => some (.vld v)
  | 0x39 => some (.vst v)
  | _ => none

/-! ### M-class words (R50, R76, R200, R313) -/

/-- Parcel 0 of an M-class instruction other than LOOP (R50). -/
def MHead.pack (op : Nat) (h : MHead) : Nat :=
  2 + op * 2 ^ 2 + h.fmt.toNat * 2 ^ 9 + h.td.toNat * 2 ^ 13 + h.ta.toNat * 2 ^ 18
    + h.tb.toNat * 2 ^ 23 + h.prio.toNat * 2 ^ 28 + h.det.toNat * 2 ^ 30

def MHead.ofParcel (p0 : Nat) : MHead where
  fmt := bitsAt 4 p0 9
  td := bitsAt 5 p0 13
  ta := bitsAt 5 p0 18
  tb := bitsAt 5 p0 23
  prio := bitsAt 2 p0 28
  det := flag p0 30

/-- The six parcels of an engine instruction (R200). -/
def EngOp.pack (op : Nat) (e : EngOp) : List Nat :=
  [e.h.pack op,
   e.ra.toNat + e.rb.toNat * 2 ^ 5 + e.rc.toNat * 2 ^ 10 + e.rd.toNat * 2 ^ 15 + e.re.toNat * 2 ^ 20
      + e.rw.toNat * 2 ^ 25,
   e.ln.toNat + e.ln2.toNat * 2 ^ 12,
   e.cnt.toNat + e.op.toNat * 2 ^ 7 + e.lvl.toNat * 2 ^ 11,
   0, 0]

def EngOp.ofParcels (p0 p1 p2 p3 : Nat) : EngOp where
  h := .ofParcel p0
  ra := bitsAt 5 p1 0
  rb := bitsAt 5 p1 5
  rc := bitsAt 5 p1 10
  rd := bitsAt 5 p1 15
  re := bitsAt 5 p1 20
  rw := bitsAt 5 p1 25
  ln := bitsAt 12 p2 0
  ln2 := bitsAt 12 p2 12
  cnt := bitsAt 7 p3 0
  op := bitsAt 4 p3 7
  lvl := bitsAt 3 p3 11

/-- The six parcels of a matrix instruction (R313). -/
def MatOp.pack (op : Nat) (o : MatOp) : List Nat :=
  [o.h.pack op,
   o.la.toNat + o.lb.toNat * 2 ^ 12 + o.acc.toNat * 2 ^ 24,
   o.sa.toNat + o.sb.toNat * 2 ^ 12,
   o.m.toNat + o.n.toNat * 2 ^ 7 + o.kb.toNat * 2 ^ 14,
   o.lc.toNat + o.rnd.toNat * 2 ^ 12 + o.sat.toNat * 2 ^ 15 + o.norm.toNat * 2 ^ 16
      + o.side.toNat * 2 ^ 17 + o.causal.toNat * 2 ^ 18 + o.scsrc.toNat * 2 ^ 19
      + o.prior.toNat * 2 ^ 20 + o.srcfmt.toNat * 2 ^ 24,
   o.ra.toNat + o.rb.toNat * 2 ^ 5 + o.rc.toNat * 2 ^ 10 + o.rd.toNat * 2 ^ 15]

def MatOp.ofParcels (p0 p1 p2 p3 p4 p5 : Nat) : MatOp where
  h := .ofParcel p0
  la := bitsAt 12 p1 0
  lb := bitsAt 12 p1 12
  acc := bitsAt 3 p1 24
  sa := bitsAt 12 p2 0
  sb := bitsAt 12 p2 12
  m := bitsAt 7 p3 0
  n := bitsAt 7 p3 7
  kb := bitsAt 8 p3 14
  lc := bitsAt 12 p4 0
  rnd := bitsAt 3 p4 12
  sat := flag p4 15
  norm := flag p4 16
  side := flag p4 17
  causal := flag p4 18
  scsrc := flag p4 19
  prior := flag p4 20
  srcfmt := bitsAt 4 p4 24
  ra := bitsAt 5 p5 0
  rb := bitsAt 5 p5 5
  rc := bitsAt 5 p5 10
  rd := bitsAt 5 p5 15

def RotField.pack (r : RotField) : Nat := r.base.toNat + r.len.toNat * 2 ^ 10

def RotField.ofBits (p lo : Nat) : RotField where
  base := bitsAt 10 p lo
  len := bitsAt 4 p (lo + 10)

/-- The six parcels of LOOP (R76). -/
def LoopOp.pack (o : LoopOp) : List Nat :=
  [2 + 0x40 * 2 ^ 2 + o.st.toNat * 2 ^ 9 + o.trip.toNat * 2 ^ 13 + o.sp.toNat * 2 ^ 18,
   o.body.toNat,
   o.rot0.pack + o.rot1.pack * 2 ^ 16, o.rot2.pack + o.rot3.pack * 2 ^ 16,
   o.rot4.pack + o.rot5.pack * 2 ^ 16, o.rot6.pack + o.rot7.pack * 2 ^ 16]

def LoopOp.ofParcels (p0 p1 p2 p3 p4 p5 : Nat) : LoopOp where
  st := bitsAt 3 p0 9
  trip := bitsAt 5 p0 13
  sp := bitsAt 4 p0 18
  body := bitsAt 16 p1 0
  rot0 := .ofBits p2 0
  rot1 := .ofBits p2 16
  rot2 := .ofBits p3 0
  rot3 := .ofBits p3 16
  rot4 := .ofBits p4 0
  rot5 := .ofBits p4 16
  rot6 := .ofBits p5 0
  rot7 := .ofBits p5 16

/-- The instruction that six M-class parcels may be (R52). FRADV's op field chooses its form. -/
def mCandidate (p0 p1 p2 p3 p4 p5 : Nat) : Option Instr :=
  let e := EngOp.ofParcels p0 p1 p2 p3
  let o := MatOp.ofParcels p0 p1 p2 p3 p4 p5
  match fld p0 2 7 with
  | 0x01 => some (.mma o)
  | 0x02 => some (.mmi o)
  | 0x03 => some (.attn o)
  | 0x04 => some (.accz o)
  | 0x05 => some (.accrd o)
  | 0x06 => some (.accwr o)
  | 0x07 => some (.drnq o)
  | 0x08 => some (.mtrn o)
  | 0x20 => some (.qnt o)
  | 0x21 => some (.dqnt o)
  | 0x22 => some (.rqnt o)
  | 0x10 => some (.cpy e)
  | 0x11 => some (.gath e)
  | 0x12 => some (.scat e)
  | 0x13 => some (.put e)
  | 0x14 => some (.dcmp e)
  | 0x15 => some (.pfch e)
  | 0x18 => some (.kvapp e)
  | 0x19 => some (.kvget e)
  | 0x1A => some (.kvevt e)
  | 0x1B => some (.dirlk e)
  | 0x1C => some (.dirpub e)
  | 0x1D => some (.kvfet e)
  | 0x28 => some (.cred e)
  | 0x29 => some (.cbc e)
  | 0x2A => some (.cgth e)
  | 0x2B => some (.crsc e)
  | 0x30 => some (.enqf e)
  | 0x31 =>
    match e.op.toNat with
    | 0 => some (.fradvPub e)
    | 1 => some (.fradvPin e)
    | 2 => some (.fradvUnpin e)
    | _ => none
  | 0x40 => some (.loop (.ofParcels p0 p1 p2 p3 p4 p5))
  | _ => none

/-! ### Encoder and decoder -/

/-- The parcels of an instruction (R43–R52); the events and host operations have none. -/
def encode (i : Instr) : List Nat :=
  match i.sWord with
  | some w => [w.pack]
  | none =>
    match i.vParts with
    | some (op, _, v) => v.pack op
    | none =>
      match i.eParts with
      | some (op, _, e) => e.pack op
      | none =>
        match i.mParts with
        | some (op, _, o) => o.pack op
        | none =>
          match i with
          | .loop o => o.pack
          | _ => []

/-- The instruction that these parcels, from parcel 0 on, may be. -/
def candidate (ps : List Nat) : Option Instr :=
  match ps with
  | [p0] => sCandidate p0
  | [p0, p1, p2] => vCandidate (fld p0 2 7) (.ofParcels p0 p1 p2)
  | [p0, p1, p2, p3, p4, p5] => mCandidate p0 p1 p2 p3 p4 p5
  | _ => none

/-- The instruction at the head of a list of parcels (R39–R42). Parcels past the instruction are not
looked at. -/
def decode (ps : List Nat) : Except DecodeError Instr :=
  match ps with
  | [] => .error .short
  | p0 :: _ =>
    let len := parcelCount p0
    if len = 0 then .error .reservedClass
    else if ps.length < len then .error .short
    else
      match candidate (ps.take len) with
      | none => .error .reservedCode
      | some i => if i.wf && encode i == ps.take len then .ok i else .error .reservedField

/-- The parcels in a list of bytes, each little-endian (R39); a trailing part of a parcel is dropped. -/
def parcelsOf : List Byte → List Nat
  | b0 :: b1 :: b2 :: b3 :: rest =>
      (b0.toNat + b1.toNat * 2 ^ 8 + b2.toNat * 2 ^ 16 + b3.toNat * 2 ^ 24) :: parcelsOf rest
  | _ => []

/-- The instruction at the head of a list of bytes. -/
def decodeBytes (bs : List Byte) : Except DecodeError Instr := decode (parcelsOf bs)

/-- The four bytes of a parcel, little-endian (R39). -/
def parcelBytes (p : Nat) : List Byte :=
  [BitVec.ofNat 8 p, BitVec.ofNat 8 (p / 2 ^ 8), BitVec.ofNat 8 (p / 2 ^ 16), BitVec.ofNat 8 (p / 2 ^ 24)]

/-- Parcels of an instruction. -/
def Instr.parcels (i : Instr) : Nat := (encode i).length

/-- Bytes of an instruction (R39). -/
def Instr.size (i : Instr) : Nat := 4 * i.parcels

/-- The bytes of the table word `w` of `nbits` bits, as the hardware stores them, continued with
zeros to the longest instruction. -/
def tableWordBytes (nbits w : Nat) : List Byte :=
  let v := w % 2 ^ nbits
  (List.range 6).flatMap fun i => parcelBytes (v / 2 ^ (32 * i))

/-- The instruction that the table word `w` of `nbits` bits decodes to. -/
def decodeTableWord (nbits w : Nat) : Option Instr :=
  (decodeBytes (tableWordBytes nbits w)).toOption

end Sys2Proof
end

