-- ==== Sys2Proof/Config.lean ====
section
/-! DEFINITION. What is fixed for the part SN-880 (R2), and the values the spec leaves open.
A `def` here is a number the spec states. An `opaque` here is a value that the spec does not state:
it has no body, so no proof can learn it, and a statement that mentions it holds whatever it is. -/

namespace Sys2Proof.Config

/-- Enabled cores (R2, R9). -/
def numCores : Nat := 224

/-- Cores of one cluster (R9). -/
def coresPerCluster : Nat := 8

/-- Clusters of the device (R9). -/
def numClusters : Nat := 28

/-- Clusters of one quadrant (R9). -/
def clustersPerQuadrant : Nat := 7

/-- Partitions the device can hold (R10). -/
def numParts : Nat := 8

/-- Residency slots of a core (R15). -/
def slotsPerCore : Nat := 4

/-- Physical rows of a core (R15). -/
def physRows : Nat := 1536

/-- Architectural rows of a job (R18). -/
def archRows : Nat := 1024

/-- Launch records of the device (R341). -/
def poolSize : Nat := 8192

/-- Token-table entries of a core (R29). -/
def tokenSlots : Nat := 256

/-- Token entries one resident job may hold (R157). -/
def tokenShare : Nat := 56

/-- Token entries held by no resident job, before an END waits (R157, R166). -/
def orphanShare : Nat := 32

/-- GDDR 7 units of 1 GiB (R392). -/
def numUnits : Nat := 384

/-- Binding-table entries of a partition (R107). -/
def bindEntries : Nat := 4096

/-- First byte of the scratchpad window (R31). -/
def spadWindow : Nat := 0x0000FF0000000000

/-- Bytes of the scratchpad window (R30, R31). -/
def spadSpan : Nat := 0x100000

/-- First job offset of bank group 1 (R31). -/
def groupSplit : Nat := 0x80000

/-- Lines of a core's write-combining buffer (R94). -/
def wcLines : Nat := 8

/-- Buffered updates one slice holds before it refuses (R123). -/
def amoqBuffer : Nat := 63

/-- Slices of the last-level cache (R2). -/
def llcSlices : Nat := 48

/-- The home slice of an ordered cell, modulo the number of slices, chosen from its line address in a way the spec does not give
(R122). -/
opaque homeSlice : Nat → Nat

/-- Whether the `i`-th written piece of a cancelled or faulted operation kept its old value: R154
allows the old and the new value for each footprint element and fixes neither. -/
opaque tornKeepsOld : Nat → Nat → Bool

/-- A granule of the compressed encoding of a line (R102): the spec gives no encoding. -/
opaque compressedGranule : Nat → Nat → Granule

/-- Which of the values R146 allows a fetch of a granule returns that was written while the job was
resident: 0 the present one, else one it had before. -/
opaque fetchChoice : Nat → Nat → Nat

/-- The entry of a 64 KiB page's group by which an access translates (R391). -/
opaque groupChoice : Nat → Nat → Nat

/-- Which of the two views R102 allows a read of an unjoined line to return. -/
opaque viewChoice : Nat → Nat → Bool

/-- Word `i` of a value that the spec does not state, at the `n`-th use of such a value. -/
opaque freeWord : Nat → Nat → Word

/-- The on-die mesh (R207, R403), whose layout the spec does not give: the router of a core, its column and
row, the output that "straight" takes from its core port (0 north, 1 east, 2 south, 3 west), the router
behind an output, the enabled core at a router, and the cluster the router belongs to. -/
opaque routerOf : Nat → Nat
opaque routerColumn : Nat → Nat
opaque routerRow : Nat → Nat
opaque routerStraight : Nat → Nat
opaque routerNext : Nat → Nat → Option Nat
opaque routerCore : Nat → Option Nat
opaque routerCluster : Nat → Nat

/-- The migration the balancer commands for a partition at a tick (R362): source core, destination core,
count; the spec gives no policy. -/
opaque balancerMove : Nat → Nat → Nat × Nat × Nat

/-- The bytes of the unit a video encoder makes of a closed frame, and what it keeps of the frames so far, from
what it has kept, its registers and the frame's tiles (column, row, samples): the codec's own, and of nothing
else (R281, R419). -/
opaque codedFrame : Nat → List Nat → List (Nat × Nat × List Byte) → List Byte
opaque codedKeep : Nat → List Nat → List (Nat × Nat × List Byte) → Nat

/-- The samples a decoder makes of a bitstream record, and what it keeps of the records so far, from what it has
kept, its registers and the record's bytes (R281, R419). -/
opaque decodedFrame : Nat → List Nat → List Byte → List Byte
opaque decodedKeep : Nat → List Nat → List Byte → Nat

/-- Word `i` of the fused identity modulus (R403, IDPUB), and the private exponent of the identity key (R406),
which the spec does not give. -/
opaque identityWord : Nat → Word
opaque identityExponent : Nat

/-- The device serial number (R406). -/
opaque serial : Word

/-- Of firmware images (R491 to R493): the one that is in flash at first; how long one is, from its first eight bytes;
whether the signature over one's bytes verifies; the version that one's bytes give; and the rollback count fused at
first. -/
opaque flashImage : List Byte
opaque imageLength : List Byte → Nat
opaque imageVerifies : List Byte → Bool
opaque imageVersion : List Byte → Word
opaque rollbackCount : Word

/-- The failure code of a bring-up that fails (R493), which the spec does not list. -/
opaque bootFailure : Nat → BitVec 8

/-- The layout of a snapshot image (R476), which the spec does not give: the bytes of a core (kind 0), of the
scheduler (1) and of a stream's registers (2), from the values they hold. -/
opaque snapshotLayout : Nat → List Nat → List Byte

end Sys2Proof.Config
end

