-- ==== Sys2Proof/Machine/Tab.lean ====
section
/-! DEFINITION. The two sparse containers of the state: a table by number (`Tab`) and a memory image
(`Memory`), each a list in one canonical form, so that equal contents are equal data. -/

namespace Sys2Proof.Machine

/-- A table by number: keys strictly rising, an absent key is an entry that does not exist. -/
abbrev Tab (α : Type) := List (Nat × α)

/-- A memory image: address and byte, addresses strictly rising, no byte equal to what an unlisted
address reads as. -/
abbrev Memory := List Host.Cell

def Tab.get? {α : Type} : Tab α → Nat → Option α
  | [], _ => none
  | (i, x) :: t, k => if i = k then some x else if k < i then none else Tab.get? t k

def Tab.getD {α : Type} (t : Tab α) (k : Nat) (d : α) : α := (Tab.get? t k).getD d

def Tab.set {α : Type} : Tab α → Nat → α → Tab α
  | [], k, v => [(k, v)]
  | (i, x) :: t, k, v =>
    if i = k then (k, v) :: t else if k < i then (k, v) :: (i, x) :: t else (i, x) :: Tab.set t k v

def Tab.del {α : Type} : Tab α → Nat → Tab α
  | [], _ => []
  | (i, x) :: t, k => if i = k then t else if k < i then (i, x) :: t else (i, x) :: Tab.del t k

/-- Change the entry at `k`, if there is one. -/
def Tab.modify {α : Type} : Tab α → Nat → (α → α) → Tab α
  | [], _, _ => []
  | (i, x) :: t, k, f =>
    if i = k then (i, f x) :: t else if k < i then (i, x) :: t else (i, x) :: Tab.modify t k f

/-- Change the entry at `k`, taken as `d` where there is none. -/
def Tab.upd {α : Type} (t : Tab α) (k : Nat) (d : α) (f : α → α) : Tab α :=
  Tab.set t k (f (Tab.getD t k d))

/-- The keys of a table rise strictly from `lo` on. -/
def Tab.wfFrom {α : Type} : Nat → Tab α → Bool
  | _, [] => true
  | lo, (i, _) :: t => decide (lo ≤ i) && Tab.wfFrom (i + 1) t

/-- The keys of a table rise strictly. -/
def Tab.wf {α : Type} (t : Tab α) : Bool := Tab.wfFrom 0 t

/-- What an unlisted address reads as. The device scrubs a unit to zero before it has an owner (R400)
and zeroes every scratchpad line before a partition's first job (R33). [DESIGN CHOICE, log 10] -/
def Memory.unlisted : Byte := 0

/-- The byte at an address. -/
def Memory.byte : Memory → Nat → Byte
  | [], _ => Memory.unlisted
  | (i, b) :: t, a => if i = a then b else if a < i then Memory.unlisted else Memory.byte t a

/-- Write one byte, keeping the canonical form. -/
def Memory.put : Memory → Nat → Byte → Memory
  | [], a, b => if b = Memory.unlisted then [] else [(a, b)]
  | (i, x) :: t, a, b =>
    if i = a then (if b = Memory.unlisted then t else (a, b) :: t)
    else if a < i then (if b = Memory.unlisted then (i, x) :: t else (a, b) :: (i, x) :: t)
    else (i, x) :: Memory.put t a b

/-- `n` bytes from address `a` on. -/
def Memory.bytes (m : Memory) (a : Nat) : Nat → List Byte
  | 0 => []
  | n + 1 => Memory.byte m a :: Memory.bytes m (a + 1) n

/-- Write a list of bytes from address `a` on. -/
def Memory.putBytes (m : Memory) (a : Nat) : List Byte → Memory
  | [] => m
  | b :: bs => Memory.putBytes (Memory.put m a b) (a + 1) bs

/-- The canonical form, from a lower bound on. -/
def Memory.wfFrom : Nat → Memory → Bool
  | _, [] => true
  | lo, (i, b) :: t => decide (lo ≤ i) && b != Memory.unlisted && Memory.wfFrom (i + 1) t

/-- The canonical form: addresses strictly rising, no byte listed that an unlisted address reads as. -/
def Memory.wf (m : Memory) : Bool := Memory.wfFrom 0 m

/-- A set of numbers, strictly rising. -/
abbrev NatSet := List Nat

def NatSet.has : NatSet → Nat → Bool
  | [], _ => false
  | i :: t, k => if i = k then true else if k < i then false else NatSet.has t k

def NatSet.add : NatSet → Nat → NatSet
  | [], k => [k]
  | i :: t, k => if i = k then i :: t else if k < i then k :: i :: t else i :: NatSet.add t k

def NatSet.del : NatSet → Nat → NatSet
  | [], _ => []
  | i :: t, k => if i = k then t else if k < i then i :: t else i :: NatSet.del t k

end Sys2Proof.Machine
end

