-- ==== Sys2Proof/Machine/State.lean ====
section
/-! DEFINITION. The state of the machine, as plain data: everything the specification gives the device,
and the state after a device reset (R490). -/

namespace Sys2Proof.Machine

/-! ### Traps -/

/-- The causes of traps and fault records (R426). -/
inductive Cause where
  | illegal | format | bankGroup | bankConflict | overlap | fwdWait | tokStale | xlate | perm | align
  | sealedRange | recipe | version | async | poison | preempt | swTrap | brk | priv | queue | launch
  | accOwn | rows | link | thermal
  deriving DecidableEq, Repr, Inhabited

/-- The trap CSRs of one stream (R87, R425): TRCAUSE, TRPC, TRWORD0–5, TRADDR, TRTOKEN, TRVEC. -/
structure TrapRegs where
  cause : Word
  pc : Word
  words : Vector Word 6
  addr : Word
  token : Word
  vec : Word
  deriving DecidableEq, Repr, Inhabited

/-! ### One stream -/

/-- An active LOOP (R77, R78): its latched values and the kernel iteration `j`. -/
structure LoopState where
  start : Word
  stop : Word
  stages : Nat
  sp : Nat
  rots : List RotField
  trips : Nat
  j : Nat
  /-- issued while the trap handler was active (R429) -/
  inHandler : Bool
  deriving DecidableEq, Repr, Inhabited

/-- The kinds of rendezvous (R81); RGN carries its region number. -/
inductive Rendezvous where
  | rdv | yield (g : Guard) | rgn (region : BitVec 18) | ended
  deriving DecidableEq, Repr, Inhabited

/-- What a blocked instruction waits for, as WAITTMO (R28, R182, R186) and STALL (R473) see it. -/
inductive WaitKind where
  /-- a queue wait with this QCODE (R142) -/
  | queue (code : Nat)
  /-- a queue wait on several queues: the QCODE of the lowest, and those of the others -/
  | queues (code : Nat) (also : List Nat)
  /-- the same as `queue`, where the queue has changed since the instruction last tried -/
  | retry (code : Nat)
  /-- WAITA, SWWAIT or a barrier wait: on expiry the register receives the value -/
  | value (d : Reg) (last : Word) (object : Nat)
  /-- a wait that WAITTMO does not limit; the STALL wait object, where R473 names one -/
  | other (object : Option Nat)
  /-- an access, or the fetch of the instruction, waits for the host's answer for a page (R395, R473) -/
  | host (page : Nat)
  | fetch (page : Nat)
  deriving DecidableEq, Repr, Inhabited

/-- A blocked instruction: the core cycle at which it first blocked, and on what. -/
structure Wait where
  since : Nat
  kind : WaitKind
  deriving DecidableEq, Repr, Inhabited

/-- What a stream latches at a region head (R80, R435, R465, R477). -/
structure RegionHead where
  pc : Word
  loops : List LoopState
  preds : BitVec 16
  pos : Nat
  releases : Nat
  written : Tab Nat
  deriving DecidableEq, Repr, Inhabited

/-- One stream of a resident or saved job (R11, R13). -/
structure Stream where
  pc : Word
  regs : Vector Word 32
  preds : BitVec 16
  /-- active LOOPs, innermost first (R76–R80) -/
  loops : List LoopState
  trap : TrapRegs
  /-- R427 -/
  returnPoint : Word
  /-- the rendezvous at which the stream stands, if any (R81) -/
  stand : Option Rendezvous
  wait : Option Wait
  /-- the core cycle at which its wait became one on a flag (R475) -/
  flagSince : Nat
  /-- the phase of the arrival of a BAR arrive-and-wait that still waits (R186) -/
  arrived : Option (BitVec 32)
  head : RegionHead
  /-- instructions issued since job start (R465) -/
  pos : Nat
  /-- counted releases since job start, and the lines written since the last one, as
  IPA line and physical line; kept while the chalk line compares the partition (R477) -/
  releases : Nat
  written : Tab Nat
  /-- DBG step: the stream may issue one instruction while its partition is stopped (R466) -/
  stepping : Bool
  /-- the ARM at which the stream stands has made its checks and its release, and has not armed yet (R344) -/
  arming : Bool
  deriving DecidableEq, Repr, Inhabited

/-! ### Rows, queues, accumulators -/

/-- A row that is resident, dropped or fixed: its tag (R18), its data, its poisoned granules (R458) and,
while MARK = 1, the position of its recipe in the job's group (R441). A row not listed is unwritten. -/
structure Row where
  tag : BitVec 16
  data : RowBits
  poison : BitVec 32
  recipe : Nat
  deriving DecidableEq, Repr, Inhabited

/-- An entry of q0–q7 (R27). -/
structure QRow where
  tag : BitVec 11
  data : RowBits
  deriving DecidableEq, Repr, Inhabited

/-- The value of an accumulator (R25): the kind bit (true INT32), the 64 × 64 tile with element
(r, c) at bits 32·(64r + c), the running maxima and the running sums. -/
structure AccVal where
  isInt : Bool
  tile : BitVec 131072
  rmax : RowBits
  rsum : RowBits
  deriving DecidableEq, Repr, Inhabited

/-- An accumulator (R26): committed value, pushed kind (R316, true INT32), owning operation (token-table
slot and sequence number) with its commit buffer, the pending commits of R371 by token value, and poisoned
elements (R458). -/
structure Acc where
  val : AccVal
  pushedInt : Bool
  owner : Option (Nat × Nat)
  buffer : Option AccVal
  pending : List (BitVec 32 × AccVal)
  poison : NatSet
  deriving DecidableEq, Repr, Inhabited

/-- A recipe (R441). -/
structure Recipe where
  first : Nat
  count : Nat
  body : List Instr
  pcs : List Word
  scalars : Vector Word 32
  rnd : BitVec 3
  ftz : Bool
  gains : Vector (BitVec 32) 64
  rowMasks : Vector (BitVec 16) 8
  colMasks : Vector (BitVec 64) 8
  top : BitVec 64
  /-- the rows the body reads outside its range; where such a row carries a mark, that mark names the recipe
  whose row it is -/
  sources : List Nat
  deriving DecidableEq, Repr, Inhabited

/-- The queues of a job (R27), oldest entry first: q0–q7, sq0–sq3, b0 and b1; the entries pushed so
far into each, in QCODE order (R465), and those counts at the region head. -/
structure Queues where
  q : Vector (List QRow) 8
  sq : Vector (List Word) 4
  b : Vector (List Bool) 2
  pushed : Vector Nat 14
  headPushed : Vector Nat 14
  /-- for the queues of one entry each: the seen bits a popped entry passes on (R161), per entry -/
  seenQ : Vector (List NatSet) 14
  deriving DecidableEq, Repr, Inhabited

/-! ### Jobs -/

/-- Where a job stands between residency and its end (R372, R428). -/
inductive JobPhase where
  | running
  /-- steps 1–5 of a forced save, since this core cycle -/
  | draining (since : Nat)
  /-- a trap abort that drains its operations, with its fault record -/
  | aborting (since : Nat) (record : List Byte)
  /-- the flip; whether after a forced save -/
  | flipping (forced : Bool)
  /-- a trap abort whose fault record is written, and whose detached entries still leave (R428) -/
  | leaving
  /-- the context is being restored; whether after a forced save -/
  | resuming (forced : Bool)
  deriving DecidableEq, Repr, Inhabited

/-- A scratchpad grant (R30): half its size in bytes, and the core offsets of its two ranges. -/
structure Grant where
  half : Nat
  base0 : Nat
  base1 : Nat
  deriving DecidableEq, Repr, Inhabited

/-- The numbers a job is given at its start (R34, R87). -/
structure JobIds where
  jobid : Nat
  part : Nat
  pasid : Nat
  launch : Nat
  record : Nat
  armseq : Nat
  stream : Word
  rung : Word
  dommem : Word
  rowRes : Nat
  verQuota : Nat
  sink : Word
  deriving DecidableEq, Repr, Inhabited

/-- A job (R14, R27, R34, R37). -/
structure Job where
  ids : JobIds
  ctl : Word
  rgnid : Word
  prereq : Word
  waittmo : Word
  stashBase : Vector Word 4
  stashSize : Vector Word 4
  grant : Grant
  rows : Tab Row
  gains : Vector (BitVec 32) 64
  rowMasks : Vector (BitVec 16) 8
  colMasks : Vector (BitVec 64) 8
  /-- lane-mask stack, top first (R23) -/
  maskStack : List (BitVec 64)
  accs : Vector Acc 8
  queues : Queues
  /-- recipes by position 0–15 in the slot's group (R441) -/
  recipes : Tab Recipe
  /-- the sealed set: job offset and length (R451) -/
  sealedSet : List (Nat × Nat)
  phase : JobPhase
  signalled : Bool
  /-- core cycle of the pre-emption request whose PRELIM count runs (R366) -/
  reqAt : Option Nat
  /-- core cycle at which the protection of R370 ends -/
  protectedUntil : Option Nat
  /-- level-0 barrier instances (R185) -/
  barriers : Tab (Nat × Nat × Nat)
  /-- an uncorrectable error of its registers, predicates, queues or tables while it was not running, which ends it once
  it runs (R456) -/
  spoiled : Bool
  deriving DecidableEq, Repr, Inhabited

/-- A saved context (R369): the job, its three streams, the core that saved it, whether it was a forced
save, whether it lies in the context area, and the time of the save (R370). -/
structure Saved where
  job : Job
  l : Stream
  c : Stream
  s : Stream
  core : Nat
  forced : Bool
  inMemory : Bool
  savedAt : Nat
  deriving DecidableEq, Repr, Inhabited

/-! ### Child operations -/

/-- The states of a token-table entry that is not RELEASED (R152). -/
inductive TokState where
  | pending | ready | running | done | faulted | cancelled
  deriving DecidableEq, Repr, Inhabited

/-- One part of a footprint (R159): scratchpad lines of job offset, global lines of virtual address, or
an accumulator; first and last line. -/
inductive FootPart where
  | spad (lo hi : Nat) (write : Bool)
  | glob (lo hi : Nat) (write : Bool)
  | acc (a : Nat) (write : Bool)
  deriving DecidableEq, Repr, Inhabited

/-- A request to a peer chip (R422): the item of the operation it is for, its tag, the time of its first
send, whether its completion has returned (R462), and the reply. -/
structure PeerReq where
  item : Nat
  /-- the peer chip and partition that it went to -/
  chip : Nat
  part : Nat
  tag : BitVec 32
  sentAt : Nat
  delivered : Bool
  reply : Option ReplyBody
  deriving DecidableEq, Repr, Inhabited

/-- An entry that a running operation has translated (R213): the logical block number it stands for, its
physical address and its 32 bytes as read, as a number. -/
structure HeldEntry where
  block : Nat
  pa : Nat
  bits : BitVec 256
  deriving DecidableEq, Repr, Inhabited

/-- A token-table entry (R152, R163). -/
structure TokenEntry where
  seq : Nat
  state : TokState
  /-- the holder's JOBID; none for an orphan -/
  holder : Option Nat
  strm : Strm
  det : Bool
  name : BitVec 32
  prio : BitVec 2
  /-- the streams whose seen bit is set: bit 0 L, 1 C, 2 S (R153, R161) -/
  seen : BitVec 3
  /-- the streams that have it otherwise than by having pushed it: what a queue entry passes on (R161) -/
  learned : BitVec 3
  reported : Bool
  fault : Option (Cause × Word)
  /-- the token value and the stream of its fault record, as held at the fault (R163) -/
  faultName : Option (BitVec 32 × Strm)
  instr : Instr
  pc : Word
  /-- the register values of R163, from ta on -/
  regs : List Word
  /-- CTL at the push -/
  ctl : Word
  /-- the pushed kind of accumulator ACC + 1 at the push of an ATTN (R321) -/
  kind1 : Bool
  ids : JobIds
  region : Word
  foot : List FootPart
  /-- operations that must be DONE first: table slot and sequence number (R156, R159) -/
  preds : List (Nat × Nat)
  /-- every operation that is an ancestor by edges (R161) -/
  ancestors : List (Nat × Nat)
  adopted : Bool
  orphaned : Bool
  /-- pushed before the current region head (R169, R371) -/
  beforeHead : Bool
  /-- ordinal of a collective push (R223) -/
  ordinal : Nat
  /-- core cycle at which it reached DONE, FAULTED or CANCELLED (R168) -/
  endedAt : Nat
  /-- core cycle of the push (R475) -/
  pushedAt : Nat
  /-- the translations it holds, once it has made them (R213) -/
  held : Option (List HeldEntry)
  /-- its requests to peer chips (R422, R463) -/
  requests : List PeerReq
  /-- global lines it has written, for the chalk line (R477) -/
  written : Tab Nat
  /-- parts of its sources that it has read, by virtual address, and what it read; the ranges of its
  destination it has written, as virtual address and length (R103, R117) -/
  early : List (Nat × List Byte)
  performed : List (Nat × Nat)
  /-- bytes that its sync word has counted already (R129) -/
  counted : Nat
  /-- all its writes have been performed ahead of its completion (R117) -/
  ran : Bool
  /-- the stream that pushed it -/
  issuer : Strm
  /-- the streams whose release set has taken its lines (R477), by bit as `seen` -/
  noted : BitVec 3
  deriving DecidableEq, Repr, Inhabited

/-- What a trace record is of (R469, R470): an issued instruction, with OFF, PC and parcels; or a marker, with its
type and payload. -/
inductive TraceKind where
  | instr (off : Bool) (pc : Word) (parcels : Nat)
  | marker (t : Nat) (payload : List Byte)
  deriving DecidableEq, Repr, Inhabited

/-- A trace record of the present cycle: the port it is ordered by, the stream, slot, job and partition it belongs
to. [DEDUCED, log 96] -/
structure TraceItem where
  port : Nat
  strm : Strm
  slot : Nat
  jobid : Nat
  part : Nat
  kind : TraceKind
  deriving DecidableEq, Repr, Inhabited

/-- One core (R9, R29). Token-table slots not listed are RELEASED. -/
structure Core where
  tokens : Tab TokenEntry
  nextSeq : Nat
  cycle : Nat
  /-- chunks allotted and not yet dealt: launch, first record, count, oldest first (R346) -/
  localQueue : List (Nat × Nat × Nat)
  /-- pushes of collectives so far, by JOBID, level and id (R223) -/
  collectives : List ((Nat × Nat × Nat) × Nat)
  /-- trace: the records of the present cycle, the cycle of the previous record, the sequential PC per stream, the
  job of the last marker -/
  tracePend : List TraceItem
  traceCycle : Nat
  traceSeq : Vector (Option Word) 3
  traceJob : Option Nat
  deriving DecidableEq, Repr, Inhabited

/-! ### Memory system -/

/-- Who of a job has made a write: one of its streams, or one of its operations by table slot and sequence
number. -/
inductive Writer where
  | stream (t : Strm)
  | op (slot seq : Nat)
  deriving DecidableEq, Repr, Inhabited

/-- An agent as it views memory: its JOBID (0 for none), whose writes of that job it sees ahead of others (those of
all, or of the writers given), the core it stands on and its partition, where it has them (R92, R113). -/
structure Viewer where
  job : Nat
  only : Option (List Writer)
  core : Option Nat
  part : Option Nat
  deriving DecidableEq, Repr, Inhabited

/-- A granule of a job's wet version of a line (R113): JOBID, granule number PA/8, value, whether it is
poisoned, whether it was written through a compressed view (R102), whether its cure joins the views (R208), who has
written it, and the operation that has not completed where it is a write of one. Of several entries for a granule
the last is the job's version. -/
structure WetGranule where
  job : Nat
  granule : Nat
  value : Granule
  poison : Bool
  cmp : Bool
  join : Bool
  writers : List Writer
  layer : Option (Nat × Nat)
  deriving DecidableEq, Repr, Inhabited

/-- A store held in a core's write-combining buffer (R94). -/
structure WcStore where
  hart : Hart
  job : Nat
  pa : Nat
  bytes : List Byte
  deriving DecidableEq, Repr, Inhabited

/-- A cured write that agents outside the writing job may not see yet (R92, R108, R110): the granule, who wrote it
(job, core, partition, launch), through which view, the value and poison others still read, the widest scope at which
it has been performed, 0 where no release has performed it, who of the job wrote it, and the streams that have observed
it through an acquire: JOBID, stream, object. The late writes of a granule stand in coherence order.
[DESIGN CHOICE, log 119] -/
structure LateWrite where
  granule : Nat
  job : Nat
  core : Nat
  part : Nat
  launch : Nat
  cmp : Bool
  old : Granule
  oldPoison : Bool
  scope : Nat
  writers : List Writer
  acquired : List (Nat × Strm × Word)
  deriving DecidableEq, Repr, Inhabited

/-- What a stream's access has read before its turn in program order: a granule of global memory, a granule of
the scratchpads, a job CSR. -/
inductive EarlyPlace where
  | glob (granule : Nat)
  | spad (granule : Nat)
  | csr (number : Nat)
  deriving DecidableEq, Repr, Inhabited

/-- A read that a stream has performed ahead of program order, what it returned, and who has written the place since
(R87, R103, R110). [DESIGN CHOICE, log 119] -/
structure EarlyRead where
  hart : Hart
  place : EarlyPlace
  value : Granule
  missed : List Viewer
  deriving DecidableEq, Repr, Inhabited

/-- What a wide store has yet to write in a granule of the scratchpads: the stream, the byte address, the bytes (R103).
[DESIGN CHOICE, log 2] -/
structure LateStore where
  hart : Hart
  addr : Nat
  bytes : List Byte
  deriving DecidableEq, Repr, Inhabited

/-- A filled line of a stash window (R97, R98): JOBID, window, line number in the window, the physical
line it is registered for and the view it is filled through, its dirty granules, and whether it is stale. -/
structure StashLine where
  job : Nat
  win : Nat
  line : Nat
  /-- the lines, in units of 256 bytes, of the virtual address and of the job offset -/
  vline : Nat
  sline : Nat
  pa : Nat
  cmp : Bool
  dirty : BitVec 32
  stale : Bool
  deriving DecidableEq, Repr, Inhabited

/-- Whether two are the same line of the same mapping of a window. -/
def StashLine.same (x l : StashLine) : Bool :=
  l.job == x.job && l.win == x.win && l.line == x.line && l.vline == x.vline && l.sline == x.sline

/-- The leaf a stage of translation ends in (R390, R392). -/
structure Leaf where
  out : Nat
  rd : Bool
  wr : Bool
  ex : Bool
  typ : BitVec 2
  cmp : Bool
  level : Nat
  /-- it maps its part of a 64 KiB page (R391) -/
  cont : Bool
  deriving DecidableEq, Repr, Inhabited

/-- A cached translation (R394): the core whose TLBs hold it, partition, stage (true stage 2), PASID and input
page. [DESIGN CHOICE, log 28] -/
structure TlbEntry where
  core : Nat
  part : Nat
  stage2 : Bool
  pasid : Nat
  page : Nat
  leaf : Leaf
  deriving DecidableEq, Repr, Inhabited

/-- The host's translation of a page, as a cluster keeps it (R395); `page` is the page's name (`hostName`).
[DEDUCED, log 30] -/
structure AtsEntry where
  cluster : Nat
  page : Nat
  target : Nat
  deriving DecidableEq, Repr, Inhabited

/-- Whose access it is that waits for the host's answer to a page request (R395): a stream at an instruction (its
job, position and PC), an operation, the device acting for an item of a partition, or the fetch of a queue's packet. -/
inductive Waiter where
  | stream (h : Hart) (job pos : Nat) (pc : Word)
  | op (core slot seq : Nat)
  | device (part item : Nat)
  | queue (fn iface q : Nat)
  deriving DecidableEq, Repr, Inhabited

/-- The slot of the stream that waits. -/
def Waiter.slot? : Waiter → Option (Nat × Nat)
  | .stream h _ _ _ => some (h.core, h.slot)
  | _ => none

/-- A buffered ordered update (R122): slice, cell address, sequence number, update. -/
structure AmoqEntry where
  slice : Nat
  cell : Nat
  seq : BitVec 32
  update : BitVec 32
  deriving DecidableEq, Repr, Inhabited

/-- A retiring record that still counts readers (R213, R214): the entry's physical address and the version
replaced, and where the record lies: partition, PASID, pool descriptor, index in the ring. -/
structure KvRecord where
  pa : Nat
  version : BitVec 16
  part : Nat
  pasid : Nat
  pool : Word
  index : Nat
  deriving DecidableEq, Repr, Inhabited

/-- A line stored compressed (R102): the value of its last compressed write, and the granules written
through the uncompressed view since. -/
structure CompLine where
  data : RowBits
  mixed : BitVec 32
  deriving DecidableEq, Repr, Inhabited

/-- The memory system (R91–R124). -/
structure MemSys where
  /-- device physical memory: GDDR 7 units and the host windows (R392) -/
  mem : Memory
  /-- scratchpads: byte o of core c at 2^20·c + o (R30) -/
  spad : Memory
  /-- poisoned granules of `mem` and of `spad` (R458) -/
  memPoison : NatSet
  spadPoison : NatSet
  wet : List WetGranule
  wc : List WcStore
  /-- granules whose next cured write is to be performed late, the late writes, the reads performed ahead of
  program order, and what issued stores have yet to write in the scratchpads; the granules that the store now issuing
  writes at once, where those are not all (R92, R103) -/
  hold : NatSet
  late : List LateWrite
  early : List EarlyRead
  begun : List LateStore
  split : Option (List Nat)
  stash : List StashLine
  /-- lines stored compressed, by line number PA/256 -/
  comp : Tab CompLine
  /-- last writer of a line: partition and JOBID (R460) -/
  writer : Tab (Nat × Nat)
  tlb : List TlbEntry
  /-- the host's translations: those cached, and those in force, where they are not the page itself; the pages the
  host reports absent; the accesses of operations and of the device that wait for a page; the accesses that a
  refusal has met; the pages for which a request is out (R395) -/
  ats : List AtsEntry
  hostMap : Tab Nat
  hostAbsent : NatSet
  priWaiting : List (Waiter × Nat)
  priRefused : List (Waiter × Nat)
  priSent : NatSet
  amoq : List AmoqEntry
  /-- values that granules written while a job is resident had before, which the job's fetches may still
  return (R146): JOBID, granule, value -/
  oldCode : List (Nat × Nat × Granule)
  /-- retiring records with readers (R213) -/
  kvRecords : List KvRecord
  deriving DecidableEq, Repr, Inhabited

/-! ### Launches and streams of frames -/

/-- A job card (R59) as the dispatcher reads it; `bad` is why its records are retired unstarted: where R17
or R59 refuse it, or it cannot be read (R494). -/
structure Card where
  entry : Word
  rows : Nat
  grant : Nat
  quota : Nat
  minChunk : Nat
  divisor : Nat
  bad : Option (Cause × Word)
  deriving DecidableEq, Repr, Inhabited

/-- The completion a host packet asked for (R415, R416): function, interface, queue, packet FLAGS,
vector, CPLVA, PASID. -/
structure PacketReq where
  fn : Nat
  iface : Nat
  queue : Nat
  flags : BitVec 8
  vector : Nat
  cplva : Word
  pasid : BitVec 20
  deriving DecidableEq, Repr, Inhabited

/-- A launch record (R341, R342): its sixteen 64-bit words as laid out, the launch PASID (R388), the go
value expected by the line monitor (R345), DOMMEM for its jobs (R185). -/
structure Launch where
  words : Vector Word 16
  pasid : BitVec 20
  go : Nat
  dommem : Word
  /-- the PASID of the arming (R388) -/
  armedPasid : BitVec 20
  /-- predecessors latched at the arming: index, ARMSEQ, state (R349) -/
  preds : List (Nat × Nat × Nat)
  /-- the job card as read for allotting (R346) -/
  card : Option Card
  /-- next record not yet allotted, records retired, records signalled or retired -/
  next : Nat
  retired : Nat
  opened : Nat
  dealt : Nat
  armedAt : Nat
  /-- time since which it waits for an allotment (R348) -/
  since : Option Nat
  /-- the core of the first chunk (R346) -/
  cores : NatSet
  packet : Option PacketReq
  /-- records for which a victim has been asked to leave (R365) -/
  asked : NatSet
  deriving DecidableEq, Repr, Inhabited

/-- A boundary that has fallen and is not acted on to the end (R357): its time, the frame number, the rung once it is
fixed, and how many launches of the set have had their arming attempt. -/
structure DueBoundary where
  time : Nat
  number : Nat
  rung : Option Nat
  next : Nat
  deriving DecidableEq, Repr, Inhabited

/-- A frame whose launches are being judged (R357): frame number, rung, whether it is still on time, whether
it has caused a change, launches armed and not yet retired, and whether arming attempts are still to come. -/
structure Frame where
  number : Nat
  rung : Nat
  onTime : Bool
  caused : Bool
  left : Nat
  arming : Bool
  deriving DecidableEq, Repr, Inhabited

/-- A stream descriptor (R356), the time of the next boundary to act on, the boundaries that have fallen and
are not acted on yet, the frames being judged, and the PASID and pool of the last FRADV that published in its
ring (R229). -/
structure StreamDesc where
  words : Vector Word 32
  nextAt : Nat
  due : List DueBoundary
  frames : List Frame
  /-- the newest frame armed: the current one (R358) -/
  current : Option Nat
  published : Option (Nat × Word)
  deriving DecidableEq, Repr, Inhabited

/-- A tile of a frame-tile queue (R226, R227): frame, column, row, its samples, and whether the encoder has
taken it out of the queue's 64 places. -/
structure FrameTile where
  frame : BitVec 16
  col : Nat
  row : Nat
  samples : List Byte
  taken : Bool
  deriving DecidableEq, Repr, Inhabited

/-- A frame-tile queue (R227). -/
structure FrameTileQueue where
  tiles : List FrameTile
  openFrames : List (BitVec 16)
  newest : Option (BitVec 16)
  closed : List (BitVec 16)
  clamps : Word
  stale : Word
  deriving DecidableEq, Repr, Inhabited

/-! ### Partitions -/

/-- The states of a partition (R401). -/
inductive PartState where
  | free | opened | sealed
  deriving DecidableEq, Repr, Inhabited

/-- One entry of the binding table (R107): object, base, length, PASID (R181). -/
structure Binding where
  object : Word
  base : Word
  length : Word
  pasid : Nat
  deriving DecidableEq, Repr, Inhabited

/-- An event that waits at the arbiter of a deterministic partition (R355): its record, and the rung that the stream
takes when it is logged, where it is a rung change. [DEDUCED, log 80] -/
structure HeldEvent where
  record : List Byte
  rung : Option (Nat × Nat)
  deriving DecidableEq, Repr, Inhabited

/-- A completion that a host packet asked for and whose record waits for the host's answer (R395, R416).
[DEDUCED, log 102] -/
structure Completion where
  index : Nat
  req : PacketReq
  late : Bool
  time : Nat
  deriving DecidableEq, Repr, Inhabited

/-- A retirement that has set STATE and whose increment of DONE waits for the host's answer (R352, R395): the launch,
its DONE, PASID, DEADLINE, stream, ARMSEQ, arming time and packet as they then stood, and the stream and number of its
frame. [DEDUCED, log 125] -/
structure Retirement where
  index : Nat
  done : Word
  pasid : Nat
  deadline : Nat
  stream : Nat
  armseq : Nat
  armedAt : Nat
  packet : Option PacketReq
  frame : Option (Nat × Nat)
  deriving DecidableEq, Repr, Inhabited

/-- The event log (R355) with the arbiter's sequence counter (R354). -/
structure EventLog where
  base : Word
  cap : Word
  rd : Word
  wr : Word
  seq : Nat
  /-- events that wait at the arbiter of a deterministic partition -/
  waiting : List HeldEvent
  deriving DecidableEq, Repr, Inhabited

/-- A barrier instance (R185): level, domain, number; ARRIVED, PHASE, E. -/
structure Barrier where
  level : Nat
  domain : Nat
  number : Nat
  arrived : Nat
  phase : BitVec 32
  expected : Nat
  deriving DecidableEq, Repr, Inhabited

/-- One monitor (R475). -/
structure Monitor where
  cfg : Word
  count : Word
  min : Word
  max : Word
  bins : Vector Word 16
  deriving DecidableEq, Repr, Inhabited

/-- One counted release of the chalk line (R477): the key, as share offset, ARMSEQ, record, stream and
ordinal; the hashes in the two partitions; whether each has been counted. -/
structure ChalkEntry where
  key : Nat × Nat × Nat × Nat × Nat
  hashA : Option Word
  hashB : Option Word
  deriving DecidableEq, Repr, Inhabited

/-- The debug, trace and replay state of a partition (R464–R479). -/
structure Debug where
  buffer : Word
  /-- stopped, or stopping: reason and tag; and whether the stop record has been written -/
  stop : Option (Nat × Nat)
  stopDone : Bool
  bps : Vector Word 16
  bpRecords : Vector Word 16
  traceCtl : Word
  traceBase : Word
  traceSize : Word
  traceLost : Word
  /-- bytes written to the host ring -/
  tracePos : Nat
  stalls : Vector Word 4
  stallObjs : Tab Word
  monitors : Vector Monitor 16
  snapMask : Word
  snapBuffer : Word
  snapDropped : Nat
  /-- a trigger that has fired and whose image is not yet written: trigger, source, time -/
  snapFired : Option (Nat × Nat × Nat)
  chalk : Word
  chalkKeys : List ChalkEntry
  replayCtl : Word
  replayFirst : Word
  replayImages : Word
  replayIndex : Nat
  replayImage : Nat
  deriving DecidableEq, Repr, Inhabited

/-- A collective instance one of whose members has failed (R225): level, domain, id and ordinal; the number of its
members, where it is known; how many of this chip have failed; the indices of those of peer chips that have sent
their part or failed; the launch and ARMSEQ of the first to fail of this chip; the first JOBID not yet given at the
failure. [DEDUCED, log 70] -/
structure FailedColl where
  key : Nat × Nat × Nat × Nat
  size : Option Nat
  count : Nat
  others : List Nat
  launch : Option (Nat × Nat)
  before : Nat
  deriving DecidableEq, Repr, Inhabited

/-- The registers of a partition (R399–R403). -/
structure Part where
  state : PartState
  perms : Word
  ctlTmpl : Word
  shareFirst : Nat
  shareCount : Nat
  s2root : Word
  pasidBase : Word
  pasidCount : Word
  agelim : Word
  gateidle : Word
  prelim : Word
  drainlim : Word
  orphtmo : Word
  ctxBase : Word
  ctxSize : Word
  llcrng : Vector (Word × Word) 16
  log : EventLog
  bindings : List Binding
  barriers : List Barrier
  /-- the launch window: host address of its first slot; the indices of the slots in lines that the host has written
  and the monitor has not read since (R345) -/
  window : Option Nat
  windowWritten : NatSet
  /-- the partition physical address at which the share is mapped for reading, where it is (R341) -/
  shareMap : Option Nat
  /-- completion records that wait for a host page -/
  completions : List Completion
  /-- retirements whose increment of DONE waits for a host page -/
  retiring : List Retirement
  /-- the partition fault queue (R163), oldest first -/
  faults : List (List Byte)
  measurement : BitVec 512
  measCount : Nat
  cfgDigest : BitVec 512
  stale : Word
  lost : Word
  refused : Word
  discarded : Word
  fabric : Word
  joined : Tab Word
  dirPool : Word
  /-- collective instances one of whose members has failed (R225) -/
  failedColl : List FailedColl
  /-- rung requests that wait for the arbiter: the job, stream, rung (R354, R360) -/
  rungReqs : List (Nat × Nat × Nat)
  /-- migration commands accepted and not yet applied: source and destination logical core, count (R361) -/
  migrations : List (Nat × Nat × Nat)
  dbgState : Debug
  deriving DecidableEq, Repr, Inhabited

/-! ### Host interfaces -/

/-- One queue of a queue interface (R412). -/
structure HostQueue where
  base : Word
  ctl : BitVec 32
  head : BitVec 16
  stop : Bool
  /-- last accepted tail; packets HEAD to tail − 1 are still to be processed -/
  tail : BitVec 16
  deriving DecidableEq, Repr, Inhabited

/-- A queue interface (R412) with the COUNT of its status area (R417). -/
structure Iface where
  ctl : Word
  statBase : Word
  queues : Vector HostQueue 8
  count : BitVec 32
  deriving DecidableEq, Repr, Inhabited

/-- An entry of a remapping table (R418): address, data, and the word at 0x0C. -/
structure Remap where
  addr : Word
  data : BitVec 32
  ctl : BitVec 32
  deriving DecidableEq, Repr, Inhabited

/-- A port and its physical function (R409, R410, R418): link up, trained with IDE, ATS negotiated, the
interfaces, the remapping table, the stray-write and dropped-interrupt counters. -/
structure Port where
  up : Bool
  ide : Bool
  ats : Bool
  ifaces : Vector Iface 8
  remap : Tab Remap
  stray : Word
  dropped : Word
  deriving DecidableEq, Repr, Inhabited

/-- The registers of an encoder or decoder (R419). -/
structure Codec where
  ctl : Word
  qp : Word
  rate : BitVec 32
  gop : BitVec 32
  ring : Word
  rsize : BitVec 32
  rhead : BitVec 32
  rtail : BitVec 32
  ifv : BitVec 32
  /-- frames coded since EN (R419, GOP), and what the codec keeps of the frame sequence -/
  frames : Nat
  memory : Nat
  deriving DecidableEq, Repr, Inhabited

/-- The management window (R411). -/
structure Mgmt where
  op : Word
  arg : Word
  res : Word
  go : Word
  deriving DecidableEq, Repr, Inhabited

/-! ### The peer fabric -/

/-- A prefix record of this chip's directory (R219) with the fabric id it was published under (R422). -/
structure PrefixRecord where
  fabric : Word
  id : Word
  page : Nat
  elem : Nat
  hdim : Nat
  scale : BitVec 32
  version : BitVec 16
  bitmap : Word
  readers : Nat
  /-- where the page lies: a partition, and the PASID whose address space names it, or none where `page` is a
  partition physical address -/
  part : Nat
  pasid : Option Nat
  deriving DecidableEq, Repr, Inhabited

/-- A release flag kept until it is delivered (R421, R462): the time of its first send, destination chip and
partition, fabric id, source chip and partition, sequence, body; the switch path it takes, and whether the data
it covers have been confirmed at the peer. [DEDUCED, log 79] -/
structure OutFlag where
  id : Nat
  sentAt : Nat
  chip : Nat
  target : Nat
  fabric : Word
  source : Nat
  part : Nat
  seq : BitVec 32
  body : FlagBody
  path : Nat
  confirmed : Bool
  deriving DecidableEq, Repr, Inhabited

/-- A level-6 contribution of a member on a peer chip (R223, R421). -/
structure RemoteMember where
  part : Nat
  cid : Nat
  ordinal : Nat
  member : Nat
  fmt : Nat
  op : Nat
  count : Nat
  root : Nat
  data : List Byte
  deriving DecidableEq, Repr, Inhabited

/-- A reader that a home counts for an operation that has ended (R422, R463): the request's tag, the requester's
partition, the home chip and its partition, the prefix id and version; whether the home has answered.
[DEDUCED, log 104] -/
structure EndedReader where
  tag : BitVec 32
  part : Nat
  chip : Nat
  peer : Nat
  id : Word
  version : Nat
  answered : Bool
  deriving DecidableEq, Repr, Inhabited

/-- The fabric (R219, R420–R422). -/
structure Fabric where
  /-- CHIPS INDEX 0 and the chip list (R403) -/
  chips0 : Word
  chips : Tab Word
  directory : List PrefixRecord
  /-- readers counted here for a requester: chip, partition, fabric, id (R422) -/
  remoteReaders : List (Nat × Nat × Nat × Word)
  /-- readers that homes count, or may come to count, for operations of this chip that have ended -/
  ended : List EndedReader
  /-- last sequence applied, by receiving partition, source chip and source partition (R421) -/
  lastSeq : List ((Nat × Nat × Nat) × BitVec 32)
  /-- next sequence to send, by sending partition, destination chip and partition -/
  sendSeq : List ((Nat × Nat × Nat) × BitVec 32)
  pending : List OutFlag
  nextTag : BitVec 32
  nextFlag : Nat
  remote : List RemoteMember
  deriving DecidableEq, Repr, Inhabited

/-- What leaves the device (R418, R420–R422, R471): an interrupt message as address and data on a port,
a peer message (a release flag, the data it covers, the confirming read, a request, a reply), a trace frame, a page
request (R395), the data of a host read (R410), what the host reads in its own memory (R131), in BAR0 (R410) and of a
fault queue (R407). -/
inductive OutMsg where
  | interrupt (port : Nat) (addr : Word) (data : BitVec 32)
  | flag (f : OutFlag)
  | peerWrite (f : OutFlag) (bytes : List Byte)
  | peerRead (f : OutFlag)
  | request (chip : Nat) (part : Nat) (fabric : Word) (tag : BitVec 32) (kind : Nat) (id : Word) (payload : List Byte)
  | reply (chip : Nat) (tag : BitVec 32) (body : ReplyBody)
  | traceFrame (cluster : Nat) (seq : Nat) (bytes : List Byte)
  | pageRequest (page : Nat)
  | hostRead (fn : Nat) (bytes : List Byte) (poisoned : Bool)
  | hostLoad (pa : Nat) (bytes : List Byte)
  | barRead (fn offset width : Nat) (value : Word)
  | faultRecord (part : Nat) (bytes : List Byte)
  deriving DecidableEq, Repr, Inhabited

/-! ### The platform -/

/-- Counters of R457. -/
structure ErrCounters where
  counts : Vector Word 8
  deriving DecidableEq, Repr, Inhabited

/-- How far the device is (R491): it runs, bring-up goes on, or it stands in recovery mode.
[DEDUCED, log 99] -/
inductive BootMode where
  | running | starting | recovery
  deriving DecidableEq, Repr, Inhabited

/-- The platform (R488–R493): core supply in mV, clock in MHz, the clock held at 700 MHz, throttle events; what the
sensors read, the hottest junction temperature in eighths of a degree and the package power in W; the image staged in
flash, and the running image where it is not the one that flash held at first; the rollback count where it is not the one
fused at first; how far bring-up is, and its status; the hardware fault that the next bring-up meets, as its step and
failure code. [DESIGN CHOICE, log 98] -/
structure Platform where
  supply : Word
  mhz : Nat
  hold : Bool
  throttles : Word
  temp : Int
  power : Nat
  staged : Option (List Byte)
  running : Option (List Byte)
  rollback : Option Word
  mode : BootMode
  boot : Word
  defect : Option (Nat × BitVec 8)
  deriving DecidableEq, Repr, Inhabited

/-- A cluster (R363): gated, waking (the time the wake ends), idle since; the records in its trace buffer, those
dropped since the last lost marker, and the frame sequence of its egress (R471). -/
structure Cluster where
  gated : Bool
  wakeAt : Option Nat
  idleSince : Nat
  trace : List (List Byte)
  traceUnmarked : Nat
  traceSeq : Nat
  deriving DecidableEq, Repr, Inhabited

/-- The events that the device makes of itself, as a round of its own names them; each but `settle`, the retirement
of launches that an arbiter or a host page has held up, is the constructor of `Instr` of the same name. -/
inductive Due where
  | childOpDone (core tok : Nat)
  | childOpFault (core tok : Nat)
  | linkTimeout (core tok : Nat)
  | orphanReap (core tok : Nat)
  | collectiveInstance (part lvl dom cid ordinal : Nat)
  | jobDeal (core : Nat)
  | contextSpill (core : Nat)
  | jobResume (core : Nat)
  | engineSelect (core : Nat) (eng : Engine)
  | forcedSave (core slot : Nat)
  | drainlimExpiry (core slot : Nat)
  | flipDone (core slot : Nat)
  | restoreDone (core slot : Nat)
  | protectionExpiry (core slot : Nat)
  | deadlockDetect (core slot : Nat)
  | waittmoExpiry (h : Hart)
  | stopComplete (part : Nat)
  | replayEvent (part : Nat)
  | rungRequestApply (part : Nat)
  | migrationApply (part : Nat)
  | launchAllot (part : Nat)
  | preemptRequest (part : Nat)
  | launchWindowArm (index : Nat)
  | packetArm (fn iface q : Nat)
  | packetNop (fn iface q : Nat)
  | encodeFrame (e : Nat)
  | decodeRecord (d : Nat)
  | periodBoundary (stream : Nat)
  | balancerTick
  | clusterWakeDone (cluster : Nat)
  | clusterWakeStart (cluster : Nat)
  | clusterGate (cluster : Nat)
  | traceEgress (cluster : Nat)
  | settle (part : Nat)
  deriving DecidableEq, Repr, Inhabited

/-- What the device's surroundings and its own timing choose to do next. The spec leaves the order
between agents open; the agenda is that order, as data. -/
inductive Act where
  /-- a stream issues its next instruction -/
  | issue (h : Hart)
  /-- an event or host operation takes place -/
  | event (i : Instr)
  /-- an event of the device's own takes place -/
  | due (d : Due)
  /-- this many nanoseconds pass -/
  | tick (ns : Nat)
  /-- a translation enters or leaves a TLB (R394) -/
  | tlbFill (core part : Nat) (stage2 : Bool) (pasid page : Nat)
  | tlbDrop (core part : Nat) (stage2 : Bool) (pasid page : Nat)
  /-- the oldest line of a core's write-combining buffer is evicted; the store at a place of the buffer is
  performed (R94) -/
  | wcEvict (core : Nat)
  | wcPerform (core place : Nat)
  /-- the next cured write of a granule is performed late; the late write of a granule is performed (R92) -/
  | holdWrite (granule : Nat)
  | arriveWrite (granule : Nat)
  /-- a stream reads a granule or a job CSR ahead of program order (R87, R110) -/
  | readEarly (h : Hart) (place : EarlyPlace)
  /-- a stream issues a store wider than a granule, which writes these granules of the scratchpads ahead of the others;
  the others are written (R103) -/
  | beginStore (h : Hart) (granules : List Nat)
  | endStore (h : Hart)
  /-- a running operation reads a range of its sources; it writes a range of its destination; it counts bytes that it
  has written (R103, R117, R129) -/
  | opRead (core tok va len : Nat)
  | opWrite (core tok va len : Nat)
  | opCount (core tok bytes : Nat)
  /-- the host reads its own memory (R131), a register of BAR0 (R410), the oldest record of a partition's fault
  queue (R407); it writes in BAR1, with the PASID of the write's prefix (R413) -/
  | hostLoad (pa len : Nat)
  | barRead (fn offset width : Nat)
  | takeFault (part : Nat)
  | notifyWrite (fn offset size : Nat) (value : BitVec 32) (pasid : Option (BitVec 20))
  /-- the mesh link at an output of a router is retired (R461) -/
  | meshRetire (router output : Nat)
  /-- the host makes a page absent, or present under a translation; a cluster caches a page's translation; the
  device asks the host for an absent page (R395) -/
  | hostPage (page : Nat) (target : Option Nat)
  | atsFill (cluster page : Nat)
  | pageRequest (page : Nat)
  /-- a peer's completion of a release flag, of a request returns; the confirming read of a flag's data returns, or
  fails (R462) -/
  | flagDelivered (id : Nat)
  | requestDelivered (tag : BitVec 32)
  | flagConfirmed (id : Nat) (ok : Bool)
  /-- a partition of a peer chip is destroyed (R422) -/
  | peerGone (chip part : Nat)
  /-- a link retries a transfer (R461) -/
  | linkRetry
  /-- the eviction of a dirty line finds uncorrectable granules: line, granules, the line's partition physical
  address, and the job where it is its wet version (R460) -/
  | evictError (line : Nat) (bad : BitVec 32) (ipa : Nat) (job : Option Nat)
  /-- what the temperature and power sensors read changes; a hardware fault waits for the next bring-up, or is mended;
  bring-up ends (R488 to R493) -/
  | sense (temp : Int) (power : Nat)
  | defect (d : Option (Nat × BitVec 8))
  | bringUp
  /-- a link trains: port, up, IDE, ATS (R409) -/
  | linkTrain (port : Nat) (up ide ats : Bool)
  /-- system software builds, rewrites or frees a launch record of a share (R341, R343) -/
  | build (index : Nat) (words : Vector Word 16)
  | unbuild (index : Nat)
  /-- system software sets DOMMEM for a launch (R185), and the launch window of a partition (R345) -/
  | setDommem (index : Nat) (v : Word)
  | setWindow (part : Nat) (base : Option Nat)
  /-- system software maps a partition's share for reading, or unmaps it; the bytes of a record are brought up to date
  there (R341) -/
  | mapShare (part : Nat) (base : Option Nat)
  | showRecord (index : Nat)
  /-- the ARM at which a stream stands makes its checks and its release, ahead of its arming (R344) -/
  | armBegin (h : Hart)
  /-- the host stores to its own memory (R345, R414) -/
  | hostStore (pa : Nat) (bytes : List Byte)
  deriving DecidableEq, Repr, Inhabited

/-- The whole machine. -/
structure State where
  /-- the agenda; its head is the next thing to happen -/
  agenda : List Act
  /-- the stream whose instruction is being executed -/
  cur : Hart
  /-- the model's own counter of free values used -/
  fresh : Nat
  /-- TIME in ns, and thousandths of a cycle left over by the arithmetic clock -/
  time : Nat
  subCycle : Nat
  /-- thermal shutdown: nothing happens until a device reset (R489) -/
  dead : Bool
  ms : MemSys
  /-- streams by 3·(4·core + slot) + (0 L, 1 C, 2 S) -/
  strs : Tab Stream
  /-- resident jobs by 4·core + slot -/
  jobs : Tab Job
  saved : List Saved
  cores : Tab Core
  clusters : Tab Cluster
  nextJob : Nat
  parts : Tab Part
  pool : Tab Launch
  streams : Tab StreamDesc
  ftqs : Tab FrameTileQueue
  /-- owner partition of each unit, cluster, and object of OWN (R403) -/
  unitOwner : Tab Nat
  clusterOwner : Tab Nat
  ownOwner : Tab Nat
  /-- retired mesh links (R461), by 4·router + output -/
  meshRetired : NatSet
  /-- clusters with a wake request that has not begun, in the order requested (R363) -/
  wakeQueue : List Nat
  /-- the last wake-up start (R363) -/
  lastWake : Option Nat
  ports : Vector Port 4
  encoders : Tab Codec
  decoders : Tab Codec
  mgmt : Mgmt
  fabric : Fabric
  out : List OutMsg
  errs : ErrCounters
  platform : Platform
  deriving DecidableEq, Repr, Inhabited

/-! ### Outcomes -/

/-- Why the machine stops. -/
inductive Fault where
  /-- the die stopped at 110 °C and no device reset has come (R489); raised by `step` alone. Safe: the
  device does nothing either -/
  | dieStopped
  deriving DecidableEq, Repr

/-- Why an instruction has no meaning. -/
inductive Refusal where
  /-- the instruction is not modelled; raised by `exec` for a constructor without a meaning. Safe -/
  | notModelled (mnemonic : String)
  deriving DecidableEq, Repr

/-- The outcome of a step of this machine. -/
abbrev Result := Host.Outcome State Fault Refusal

/-! ### Initial values -/

/-- Every field zero. -/
def TrapRegs.zero : TrapRegs := ⟨0, 0, .replicate 6 0, 0, 0, 0⟩

def RegionHead.zero : RegionHead := ⟨0, [], 0, 0, 0, []⟩

/-- A stream at its job's start (R34), at PC `pc`. [DESIGN CHOICE, log 8] -/
def Stream.start (pc : Word) : Stream :=
  ⟨pc, .replicate 32 0, 0, [], .zero, 0, none, none, 0, none, ⟨pc, [], 0, 0, 0, []⟩, 0, 0, [], false, false⟩

/-- R25: every element +0, maxima −∞, sums +0. -/
def AccVal.start : AccVal :=
  ⟨false, 0, BitVec.ofNat 2048 (0xFF800000 * ((2 ^ 2048 - 1) / (2 ^ 32 - 1))), 0⟩

/-- [DESIGN CHOICE, log 8] -/
def Acc.start : Acc := ⟨.start, false, none, none, [], []⟩

def Queues.empty : Queues :=
  ⟨.replicate 8 [], .replicate 4 [], .replicate 2 [], .replicate 14 0, .replicate 14 0, .replicate 14 []⟩

/-- 1.0 as FP32. -/
def fp32One : BitVec 32 := 0x3F800000

/-- A job at its start (R34). [DESIGN CHOICE, log 8] -/
def Job.start (ids : JobIds) (ctl : Word) (grant : Grant) : Job :=
  ⟨ids, ctl, 0, 0, 0, .replicate 4 0, .replicate 4 0, grant, [], .replicate 64 fp32One,
   .replicate 8 0xFFFF, .replicate 8 0xFFFFFFFFFFFFFFFF, [0xFFFFFFFFFFFFFFFF], .replicate 8 .start,
   .empty, [], [], .running, false, none, none, [], false⟩

/-- A core after reset (R29, R490): NextSeq 1. [DESIGN CHOICE, log 8] -/
def Core.reset : Core := ⟨[], 1, 0, [], [], [], 0, .replicate 3 none, none⟩

/-- A cluster after bring-up: zeroed and gated (R491). -/
def Cluster.reset : Cluster := ⟨true, none, 0, [], 0, 0⟩

def MemSys.reset : MemSys where
  mem := []
  spad := []
  memPoison := []
  spadPoison := []
  wet := []
  wc := []
  hold := []
  late := []
  early := []
  begun := []
  split := none
  stash := []
  comp := []
  writer := []
  tlb := []
  ats := []
  hostMap := []
  hostAbsent := []
  priWaiting := []
  priRefused := []
  priSent := []
  amoq := []
  oldCode := []
  kvRecords := []

def Launch.reset : Launch :=
  ⟨(Vector.replicate 16 0).set 6 0xFFFFFFFFFFFFFFFF, 0, 1, 0, 0, [], none, 0, 0, 0, 0, 0, none, [], none, []⟩

def StreamDesc.reset : StreamDesc := ⟨.replicate 32 0, 0, [], [], none, none⟩

def FrameTileQueue.reset : FrameTileQueue := ⟨[], [], none, [], 0, 0⟩

def Monitor.reset : Monitor := ⟨0, 0, 0xFFFFFFFFFFFFFFFF, 0, .replicate 16 0⟩

/-- [DESIGN CHOICE, log 8] -/
def Debug.reset : Debug :=
  ⟨0, none, false, .replicate 16 0, .replicate 16 0, 0, 0, 0, 0, 0, .replicate 4 0, [],
   .replicate 16 .reset, 0, 0, 0, none, 0, [], 0, 0, 0, 0, 0⟩

def EventLog.reset : EventLog := ⟨0, 0, 0, 0, 1, []⟩

/-- A partition that is FREE (R401); PRELIM 20,000 (R87), AGELIM 1,000,000 (R348), GATEIDLE 20,000
(R363). [DESIGN CHOICE, log 8, 9] -/
def Part.reset : Part :=
  ⟨.free, 0, 0, 0, 0, 0, 0, 0, 1000000, 20000, 20000, 0, 0, 0, 0, .replicate 16 (0, 0), .reset, [], [], none, [], none, [],
   [], [], 0, 0, 0, 0, 0, 0, 0, 0, [], 0, [], [], [], .reset⟩

def HostQueue.reset : HostQueue := ⟨0, 0, 0, false, 0⟩

def Iface.reset : Iface := ⟨0, 0, .replicate 8 .reset, 0⟩

def Remap.reset : Remap := ⟨0, 0, 0⟩

/-- A port whose link has trained, with IDE and ATS. [DESIGN CHOICE, log 8] -/
def Port.reset : Port := ⟨true, true, true, .replicate 8 .reset, [], 0, 0⟩

def Codec.reset : Codec := ⟨0, 0, 0, 0, 0, 0, 0, 0, 0, 0, 0⟩

/-- [DESIGN CHOICE, log 8] -/
def Fabric.reset : Fabric := ⟨0, [], [], [], [], [], [], [], 1, 0, []⟩

/-- [DESIGN CHOICE, log 8] -/
def Platform.reset : Platform := ⟨400, 1400, false, 0, 0, 0, none, none, none, .running, 5, none⟩

/-- The machine after a device reset and bring-up (R490, R491, R493): every partition FREE, no unit,
cluster or share assigned, TIME 0, every core's NextSeq 1. [DESIGN CHOICE, log 11, 110] -/
def State.reset : State where
  agenda := []
  cur := ⟨0, 0, .l⟩
  fresh := 0
  time := 0
  subCycle := 0
  dead := false
  ms := .reset
  strs := []
  jobs := []
  saved := []
  cores := []
  clusters := []
  nextJob := 1
  parts := []
  pool := []
  streams := []
  ftqs := []
  unitOwner := []
  clusterOwner := []
  ownOwner := []
  meshRetired := []
  wakeQueue := []
  lastWake := none
  ports := .replicate 4 .reset
  encoders := []
  decoders := []
  mgmt := ⟨0, 0, 0, 0⟩
  fabric := .reset
  out := []
  errs := ⟨.replicate 8 0⟩
  platform := .reset

end Sys2Proof.Machine
end

