-- ==== Sys2Proof/Machine/Regs.lean ====
section
/-! DEFINITION. Reading and writing the pieces of the state by name: bytes and fields, streams, jobs, cores,
partitions, scalar registers and predicates (R13, R38), row masks and the other named registers of a job. -/

namespace Sys2Proof.Machine

/-! ### Bytes and fields -/

/-- The `n` low bytes of a number, least significant first. -/
def leBytes : Nat → Nat → List Byte
  | 0, _ => []
  | n + 1, v => BitVec.ofNat 8 v :: leBytes n (v / 256)

/-- The number whose bytes, least significant first, these are. -/
def ofLe : List Byte → Nat
  | [] => 0
  | b :: bs => b.toNat + 256 * ofLe bs

/-- Bits [lo+len−1:lo] of a word, as a number. -/
def bitsOf (w : Word) (lo len : Nat) : Nat := w.toNat / 2 ^ lo % 2 ^ len

/-- Bit `i` of a word. -/
def bitOf (w : Word) (i : Nat) : Bool := w.getLsbD i

/-- The word with bits [lo+len−1:lo] replaced by `v`. -/
def setBits (w : Word) (lo len v : Nat) : Word :=
  BitVec.ofNat 64 (w.toNat - bitsOf w lo len * 2 ^ lo + v % 2 ^ len * 2 ^ lo)

/-- A two's-complement immediate, sign-extended to 64 bits. -/
def sext {n : Nat} (x : BitVec n) : Word := x.signExtend 64

/-- A Bool as a number. -/
def b2n (b : Bool) : Nat := if b then 1 else 0

/-- Elements of `l` from `n` on, the first `k` of them. -/
def slice {α : Type} (l : List α) (n k : Nat) : List α := (l.drop n).take k

/-- Add one, saturating at 2^64 − 1 (R403, R457). -/
def satInc (w : Word) : Word := if w = 0xFFFFFFFFFFFFFFFF then w else w + 1

/-- The quotient rounded up. -/
def ceilDiv (a b : Nat) : Nat := (a + b - 1) / b

/-! ### Streams and jobs -/

def strmIdx : Strm → Nat
  | .l => 0
  | .c => 1
  | .s => 2

def strmOf : Nat → Strm
  | 0 => .l
  | 1 => .c
  | _ => .s

def allStrms : List Strm := [.l, .c, .s]

/-- The key of a residency slot. -/
def slotKey (core slot : Nat) : Nat := 4 * core + slot

def jobKey (h : Hart) : Nat := slotKey h.core h.slot

/-- The key of a stream. -/
def hartKey (h : Hart) : Nat := 3 * jobKey h + strmIdx h.strm

def hartOfKey (k : Nat) : Hart := ⟨k / 12, k / 3 % 4, strmOf (k % 3)⟩

/-- The three streams of a slot. -/
def hartsOf (core slot : Nat) : List Hart := allStrms.map fun t => ⟨core, slot, t⟩

def getStream (s : State) (h : Hart) : Stream := Tab.getD s.strs (hartKey h) (.start 0)

def putStream (s : State) (h : Hart) (st : Stream) : State :=
  { s with strs := Tab.set s.strs (hartKey h) st }

/-- Change one stream of a resident job; nothing happens where there is none. -/
def modStream (s : State) (h : Hart) (f : Stream → Stream) : State :=
  { s with strs := Tab.modify s.strs (hartKey h) f }

/-- A job that no state holds, read where there is none. -/
def noIds : JobIds := ⟨0, 0, 0, 0, 0, 0, 0, 0, 0, 0, 0, 0⟩

def noJob : Job := .start noIds 0 ⟨0, 0, 0⟩

def getJob (s : State) (k : Nat) : Job := Tab.getD s.jobs k noJob

def modJob (s : State) (k : Nat) (f : Job → Job) : State := { s with jobs := Tab.modify s.jobs k f }

/-- The stream that executes, its job and its core. -/
def curStream (s : State) : Stream := getStream s s.cur

def curJob (s : State) : Job := getJob s (jobKey s.cur)

def modCurStream (s : State) (f : Stream → Stream) : State := modStream s s.cur f

def modCurJob (s : State) (f : Job → Job) : State := modJob s (jobKey s.cur) f

def getCore (s : State) (c : Nat) : Core := Tab.getD s.cores c .reset

def modCore (s : State) (c : Nat) (f : Core → Core) : State :=
  { s with cores := Tab.upd s.cores c .reset f }

def curCore (s : State) : Core := getCore s s.cur.core

def modCurCore (s : State) (f : Core → Core) : State := modCore s s.cur.core f

/-- The cluster of a core (R9). -/
def clusterOf (core : Nat) : Nat := core / Config.coresPerCluster

def quadrantOf (core : Nat) : Nat := clusterOf core / Config.clustersPerQuadrant

def getCluster (s : State) (c : Nat) : Cluster := Tab.getD s.clusters c .reset

def modCluster (s : State) (c : Nat) (f : Cluster → Cluster) : State :=
  { s with clusters := Tab.upd s.clusters c .reset f }

def getPart (s : State) (p : Nat) : Part := Tab.getD s.parts p .reset

def modPart (s : State) (p : Nat) (f : Part → Part) : State :=
  { s with parts := Tab.upd s.parts p .reset f }

def getLaunch (s : State) (i : Nat) : Launch := Tab.getD s.pool i .reset

def modLaunch (s : State) (i : Nat) (f : Launch → Launch) : State :=
  { s with pool := Tab.upd s.pool i .reset f }

def getSdesc (s : State) (i : Nat) : StreamDesc := Tab.getD s.streams i .reset

def modSdesc (s : State) (i : Nat) (f : StreamDesc → StreamDesc) : State :=
  { s with streams := Tab.upd s.streams i .reset f }

def getFtq (s : State) (i : Nat) : FrameTileQueue := Tab.getD s.ftqs i .reset

def modFtq (s : State) (i : Nat) (f : FrameTileQueue → FrameTileQueue) : State :=
  { s with ftqs := Tab.upd s.ftqs i .reset f }

def modMs (s : State) (f : MemSys → MemSys) : State := { s with ms := f s.ms }

/-- The partition of the executing job. -/
def curPart (s : State) : Nat := (curJob s).ids.part

/-- The core cycle of a core. [DEDUCED, log 3, 108] -/
def cycleOf (s : State) (core : Nat) : Nat := (getCore s core).cycle

/-- The residency slot of a resident job, by JOBID. -/
def findJob (s : State) (jobid : Nat) : Option (Nat × Nat) :=
  (s.jobs.find? fun e => e.2.ids.jobid == jobid).map fun e => (e.1 / 4, e.1 % 4)

def residentJob (s : State) (jobid : Nat) : Option Job :=
  (s.jobs.find? fun e => e.2.ids.jobid == jobid).map (·.2)

/-! ### Partition members (R10) -/

/-- The clusters of a partition, ascending. -/
def clustersOfPart (s : State) (p : Nat) : List Nat :=
  (s.clusterOwner.filter fun e => e.2 == p).map (·.1)

/-- Cores of a partition. -/
def coreCount (s : State) (p : Nat) : Nat :=
  Config.coresPerCluster * (clustersOfPart s p).length

/-- The core with a logical id. -/
def physCore (s : State) (p : Nat) (l : Nat) : Option Nat :=
  ((clustersOfPart s p)[l / Config.coresPerCluster]?).map fun c =>
    Config.coresPerCluster * c + l % Config.coresPerCluster

/-- The logical id of a core. -/
def logicalCore (s : State) (p : Nat) (core : Nat) : Nat :=
  Config.coresPerCluster * ((clustersOfPart s p).idxOf (clusterOf core)) + core % Config.coresPerCluster

def coresOfPart (s : State) (p : Nat) : List Nat :=
  (clustersOfPart s p).flatMap fun c => (List.range 8).map (8 * c + ·)

/-- The domain of a core at a level (R185). -/
def domainOf (core level : Nat) : Nat :=
  match level with
  | 1 => core
  | 2 => clusterOf core
  | 3 => quadrantOf core
  | _ => 0

/-! ### Scalar registers and predicates (R13, R38) -/

/-- S(n): s0 reads as zero. -/
def streamReg (st : Stream) (r : Reg) : Word := if r = 0 then 0 else st.regs[r.toNat]

def setStreamReg (st : Stream) (r : Reg) (v : Word) : Stream :=
  if r = 0 then st else { st with regs := st.regs.set r.toNat v }

/-- S(n) of the executing stream (R38). -/
def rd (s : State) (r : Reg) : Word := streamReg (curStream s) r

/-- SetS(n, v) of the executing stream: a write to s0 does nothing (R38). -/
def wr (s : State) (r : Reg) (v : Word) : State := modCurStream s (setStreamReg · r v)

/-- P(n): p0 reads as true. -/
def streamPred (st : Stream) (p : BitVec 4) : Bool := p == 0 || st.preds.getLsbD p.toNat

def setPredBit (ps : BitVec 16) (p : Nat) (b : Bool) : BitVec 16 :=
  if p = 0 then ps
  else if b then ps ||| (1#16 <<< p) else ps &&& ~~~(1#16 <<< p)

def setStreamPred (st : Stream) (p : BitVec 4) (b : Bool) : Stream :=
  { st with preds := setPredBit st.preds p.toNat b }

/-- P(n) of the executing stream (R38). -/
def rp (s : State) (p : BitVec 4) : Bool := streamPred (curStream s) p

/-- SetP(n, b) of the executing stream (R38). -/
def wp (s : State) (p : BitVec 4) (b : Bool) : State := modCurStream s (setStreamPred · p b)

/-- The guard P(p) XOR pn (R43, R45). -/
def guardOk (s : State) (g : Guard) : Bool := rp s g.p != g.pn

/-- The predicates as a 16-bit value, p0 in bit 0 (R44, PMOV 1). -/
def predsValue (st : Stream) : Word := ((st.preds ||| 1).setWidth 64)

/-! ### Mask pairs and gains (R21, R22, R23) -/

/-- The row mask of a pair; k0 reads as all ones. -/
def rowMask (j : Job) (k : BitVec 3) : BitVec 16 := if k = 0 then 0xFFFF else j.rowMasks[k.toNat]

def colMask (j : Job) (k : BitVec 3) : BitVec 64 :=
  if k = 0 then 0xFFFFFFFFFFFFFFFF else j.colMasks[k.toNat]

def setRowMask (j : Job) (k : BitVec 3) (v : BitVec 16) : Job :=
  if k = 0 then j else { j with rowMasks := j.rowMasks.set k.toNat v }

def setColMask (j : Job) (k : BitVec 3) (v : BitVec 64) : Job :=
  if k = 0 then j else { j with colMasks := j.colMasks.set k.toNat v }

/-- Gain(j): g0 reads as 1.0. -/
def gainOf (gs : Vector (BitVec 32) 64) (g : Nat) : BitVec 32 :=
  if g = 0 then fp32One else gs.getD g fp32One

/-- The top of the lane-mask stack. -/
def maskTop (j : Job) : BitVec 64 := j.maskStack.headD 0xFFFFFFFFFFFFFFFF

/-! ### CSR fields used in many places -/

/-- TRCAUSE.ACTIVE (R425). -/
def trapActive (st : Stream) : Bool := bitOf st.trap.cause 9

/-- CTL.DET (R88). -/
def detMode (j : Job) : Bool := bitOf j.ctl 4

/-- Whether a stream is one of a resident job that runs. -/
def live (s : State) (h : Hart) : Bool :=
  match Tab.get? s.jobs (jobKey h) with
  | some j => j.phase == .running
  | none => false

/-! ### Jobs of a core -/

/-- RES and MARK of a row's tag (R18). -/
def Row.res (r : Row) : Bool := r.tag.getLsbD 13
def Row.mark (r : Row) : Bool := r.tag.getLsbD 11

/-- Resident rows of a job. -/
def residentRows (j : Job) : Nat := (j.rows.filter fun e => e.2.res).length

/-- Ordinary rows of a job (R16). -/
def ordinaryRows (j : Job) : Nat := (j.rows.filter fun e => e.2.res && !e.2.mark).length

/-- The jobs resident on a core, by slot. -/
def jobsOfCore (s : State) (core : Nat) : List (Nat × Job) :=
  (List.range Config.slotsPerCore).filterMap fun k =>
    (Tab.get? s.jobs (slotKey core k)).map fun j => (k, j)

/-- REQ of PREREQ (R366). -/
def requested (j : Job) : Bool := bitOf j.prereq 0

end Sys2Proof.Machine
end

