-- ==== Sys2Proof/Machine/Observe.lean ====
section
/-! DEFINITION. What the device writes down about the instructions it runs: trace records (R469–R471),
stall counters (R473), monitors (R475), snapshot triggers (R476), breakpoints (R467). Nothing here changes a
value a program reads. -/

namespace Sys2Proof.Machine

def modDebug (s : State) (p : Nat) (f : Debug → Debug) : State :=
  modPart s p fun x => { x with dbgState := f x.dbgState }

def getDebug (s : State) (p : Nat) : Debug := (getPart s p).dbgState

def isSealed (s : State) (p : Nat) : Bool := (getPart s p).state == .sealed

/-! ### Trace -/

/-- TRCFG control bit 0 (R471). -/
def traceOn (s : State) (p : Nat) : Bool := bitOf (getDebug s p).traceCtl 0

/-- The bytes of trace SRAM that each tracing cluster has (R471). -/
def traceCapacity (s : State) : Nat :=
  33554432 / max 1 ((s.clusterOwner.filter fun e => traceOn s e.2).length)

/-- The TS code and the bytes of a time delta below 2^32 (R469). -/
def timeDelta (d : Nat) : Nat × List Byte :=
  if d = 0 then (0, [])
  else if d < 256 then (1, leBytes 1 d)
  else if d < 65536 then (2, leBytes 2 d)
  else (3, leBytes 4 d)

/-- A device error counter advances (R457). -/
def bumpErr (s : State) (n : Nat) : State :=
  { s with errs := { s.errs with counts := s.errs.counts.setIfInBounds n (satInc (s.errs.counts.getD n 0)) } }

/-- The header byte of a record (R469). -/
def traceHeader (port : Nat) (off : Bool) (pcs ts : Nat) : Byte := BitVec.ofNat 8 (port + b2n off * 8 + pcs * 16 + ts * 64)

/-- The PCS code and bytes of a PC, against the sequential PC of its stream (R469). -/
def pcDelta (seq : Option Word) (pc : Word) : Nat × List Byte :=
  match seq with
  | none => (3, leBytes 8 pc.toNat)
  | some q =>
    let d := (pc - q).toInt
    if d = 0 then (0, [])
    else if d % 4 != 0 then (3, leBytes 8 pc.toNat)
    else if -128 ≤ d / 4 ∧ d / 4 ≤ 127 then (1, leBytes 1 ((d / 4) % 256).toNat)
    else if -32768 ≤ d / 4 ∧ d / 4 ≤ 32767 then (2, leBytes 2 ((d / 4) % 65536).toNat)
    else (3, leBytes 8 pc.toNat)

/-- The port an instruction of a stream is issued at (R12). -/
def portOf (t : Strm) (parcels : Nat) : Nat :=
  match t, parcels with
  | .l, 6 => 1
  | .l, _ => 0
  | .c, 3 => 3
  | .c, 6 => 4
  | .c, _ => 2
  | .s, 6 => 6
  | .s, _ => 5

/-- A core with the records it has made so far. -/
abbrev Traced := Core × List (List Byte)

/-- A marker of type `t` (R470): header with PORT 7 and OFF 1, time delta, type byte, payload. -/
def putMarker (x : Traced) (t : Nat) (payload : List Byte) : Traced :=
  let d := timeDelta (min (x.1.cycle - x.1.traceCycle) 0xFFFFFFFF)
  ({ x.1 with traceCycle := x.1.cycle },
    x.2 ++ [(traceHeader 7 true 0 d.1 :: d.2) ++ (BitVec.ofNat 8 t :: payload)])

/-- A time marker: TIME and CYCLE (R470). -/
def putTime (time : Nat) (x : Traced) : Traced := putMarker x 4 (leBytes 8 time ++ leBytes 8 x.1.cycle)

/-- A delta of 2^32 or more is preceded by a time marker (R469). -/
def nearTime (time : Nat) (x : Traced) : Traced :=
  if 2 ^ 32 ≤ x.1.cycle - x.1.traceCycle then putTime time x else x

/-- The records of one item (R469, R470): a lost marker where `lost` records have been dropped, a job and a time
marker where its job is not that of the last one, and the record. -/
def traceRecords (time lost : Nat) (c : Core) (i : TraceItem) : Traced :=
  let x : Traced := (c, [])
  let x := if 0 < lost then putMarker (nearTime time x) 3 (leBytes 4 lost) else x
  let x :=
    if x.1.traceJob = some i.jobid then x
    else
      let y := putMarker (nearTime time x) 0 (leBytes 1 i.slot ++ leBytes 8 i.jobid)
      putTime time ({ y.1 with traceJob := some i.jobid, traceSeq := .replicate 3 none }, y.2)
  let x := nearTime time x
  match i.kind with
  | .marker t payload => putMarker x t payload
  | .instr off pc parcels =>
    let d := timeDelta (x.1.cycle - x.1.traceCycle)
    let q := pcDelta (x.1.traceSeq.getD (strmIdx i.strm) none) pc
    ({ x.1 with
        traceCycle := x.1.cycle
        traceSeq := x.1.traceSeq.setIfInBounds (strmIdx i.strm) (some (pc + BitVec.ofNat 64 (4 * parcels))) },
      x.2 ++ [(traceHeader i.port off q.1 d.1 :: d.2) ++ q.2])

/-- A record is dropped and counted (R457, R471). -/
def dropTrace (s : State) (p cluster : Nat) : State :=
  modCluster (modDebug (bumpErr s 7) p fun d => { d with traceLost := satInc d.traceLost }) cluster fun c =>
    { c with traceUnmarked := c.traceUnmarked + 1 }

/-- One item of a core enters its cluster's buffer, with the markers it needs, or is dropped where they do not fit
(R471). -/
def tracePut (s : State) (core : Nat) (i : TraceItem) : State :=
  let n := clusterOf core
  let cl := getCluster s n
  let r := traceRecords s.time cl.traceUnmarked (getCore s core) i
  if cl.trace.flatten.length + r.2.flatten.length ≤ traceCapacity s then
    modCluster (modCore s core fun _ => r.1) n fun c => { c with trace := c.trace ++ r.2, traceUnmarked := 0 }
  else dropTrace s i.part n

/-- An item after those of its port and of lower ports. -/
def insertItem (i : TraceItem) : List TraceItem → List TraceItem
  | [] => [i]
  | x :: xs => if x.port ≤ i.port then x :: insertItem i xs else i :: x :: xs

/-- An item of the present cycle, in ascending port order (R469). -/
def traceItem (s : State) (core : Nat) (i : TraceItem) : State :=
  modCore s core fun c => { c with tracePend := insertItem i c.tracePend }

/-- A cycle of a core ends: its records are made. [DEDUCED, log 96] -/
def flushTrace (s : State) (core : Nat) : State :=
  match (getCore s core).tracePend with
  | [] => s
  | l => l.foldl (fun s i => tracePut s core i) (modCore s core fun c => { c with tracePend := [] })

/-- A record of a cluster's trace SRAM is lost to an uncorrectable error (R456). [DEDUCED, log 96] -/
def loseRecord (s : State) (cluster n : Nat) : State :=
  match Tab.get? s.clusterOwner cluster with
  | some p =>
    if n < (getCluster s cluster).trace.length then
      dropTrace (modCluster s cluster fun c => { c with trace := c.trace.eraseIdx n }) p cluster
    else s
  | none => s

/-- The instruction record of one issued instruction (R469). -/
def traceInstr (s : State) (h : Hart) (port : Nat) (off : Bool) (pc : Word) (parcels : Nat) : State :=
  let j := getJob s (jobKey h)
  let p := j.ids.part
  if traceOn s p && bitOf (getDebug s p).traceCtl (2 + port) then
    traceItem s h.core ⟨port, h.strm, h.slot, j.ids.jobid, p, .instr off pc parcels⟩
  else s

/-- A marker of a job's own: a value marker or a trap entry (R470). -/
def traceMarker (s : State) (h : Hart) (t : Nat) (payload : List Byte) : State :=
  let j := getJob s (jobKey h)
  let p := j.ids.part
  if traceOn s p then
    traceItem s h.core ⟨portOf h.strm 1, h.strm, h.slot, j.ids.jobid, p, .marker t payload⟩
  else s

/-! ### Monitors and stalls -/

/-- The bin a sample falls in (R475). -/
def monitorBin (v : Nat) : Nat := if v < 2 then 0 else min 15 (Nat.log2 v)

/-- One monitor takes a sample. -/
def Monitor.sample (m : Monitor) (v : Nat) : Monitor :=
  let w := BitVec.ofNat 64 v
  { m with
    count := satInc m.count
    min := if w.toNat < m.min.toNat then w else m.min
    max := if m.max.toNat < w.toNat then w else m.max
    bins := m.bins.setIfInBounds (monitorBin v) (satInc (m.bins.getD (monitorBin v) 0)) }

/-- Every enabled monitor of a partition with this source and selection takes the sample (R475). -/
def sample (s : State) (p src sel v : Nat) : State :=
  if (getDebug s p).monitors.any fun m =>
      bitOf m.cfg 0 && bitsOf m.cfg 1 7 == src && (bitsOf m.cfg 8 7 == sel || 2 ≤ src) then
    modDebug s p fun d =>
      { d with monitors := d.monitors.map fun m =>
          if bitOf m.cfg 0 && bitsOf m.cfg 1 7 == src && (bitsOf m.cfg 8 7 == sel || 2 ≤ src) then
            m.sample v
          else m }
  else s

/-- Add cycles to a saturating counter. -/
def satAdd (w : Word) (n : Nat) : Word := BitVec.ofNat 64 (min (w.toNat + n) (2 ^ 64 - 1))

/-- The stall class of a wait, and its object (R473). [DEDUCED, log 78] -/
def WaitKind.stallClass : WaitKind → Nat × Option Nat
  | .queue c => (1, some (2048 + c))
  | .queues c _ => (1, some (2048 + c))
  | .retry c => (1, some (2048 + c))
  | .value _ _ o => (1, some o)
  | .other (some o) => (1, some o)
  | .other none => (2, none)
  | .host _ => (2, none)
  | .fetch _ => (3, none)

/-- Whether a stream is blocked in class 1 of R473, waiting on a flag. -/
def onFlag (w : Option Wait) : Bool := w.any fun w => w.kind.stallClass.1 == 1

/-- The object of a rendezvous (R473, R142). -/
def rendezvousObject : Nat := 2064

/-- The class of a stream: ended, at a rendezvous, blocked, held still by a stop, or issuing.
[DEDUCED, log 78] -/
def streamClass (halted : Bool) (st : Stream) : Nat × Option Nat :=
  match st.stand with
  | some .ended => (3, none)
  | some _ => (1, some rendezvousObject)
  | none =>
    match st.wait with
    | some w => w.kind.stallClass
    | none => if halted && !st.stepping then (3, none) else (0, none)

/-- The length of a wait on a flag that ends is a sample of SRC 2 (R475). -/
def sampleFlag (s : State) (h : Hart) : State :=
  let st := getStream s h
  if onFlag st.wait then sample s (getJob s (jobKey h)).ids.part 2 0 (cycleOf s h.core - st.flagSince) else s

/-- A stream that stands at END has ended, and waits on nothing (R473). -/
def sampleWait (s : State) (h : Hart) : State :=
  if (getStream s h).stand = some .ended then s else sampleFlag s h

/-- The waits of a job's streams end. -/
def sampleJobWaits (s : State) (core slot : Nat) : State := (hartsOf core slot).foldl sampleWait s

/-- Count `n` cycles of one stream (R473). -/
def stallCount (s : State) (p : Nat) (halted : Bool) (st : Stream) (n : Nat) : State :=
  let (c, o) := streamClass halted st
  modDebug s p fun d =>
    { d with
      stalls := d.stalls.setIfInBounds c (satAdd (d.stalls.getD c 0) n)
      stallObjs := if c = 1 then
          match o with
          | some k => Tab.upd d.stallObjs k 0 (satAdd · n)
          | none => d.stallObjs
        else d.stallObjs }

/-- The lengths of the fourteen queues, in QCODE order (R142). -/
def queueLengths (q : Queues) : List Nat :=
  (q.q.toList.map List.length) ++ (q.sq.toList.map List.length) ++ (q.b.toList.map List.length)

/-- Sample the occupancy of every queue that changed (R475, SRC 1). -/
def sampleQueues (s : State) (p : Nat) (before after : Queues) : State :=
  ((queueLengths before).zip (queueLengths after)).zipIdx.foldl
    (fun s e => if e.1.1 = e.1.2 then s else sample s p 1 e.2 e.1.2) s

/-! ### Snapshots and breakpoints -/

/-- Fire snapshot trigger `t` of a partition from `source`: 0 SNAP, 1 breakpoint, 2 host (R476). -/
def fireTrigger (s : State) (p t source : Nat) : State :=
  if bitOf (getDebug s p).snapMask t then
    modDebug s p fun d =>
      match d.snapFired with
      | some _ => { d with snapDropped := d.snapDropped + 1 }
      | none => { d with snapFired := some (t, source, s.time) }
  else s

/-- The item counts of the seventeen sequences a breakpoint may name (R467): three streams, then the
queues in QCODE order. -/
def sequenceCount (s : State) (h : Hart) (j : Job) (seq : Nat) : Nat :=
  if seq < 3 then (getStream s ⟨h.core, h.slot, strmOf seq⟩).pos else j.queues.pushed.getD (seq - 3) 0

/-- The enabled breakpoints that the step from `s` to `s'` of `h`'s job would run over, lowest number
first: register number and register (R467). -/
def breakpointHits (s s' : State) (h : Hart) : List (Nat × Word) :=
  let j := getJob s (jobKey h)
  let j' := getJob s' (jobKey h)
  let d := getDebug s j.ids.part
  (d.bps.toList.zipIdx.filter fun e =>
    bitOf e.1 0 && bitsOf e.1 12 13 == j.ids.launch
      && bitsOf (d.bpRecords.getD e.2 0) 0 32 == j.ids.record
      && (let seq := bitsOf e.1 3 5
          let pos := bitsOf e.1 32 32
          sequenceCount s h j seq ≤ pos && pos < sequenceCount s' h j' seq)).map fun e => (e.2, e.1)

/-- Clear EN of breakpoint `n` (R467). -/
def clearBreakpoint (s : State) (p n : Nat) : State :=
  modDebug s p fun d => { d with bps := d.bps.setIfInBounds n (d.bps.getD n 0 &&& ~~~1#64) }

/-- Ask for a stop of a partition: reason and tag (R466). -/
def requestStop (s : State) (p reason tag : Nat) : State :=
  modDebug s p fun d =>
    match d.stop with
    | some _ => d
    | none => { d with stop := some (reason, tag), stopDone := false }

/-- Whether a partition is stopped or stopping. -/
def stopped (s : State) (p : Nat) : Bool := (getDebug s p).stop.isSome

end Sys2Proof.Machine
end

