-- ==== Sys2Proof/Machine/Ops.lean ====
section
/-! DEFINITION. The operations every instruction shares: how one instruction issues, is false, completes,
branches, blocks or traps (R41, R42, R61, R78, R80, R427), and the pushes and pops of the job's queues
(R27, R138, R161). -/

namespace Sys2Proof.Machine

/-! ### Causes and fault records -/

/-- The code of a cause (R426). -/
def Cause.code : Cause → Nat
  | .illegal => 0x01
  | .format => 0x02
  | .bankGroup => 0x03
  | .bankConflict => 0x04
  | .overlap => 0x05
  | .fwdWait => 0x06
  | .tokStale => 0x07
  | .xlate => 0x08
  | .perm => 0x09
  | .align => 0x0A
  | .sealedRange => 0x0B
  | .recipe => 0x0C
  | .version => 0x0D
  | .async => 0x0E
  | .poison => 0x0F
  | .preempt => 0x10
  | .swTrap => 0x11
  | .brk => 0x12
  | .priv => 0x13
  | .queue => 0x14
  | .launch => 0x15
  | .accOwn => 0x16
  | .rows => 0x17
  | .link => 0x18
  | .thermal => 0x19

/-- The first `n` elements of a list of numbers, continued with zeros. -/
def padTo (n : Nat) (l : List Nat) : List Nat := (l ++ List.replicate n 0).take n

/-- The 128 bytes of a fault record (R163). -/
def faultRecord (cause strm flags token : Nat) (pc addr : Word) (jobid name region : Nat)
    (words regs : List Nat) : List Byte :=
  leBytes 1 cause ++ leBytes 1 strm ++ leBytes 2 flags ++ leBytes 4 token ++ leBytes 8 pc.toNat
    ++ leBytes 8 addr.toNat ++ leBytes 8 jobid ++ leBytes 4 name ++ leBytes 4 region
    ++ (padTo 6 words).flatMap (leBytes 4) ++ (padTo 8 regs).flatMap (leBytes 8)

/-- Append a record to a partition's fault queue. -/
def queueFault (s : State) (p : Nat) (record : List Byte) : State :=
  modPart s p fun x => { x with faults := x.faults ++ [record] }

/-! ### Taking a trap (R427) -/

/-- What a trap carries into the trap registers. -/
structure TrapInfo where
  cause : Cause
  pc : Word
  words : List Nat
  addr : Word
  token : Word
  defer : Bool := false
  skip : Bool := false
  deriving DecidableEq, Repr

/-- A trap abort begins (R428): the job stops and drains, and keeps the fault record of its first cause. -/
def abortJob (s : State) (h : Hart) (t : TrapInfo) : State :=
  let s := if (getJob s (jobKey h)).phase = .running then sampleJobWaits s h.core h.slot else s
  modJob s (jobKey h) fun j =>
    let rec_ := faultRecord t.cause.code (strmIdx h.strm) 0 t.token.toNat t.pc t.addr j.ids.jobid 0
      j.rgnid.toNat t.words []
    if j.phase = .running then { j with phase := .aborting (cycleOf s h.core) rec_ } else j

/-- An uncorrectable error of its registers, predicates, queues or tables ends a job (R456). -/
def spoil (s : State) (core slot : Nat) : State :=
  let h : Hart := ⟨core, slot, .l⟩
  abortJob s h { cause := .poison, pc := (getStream s h).pc, words := [], addr := 0, token := 0 }

/-- The value of TRCAUSE at entry (R427). -/
def causeWord (t : TrapInfo) : Word :=
  BitVec.ofNat 64 (t.cause.code + b2n t.defer * 2 ^ 8 + 2 ^ 9 + b2n t.skip * 2 ^ 10)

/-- The six TRWORD registers (R426): parcels beyond the instruction's read zero. -/
def trapWords (l : List Nat) : Vector Word 6 :=
  Vector.ofFn fun i : Fin 6 => BitVec.ofNat 64 (l.getD i.val 0)

/-- The stream at its handler (R427). -/
def enterHandler (st : Stream) (t : TrapInfo) : Stream :=
  { st with
    returnPoint := st.pc
    trap := { cause := causeWord t, pc := t.pc, words := trapWords t.words, addr := t.addr,
              token := t.token, vec := st.trap.vec }
    pc := st.trap.vec
    wait := none
    stand := none
    arrived := none
    arming := false }

/-- Trap entry (R427): abort where the handler is active or absent, else enter the handler. -/
def takeTrap (s : State) (h : Hart) (t : TrapInfo) : State :=
  let st := getStream s h
  if trapActive st || st.trap.vec == 0 then abortJob s h t
  else modStream (sampleWait (traceMarker s h 2 [BitVec.ofNat 8 (strmIdx h.strm), BitVec.ofNat 8 t.cause.code]) h) h
    (enterHandler · t)

/-! ### Where a stream goes next (R78, R80, R429) -/

/-- The stage predicates of a kernel iteration (R78): p(sp + s) is true when 0 ≤ j − s < n. -/
def stagePreds (l : LoopState) (j : Nat) (ps : BitVec 16) : BitVec 16 :=
  if l.stages ≤ 1 && l.sp == 0 then ps
  else (List.range l.stages).foldl
    (fun ps s => setPredBit ps (l.sp + s) (decide (s ≤ j) && decide (j - s < l.trips))) ps

/-- Every stage predicate false. -/
def clearStages (l : LoopState) (ps : BitVec 16) : BitVec 16 :=
  if l.stages ≤ 1 && l.sp == 0 then ps
  else (List.range l.stages).foldl (fun ps s => setPredBit ps (l.sp + s) false) ps

/-- K of R77. -/
def kernels (l : LoopState) : Nat := if l.trips = 0 then 0 else l.trips + l.stages - 1

/-- The end of one or more loops reached at `pc` (R78): continue at start, or leave the loop. Loops that
are suspended while the handler is active (R429) are left alone. [DEDUCED, log 18] -/
def loopEnd (active : Bool) : List LoopState → Word → BitVec 16 → List LoopState × Word × BitVec 16
  | [], pc, ps => ([], pc, ps)
  | l :: ls, pc, ps =>
    if active && !l.inHandler then (l :: ls, pc, ps)
    else if pc == l.stop then
      if l.j + 1 < kernels l then
        ({ l with j := l.j + 1 } :: ls, l.start, stagePreds l (l.j + 1) ps)
      else loopEnd active ls pc (clearStages l ps)
    else (l :: ls, pc, ps)

/-- The stream continues in sequence at `pc` (R39, R78). -/
def seqTo (st : Stream) (pc : Word) : Stream :=
  let r := loopEnd (trapActive st) st.loops pc st.preds
  { st with loops := r.1, pc := r.2.1, preds := r.2.2 }

/-- The loops a branch to `t` leaves active (R80, R429). [DEDUCED, log 18] -/
def loopsAfterJump (active : Bool) : List LoopState → Word → List LoopState
  | [], _ => []
  | l :: ls, t =>
    if active && !l.inHandler then l :: ls
    else if l.start ≤ t && t < l.stop then l :: ls
    else loopsAfterJump active ls t

/-- The stream branches to `t`. -/
def jumpTo (st : Stream) (t : Word) : Stream :=
  { st with loops := loopsAfterJump (trapActive st) st.loops t, pc := t }

/-- Whether the bytes of an instruction of `len` bytes at the stream's PC cross the end of an active
LOOP (R80). [DESIGN CHOICE, log 132] -/
def crossesEnd (st : Stream) (len : Nat) : Bool :=
  st.loops.any fun l =>
    !(trapActive st && !l.inHandler) && decide (st.pc < l.stop)
      && decide (l.stop.toNat < st.pc.toNat + len)

/-! ### Issue -/

/-- Why an instruction has no effect now. -/
inductive Stop where
  /-- it takes a precise trap with this TRADDR and TRTOKEN -/
  | trap (c : Cause) (addr token : Word)
  /-- it takes this trap -/
  | trapAs (t : TrapInfo)
  /-- it has done a first part, which leaves this state, and takes a precise trap -/
  | trapIn (s : State) (c : Cause) (addr token : Word)
  /-- it is blocked (R28) -/
  | wait (k : WaitKind)
  deriving DecidableEq, Repr

/-- What an instruction that issues does. -/
inductive Effect where
  /-- it completes and the stream continues in sequence -/
  | next (s : State)
  /-- it completes and the stream branches -/
  | jump (s : State) (target : Word)
  /-- it has done a first part and is blocked in the second -/
  | stay (s : State) (k : WaitKind)
  /-- it has entered its sequence with a first part and is blocked in the second -/
  | enter (s : State) (k : WaitKind)
  /-- it completes after it has entered -/
  | finish (s : State)
  /-- it has done a first part and takes this trap -/
  | trapTo (s : State) (t : TrapInfo)
  /-- it has recorded the instruction and moved the streams itself; `after` follows where no breakpoint
  stands in between -/
  | done (s : State) (after : State → State := id)

/-- Checks and effects of an instruction. -/
abbrev Exec := Except Stop

/-- A check of R42: where it fails, a trap with TRADDR. -/
def check (b : Bool) (c : Cause) (addr : Word := 0) (token : Word := 0) : Exec Unit :=
  if b then .ok () else .error (.trap c addr token)

/-- A wait of R28. -/
def waitFor (b : Bool) (k : WaitKind) : Exec Unit := if b then .ok () else .error (.wait k)

/-- A precise trap of the instruction `i` at the PC of the executing stream (R424). -/
def trapOf (s : State) (i : Instr) (c : Cause) (addr token : Word) (skip : Bool := false) : TrapInfo :=
  { cause := c, pc := (curStream s).pc, words := encode i, addr := addr, token := token, skip := skip }

def trapNow (s : State) (i : Instr) (c : Cause) (addr token : Word) : State :=
  takeTrap s s.cur (trapOf s i c addr token)

/-- The stream is blocked; the count of R28 runs from the first cycle, the length of a wait on a flag from where it
became one (R475). -/
def block (s : State) (h : Hart) (k : WaitKind) : State :=
  let flag := k.stallClass.1 == 1
  modStream (if flag then s else sampleWait s h) h fun st =>
    { st with
      wait := some ⟨(st.wait.map Wait.since).getD (cycleOf s h.core), k⟩
      flagSince := if flag && !onFlag st.wait then cycleOf s h.core else st.flagSince }

/-- An instruction of stream `h` has issued: it counts as a position (R465). [DEDUCED, log 17] -/
def countIssue (st : Stream) : Stream := { st with pos := st.pos + 1, wait := none }

/-- After a step of DBG (R466): the stream stops again and a new stop record is due. [DEDUCED, log 17] -/
def endStep (s : State) (h : Hart) : State :=
  if (getStream s h).stepping then
    modDebug (modStream s h fun st => { st with stepping := false })
      (getJob s (jobKey h)).ids.part fun d => { d with stop := some (0, 0), stopDone := false }
  else s

/-- Fire the snapshot triggers of breakpoints with ACT 2 (R467). -/
def fireHits (s : State) (p : Nat) (hits : List (Nat × Word)) : State :=
  hits.foldl (fun s e => fireTrigger (clearBreakpoint s p e.1) p (bitsOf e.2 8 4) 1) s

/-- The instruction at which a stream stands (R81). -/
def rendInstr : Rendezvous → Instr
  | .rdv => .rdv
  | .yield g => .yield_ g
  | .rgn n => .rgn n
  | .ended => .end_

/-- The stream that a breakpoint on a sequence traps (R467): the stream itself, or the pusher. -/
def hitStream (s : State) (seq : Nat) : Hart := if seq < 3 then { s.cur with strm := strmOf seq } else s.cur

/-- BREAK of breakpoint `n` (R467), at the instruction `i` of the executing stream or at the rendezvous at
which another stream stands. [DEDUCED, log 17] -/
def breakAt (s : State) (i : Instr) (n : Nat) (w : Word) : State :=
  let h := hitStream s (bitsOf w 3 5)
  let st := getStream s h
  let i := if h = s.cur then i else (st.stand.map rendInstr).getD i
  takeTrap s h { cause := .brk, pc := st.pc, words := encode i, addr := BitVec.ofNat 64 (2 ^ 32 + n), token := 0 }

/-- The step from `s` to `s'` by instruction `i` of the executing stream, and on by `k`, unless a
breakpoint of these stands in between (R467). -/
def overBreaks (i : Instr) (hits : List (Nat × Word)) (s s' : State) (k : State → State) : State :=
  let p := curPart s
  match hits.find? fun e => bitsOf e.2 1 2 != 2 with
  | some (n, w) =>
    if bitsOf w 1 2 = 0 then requestStop (clearBreakpoint s p n) p 1 n
    else breakAt (clearBreakpoint s p n) i n w
  | none => k (fireHits s' p hits)

/-- What follows an instruction that completes: the queues are sampled, and a step of DBG ends. -/
def endInstr (s s' : State) : State :=
  endStep (sampleQueues s' (curPart s) (curJob s).queues (curJob s').queues) s.cur

/-- The step from `s` to `s'` by an instruction that completes, and on by `k`, unless a breakpoint stands in
between. -/
def settleThen (i : Instr) (s s' : State) (k : State → State) : State :=
  overBreaks i (breakpointHits s s' s.cur) s s' fun s' => k (endInstr s s')

def settle (i : Instr) (s s' : State) : State := settleThen i s s' id

/-- The state after an instruction that completes in sequence, from the state its effect leaves. -/
def advance (s : State) (i : Instr) : State :=
  modCurStream (sampleWait s s.cur) fun st =>
    seqTo (countIssue st) (st.pc + BitVec.ofNat 64 i.size)

/-- The state after an instruction that completes and branches to `t`. -/
def branchTo (s : State) (t : Word) : State :=
  modCurStream (sampleWait s s.cur) fun st => jumpTo (countIssue st) t

/-- The trace record of the instruction that issues (R469). -/
def record (s : State) (i : Instr) (off : Bool) : State :=
  traceInstr s s.cur (portOf s.cur.strm i.parcels) off (curStream s).pc i.parcels

/-- The guard, if there is one, holds (R43, R45). -/
def guardHolds (s : State) : Option Guard → Bool
  | some g => guardOk s g
  | none => true

/-- What becomes of the instruction `i`, issued in the state `s`, by what its body answers. -/
def outcome (i : Instr) (s : State) : Exec Effect → Result
  | .ok (.next s') => .next (settle i s (advance (record s' i false) i))
  | .ok (.jump s' t) => .next (settle i s (branchTo (record s' i false) t))
  | .ok (.done s' k) => .next (settleThen i s s' k)
  | .ok (.stay s' k) => .next (block s' s.cur k)
  -- the item enters with the first part; a breakpoint fires before it (R467)
  | .ok (.enter s' k) =>
    .next (overBreaks i (breakpointHits s (modCurStream s countIssue) s.cur) s s' fun s' => block s' s.cur k)
  | .ok (.finish s') => .next (endInstr s (advance (record s' i false) i))
  | .ok (.trapTo s' t) => .next (takeTrap s' s.cur t)
  | .error (.wait k) => .next (block s s.cur k)
  | .error (.trap c a t) => .next (trapNow s i c a t)
  | .error (.trapAs t) => .next (takeTrap s s.cur t)
  | .error (.trapIn s' c a t) => .next (trapNow s' i c a t)

/-- Issue `i` in the executing stream (R42): the streams that may issue it, its guard, whether it lacks
a privilege, and what it does. [DESIGN CHOICE, log 132] -/
def issue (i : Instr) (strms : List Strm) (guard : Option Guard) (lacks : State → Bool)
    (body : State → Exec Effect) (s : State) : Result :=
  if !strms.contains s.cur.strm || crossesEnd (curStream s) i.size then
    .next (trapNow s i .illegal 0 0)
  else if lacks s then .next (trapNow s i .priv 0 0)
  else if !guardHolds s guard then .next (settle i s (advance (record s i true) i))
  else outcome i s (body s)

/-- No privilege is asked for. -/
def free : State → Bool := fun _ => false

/-- Issue of an instruction that always completes in sequence. -/
def simple (i : Instr) (guard : Option Guard) (f : State → State) (s : State) : Result :=
  issue i allStrms guard free (fun s => .ok (.next (f s))) s

/-! ### Queues (R27, R28, R138, R161) -/

/-- An operation's name in a seen set: slot and sequence number. -/
def tokKey (slot seq : Nat) : Nat := slot * 2 ^ 24 + seq

/-- The operations of a job that a stream has seen complete, or learned of from another: those its
queue entries pass on. The bit it has only for having pushed the operation is not passed on (R161 read
with R170, whose unnamed case requires OVERLAP). -/
def seenBy (s : State) (h : Hart) (jobid : Nat) : NatSet :=
  (getCore s h.core).tokens.filterMap fun e =>
    if e.2.holder == some jobid && e.2.learned.getLsbD (strmIdx h.strm) then some (tokKey e.1 e.2.seq) else none

/-- The accumulators that an operation owns (R26). -/
def accsOwned (j : Job) (slot seq : Nat) : List Nat :=
  (List.range 8).filter fun a => (j.accs.getD a .start).owner == some (slot, seq)

/-- OWNACC of R153: the entry owns an accumulator whose commit point has not passed. -/
def ownsAcc (s : State) (slot : Nat) (e : TokenEntry) : Bool :=
  match e.holder.bind (residentJob s) with
  | some j => !(accsOwned j slot e.seq).isEmpty
  | none => false

/-- Release in deterministic mode the DONE entries that every stream has seen (R158). -/
def sweepSeen (s : State) (core jobid : Nat) : State :=
  match residentJob s jobid with
  | some j =>
    if detMode j then
      modCore s core fun c =>
        { c with tokens := c.tokens.filter fun e =>
            !(e.2.holder == some jobid && e.2.state == .done && e.2.seen == 7 && !ownsAcc s e.1 e.2) }
    else s
  | none => s

/-- Set the seen bit of a stream on the operations of a set (R161). -/
def markSeen (s : State) (h : Hart) (jobid : Nat) (ks : NatSet) : State :=
  if ks.isEmpty then s
  else (sweepSeen · h.core jobid) <| modCore s h.core fun c =>
    { c with tokens := c.tokens.map fun e =>
        if e.2.holder == some jobid && ks.contains (tokKey e.1 e.2.seq) then
          let b : BitVec 3 := 1#3 <<< strmIdx h.strm
          (e.1, { e.2 with seen := e.2.seen ||| b, learned := e.2.learned ||| b })
        else e }

/-- Depth of each queue (R27), in QCODE order. -/
def queueDepth (code : Nat) : Nat := if code < 8 then 8 else if code < 12 then 16 else 32

def queueLength (q : Queues) (code : Nat) : Nat := (queueLengths q).getD code 0

/-- Entries `n` more of queue `code` are counted, and what the pushing stream has seen. -/
def countPush (q : Queues) (code n : Nat) (seen : NatSet) : Queues :=
  { q with
    pushed := q.pushed.setIfInBounds code (q.pushed.getD code 0 + n)
    seenQ := q.seenQ.setIfInBounds code (q.seenQ.getD code [] ++ List.replicate n seen) }

def dropSeen (q : Queues) (code n : Nat) : Queues :=
  { q with seenQ := q.seenQ.setIfInBounds code ((q.seenQ.getD code []).drop n) }

def seenHead (q : Queues) (code n : Nat) : NatSet :=
  ((q.seenQ.getD code []).take n).foldl (fun a b => b.foldl NatSet.add a) []

/-- A stream that waits on a queue must try again: the job's queues have changed. -/
def retryWait (st : Stream) : Stream :=
  match st.wait with
  | some ⟨n, .queue c⟩ => if c < 14 then { st with wait := some ⟨n, .retry c⟩ } else st
  | some ⟨n, .queues c _⟩ => { st with wait := some ⟨n, .retry c⟩ }
  | _ => st

def retryWaits (s : State) : State :=
  (hartsOf s.cur.core s.cur.slot).foldl (fun s h => if h = s.cur then s else modStream s h retryWait) s

/-- Change the executing job's queues. -/
def modQueues (s : State) (f : Queues → Queues) : State :=
  modCurJob (retryWaits s) fun j => { j with queues := f j.queues }

/-- What the executing stream has seen (R161). -/
def curSeen (s : State) : NatSet := seenBy s s.cur (curJob s).ids.jobid

/-- Nothing that a stream reads from here on has been read ahead of program order. -/
def orderReads (s : State) (h : Hart) : State :=
  if s.ms.early.isEmpty then s
  else modMs s fun m => { m with early := m.early.filter fun e => e.hart != h }

/-- The executing stream pops `n` entries of queue `code`: what their pushers had seen, it has seen, and none of
its later accesses is performed before (R138). -/
def passSeen (s : State) (code n : Nat) : State :=
  markSeen (orderReads s s.cur) s.cur (curJob s).ids.jobid (seenHead (curJob s).queues code n)

/-- Push rows into q0–q7. -/
def pushRows (s : State) (q : Nat) (rows : List QRow) : State :=
  let seen := curSeen s
  modQueues s fun qs =>
    countPush { qs with q := qs.q.setIfInBounds q (qs.q.getD q [] ++ rows) } q rows.length seen

/-- Remove `n` rows from q0–q7. -/
def popRows (s : State) (q n : Nat) : State :=
  modQueues (passSeen s q n) fun qs =>
    dropSeen { qs with q := qs.q.setIfInBounds q ((qs.q.getD q []).drop n) } q n

def pushScalar (s : State) (q : Nat) (v : Word) : State :=
  let seen := curSeen s
  modQueues s fun qs =>
    countPush { qs with sq := qs.sq.setIfInBounds q (qs.sq.getD q [] ++ [v]) } (8 + q) 1 seen

def popScalar (s : State) (q : Nat) : State :=
  modQueues (passSeen s (8 + q) 1) fun qs =>
    dropSeen { qs with sq := qs.sq.setIfInBounds q ((qs.sq.getD q []).drop 1) } (8 + q) 1

def pushBit (s : State) (q : Nat) (b : Bool) : State :=
  let seen := curSeen s
  modQueues s fun qs =>
    countPush { qs with b := qs.b.setIfInBounds q (qs.b.getD q [] ++ [b]) } (12 + q) 1 seen

def popBit (s : State) (q : Nat) : State :=
  modQueues (passSeen s (12 + q) 1) fun qs =>
    dropSeen { qs with b := qs.b.setIfInBounds q ((qs.b.getD q []).drop 1) } (12 + q) 1

end Sys2Proof.Machine
end

