-- ==== Sys2Proof/Machine/Mmu.lean ====
section
/-! DEFINITION. Translation (R387–R397): canonical addresses, the two-stage walk over PASID table and page
tables, cached translations, the check of physical addresses against ownership (R392), ATS and PRI (R395). -/

namespace Sys2Proof.Machine

/-- What an access asks of a page (R392). -/
inductive AccKind where
  | read | write | atomic | fetch
  deriving DecidableEq, Repr

def Leaf.allows (l : Leaf) : AccKind → Bool
  | .read => l.rd
  | .write => l.wr
  | .atomic => l.rd && l.wr
  | .fetch => l.ex

/-- A translation that fails: its cause (R393), and the stage (true stage 2) and level reached (R397). -/
structure XlFault where
  cause : Cause
  stage2 : Bool
  level : Nat
  deriving DecidableEq, Repr

/-- A translation that succeeds: physical address, intermediate address, effective type and CMP (R392). -/
structure Xl where
  pa : Nat
  ipa : Nat
  typ : BitVec 2
  cmp : Bool
  deriving DecidableEq, Repr

/-- First byte past the GDDR 7 units (R392). -/
def gddrEnd : Nat := Config.numUnits * 2 ^ 30

/-- Whether a physical address lies in a host window (R392). [DEDUCED, log 30] -/
def isHostPa (pa : Nat) : Bool := 0x400000000000 ≤ pa && pa < 0x800000000000

/-- The port of a host window address: PA[45:44]. [DEDUCED, log 30] -/
def hostPort (pa : Nat) : Nat := pa / 2 ^ 44 % 4

/-- Ports 2 and 3 are reached over PCIe, never cached (R93, R94). [DEDUCED, log 30] -/
def uncachedHost (pa : Nat) : Bool := isHostPa pa && 2 ≤ hostPort pa

/-- R392: whether the partition may reach this physical address. [DEDUCED, log 109] -/
def physOk (s : State) (p pa : Nat) : Bool :=
  if pa < gddrEnd then Tab.get? s.unitOwner (pa / 2 ^ 30) == some p
  else if isHostPa pa then Tab.get? s.ownOwner (312 + hostPort pa) == some p
  else 2 ^ 48 ≤ pa

/-- An eight-byte entry of a table, read at the LLC (R394). [DEDUCED, log 32] -/
def readEntry (s : State) (pa : Nat) : Nat := ofLe (Memory.bytes s.ms.mem pa 8)

/-- An entry as a walk reads it: one in a poisoned granule ends it with POISON (R458).
[DESIGN CHOICE, log 128] -/
def entryAt (s : State) (stage2 : Bool) (level pa : Nat) : Except XlFault Nat :=
  if NatSet.has s.ms.memPoison (pa / 8) then .error ⟨.poison, stage2, level⟩ else .ok (readEntry s pa)

/-- Bits [hi:lo] of an entry. -/
def eb (e lo len : Nat) : Nat := e / 2 ^ lo % 2 ^ len

/-- The index of a level (R389). -/
def levelIndex (a level : Nat) : Nat := a / 2 ^ (39 - 9 * level) % 512

/-- What an entry of a level is (R390): a further table, a leaf, or a translation fault. -/
inductive Entry where
  | table (pa : Nat)
  | leaf (l : Leaf)
  | bad
  deriving DecidableEq, Repr

/-- Read an entry as R390 lays it out; `a` is the input address and gives the page within a block. A
block's OA is taken at its size: its lower bits are not used. CONT set in a block of level 1 or 2, for which R390 names
no result, is a translation fault. [DEDUCED, log 26] -/
def parseEntry (stage2 : Bool) (level a e : Nat) : Entry :=
  let v := eb e 0 1
  let t := eb e 1 1
  let reserved := eb e 9 3 != 0 || eb e 63 1 != 0
  if v = 0 || reserved then .bad
  else if level < 3 && t = 1 then
    if eb e 2 7 = 0 then .table (eb e 12 36 * 4096) else .bad
  else if level = 0 then .bad
  else if level = 3 && t = 0 then .bad
  else if eb e 5 2 = 3 then .bad
  else if eb e 7 1 = 1 && (stage2 || eb e 5 2 != 0) then .bad
  else if level < 3 && eb e 8 1 = 1 then .bad
  else
    let size := 2 ^ (39 - 9 * level)
    let base := eb e 12 36 * 4096 / size * size
    .leaf { out := base + a % size / 4096 * 4096, rd := eb e 2 1 = 1, wr := eb e 3 1 = 1,
            ex := eb e 4 1 = 1, typ := BitVec.ofNat 2 (eb e 5 2), cmp := eb e 7 1 = 1, level := level,
            cont := level = 3 && eb e 8 1 = 1 }

/-- The entry by which an address inside a 64 KiB page translates (R391): one of the group's sixteen, read by
`entry` from its index, with the output page of the address; a free choice. [DEDUCED, log 27] -/
def groupEntry {ε : Type} (s : State) (a own : Nat) (entry : Nat → Except ε Nat) : Except ε Nat :=
  let i := a / 4096 % 16
  let k := Config.groupChoice s.fresh (a / 4096) % 16
  if k = i then .ok own
  else (entry (levelIndex a 3 / 16 * 16 + k)).map fun e =>
    -- without CONT in either there is no 64 KiB page
    if eb own 8 1 = 0 && eb e 8 1 = 0 then own
    else e - eb e 12 36 * 4096 + (eb e 12 36 / 16 * 16 + i) * 4096

/-- The entry of a level as it is used: the one read, or at level 3 one of its group. [DEDUCED, log 27] -/
def usedEntry {ε : Type} (s : State) (level a own : Nat) (entry : Nat → Except ε Nat) : Except ε Nat :=
  if level = 3 then groupEntry s a own entry else .ok own

/-- The walk of stage 2 from the table at `pa` on (R389); a table outside GDDR 7 is XLATE (R392).
[DEDUCED, log 25] -/
def walk2 (s : State) (a : Nat) : Nat → Nat → Nat → Except XlFault Leaf
  | 0, level, _ => .error ⟨.xlate, true, level⟩
  | fuel + 1, level, pa =>
    if gddrEnd ≤ pa then .error ⟨.xlate, true, level⟩
    else
      match (entryAt s true level (pa + 8 * levelIndex a level)).bind fun e =>
          usedEntry s level a e fun k => entryAt s true level (pa + 8 * k) with
      | .error e => .error e
      | .ok e =>
        match parseEntry true level a e with
        | .bad => .error ⟨.xlate, true, level⟩
        | .table t => walk2 s a fuel (level + 1) t
        | .leaf l => .ok l

/-- The number, no core, of what translates for the dispatcher and the host interfaces.
[DESIGN CHOICE, log 28] -/
def deviceTlb : Nat := Config.numCores

/-- A translation that the TLBs of a core hold (R394). [DESIGN CHOICE, log 28] -/
def tlbFind (s : State) (core p : Nat) (stage2 : Bool) (pasid page : Nat) : Option Leaf :=
  (s.ms.tlb.find? fun e =>
    e.core == core && e.part == p && e.stage2 == stage2 && e.pasid == pasid && e.page == page).map (·.leaf)

/-- How many pages of 4 KiB the page of a leaf has (R390, R391). -/
def Leaf.pages (l : Leaf) : Nat := if l.cont then 16 else 512 ^ (3 - l.level)

/-- Where the bytes of a partition's mapped launch share stand: no address that a table can name.
[DESIGN CHOICE, log 122] -/
def sharePa (p : Nat) : Nat := 2 ^ 48 + 2 ^ 20 * p

/-- The leaf under which a mapped share is read (R341). [DESIGN CHOICE, log 122] -/
def shareLeaf (s : State) (p ipa : Nat) : Option Leaf :=
  match (getPart s p).shareMap with
  | none => none
  | some b =>
    if b ≤ ipa && ipa < b + 128 * (getPart s p).shareCount then
      some { out := sharePa p + (ipa - b) / 4096 * 4096, rd := true, wr := false, ex := false, typ := 2, cmp := false,
             level := 3, cont := false }
    else none

/-- Stage 2 of an intermediate address (R389), without the check of permission. [DEDUCED, log 25] -/
def stage2 (s : State) (p ipa : Nat) (core : Nat := deviceTlb) : Except XlFault Leaf :=
  match (tlbFind s core p true 0 (ipa / 4096)).or (shareLeaf s p ipa) with
  | some l => .ok l
  | none => walk2 s ipa 4 0 (bitsOf (getPart s p).s2root 12 36 * 4096)

/-- The physical address of an intermediate address, for a use that needs this permission (R392). -/
def ipaToPa (s : State) (p ipa : Nat) (k : AccKind) (core : Nat := deviceTlb) : Except XlFault (Nat × Leaf) :=
  match stage2 s p ipa core with
  | .error e => .error e
  | .ok l =>
    let pa := l.out + ipa % 4096
    if !l.allows k then .error ⟨.perm, true, l.level⟩
    else if !physOk s p pa then .error ⟨.perm, true, l.level⟩
    else .ok (pa, l)

/-- Read a table entry at an intermediate address (R389, R392): a table in a host window is XLATE; where that window is
not enabled for the partition, the failed check is PERM. [DEDUCED, log 25, 32] -/
def tableRead (s : State) (p ipa core : Nat) : Except XlFault Nat :=
  match ipaToPa s p ipa .read core with
  | .error e => .error e
  | .ok (pa, l) => if gddrEnd ≤ pa then .error ⟨.xlate, true, l.level⟩ else entryAt s false l.level pa

/-- The walk of stage 1 from the table at intermediate address `ipa` on (R389). [DEDUCED, log 25, 26] -/
def walk1 (s : State) (core p a : Nat) : Nat → Nat → Nat → Except XlFault Leaf
  | 0, level, _ => .error ⟨.xlate, false, level⟩
  | fuel + 1, level, ipa =>
    match tableRead s p (ipa + 8 * levelIndex a level) core with
    | .error e => .error e
    | .ok e =>
      match usedEntry s level a e fun k => tableRead s p (ipa + 8 * k) core with
      | .error e => .error e
      | .ok e =>
        match parseEntry false level a e with
        | .bad => .error ⟨.xlate, false, level⟩
        | .table t => walk1 s core p a fuel (level + 1) t
        | .leaf l => .ok l

/-- The root of a PASID's stage-1 tables (R389, R393). -/
def pasidRoot (s : State) (core p pasid : Nat) : Except XlFault Nat :=
  if (getPart s p).pasidCount.toNat ≤ pasid then .error ⟨.xlate, false, 0⟩
  else
    let base := (getPart s p).pasidBase.toNat + 16 * pasid
    match tableRead s p base core, tableRead s p (base + 8) core with
    | .error e, _ => .error e
    | _, .error e => .error e
    | .ok w0, .ok w1 =>
      if eb w0 0 1 = 0 || eb w0 1 11 != 0 || eb w0 48 16 != 0 || w1 != 0 then .error ⟨.xlate, false, 0⟩
      else .ok (eb w0 12 36 * 4096)

/-- Stage 1 of a virtual address (R389). [DEDUCED, log 25] -/
def stage1 (s : State) (p pasid va : Nat) (core : Nat := deviceTlb) : Except XlFault Leaf :=
  match tlbFind s core p false pasid (va / 4096) with
  | some l => .ok l
  | none =>
    match pasidRoot s core p pasid with
    | .error e => .error e
    | .ok root => walk1 s core p va 4 0 root

/-- The more restrictive of two types, in the order WB, WC, UC (R392). -/
def maxType (a b : BitVec 2) : BitVec 2 := if a.toNat ≤ b.toNat then b else a

/-- The number, no PASID, under which an agent names partition physical addresses: stage 2 alone translates
them (R411, DIRPOOL). -/
def ipaSpace : Nat := 2 ^ 20

/-- The translation of a virtual address by the TLBs of a core (R387, R389, R392, R393).
[DEDUCED, log 29] -/
def translate (s : State) (p pasid : Nat) (va : Word) (k : AccKind) (core : Nat := deviceTlb) : Except XlFault Xl :=
  if pasid = ipaSpace then
    (ipaToPa s p va.toNat k core).map fun x => { pa := x.1, ipa := va.toNat, typ := x.2.typ, cmp := false }
  else if 0x800000000000 ≤ va.toNat then .error ⟨.xlate, false, 0⟩
  else
    match stage1 s p pasid va.toNat core with
    | .error e => .error e
    | .ok l1 =>
      if !l1.allows k then .error ⟨.perm, false, l1.level⟩
      else
        let ipa := l1.out + va.toNat % 4096
        match ipaToPa s p ipa k core with
        | .error e => .error e
        | .ok (pa, l2) => .ok { pa := pa, ipa := ipa, typ := maxType l1.typ l2.typ, cmp := l1.cmp }

/-- How a host page is reached (R395): at once, after the host answers a page request, or not at all. -/
inductive HostPage where
  | ready | waits | refused
  deriving DecidableEq, Repr

/-- The name of a host page in requests for its translation: the page, and above it one more than the PASID that the
request carries, 0 where it carries none (R395, R414). [DEDUCED, log 30] -/
def hostName (pa : Nat) (pasid : Option Nat) : Nat :=
  pa / 4096 + 2 ^ 36 * (match pasid with | some p => p + 1 | none => 0)

/-- The port behind which a named page lies. -/
def namedPort (name : Nat) : Nat := hostPort (4096 * (name % 2 ^ 36))

/-- The translation of a host page that a cluster holds. -/
def atsFind (s : State) (cluster page : Nat) : Option Nat :=
  (s.ms.ats.find? fun e => e.cluster == cluster && e.page == page).map (·.target)

/-- The host's own translation of a page, as it stands. [DEDUCED, log 30] -/
def hostTarget (s : State) (page : Nat) : Nat := Tab.getD s.ms.hostMap page (page % 2 ^ 36)

/-- Whether a port translates host addresses by ATS. -/
def usesAts (s : State) (pa : Nat) : Bool := isHostPa pa && (s.ports[hostPort pa]!).ats

/-- An access to a host page by who makes it, through the TLB of a cluster, under a PASID or none.
[DEDUCED, log 30] -/
def hostPage (s : State) (who : Waiter) (cluster pa : Nat) (pasid : Option Nat := none) : HostPage :=
  let page := hostName pa pasid
  if !usesAts s pa || (atsFind s cluster page).isSome || !NatSet.has s.ms.hostAbsent page then .ready
  else if s.ms.priRefused.contains (who, page) then .refused
  else .waits

/-- The host address that an access reaches: the host's translation, or the address as given (R395).
[DEDUCED, log 30] -/
def hostReach (s : State) (cluster pa : Nat) (pasid : Option Nat := none) : Nat :=
  let page := hostName pa pasid
  if usesAts s pa then 4096 * (atsFind s cluster page).getD (hostTarget s page) + pa % 4096 else pa

/-- Whether a port carries a partition's traffic (R409): its link is up, and trained with IDE unless the
partition's template sets NOIDE. [DEDUCED, log 31] -/
def linkCarries (s : State) (p port : Nat) : Bool :=
  let x := s.ports[port]!
  x.up && (x.ide || bitOf (getPart s p).ctlTmpl 5)

/-- Whether any port carries a partition's messages to and from peer chips (R409, R420).
[DEDUCED, log 31] -/
def anyLink (s : State) (p : Nat) : Bool := (List.range 4).any (linkCarries s p)

end Sys2Proof.Machine
end

