-- ==== Sys2Proof/Machine/Access.lean ====
section
/-! DEFINITION. Memory as the agents reach it (R91–R124, R171–R173, R458): the views of a granule, wet
versions and cures, the write-combining buffer, stash windows, poison, the scratchpad grant, and the checks
a synchronous access makes in the order of R172. -/

namespace Sys2Proof.Machine

/-! ### Granules as every agent reads them (R102, R103) -/

/-- Granule `g` of a row or line image. -/
def granuleOf (d : RowBits) (g : Nat) : Granule := BitVec.ofNat 64 (d.toNat / 2 ^ (64 * g))

/-- A line image with granule `g` replaced. -/
def setGranule (d : RowBits) (g : Nat) (v : Granule) : RowBits :=
  BitVec.ofNat 2048 (d.toNat - (granuleOf d g).toNat * 2 ^ (64 * g) + v.toNat * 2 ^ (64 * g))

/-- The granule as it stands in device memory. [DESIGN CHOICE, log 40] -/
def plainGranule (s : State) (g : Nat) : Granule := BitVec.ofNat 64 (ofLe (Memory.bytes s.ms.mem (8 * g) 8))

/-- The granule read through the compressed or the uncompressed view (R102). Where R102 allows two
outcomes the choice is a free value. [DESIGN CHOICE, log 40] -/
def viewGranule (s : State) (cmp : Bool) (g : Nat) : Granule :=
  match Tab.get? s.ms.comp (g / 32) with
  | none => plainGranule s g
  | some c =>
    let pick := Config.viewChoice s.fresh g
    if cmp then
      if c.mixed.getLsbD (g % 32) && pick then plainGranule s g else granuleOf c.data (g % 32)
    else if pick then plainGranule s g
    else Config.compressedGranule c.data.toNat (g % 32)

/-! ### Writes performed late (R92, R105, R108, R110) -/

/-- Whether an agent is a member of a scope of the agent described by JOBID, core and partition (R92).
[DESIGN CHOICE, log 119] -/
def Viewer.within (v : Viewer) (scope job : Nat) (core part : Option Nat) : Bool :=
  let near (level : Nat) : Bool := match v.core, core with
    | some a, some b => domainOf a level == domainOf b level
    | _, _ => false
  match scope with
  | 0 => job != 0 && v.job == job
  | 1 => near 1
  | 2 => near 2
  | 3 => near 3
  | 4 => near 3 || (part.isSome && v.part == part)
  | _ => true

/-- Whether an agent sees ahead of others what these writers of a job have written (R113, R159).
[DEDUCED, log 61] -/
def Viewer.ownSight (v : Viewer) (job : Nat) (writers : List Writer) : Bool :=
  v.job != 0 && v.job == job && v.only.all fun ws => ws.any writers.contains

/-- Whether a late write has been performed for an agent: for its own job, and for the agents inside the scope at
which a release has performed it (R92, R108). [DESIGN CHOICE, log 119] -/
def LateWrite.seenBy (e : LateWrite) (v : Viewer) : Bool :=
  v.ownSight e.job e.writers || (1 ≤ e.scope && v.within e.scope e.job (some e.core) (some e.part))

/-- The first late write of a granule, through a view, that comes after all those an agent sees: it reads what stood
there before that one (R104). -/
def lateFor (s : State) (v : Viewer) (cmp : Bool) (g : Nat) : Option LateWrite :=
  s.ms.late.foldl (fun r e =>
    if e.granule == g && e.cmp == cmp then (if e.seenBy v then none else r.or (some e)) else r) none

/-- A granule as an agent reads it where it sees no wet version of it. -/
def sharedGranule (s : State) (v : Viewer) (cmp : Bool) (g : Nat) : Granule :=
  match lateFor s v cmp g with
  | some e => e.old
  | none => viewGranule s cmp g

def sharedPoison (s : State) (v : Viewer) (g : Nat) : Bool :=
  match lateFor s v false g with
  | some e => e.oldPoison
  | none => NatSet.has s.ms.memPoison g

/-- A late write of a granule that no release at system scope has performed (R92, R131). -/
def hostLate (s : State) (g : Nat) : Option LateWrite := s.ms.late.find? fun e => e.granule == g && e.scope < 7

/-- A granule as the host sees it. [DESIGN CHOICE, log 119] -/
def hostGranule (s : State) (g : Nat) : Granule :=
  match hostLate s g with
  | some e => e.old
  | none => viewGranule s false g

/-- Whether what the host sees of a granule is poisoned (R458). -/
def hostPoison (s : State) (g : Nat) : Bool :=
  match hostLate s g with
  | some e => e.oldPoison
  | none => NatSet.has s.ms.memPoison g

/-- The late writes of a granule are performed for every agent. [DESIGN CHOICE, log 119] -/
def arrive1 (s : State) (g : Nat) : State :=
  modMs s fun m => { m with late := m.late.filter fun e => e.granule != g, hold := NatSet.del m.hold g }

/-- The last write in coherence order of a range is what every agent reads from then on: an atomic update takes place on
it (R104, R111). -/
def performRange (s : State) (gs : List Nat) : State := gs.foldl arrive1 s

/-- A job's wet version of a granule, where an agent sees it (R113): its last entry. -/
def wetFind (s : State) (v : Viewer) (g : Nat) : Option WetGranule :=
  (s.ms.wet.filter fun w => w.granule == g && v.ownSight w.job w.writers).getLast?

/-- The granule as an agent reads it (R113). -/
def jobGranule (s : State) (v : Viewer) (cmp : Bool) (g : Nat) : Granule :=
  match wetFind s v g with
  | some w => w.value
  | none => sharedGranule s v cmp g

/-- Whether the granule an agent reads is poisoned (R458, R459). -/
def jobPoison (s : State) (v : Viewer) (g : Nat) : Bool :=
  match wetFind s v g with
  | some w => w.poison
  | none => sharedPoison s v g

/-- The partition of a job, resident or saved. -/
def partOfJob (s : State) (jobid : Nat) : Nat :=
  match residentJob s jobid with
  | some j => j.ids.part
  | none =>
    match s.saved.find? fun x => x.job.ids.jobid == jobid with
    | some x => x.job.ids.part
    | none => 0

/-- A job, or another agent of a partition where the JOBID is 0, as it views memory. -/
def viewOf (s : State) (part jobid : Nat) : Viewer := ⟨jobid, none, (findJob s jobid).map (·.1), some part⟩

/-- A job as it views memory. -/
def jobView (s : State) (jobid : Nat) : Viewer := viewOf s (partOfJob s jobid) jobid

/-- The device for no one partition: the dispatcher, the interfaces. -/
def deviceView : Viewer := ⟨0, none, none, none⟩

/-- An agent of a partition that stands on no core: its encoders and decoders (R92). -/
def partView (p : Nat) : Viewer := ⟨0, none, none, some p⟩

/-- The granules that `n` bytes from `a` on touch. -/
def granules (a n : Nat) : List Nat :=
  if n = 0 then [] else (List.range ((a + n - 1) / 8 - a / 8 + 1)).map (a / 8 + ·)

/-- `n` bytes from physical address `pa`, as the host reads them. -/
def hostBytes (s : State) (pa n : Nat) : List Byte :=
  slice ((granules pa n).flatMap fun g => leBytes 8 (hostGranule s g).toNat) (pa % 8) n

/-- Late writes, with those that `sel` picks, and the earlier ones of their granules, performed at a scope (R104).
A granule's late writes up to one performed at system scope are late no longer. [DESIGN CHOICE, log 119] -/
def raiseLate (scope : Nat) (sel : LateWrite → Bool) (l : List LateWrite) : List LateWrite :=
  (l.foldr (fun e r =>
      let up := sel e || r.2.contains e.granule
      let e := if up then { e with scope := max scope e.scope } else e
      (if 7 ≤ e.scope then r.1 else e :: r.1, if up then e.granule :: r.2 else r.2)) ([], [])).1

/-- An agent has read granules: from then on no agent that reads them through the LLC reads older values than those
that it has read of another job's (R105). [DESIGN CHOICE, log 119] -/
def readSeen (s : State) (v : Viewer) (pa n : Nat) : State :=
  if s.ms.late.isEmpty then s
  else
    let gs := granules pa n
    modMs s fun m =>
      { m with late := raiseLate 5 (fun e => gs.contains e.granule && e.job != v.job && e.seenBy v) m.late }

/-- `n` bytes from physical address `pa`, as an agent reads them. -/
def readPa (s : State) (v : Viewer) (cmp : Bool) (pa n : Nat) : List Byte :=
  slice ((granules pa n).flatMap fun g => leBytes 8 (jobGranule s v cmp g).toNat) (pa % 8) n

/-- The first poisoned granule that an agent reads in a range. -/
def poisonIn (s : State) (v : Viewer) (pa n : Nat) : Option Nat := (granules pa n).find? (jobPoison s v)

/-- Bytes `new` laid over the bytes `old` from offset `o` on. -/
def overlay (old : List Byte) (o : Nat) (new : List Byte) : List Byte :=
  old.take o ++ new ++ old.drop (o + new.length)

/-- The part of a write of `bs` at `pa` that falls in granule `g`: offset in the granule and bytes. -/
def granulePart (pa : Nat) (bs : List Byte) (g : Nat) : Nat × List Byte :=
  if 8 * g < pa then (pa % 8, bs.take (8 - pa % 8)) else (0, slice bs (8 * g - pa) 8)

/-- A granule value with part of it overwritten. [DEDUCED, log 33] -/
def patchGranule (v : Granule) (o : Nat) (bs : List Byte) : Granule :=
  BitVec.ofNat 64 (ofLe (overlay (leBytes 8 v.toNat) o bs))

/-! ### Writes performed at the LLC -/

/-- A line stored compressed after a write through the compressed view (R102). -/
def compWrite (s : State) (g o : Nat) (bs : List Byte) : State :=
  let line := g / 32
  let old : CompLine := match Tab.get? s.ms.comp line with
    | some c => c
    | none => ⟨BitVec.ofNat 2048 (ofLe (Memory.bytes s.ms.mem (256 * line) 256)), 0⟩
  let data := (List.range 32).foldl (fun d i => setGranule d i (viewGranule s true (32 * line + i))) old.data
  let data := setGranule data (g % 32) (patchGranule (granuleOf data (g % 32)) o bs)
  modMs s fun m => { m with comp := Tab.set m.comp line ⟨data, 0⟩ }

/-- Note the value that fetches of these jobs may still return for a granule that is written (R146). -/
def noteOld (s : State) (jobs : List Nat) (g : Nat) (old new : Granule) : State :=
  if old = new then s
  else modMs s fun m =>
    { m with oldCode := m.oldCode ++ ((jobs.filter fun j => !m.oldCode.contains (j, g, old)).map fun j => (j, g, old)) }

/-- The JOBIDs of the resident jobs. -/
def residentIds (s : State) : List Nat := s.jobs.map fun e => e.2.ids.jobid

/-- One granule's part of a cured write (R104, R115): memory, the compressed line's mixed bits, poison,
and the writing job's own wet version. An earlier write that was performed late is performed with it. -/
def writeGranule (s : State) (own : Option Nat) (cmp : Bool) (g o : Nat) (bs : List Byte) : State :=
  let old := viewGranule s cmp g
  let s := noteOld s (residentIds s) g old (patchGranule old o bs)
  let s := match own with
    | some j =>
      let v := jobGranule s (jobView s j) cmp g
      noteOld s [j] g v (patchGranule v o bs)
    | none => s
  let s := if cmp then compWrite s g o bs
    else modMs s fun m =>
      { m with
        mem := Memory.putBytes m.mem (8 * g + o) bs
        comp := Tab.modify m.comp (g / 32) fun c => { c with mixed := c.mixed ||| (1#32 <<< (g % 32)) } }
  modMs s fun m =>
    { m with
      late := m.late.filter fun e => e.granule != g
      memPoison := if bs.length = 8 then NatSet.del m.memPoison g else m.memPoison
      wet := match own with
        | none => m.wet
        | some j => m.wet.map fun w =>
            if w.job = j && w.granule = g then
              { w with value := patchGranule w.value o bs, poison := w.poison && bs.length != 8 }
            else w }

/-- The reads performed ahead of program order miss a write (R92, R110). [DESIGN CHOICE, log 119] -/
def noteMissed (s : State) (who : Nat × Nat) (pa n : Nat) : State :=
  if s.ms.early.isEmpty then s
  else
    let w := viewOf s who.1 who.2
    let hit : EarlyPlace → Bool
      | .glob g => (granules pa n).contains g
      | _ => false
    modMs s fun m =>
      { m with early := m.early.map fun e => if hit e.place then { e with missed := e.missed ++ [w] } else e }

/-- A cured write (R104, R115): performed at once. `who` is the writer's partition and JOBID (R460);
`own` the job whose wet version it also updates; `keep` the stash line that is being written back and
does not become stale by it (R98, R99). -/
def writePa (s : State) (who : Nat × Nat) (own : Option Nat) (cmp : Bool) (pa : Nat) (bs : List Byte)
    (keep : Option StashLine := none) : State :=
  let s := (granules pa bs.length).foldl (fun s g =>
    let p := granulePart pa bs g
    writeGranule s own cmp g p.1 p.2) (noteMissed s who pa bs.length)
  modMs s fun m =>
    let lines := (granules pa bs.length).map (· / 32)
    { m with
      stash := m.stash.map fun l =>
        if lines.contains (l.pa / 256) && !(keep.any l.same) then { l with stale := true } else l
      writer := lines.foldl (fun t l => Tab.set t l who) m.writer }

/-- Whether a page's writes pass through the LLC, so that a job's stores to it are wet (R113). -/
def wetType (pa : Nat) : Bool := !uncachedHost pa

/-- The type an access takes (R94): host memory behind ports 2 and 3 acts as UC. -/
def effType (x : Xl) : BitVec 2 := if uncachedHost x.pa then 2 else x.typ

/-- Whose a wet write is: the job, who of it, and the operation where it is a part of one that has not completed. -/
structure WetWriter where
  job : Nat
  who : Writer
  layer : Option (Nat × Nat) := none

/-- A wet write of a granule put into a job's wet version: into its last entry, or into one of its own where either
is part of an operation that has not completed, so that the operation's can be discarded (R154). -/
def putWet (w : WetWriter) (g : Nat) (v : Granule) (poison cmp : Bool) (l : List WetGranule) : List WetGranule :=
  match (l.filter fun x => x.job == w.job && x.granule == g).getLast? with
  | some x =>
    if x.layer = w.layer then
      l.map fun y =>
        if y.job = w.job && y.granule = g && y.layer = w.layer then
          { y with value := v, poison := poison,
                   writers := if y.writers.contains w.who then y.writers else y.writers ++ [w.who] }
        else y
    else l ++ [⟨w.job, g, v, poison, cmp, false, x.writers ++ [w.who], w.layer⟩]
  | none => l ++ [⟨w.job, g, v, poison, cmp, false, [w.who], w.layer⟩]

/-- One granule's part of a wet write (R113). [DEDUCED, log 33] -/
def wetGranuleWrite (s : State) (w : WetWriter) (cmp : Bool) (g o : Nat) (bs : List Byte) : State :=
  let old := jobGranule s (jobView s w.job) cmp g
  let v := patchGranule old o bs
  let s := noteOld s [w.job] g old v
  let poison := jobPoison s (jobView s w.job) g && bs.length != 8
  modMs s fun m => { m with wet := putWet w g v poison cmp m.wet }

/-- A wet write (R113). [DEDUCED, log 33] -/
def writeWet (s : State) (w : WetWriter) (cmp : Bool) (pa : Nat) (bs : List Byte) : State :=
  (granules pa bs.length).foldl (fun s g =>
    let p := granulePart pa bs g
    wetGranuleWrite s w cmp g p.1 p.2) s

/-- The 256-byte lines a job holds wet (R436). -/
def wetLines (s : State) (jobid : Nat) : NatSet :=
  s.ms.wet.foldl (fun t w => if w.job = jobid then NatSet.add t (w.granule / 32) else t) []

/-- R116, R436: whether a write of these bytes stays within the version quota. Stores still in the
write-combining buffer are not wet yet (R113) and do not count. [DESIGN CHOICE, log 120] -/
def quotaOk (s : State) (jobid quota pa n : Nat) : Bool :=
  let held := wetLines s jobid
  let after := (granules pa n).foldl (fun t g => NatSet.add t (g / 32)) held
  after.length == held.length || after.length * 256 ≤ quota

/-! ### Curing, write combining, stash -/

/-- A cured write of a granule that is to be performed late, after the late ones before it: others still read what
they read before. [DESIGN CHOICE, log 119] -/
def holdBack (s0 s : State) (p : Nat) (w : WetGranule) : State :=
  if NatSet.has s0.ms.hold w.granule then
    let e : LateWrite :=
      ⟨w.granule, w.job, (findJob s0 w.job).elim 0 (·.1), p, (residentJob s0 w.job).elim 0 (·.ids.launch), w.cmp,
        viewGranule s0 w.cmp w.granule, NatSet.has s0.ms.memPoison w.granule, 0, w.writers, []⟩
    modMs s fun m => { m with late := s0.ms.late ++ [e] }
  else s

/-- Curing (R113): a job's wet granules become ordinary writes, with their values and their poison. -/
def cure (s : State) (jobid : Nat) : State :=
  let p := partOfJob s jobid
  let mine := s.ms.wet.filter fun w => w.job == jobid
  let s := modMs s fun m => { m with wet := m.wet.filter fun w => w.job != jobid }
  mine.foldl (fun s w =>
    let s := holdBack s (writePa s (p, jobid) none w.cmp (8 * w.granule) (leBytes 8 w.value.toNat)) p w
    let s := if w.join then modMs s fun m => { m with comp := Tab.del m.comp (w.granule / 32) } else s
    if w.poison then modMs s fun m => { m with memPoison := NatSet.add m.memPoison w.granule } else s) s

/-- Whether a wet granule is a write of an operation of a job that had not completed when it was made. -/
def WetGranule.ofLayer (w : WetGranule) (jobid slot seq : Nat) : Bool := w.job == jobid && w.layer == some (slot, seq)

/-- An operation has ended: what it has written wet stays in the job's version (R113, R116).
[DEDUCED, log 57] -/
def settleLayer (s : State) (jobid slot seq : Nat) : State :=
  if s.ms.wet.isEmpty then s
  else modMs s fun m =>
    { m with wet := m.wet.map fun w => if w.ofLayer jobid slot seq then { w with layer := none } else w }

/-- A cancelled or failing operation's wet writes are discarded (R154). [DEDUCED, log 57] -/
def discardLayer (s : State) (jobid slot seq : Nat) : State :=
  if s.ms.wet.isEmpty then s
  else modMs s fun m => { m with wet := m.wet.filter fun w => !w.ofLayer jobid slot seq }

/-- An operation is detached: what it has written wet is cured at once (R165). [DEDUCED, log 57] -/
def cureLayer (s : State) (jobid slot seq : Nat) : State :=
  let mine := s.ms.wet.filter fun w => w.ofLayer jobid slot seq
  mine.foldl (fun s w =>
    let s := writePa s (partOfJob s jobid, jobid) (some jobid) w.cmp (8 * w.granule) (leBytes 8 w.value.toNat)
    if w.poison then modMs s fun m => { m with memPoison := NatSet.add m.memPoison w.granule } else s)
    (discardLayer s jobid slot seq)

/-- The wet lines of a job are discarded (R114). -/
def discardWet (s : State) (jobid : Nat) : State :=
  modMs s fun m => { m with wet := m.wet.filter fun w => w.job != jobid }

/-- A release performs late writes at a scope (R108, R110). [DEDUCED, log 69, 119] -/
def publish (s : State) (scope : Nat) (sel : LateWrite → Bool) : State :=
  if s.ms.late.isEmpty then s else modMs s fun m => { m with late := raiseLate scope sel m.late }

/-- Whether a stream, or an operation that it has waited for, has made a late write (R108, R110). -/
def LateWrite.byStream (e : LateWrite) (jobid : Nat) (t : Strm) : Bool :=
  e.job == jobid && e.writers.contains (.stream t)

/-- A stream has waited for an operation of its job: its releases publish what that has written (R108, R110). -/
def waitedWrites (s : State) (jobid : Nat) (t : Strm) (slot seq : Nat) : State :=
  if s.ms.wet.isEmpty && s.ms.late.isEmpty then s
  else
    let add (ws : List Writer) : List Writer :=
      if ws.contains (.op slot seq) && !ws.contains (.stream t) then ws ++ [.stream t] else ws
    modMs s fun m =>
      { m with
        wet := m.wet.map fun w => if w.job = jobid then { w with writers := add w.writers } else w
        late := m.late.map fun e => if e.job = jobid then { e with writers := add e.writers } else e }

/-- A launch retires: the writes of its jobs are performed at device scope, and at system scope for host memory
(R352). [DESIGN CHOICE, log 119] -/
def publishLaunch (s : State) (i : Nat) : State :=
  if s.ms.late.isEmpty then s
  else
    modMs s fun m =>
      { m with late := raiseLate 7 (fun e => e.launch == i && isHostPa (8 * e.granule))
                        (raiseLate 5 (fun e => e.launch == i) m.late) }

/-- A stream's early reads of some places are used up: a later read of them returns nothing older (R104). -/
def dropEarly (s : State) (h : Hart) (sel : EarlyPlace → Bool) : State :=
  if s.ms.early.isEmpty then s
  else modMs s fun m => { m with early := m.early.filter fun e => !(e.hart == h && sel e.place) }

/-- The granules of an address range as places. -/
def globPlaces (pa n : Nat) : EarlyPlace → Bool
  | .glob g => (granules pa n).contains g
  | _ => false

/-- A buffered WC store is performed at the LLC (R94), where it is wet (R113); its stream reads nothing older from
then on (R104). -/
def performWc (s : State) (w : WcStore) : State :=
  dropEarly (writeWet s ⟨w.job, .stream w.hart.strm, none⟩ false w.pa w.bytes) w.hart (globPlaces w.pa w.bytes.length)

/-- Every store of a core's write-combining buffer is performed (R94). [DEDUCED, log 35] -/
def flushWc (s : State) (core : Nat) : State :=
  let mine := s.ms.wc.filter fun w => w.hart.core == core
  mine.foldl performWc (modMs s fun m => { m with wc := m.wc.filter fun w => w.hart.core != core })

/-- The store at a place of a core's write-combining buffer is performed, after the earlier ones that share a
granule with it (R94). [DEDUCED, log 35] -/
def performAt (s : State) (core place : Nat) : State :=
  match (s.ms.wc.filter fun w => w.hart.core == core)[place]? with
  | none => s
  | some x =>
    let gs := granules x.pa x.bytes.length
    let goes (w : WcStore) : Bool := w.hart.core == core && (granules w.pa w.bytes.length).any gs.contains
    -- stores of one granule keep their order: what shares a granule with it goes with it
    (s.ms.wc.filter goes).foldl performWc (modMs s fun m => { m with wc := m.wc.filter fun w => !goes w })

/-- The stores of a stream that its core's write-combining buffer holds are performed (R94).
[DEDUCED, log 35] -/
def drainWc (s : State) (h : Hart) : State :=
  if s.ms.wc.any fun w => w.hart == h then
    (s.ms.wc.filter fun w => w.hart == h).foldl performWc
      (modMs s fun m => { m with wc := m.wc.filter fun w => w.hart != h })
  else s

/-- The lines a core's write-combining buffer holds. -/
def wcBuffered (s : State) (core : Nat) : NatSet :=
  s.ms.wc.foldl (fun t w => if w.hart.core = core then NatSet.add t (w.pa / 256) else t) []

/-- The oldest line of a core's write-combining buffer is evicted (R94). [DESIGN CHOICE, log 123] -/
def evictWc (s : State) (core : Nat) : State :=
  match s.ms.wc.find? fun w => w.hart.core == core with
  | none => s
  | some o =>
    let out := s.ms.wc.filter fun w => w.hart.core == core && w.pa / 256 == o.pa / 256
    out.foldl performWc
      (modMs s fun m => { m with wc := m.wc.filter fun w => !(w.hart.core == core && w.pa / 256 == o.pa / 256) })

/-- Byte address of a job offset in the scratchpads (R30); none outside one range of the grant. -/
def grantAddr (core : Nat) (g : Grant) (off n : Nat) : Option Nat :=
  if off + n ≤ g.half then some (core * Config.spadSpan + g.base0 + off)
  else if Config.groupSplit ≤ off && off + n ≤ Config.groupSplit + g.half then
    some (core * Config.spadSpan + g.base1 + (off - Config.groupSplit))
  else none

/-- SIZE, LINE and VBASE of a stash window (R96). -/
def stashSizeOf (j : Job) (w : Nat) : Nat := bitsOf (j.stashSize.getD w 0) 0 20

def stashLineOf (j : Job) (w : Nat) : Nat := bitsOf (j.stashSize.getD w 0) 32 12

def stashVbase (j : Job) (w : Nat) : Nat := bitsOf (j.stashBase.getD w 0) 12 36 * 4096

/-- The mapped window that holds a virtual address, and the offset in it. -/
def winOfVa (j : Job) (va : Nat) : Option (Nat × Nat) :=
  ((List.range 4).find? fun w =>
    stashSizeOf j w != 0 && stashVbase j w ≤ va && va < stashVbase j w + stashSizeOf j w).map
    fun w => (w, va - stashVbase j w)

/-- The mapped window whose scratchpad range holds a job offset, and the offset in it. [DEDUCED, log 24] -/
def winOfOff (j : Job) (off : Nat) : Option (Nat × Nat) :=
  ((List.range 4).find? fun w =>
    stashSizeOf j w != 0 && stashLineOf j w * 256 ≤ off && off < stashLineOf j w * 256 + stashSizeOf j w).map
    fun w => (w, off - stashLineOf j w * 256)

/-- A line of a window as it would be filled: what names it, of a mapping of the window. -/
def lineOf (j : Job) (w line pa : Nat) (cmp stale : Bool) : StashLine :=
  ⟨j.ids.jobid, w, line, stashVbase j w / 256 + line, stashLineOf j w + line, pa, cmp, 0, stale⟩

def stashFind (s : State) (j : Job) (w line : Nat) : Option StashLine :=
  s.ms.stash.find? (lineOf j w line 0 false false).same

def modStash (s : State) (x : StashLine) (f : StashLine → StashLine) : State :=
  modMs s fun m => { m with stash := m.stash.map fun l => if x.same l then f l else l }

/-- Copy a granule of the LLC, as an agent reads it through a view, to the scratchpad, poison included
(R97, R458). -/
def fillGranule (s : State) (v : Viewer) (cmp : Bool) (pa spad g : Nat) : State :=
  let x := jobGranule s v cmp (pa / 8 + g)
  let poisoned := jobPoison s v (pa / 8 + g)
  modMs s fun m =>
    { m with
      spad := Memory.putBytes m.spad (spad + 8 * g) (leBytes 8 x.toNat)
      spadPoison := if poisoned then NatSet.add m.spadPoison (spad / 8 + g)
        else NatSet.del m.spadPoison (spad / 8 + g) }

/-- Whether a write of a line has not been performed for an agent yet: what it reads of the line is stale (R98).
[DESIGN CHOICE, log 119] -/
def lateInLine (s : State) (v : Viewer) (pa : Nat) : Bool :=
  s.ms.late.any fun e => e.granule / 32 == pa / 256 && !e.seenBy v

/-- Write bytes to the scratchpads at a physical address, with the poison rule of R172. -/
def writeSpad (s : State) (sp : Nat) (bs : List Byte) : State :=
  modMs s fun m =>
    { m with
      spad := Memory.putBytes m.spad sp bs
      spadPoison := (granules sp bs.length).foldl (fun t g =>
        if sp ≤ 8 * g && 8 * g + 8 ≤ sp + bs.length then NatSet.del t g else t) m.spadPoison }

/-- What issued stores of some streams have yet to write in the scratchpads is written (R103).
[DESIGN CHOICE, log 2] -/
def finishStores (s : State) (sel : Hart → Bool) : State :=
  if s.ms.begun.isEmpty then s
  else
    (s.ms.begun.filter fun b => sel b.hart).foldl (fun s b => writeSpad s b.addr b.bytes)
      (modMs s fun m => { m with begun := m.begun.filter fun b => !sel b.hart })

/-- A granule of memory holds poisoned data, in a job's wet version of it too (R458). -/
def poisonGranule (s : State) (jobid g : Nat) : State :=
  modMs s fun m =>
    { m with
      memPoison := NatSet.add m.memPoison g
      wet := m.wet.map fun w => if w.job = jobid && w.granule = g then { w with poison := true } else w }

/-- Write the dirty granules of one stash line back as cured writes (R99). -/
def writeBackLine (s : State) (core : Nat) (j : Job) (l : StashLine) : State :=
  match grantAddr core j.grant (l.sline * 256) 256 with
  | none => s
  | some a =>
    let s := (List.range 32).foldl (fun s g =>
      if l.dirty.getLsbD g then
        let s' := writePa s (j.ids.part, j.ids.jobid) (some j.ids.jobid) l.cmp (l.pa + 8 * g)
          (Memory.bytes s.ms.spad (a + 8 * g) 8) (some l)
        if NatSet.has s.ms.spadPoison (a / 8 + g) then poisonGranule s' j.ids.jobid (l.pa / 8 + g) else s'
      else s) s
    modStash s l fun l => { l with dirty := 0 }

/-- Every dirty granule of a job's windows is written back (R99). -/
def stashWriteBack (s : State) (core : Nat) (j : Job) : State :=
  (s.ms.stash.filter fun l => l.job == j.ids.jobid).foldl (fun s l => writeBackLine s core j l)
    (finishStores s fun h => h.core == core)

/-- A job's stash lines are deregistered (R99). [DEDUCED, log 23] -/
def stashDrop (s : State) (jobid : Nat) : State :=
  modMs s fun m => { m with stash := m.stash.filter fun l => l.job != jobid }

/-- The stale lines of a job are refilled: clean granules take the LLC's bytes (R98). A line stays stale while a
write of it has not been performed for the job. -/
def stashRefresh (s : State) (core : Nat) (j : Job) : State :=
  let v : Viewer := ⟨j.ids.jobid, none, some core, some j.ids.part⟩
  (s.ms.stash.filter fun l => l.job == j.ids.jobid && l.stale).foldl (fun s l =>
    match grantAddr core j.grant (l.sline * 256) 256 with
    | none => s
    | some a =>
      let s := (List.range 32).foldl (fun s g =>
        if l.dirty.getLsbD g then s else fillGranule s v l.cmp l.pa a g) (readSeen s v l.pa 256)
      modStash s l fun l => { l with stale := lateInLine s v l.pa }) s

/-! ### Who makes an access -/

/-- The agent of an access: partition, PASID, job (0 for an orphan), core, stream, and the job whose grant
and windows it reaches. -/
structure Agent where
  part : Nat
  pasid : Nat
  jobid : Nat
  hart : Hart
  job : Option Job
  who : Waiter
  /-- whose TLBs translate (R394) -/
  tlb : Nat := hart.core
  /-- whose writes of the job it sees ahead of others: everyone's, or those of the writers given (R113, R159) -/
  sees : Option (List Writer) := none

/-- An agent as it views memory (R92). -/
def Agent.view (a : Agent) : Viewer :=
  match a.who with
  | .device _ _ => ⟨a.jobid, a.sees, none, if a.jobid = 0 then none else some a.part⟩
  | _ => ⟨a.jobid, a.sees, some a.hart.core, some a.part⟩

/-- What a stream has read early at a place. -/
def earlyAt (s : State) (h : Hart) (p : EarlyPlace) : Option Granule :=
  (s.ms.early.find? fun e => e.hart == h && e.place == p).map (·.value)

/-- A job CSR as a stream sees it: what it has read early, else what stands there (R87). -/
def csrSeen (s : State) (h : Hart) (n : Nat) (now : Word) : Word := (earlyAt s h (.csr n)).getD now

/-- A job as one of its streams sees the CSRs that they share (R87). [DESIGN CHOICE, log 21] -/
def seenJob (s : State) (h : Hart) (j : Job) : Job :=
  if s.ms.early.isEmpty then j
  else
    { j with
      ctl := csrSeen s h 0x000 j.ctl
      waittmo := csrSeen s h 0x030 j.waittmo
      stashBase := .ofFn fun w => csrSeen s h (0x050 + 2 * w.val) j.stashBase[w]
      stashSize := .ofFn fun w => csrSeen s h (0x051 + 2 * w.val) j.stashSize[w] }

/-- The executing job as the executing stream sees it. -/
def viewedJob (s : State) : Job := seenJob s s.cur (curJob s)

/-- The agent of a stream. -/
def agentOf (s : State) (h : Hart) : Agent :=
  let j := seenJob s h (getJob s (jobKey h))
  let st := getStream s h
  { part := j.ids.part, pasid := j.ids.pasid, jobid := j.ids.jobid, hart := h, job := some j,
    who := .stream h j.ids.jobid st.pos st.pc }

/-- The executing stream as an agent. -/
def curAgent (s : State) : Agent := agentOf s s.cur

/-- The scratchpad address of a job offset, for an agent. -/
def Agent.spad (a : Agent) (off n : Nat) : Option Nat :=
  match a.job with
  | some j => grantAddr a.hart.core j.grant off n
  | none => none

/-- Where an address leads (R171): a job offset, through the window or through a stash window, or global
memory. -/
inductive Loc where
  | spad (off : Nat) (win : Option (Nat × Nat)) (viaVa : Bool)
  | glob (va : Word)
  deriving DecidableEq, Repr

def inSpadWindow (va : Word) : Bool :=
  Config.spadWindow ≤ va.toNat && va.toNat < Config.spadWindow + Config.spadSpan

def locate (a : Agent) (va : Word) : Loc :=
  if inSpadWindow va then
    let off := va.toNat - Config.spadWindow
    .spad off (a.job.bind fun j => winOfOff j off) false
  else
    match a.job.bind fun j => winOfVa j va.toNat with
    | some (w, o) =>
      .spad (match a.job with | some j => stashLineOf j w * 256 + o | none => 0) (some (w, o)) true
    | none => .glob va

/-- A job offset as a location (RDQ, WRQ, VLD, VST, line operands). -/
def locateOff (a : Agent) (off : Nat) : Loc := .spad off (a.job.bind fun j => winOfOff j off) false

/-- Why an access fails: the cause, a wait for the host's answer to the request of a page (R395), or another wait of
an operation. -/
inductive AccFail where
  | fault (c : Cause)
  | hostWait (page : Nat)
  | wait
  deriving DecidableEq, Repr

/-- Translate a global address for an agent (R388, R393, R395). Over a link that carries none of the
partition's traffic (R409) nothing is reached. The address reached in host memory is the host's translation. -/
def agentXl (s : State) (a : Agent) (va : Word) (k : AccKind) : Except AccFail Xl :=
  match translate s a.part a.pasid va k a.tlb with
  | .error e => .error (.fault e.cause)
  | .ok x =>
    if isHostPa x.pa && !linkCarries s a.part (hostPort x.pa) then .error (.fault .link)
    else
      match hostPage s a.who (clusterOf a.tlb) x.pa with
      | .ready => .ok { x with pa := hostReach s (clusterOf a.tlb) x.pa }
      | .refused => .error (.fault .xlate)
      | .waits => .error (.hostWait (x.pa / 4096))

/-- Fill a line of a stash window on its first access (R97). [DEDUCED, log 24] -/
def fillLine (s : State) (a : Agent) (w line : Nat) : Except AccFail State :=
  match a.job with
  | none => .ok s
  | some j =>
    match stashFind s j w line with
    | some _ => .ok s
    | none =>
      match agentXl s a (BitVec.ofNat 64 (stashVbase j w + 256 * line)) .read,
          grantAddr a.hart.core j.grant (stashLineOf j w * 256 + line * 256) 256 with
      | .error e, _ => .error e
      | .ok _, none => .error (.fault .perm)
      | .ok x, some sp =>
        let v : Viewer := { a.view with job := j.ids.jobid, only := none }
        let s := (List.range 32).foldl (fun s g => fillGranule s v x.cmp x.pa sp g) (readSeen s v x.pa 256)
        .ok (modMs s fun m => { m with stash := m.stash ++ [lineOf j w line x.pa x.cmp (lateInLine s v x.pa)] })

/-- Fill every line of a window that a range touches. -/
def fillRange (s : State) (a : Agent) (win : Option (Nat × Nat)) (n : Nat) : Except AccFail State :=
  match win with
  | none => .ok s
  | some (w, o) =>
    (List.range ((o + n - 1) / 256 - o / 256 + 1)).foldl
      (fun r i => r.bind fun s => fillLine s a w (o / 256 + i)) (.ok s)

/-- Set the dirty bits of the granules a write touches (R97). -/
def dirtyRange (s : State) (a : Agent) (win : Option (Nat × Nat)) (n : Nat) : State :=
  match win, a.job with
  | some (w, o), some j => (granules o n).foldl (fun s g =>
      modStash s (lineOf j w (g / 32) 0 false false) fun l =>
        { l with dirty := l.dirty ||| (1#32 <<< (g % 32)) }) s
  | _, _ => s

/-- The first poisoned granule of a range of the scratchpads. -/
def spadPoisonIn (s : State) (sp n : Nat) : Option Nat :=
  (granules sp n).find? fun g => NatSet.has s.ms.spadPoison g

/-- Whether a byte range meets the sealed set (R451). -/
def inSealed (a : Agent) (off n : Nat) : Bool :=
  match a.job with
  | none => false
  | some j => j.sealedSet.any fun r => off < r.1 + r.2 && r.1 < off + n

/-! ### Footprints against accesses (R95, R159, R161) -/

/-- Whether two parts overlap, with a write on at least one side. -/
def FootPart.meets : FootPart → FootPart → Bool
  | .spad a b w, .spad c d v => a ≤ d && c ≤ b && (w || v)
  | .glob a b w, .glob c d v => a ≤ d && c ≤ b && (w || v)
  | .acc a w, .acc c v => a == c && (w || v)
  | _, _ => false

/-- The parts an access touches: lines of job offset, lines of virtual address. -/
def accessParts (l : Loc) (va : Option Word) (n : Nat) (write : Bool) : List FootPart :=
  (match l with
    | .spad off _ _ => [.spad (off / 256) ((off + n - 1) / 256) write]
    | .glob _ => []) ++
  (match va, l with
    | some v, .glob _ => [.glob (v.toNat / 256) ((v.toNat + n - 1) / 256) write]
    | some v, .spad _ _ true => [.glob (v.toNat / 256) ((v.toNat + n - 1) / 256) write]
    | _, _ => [])

def partsMeet (xs ys : List FootPart) : Bool := xs.any fun x => ys.any fun y => x.meets y

/-- Age of a sequence number (R149). -/
def ageOf (next q : Nat) : Nat := (next + (2 ^ 24 - 1) - q) % (2 ^ 24 - 1)

/-- The value of a token (R149). -/
def tokenValue (slot seq : Nat) : Nat := slot * 2 ^ 24 + seq

/-- The entry of greatest age among some entries. [DEDUCED, log 53] -/
def oldest (next : Nat) (l : List (Nat × TokenEntry)) : Option (Nat × TokenEntry) :=
  l.foldl (fun b e => match b with
    | none => some e
    | some x => if ageOf next x.2.seq < ageOf next e.2.seq then some e else b) none

def TokState.inFlight : TokState → Bool
  | .pending | .ready | .running => true
  | _ => false

/-- R95: an earlier operation of the stream that overlaps and has not completed. -/
def ownInFlight (s : State) (h : Hart) (jobid : Nat) (parts : List FootPart) : Bool :=
  (getCore s h.core).tokens.any fun e =>
    e.2.holder == some jobid && e.2.strm == h.strm && e.2.state.inFlight && partsMeet e.2.foot parts

/-- R161, synchronous accesses: the oldest unordered operation of another stream that overlaps.
[DEDUCED, log 46] -/
def syncOverlap (s : State) (h : Hart) (jobid : Nat) (parts : List FootPart) : Option (Nat × TokenEntry) :=
  let c := getCore s h.core
  oldest c.nextSeq (c.tokens.filter fun e =>
    e.2.holder == some jobid && e.2.strm != h.strm && e.2.state != .cancelled && e.2.state != .faulted
      && !e.2.seen.getLsbD (strmIdx h.strm) && partsMeet e.2.foot parts)

/-- The first line two lists of parts share, as a line number. [DEDUCED, log 46] -/
def firstShared (xs ys : List FootPart) : Nat :=
  ((xs.flatMap fun x => ys.filterMap fun y =>
    if x.meets y then
      match x, y with
      | .spad a _ _, .spad c _ _ => some (max a c)
      | .glob a _ _, .glob c _ _ => some (max a c)
      | _, _ => some 0
    else none).foldl (fun (b : Option Nat) n => match b with
      | none => some n
      | some m => some (min m n)) none).getD 0

/-- Check 6 of R172, and the wait of R95, for an access at address `addr`, whose job offset, where it has
one, is `off`. TRADDR is the first overlapping address. -/
def orderChecks (s : State) (parts : List FootPart) (addr : Word) (off : Nat) : Exec Unit := do
  let j := curJob s
  let spadParts := parts.filter fun p => match p with | .spad .. => true | _ => false
  match (if detMode j then syncOverlap s s.cur j.ids.jobid spadParts else none) with
  | some (slot, e) =>
    .error (.trap .overlap (addr + BitVec.ofNat 64 (256 * firstShared spadParts e.foot - off))
      (BitVec.ofNat 64 (tokenValue slot e.seq)))
  | none => waitFor (!ownInFlight s s.cur j.ids.jobid parts) (.other none)

/-- The cause of a precise trap: LINK is deferred only (R426), so that a synchronous access over a link that
carries none of its partition's traffic takes PERM. [DEDUCED, log 31] -/
def Cause.precise (c : Cause) : Cause := if c = .link then .perm else c

/-- A failed access as a stop of a synchronous instruction (R172, R395). -/
def accStop (va : Word) : AccFail → Stop
  | .fault c => .trap c.precise va 0
  | .hostWait page => .wait (.host page)
  | .wait => .wait (.other none)

def liftAcc {α : Type} (va : Word) : Except AccFail α → Exec α
  | .ok x => .ok x
  | .error e => .error (accStop va e)

/-- The first failing byte address of a poisoned granule, for an access at `va` of base `base`. -/
def poisonAddr (va : Word) (base g : Nat) : Word := va + BitVec.ofNat 64 (8 * g - base)

/-! ### Synchronous loads and stores (R171–R175) -/

/-- The stores of this stream's own that the write-combining buffer holds over a range (R94). -/
def ownWc (s : State) (h : Hart) (pa : Nat) (bs : List Byte) : List Byte :=
  (s.ms.wc.filter fun w => w.hart == h).foldl (fun bs w =>
    bs.zipIdx.map fun e =>
      let a := pa + e.2
      if w.pa ≤ a && a < w.pa + w.bytes.length then w.bytes.getD (a - w.pa) e.1 else e.1) bs

/-! ### Reads performed ahead of program order (R87, R103, R110) -/

/-- The early reads of all streams of a job are used up. -/
def orderJobReads (s : State) (core slot : Nat) : State :=
  (hartsOf core slot).foldl orderReads s

/-- The streams of a slot leave it: nothing that they have read early is left, and what they have stored is
written. -/
def leaveReads (s : State) (core slot : Nat) : State :=
  finishStores (orderJobReads s core slot) fun h => h.core == core && h.slot == slot

def spadPlaces (sp n : Nat) : EarlyPlace → Bool
  | .spad g => (granules sp n).contains g
  | _ => false

/-- The bytes of a range, with the granules that the stream has read early as it read them. -/
def withEarly (s : State) (h : Hart) (place : Nat → EarlyPlace) (a : Nat) (bs : List Byte) : List Byte :=
  if s.ms.early.isEmpty then bs
  else
    (granules a bs.length).foldl (fun bs g =>
      match earlyAt s h (place g) with
      | none => bs
      | some v =>
        if 8 * g < a then overlay bs 0 (slice (leBytes 8 v.toNat) (a % 8) (min bs.length (8 - a % 8)))
        else overlay bs (8 * g - a) ((leBytes 8 v.toNat).take (min 8 (bs.length - (8 * g - a))))) bs

/-- The lines of a range are read through a view with a choice (R102): the free value is used up.
[DESIGN CHOICE, log 7] -/
def useFresh (s : State) (pa n : Nat) : State :=
  if (granules pa n).any fun g => (Tab.get? s.ms.comp (g / 32)).isSome then { s with fresh := s.fresh + 1 }
  else s

/-- How far into an access at a job offset the first byte lies that the range of the grant that holds the offset, where
one does, does not hold (R172, R187). [DEDUCED, log 116] -/
def firstOutside (a : Agent) (off : Nat) : Nat :=
  match a.job with
  | none => 0
  | some j =>
    if off < j.grant.half then j.grant.half - off
    else if Config.groupSplit ≤ off && off < Config.groupSplit + j.grant.half then
      Config.groupSplit + j.grant.half - off
    else 0

/-- How far into a store of `n` bytes the first sealed byte lies: sealed ranges are whole lines (R451).
[DEDUCED, log 116] -/
def firstSealed (a : Agent) (off n : Nat) : Nat :=
  (((List.range ((n + 255) / 256)).map (256 * ·)).find? fun d => inSealed a off (min n (d + 256))).getD 0

/-- The lines of an access at a job offset: place in the access, stash window, length. -/
def lineWins (a : Agent) (off : Nat) (win : Option (Nat × Nat)) (n : Nat) : List (Nat × Option (Nat × Nat) × Nat) :=
  if n ≤ 256 then [(0, win, n)]
  else (List.range ((n + 255) / 256)).map fun i =>
    (256 * i, a.job.bind fun j => winOfOff j (off + 256 * i), min 256 (n - 256 * i))

/-- Fill the stash lines of an access (R97). [DEDUCED, log 116] -/
def fillEach (s : State) (a : Agent) (off : Nat) (win : Option (Nat × Nat)) (va : Word) (n : Nat) : Exec State :=
  (lineWins a off win n).foldl (fun r x => r.bind fun s =>
    liftAcc (va + BitVec.ofNat 64 x.1) (fillRange s a x.2.1 x.2.2)) (.ok s)

/-- `n` bytes at a job offset, checks 2, 6 and 8 of R172; `va` is the address reported. -/
def loadSpad (s : State) (a : Agent) (l : Loc) (va : Word) (reported : Option Word) (n : Nat) :
    Exec (State × List Byte) :=
  match l with
  | .glob _ => .ok (s, [])
  | .spad off win viaVa => do
    match a.spad off n with
    | none => .error (.trap .perm (va + BitVec.ofNat 64 (firstOutside a off)) 0)
    | some sp =>
      if viaVa then
        let _ ← liftAcc va (agentXl s a va .read)
      let s ← fillEach s a off win va n
      orderChecks s (accessParts l reported n false) va off
      match spadPoisonIn s sp n with
      | some g => .error (.trap .poison (poisonAddr va sp g) 0)
      | none =>
        .ok (dropEarly s s.cur (spadPlaces sp n), withEarly s s.cur .spad sp (Memory.bytes s.ms.spad sp n))

/-- Whether the stream's own buffered stores give every byte of a WC access (R94): the granule is not read. -/
def coveredByWc (s : State) (x : Xl) (n : Nat) : Bool :=
  effType x == 1 && (List.range n).all fun i => s.ms.wc.any fun w =>
    w.hart == s.cur && w.pa ≤ x.pa + i && x.pa + i < w.pa + w.bytes.length

/-- A load of `n` bytes at a virtual address (R172, R174). -/
def load (s : State) (va : Word) (n : Nat) : Exec (State × List Byte) := do
  let a := curAgent s
  check (va.toNat % n == 0) .align va
  match locate a va with
  | .spad off win viaVa => loadSpad s a (.spad off win viaVa) va (some va) n
  | .glob _ =>
    let x ← liftAcc va (agentXl s a va .read)
    orderChecks s (accessParts (.glob va) (some va) n false) va 0
    check ((poisonIn s a.view x.pa n).isNone || coveredByWc s x n) .poison va
    let bs := readPa s a.view x.cmp x.pa n
    let bs := if effType x = 2 || x.cmp then bs else withEarly s s.cur .glob x.pa bs
    .ok (dropEarly (useFresh (readSeen s a.view x.pa n) x.pa n) s.cur (globPlaces x.pa n),
      if effType x = 1 then ownWc s s.cur x.pa bs else bs)

/-- Whether the chalk line compares this partition (R477). -/
def chalked (s : State) (p : Nat) : Bool :=
  bitOf (getDebug s p).chalk 0
    || s.parts.any fun e => bitOf e.2.dbgState.chalk 0 && bitsOf e.2.dbgState.chalk 1 3 == p

/-- A global line the stream has written (R477). -/
def noteWrite (s : State) (h : Hart) (p ipa pa : Nat) : State :=
  if chalked s p then
    modStream s h fun st => { st with written := Tab.set st.written (ipa / 256) (pa / 256) }
  else s

/-- A global line that an operation has written (R477). -/
def noteOpLine (s : State) (p core slot ipa pa : Nat) : State :=
  if chalked s p then
    modCore s core fun c => { c with tokens := Tab.modify c.tokens slot fun e =>
      { e with written := Tab.set e.written (ipa / 256) (pa / 256) } }
  else s

/-- A global line that an agent has written (R477). -/
def noteBy (s : State) (a : Agent) (ipa pa : Nat) : State :=
  match a.who with
  | .stream h _ _ _ => noteWrite s h a.part ipa pa
  | .op core slot _ => noteOpLine s a.part core slot ipa pa
  | .device _ _ => s
  | .queue _ _ _ => s

/-- A store to translated global memory: buffered, performed, or wet (R94, R113, R115). -/
def storeGlobal (s : State) (a : Agent) (x : Xl) (bs : List Byte) : State :=
  let s := dropEarly (noteWrite s a.hart a.part x.ipa x.pa) a.hart (globPlaces x.pa bs.length)
  if effType x = 2 then writePa s (a.part, a.jobid) (some a.jobid) x.cmp x.pa bs
  else if effType x = 1 then
    let s := modMs s fun m => { m with wc := m.wc ++ [⟨a.hart, a.jobid, x.pa, bs⟩] }
    if Config.wcLines < (wcBuffered s a.hart.core).length then evictWc s a.hart.core else s
  else writeWet s ⟨a.jobid, .stream a.hart.strm, none⟩ x.cmp x.pa bs

/-- The executing stream stores bytes in the scratchpads, or, where its store is split, in some granules now and in the
others later (R103). -/
def ownStore (s : State) (sp : Nat) (bs : List Byte) : State :=
  let s := dropEarly s s.cur (spadPlaces sp bs.length)
  match s.ms.split with
  | none => writeSpad s sp bs
  | some gs => (granules sp bs.length).foldl (fun s g =>
      let p := granulePart sp bs g
      if gs.contains g then writeSpad s (8 * g + p.1) p.2
      else modMs s fun m => { m with begun := m.begun ++ [⟨s.cur, 8 * g + p.1, p.2⟩] }) s

/-- A write in a stash window: the granules are dirty, and the line the window shows is one that the stream has
written (R97, R477). -/
def dirtyWin (s : State) (a : Agent) (win : Option (Nat × Nat)) (n : Nat) : State :=
  let s := dirtyRange s a win n
  match win, a.job with
  | some (w, o), some j =>
    if chalked s a.part then
      match agentXl s a (BitVec.ofNat 64 (stashVbase j w + o / 256 * 256)) .write with
      | .ok x => noteBy s a x.ipa x.pa
      | .error _ => s
    else s
  | _, _ => s

/-- A store of bytes at a job offset, checks 2, 5, 6 of R172. -/
def storeSpad (s : State) (a : Agent) (l : Loc) (va : Word) (reported : Option Word) (bs : List Byte) :
    Exec State :=
  match l with
  | .glob _ => .ok s
  | .spad off win viaVa => do
    match a.spad off bs.length with
    | none => .error (.trap .perm (va + BitVec.ofNat 64 (firstOutside a off)) 0)
    | some sp =>
      if viaVa then
        let _ ← liftAcc va (agentXl s a va .write)
      let s ← fillEach s a off win va bs.length
      check (!inSealed a off bs.length) .sealedRange (va + BitVec.ofNat 64 (firstSealed a off bs.length))
      orderChecks s (accessParts l reported bs.length true) va off
      .ok ((lineWins a off win bs.length).foldl (fun s x => dirtyWin s a x.2.1 x.2.2) (ownStore s sp bs))

/-- A store of bytes at a virtual address (R172, R174). -/
def store (s : State) (va : Word) (bs : List Byte) : Exec State := do
  let a := curAgent s
  check (va.toNat % bs.length == 0) .align va
  match locate a va with
  | .spad off win viaVa => storeSpad s a (.spad off win viaVa) va (some va) bs
  | .glob _ =>
    let x ← liftAcc va (agentXl s a va .write)
    orderChecks s (accessParts (.glob va) (some va) bs.length true) va 0
    check (effType x == 2 || quotaOk s a.jobid ((curJob s).ids.verQuota) x.pa bs.length) .version va
    .ok (storeGlobal s a x bs)

/-! ### Releases and acquires (R98, R99, R108–R111, R114) -/

/-- What comes before every release of the executing stream: buffered WC stores; at scope core or wider the
dirty stash granules; and the early cure of the job's wet lines (R94, R99, R114). -/
def earlyCure (s : State) (scope : Nat) : State :=
  let s := flushWc s s.cur.core
  let s := cure s (curJob s).ids.jobid
  if 1 ≤ scope then stashWriteBack s s.cur.core (curJob s) else s

/-- The release of a FENCE or of a barrier arrival: what comes before it, then every write of the stream, and of the
operations that it has waited for, is performed at the scope (R110). [DEDUCED, log 35] -/
def releaseSide (s : State) (scope : Nat) : State :=
  publish (earlyCure s scope) scope fun e => e.byStream (curJob s).ids.jobid s.cur.strm

/-- The physical address of a byte of a bound region, whatever its page permits.
[DESIGN CHOICE, log 127] -/
def boundPa (s : State) (p pasid : Nat) (va : Word) : Option Nat :=
  [AccKind.read, .write, .fetch].findSome? fun k =>
    match translate s p pasid va k with
    | .ok x => some (hostReach s (clusterOf s.cur.core) x.pa)
    | .error _ => none

/-- Whether a granule lies in a region bound to an object (R107); an object is named by its virtual address alone.
[DESIGN CHOICE, log 127] -/
def boundTo (s : State) (object : Word) (g : Nat) : Bool :=
  let p := (curJob s).ids.part
  (getPart s p).bindings.any fun b => b.object == object
    && (List.range (b.length.toNat / 256)).any fun i =>
      (boundPa s p b.pasid (b.base + BitVec.ofNat 64 (256 * i))).any fun pa => pa / 256 == g / 32

/-- The release of a REL on an object (R108): of the writes to regions bound to it, those of the stream, of the
operations it has waited for, and those it has observed through an acquire on it.
[DESIGN CHOICE, log 119, 127] -/
def releaseObject (s : State) (scope : Nat) (object : Word) : State :=
  let me := (curJob s).ids.jobid
  publish (earlyCure s scope) scope fun e =>
    (e.byStream me s.cur.strm || e.acquired.contains (me, s.cur.strm, object)) && boundTo s object e.granule

/-- Whether an acquire at a scope leaves what a stream has read early: nothing that an agent of the scope has written
since is missed by it (R92). [DESIGN CHOICE, log 119] -/
def EarlyRead.outlives (s : State) (scope : Nat) (e : EarlyRead) : Bool :=
  match e.place with
  | .glob _ => !(e.missed.any fun w =>
      w.within scope (curJob s).ids.jobid (some s.cur.core) (some (curJob s).ids.part))
  | _ => false

/-- What an acquire of the executing stream performs: no later read is older, as observed by the members of the scope
and for the places that it orders, and at scope core or wider its stale stash lines are refilled (R98, R110).
[DESIGN CHOICE, log 119] -/
def acquirePlaces (s : State) (scope : Nat) (orders : EarlyPlace → Bool) : State :=
  let s :=
    if s.ms.early.isEmpty then s
    else modMs s fun m => { m with early := m.early.filter fun e =>
      e.hart != s.cur || e.outlives s scope || !orders e.place }
  if 1 ≤ scope then stashRefresh s s.cur.core (curJob s) else s

def acquireSide (s : State) (scope : Nat) : State := acquirePlaces s scope fun _ => true

/-- The acquire of an ACQ on an object (R109): what it observes of the lines bound to it, a later REL on the object
publishes; lines that are not bound to it may still be read as before (R112, R127).
[DESIGN CHOICE, log 119, 127] -/
def acquireObject (s : State) (scope : Nat) (object : Word) : State :=
  let a := curAgent s
  let s :=
    if s.ms.late.isEmpty then s
    else modMs s fun m => { m with late := m.late.map fun e =>
      if e.job != a.jobid && e.seenBy a.view && boundTo s object e.granule then
        { e with acquired := e.acquired ++ [(a.jobid, a.hart.strm, object)] }
      else e }
  acquirePlaces s scope fun p =>
    match p with
    | .glob g => boundTo s object g
    | _ => true

/-- The early cure and stash write-back of an atomic or SWSET at scope core or wider, which publishes nothing (R94,
R111, R114). [DESIGN CHOICE, log 119] -/
def atomicSide (s : State) (scope : Nat) : State := if 1 ≤ scope then earlyCure s scope else s

end Sys2Proof.Machine
end

