-- ==== Sys2Proof/Machine/Chalk.lean ====
section
/-! DEFINITION. The chalk-line comparison (R477): the keys and hashes of counted releases. -/

namespace Sys2Proof.Machine

/-- The hash of one line: the first 8 bytes of SHA-512 over the line's IPA and its bytes (R477).
[DEDUCED, log 41] -/
def lineHash (s : State) (v : Viewer) (e : Nat × Nat) : Nat :=
  ofLe ((sha512 (leBytes 8 e.1 ++ readPa s v false (256 * e.2) 256)).take 8)

/-- Put one side's hash of a key into the list of counted releases; a repeated key takes the later hash.
[DEDUCED, log 41] -/
def chalkPut (sideA : Bool) (key : Nat × Nat × Nat × Nat × Nat) (h : Word) :
    List ChalkEntry → List ChalkEntry
  | [] => [⟨key, if sideA then some h else none, if sideA then none else some h⟩]
  | e :: es =>
    if e.key = key then (if sideA then { e with hashA := some h } else { e with hashB := some h }) :: es
    else e :: chalkPut sideA key h es

/-- A counted release of the executing stream (R477): REL, FENCE release side at scope core or wider, a
BAR arrival, END. -/
def countedRelease (s : State) : State :=
  let p := curPart s
  if chalked s p then
    let j := curJob s
    let st := curStream s
    let h : Word := BitVec.ofNat 64 ((st.written.map (lineHash s (curAgent s).view)).sum)
    let key := (j.ids.launch - (getPart s p).shareFirst, j.ids.armseq, j.ids.record, strmIdx s.cur.strm,
      st.releases)
    let s := modCurStream s fun st => { st with releases := st.releases + 1, written := [] }
    { s with parts := s.parts.map fun e =>
        let c := e.2.dbgState.chalk
        if bitOf c 0 && (e.1 == p || bitsOf c 1 3 == p) then
          (e.1, { e.2 with dbgState := { e.2.dbgState with
            chalkKeys := chalkPut (e.1 == p) key h e.2.dbgState.chalkKeys } })
        else e }
  else modCurStream s fun st => { st with releases := st.releases + 1 }

/-- Lexicographic order of keys. -/
def keyLe (a b : Nat × Nat × Nat × Nat × Nat) : Bool :=
  let x := [a.1, a.2.1, a.2.2.1, a.2.2.2.1, a.2.2.2.2]
  let y := [b.1, b.2.1, b.2.2.1, b.2.2.2.1, b.2.2.2.2]
  match (x.zip y).find? fun e => e.1 != e.2 with
  | some e => e.1 < e.2
  | none => true

/-- The key as one word: share offset [12:0], stream [14:13], ARMSEQ [31:16] and record and ordinal
[47:32], [63:48], each modulo its field. [DEDUCED, log 41] -/
def keyWord (k : Nat × Nat × Nat × Nat × Nat) : Word :=
  BitVec.ofNat 64 (k.1 % 2 ^ 13 + k.2.2.2.1 % 4 * 2 ^ 13 + k.2.1 % 2 ^ 16 * 2 ^ 16
    + k.2.2.1 % 2 ^ 16 * 2 ^ 32 + k.2.2.2.2 % 2 ^ 16 * 2 ^ 48)

end Sys2Proof.Machine
end

