-- ==== Sys2Proof/Machine/Scalar.lean ====
section
/-! DEFINITION. Scalar arithmetic, predicates, mask pairs, immediates and the lane-mask stack (R64–R71,
R85, R218). -/

namespace Sys2Proof.Machine

/-! ### Values (R65, R66) -/

/-- Division by zero gives all ones (R66). -/
def divS (a b : Word) : Word := if b = 0 then BitVec.allOnes 64 else a.sdiv b

def divU (a b : Word) : Word := if b = 0 then BitVec.allOnes 64 else a / b

def remS (a b : Word) : Word := if b = 0 then a else a.srem b

def remU (a b : Word) : Word := if b = 0 then a else a % b

/-- High 64 bits of the signed product. -/
def mulHigh (a b : Word) : Word := BitVec.ofInt 64 (a.toInt * b.toInt / 2 ^ 64)

def mulHighU (a b : Word) : Word := BitVec.ofNat 64 (a.toNat * b.toNat / 2 ^ 64)

def minS (a b : Word) : Word := if a.toInt ≤ b.toInt then a else b

def maxS (a b : Word) : Word := if a.toInt ≤ b.toInt then b else a

def minU (a b : Word) : Word := if a.toNat ≤ b.toNat then a else b

def maxU (a b : Word) : Word := if a.toNat ≤ b.toNat then b else a

/-- The shift amount S(b)[5:0] (R65). -/
def amount (b : Word) : Nat := b.toNat % 64

/-- Leading zero bits; 64 for zero. -/
def leadingZeros (a : Word) : Word := if a = 0 then 64 else BitVec.ofNat 64 (63 - Nat.log2 a.toNat)

/-- Trailing zero bits; 64 for zero. -/
def trailingZeros (a : Word) : Word :=
  BitVec.ofNat 64 (((List.range 64).find? fun i => a.getLsbD i).getD 64)

/-- Number of one bits. -/
def onesCount {n : Nat} (a : BitVec n) : Nat := ((List.range n).filter fun i => a.getLsbD i).length

/-- Bit i moved to bit 63 − i. -/
def bitReverse (a : Word) : Word :=
  BitVec.ofNat 64 ((List.range 64).foldl (fun r i => 2 * r + b2n (a.getLsbD i)) 0)

/-! ### Shapes -/

/-- S(d) := f (S(a), S(b)), guarded. -/
def alu (i : Instr) (g : Guard) (d a b : Reg) (f : Word → Word → Word) (s : State) : Result :=
  simple i (some g) (fun s => wr s d (f (rd s a) (rd s b))) s

/-- S(d) := f (S(a)), unguarded. -/
def aluImm (i : Instr) (d a : Reg) (f : Word → Word) (s : State) : Result :=
  simple i none (fun s => wr s d (f (rd s a))) s

/-- p(d) := f (S(a), S(b)), guarded (R70). -/
def pset (i : Instr) (g : Guard) (d : BitVec 4) (a b : Reg) (f : Word → Word → Bool) (s : State) : Result :=
  simple i (some g) (fun s => wp s d (f (rd s a) (rd s b))) s

/-- p(d) := f (p(a), p(b)), guarded (R70). -/
def plog (i : Instr) (g : Guard) (d a b : BitVec 4) (f : Bool → Bool → Bool) (s : State) : Result :=
  simple i (some g) (fun s => wp s d (f (rp s a) (rp s b))) s

/-- An instruction of the C-stream that always completes. -/
def simpleC (i : Instr) (g : Option Guard) (f : State → State) (s : State) : Result :=
  issue i [.c] g free (fun s => .ok (.next (f s))) s

/-! ### R64–R66 -/

/-- R64. -/
def execNop (g : Guard) (s : State) : Result := simple (.nop g) (some g) (fun s => s) s

/-- R65. -/
def execAdd (g : Guard) (d a b : Reg) (s : State) : Result := alu (.add g d a b) g d a b (· + ·) s
def execSub (g : Guard) (d a b : Reg) (s : State) : Result := alu (.sub g d a b) g d a b (· - ·) s
def execAnd (g : Guard) (d a b : Reg) (s : State) : Result := alu (.and g d a b) g d a b (· &&& ·) s
def execOr (g : Guard) (d a b : Reg) (s : State) : Result := alu (.or g d a b) g d a b (· ||| ·) s
def execXor (g : Guard) (d a b : Reg) (s : State) : Result := alu (.xor g d a b) g d a b (· ^^^ ·) s
def execShl (g : Guard) (d a b : Reg) (s : State) : Result :=
  alu (.shl g d a b) g d a b (fun x y => x <<< amount y) s
def execShr (g : Guard) (d a b : Reg) (s : State) : Result :=
  alu (.shr g d a b) g d a b (fun x y => x >>> amount y) s
def execSra (g : Guard) (d a b : Reg) (s : State) : Result :=
  alu (.sra g d a b) g d a b (fun x y => x.sshiftRight (amount y)) s
def execMul (g : Guard) (d a b : Reg) (s : State) : Result := alu (.mul g d a b) g d a b (· * ·) s
def execMulh (g : Guard) (d a b : Reg) (s : State) : Result := alu (.mulh g d a b) g d a b mulHigh s
def execMulhu (g : Guard) (d a b : Reg) (s : State) : Result := alu (.mulhu g d a b) g d a b mulHighU s

/-- R66. -/
def execDiv (g : Guard) (d a b : Reg) (s : State) : Result := alu (.div g d a b) g d a b divS s
def execDivu (g : Guard) (d a b : Reg) (s : State) : Result := alu (.divu g d a b) g d a b divU s
def execRem (g : Guard) (d a b : Reg) (s : State) : Result := alu (.rem g d a b) g d a b remS s
def execRemu (g : Guard) (d a b : Reg) (s : State) : Result := alu (.remu g d a b) g d a b remU s

def execMin (g : Guard) (d a b : Reg) (s : State) : Result := alu (.min g d a b) g d a b minS s
def execMinu (g : Guard) (d a b : Reg) (s : State) : Result := alu (.minu g d a b) g d a b minU s
def execMax (g : Guard) (d a b : Reg) (s : State) : Result := alu (.max g d a b) g d a b maxS s
def execMaxu (g : Guard) (d a b : Reg) (s : State) : Result := alu (.maxu g d a b) g d a b maxU s

def execClz (g : Guard) (d a : Reg) (s : State) : Result :=
  alu (.clz g d a) g d a 0 (fun x _ => leadingZeros x) s
def execCtz (g : Guard) (d a : Reg) (s : State) : Result :=
  alu (.ctz g d a) g d a 0 (fun x _ => trailingZeros x) s
def execPopc (g : Guard) (d a : Reg) (s : State) : Result :=
  alu (.popc g d a) g d a 0 (fun x _ => BitVec.ofNat 64 (onesCount x)) s
def execBrev (g : Guard) (d a : Reg) (s : State) : Result :=
  alu (.brev g d a) g d a 0 (fun x _ => bitReverse x) s

/-- R68: no guard; P(p) XOR pn chooses. -/
def execSel (g : Guard) (d a b : Reg) (s : State) : Result :=
  simple (.sel g d a b) none (fun s => wr s d (if guardOk s g then rd s a else rd s b)) s

/-! ### Predicates and mask pairs (R70, R71) -/

def execPsetEq (g : Guard) (d : BitVec 4) (a b : Reg) (s : State) : Result :=
  pset (.psetEq g d a b) g d a b (· == ·) s
def execPsetNe (g : Guard) (d : BitVec 4) (a b : Reg) (s : State) : Result :=
  pset (.psetNe g d a b) g d a b (· != ·) s
def execPsetLt (g : Guard) (d : BitVec 4) (a b : Reg) (s : State) : Result :=
  pset (.psetLt g d a b) g d a b (fun x y => decide (x.toInt < y.toInt)) s
def execPsetLtu (g : Guard) (d : BitVec 4) (a b : Reg) (s : State) : Result :=
  pset (.psetLtu g d a b) g d a b (fun x y => decide (x.toNat < y.toNat)) s
def execPsetGe (g : Guard) (d : BitVec 4) (a b : Reg) (s : State) : Result :=
  pset (.psetGe g d a b) g d a b (fun x y => decide (y.toInt ≤ x.toInt)) s
def execPsetGeu (g : Guard) (d : BitVec 4) (a b : Reg) (s : State) : Result :=
  pset (.psetGeu g d a b) g d a b (fun x y => decide (y.toNat ≤ x.toNat)) s

def execPlogAnd (g : Guard) (d a b : BitVec 4) (s : State) : Result :=
  plog (.plogAnd g d a b) g d a b (· && ·) s
def execPlogOr (g : Guard) (d a b : BitVec 4) (s : State) : Result :=
  plog (.plogOr g d a b) g d a b (· || ·) s
def execPlogXor (g : Guard) (d a b : BitVec 4) (s : State) : Result :=
  plog (.plogXor g d a b) g d a b (· != ·) s
def execPlogAndn (g : Guard) (d a b : BitVec 4) (s : State) : Result :=
  plog (.plogAndn g d a b) g d a b (fun x y => x && !y) s

def execPmov (g : Guard) (d : BitVec 4) (a : Reg) (s : State) : Result :=
  simple (.pmov g d a) (some g) (fun s => wp s d (rd s a != 0)) s
def execPmovGet (g : Guard) (d : Reg) (s : State) : Result :=
  simple (.pmovGet g d) (some g) (fun s => wr s d (predsValue (curStream s))) s
/-- p1–p15 := bits [15:1] of S(a); p0 is not written (R70). -/
def execPmovPut (g : Guard) (a : Reg) (s : State) : Result :=
  simple (.pmovPut g a) (some g) (fun s =>
    modCurStream s fun st =>
      { st with preds := ((rd s a).setWidth 16 &&& 0xFFFE) ||| (st.preds &&& 1) }) s

def execKsetRow (g : Guard) (d : BitVec 3) (a : Reg) (s : State) : Result :=
  simpleC (.ksetRow g d a) (some g) (fun s =>
    modCurJob s fun j => setRowMask j d ((rd s a).setWidth 16)) s
def execKsetCol (g : Guard) (d : BitVec 3) (a : Reg) (s : State) : Result :=
  simpleC (.ksetCol g d a) (some g) (fun s => modCurJob s fun j => setColMask j d (rd s a)) s
def execKsetBoth (g : Guard) (d : BitVec 3) (a b : Reg) (s : State) : Result :=
  simpleC (.ksetBoth g d a b) (some g) (fun s =>
    modCurJob s fun j => setColMask (setRowMask j d ((rd s a).setWidth 16)) d (rd s b)) s
def execKgetRow (g : Guard) (d : Reg) (a : BitVec 3) (s : State) : Result :=
  simpleC (.kgetRow g d a) (some g) (fun s => wr s d ((rowMask (curJob s) a).setWidth 64)) s
def execKgetCol (g : Guard) (d : Reg) (a : BitVec 3) (s : State) : Result :=
  simpleC (.kgetCol g d a) (some g) (fun s => wr s d (colMask (curJob s) a)) s

/-! ### Immediates (R67, R69) -/

def execAddi (d a : Reg) (i : BitVec 13) (s : State) : Result := aluImm (.addi d a i) d a (· + sext i) s
def execAndi (d a : Reg) (i : BitVec 13) (s : State) : Result :=
  aluImm (.andi d a i) d a (· &&& i.setWidth 64) s
def execOri (d a : Reg) (i : BitVec 13) (s : State) : Result :=
  aluImm (.ori d a i) d a (· ||| i.setWidth 64) s
def execXori (d a : Reg) (i : BitVec 13) (s : State) : Result :=
  aluImm (.xori d a i) d a (· ^^^ i.setWidth 64) s
def execShli (d a : Reg) (i : BitVec 6) (s : State) : Result :=
  aluImm (.shli d a i) d a (· <<< i.toNat) s
def execShri (d a : Reg) (i : BitVec 6) (s : State) : Result :=
  aluImm (.shri d a i) d a (· >>> i.toNat) s
def execSrai (d a : Reg) (i : BitVec 6) (s : State) : Result :=
  aluImm (.srai d a i) d a (fun x => x.sshiftRight i.toNat) s

/-- R69. -/
def execLdhi (d : Reg) (i : BitVec 18) (s : State) : Result :=
  simple (.ldhi d i) none (fun s => wr s d (sext i <<< 13)) s
def execAddpc (d : Reg) (i : BitVec 18) (s : State) : Result :=
  simple (.addpc d i) none (fun s => wr s d ((curStream s).pc + sext i <<< 2)) s

/-! ### The lane-mask stack (R23, R85) -/

/-- A QUEUE trap with this QCODE (R142). -/
def queueTrap (code : Nat) : Stop := .trap .queue (BitVec.ofNat 64 code) 0

/-- R85: push `top AND v`, unless the depth is 16. -/
def pushMask (v : State → BitVec 64) (s : State) : Exec Effect :=
  if 16 ≤ (curJob s).maskStack.length then .error (queueTrap 19)
  else .ok (.next (modCurJob s fun j => { j with maskStack := (maskTop j &&& v s) :: j.maskStack }))

def execMpush (g : Guard) (a : Reg) (s : State) : Result :=
  issue (.mpush g a) [.c] (some g) free (pushMask fun s => rd s a) s
def execMpushPair (g : Guard) (a : BitVec 3) (s : State) : Result :=
  issue (.mpushPair g a) [.c] (some g) free (pushMask fun s => colMask (curJob s) a) s

/-- MINV: top := (NOT top) AND the entry below it. -/
def execMinv (g : Guard) (s : State) : Result :=
  issue (.minv g) [.c] (some g) free (fun s =>
    match (curJob s).maskStack with
    | top :: below :: rest =>
      .ok (.next (modCurJob s fun j => { j with maskStack := (~~~top &&& below) :: below :: rest }))
    | _ => .error (queueTrap 19)) s

def execMpop (g : Guard) (s : State) : Result :=
  issue (.mpop g) [.c] (some g) free (fun s =>
    match (curJob s).maskStack with
    | _ :: below :: rest => .ok (.next (modCurJob s fun j => { j with maskStack := below :: rest }))
    | _ => .error (queueTrap 19)) s

/-! ### KVSLOT (R218) -/

/-- R218: the slot of position S(b)[5:0] in bitmap S(a). -/
def kvSlot (bitmap : Word) (p : Nat) : Word :=
  if bitmap.getLsbD p then BitVec.ofNat 64 (onesCount (bitmap &&& BitVec.ofNat 64 (2 ^ p - 1)))
  else BitVec.allOnes 64

def execKvslot (g : Guard) (d a b : Reg) (s : State) : Result :=
  alu (.kvslot g d a b) g d a b (fun x y => kvSlot x (amount y)) s

end Sys2Proof.Machine
end

