-- ==== Sys2Proof/Machine/Control.lean ====
section
/-! DEFINITION. Branches, jumps, branch-outcome queues, LOOP, the scalar queues, TRAPI, TRET and the
observation instructions (R72–R80, R85, R189, R430, R431, R468, R472, R476). -/

namespace Sys2Proof.Machine

/-- A branch target: an offset in parcels from the instruction (R43). -/
def target {n : Nat} (s : State) (o : BitVec n) : Word := (curStream s).pc + sext o <<< 2

/-- The address of the next sequential instruction. -/
def nextPc (s : State) (i : Instr) : Word := (curStream s).pc + BitVec.ofNat 64 i.size

/-- The instruction completes and the stream continues, as in sequence, at `t` (R78). -/
def continueAt (s : State) (t : Word) : State :=
  modCurStream (sampleWait s s.cur) fun st => seqTo (countIssue st) t

/-! ### Branches and jumps (R72–R75, R85) -/

def execBr (g : Guard) (ht : Bool) (o : BitVec 17) (s : State) : Result :=
  issue (.br g ht o) allStrms (some g) free (fun s => .ok (.jump s (target s o))) s

def execJmp (i : BitVec 18) (s : State) : Result :=
  issue (.jmp i) allStrms none free (fun s => .ok (.jump s (target s i))) s

def execJal (d : Reg) (i : BitVec 18) (s : State) : Result :=
  issue (.jal d i) allStrms none free (fun s =>
    .ok (.jump (wr s d ((curStream s).pc + 4)) (target s i))) s

/-- R73: a target that is not a multiple of 4 takes ALIGN with TRADDR the target, before any write. -/
def execJalr (d a : Reg) (i : BitVec 13) (s : State) : Result :=
  issue (.jalr d a i) allStrms none free (fun s =>
    let t := rd s a + sext i <<< 2
    if t.toNat % 4 = 0 then .ok (.jump (wr s d ((curStream s).pc + 4)) t)
    else .error (.trap .align t 0)) s

/-- R75: b0 is read by C, b1 by S. -/
def execBrq (q pn ht : Bool) (o : BitVec 17) (s : State) : Result :=
  issue (.brq q pn ht o) [if q then .s else .c] none free (fun s =>
    match (curJob s).queues.b[(if q then 1 else 0 : Fin 2)] with
    | [] => .error (.wait (.queue (12 + b2n q)))
    | v :: _ =>
      let s := popBit s (b2n q)
      .ok (if v != pn then .jump s (target s o) else .next s)) s

/-- R75: L pushes b0, C pushes b1. -/
def execPushb (g : Guard) (a : BitVec 4) (s : State) : Result :=
  issue (.pushb g a) [.l, .c] (some g) free (fun s =>
    let q := if s.cur.strm = .l then 0 else 1
    if queueLength (curJob s).queues (12 + q) < 32 then .ok (.next (pushBit (drainWc s s.cur) q (rp s a)))
    else .error (.wait (.queue (12 + q)))) s

def execBmz (ht : Bool) (o : BitVec 17) (s : State) : Result :=
  issue (.bmz ht o) [.c] none free (fun s =>
    .ok (if maskTop (curJob s) = 0 then .jump s (target s o) else .next s)) s

/-! ### Scalar queues (R27, R189) -/

/-- The writer and the reader of sq0–sq3 (R27). -/
def sqWriter (f : BitVec 2) : Strm :=
  match f.toNat with
  | 0 => .l
  | 3 => .s
  | _ => .c

def sqReader (f : BitVec 2) : Strm :=
  match f.toNat with
  | 0 => .c
  | 1 => .s
  | _ => .l

def execSqpush (g : Guard) (f : BitVec 2) (a : Reg) (s : State) : Result :=
  issue (.sqpush g f a) [sqWriter f] (some g) free (fun s =>
    if queueLength (curJob s).queues (8 + f.toNat) < 16 then .ok (.next (pushScalar (drainWc s s.cur) f.toNat (rd s a)))
    else .error (.wait (.queue (8 + f.toNat)))) s

def execSqpop (g : Guard) (f : BitVec 2) (d : Reg) (s : State) : Result :=
  issue (.sqpop g f d) [sqReader f] (some g) free (fun s =>
    match (curJob s).queues.sq[f.toFin] with
    | [] => .error (.wait (.queue (8 + f.toNat)))
    | v :: _ => .ok (.next (wr (popScalar s f.toNat) d v))) s

/-! ### LOOP (R76–R78) -/

/-- A field that is all zero is unused (R76). -/
def rotUsed (r : RotField) : Bool := r.pack != 0

def loopRots (o : LoopOp) : List RotField :=
  [o.rot0, o.rot1, o.rot2, o.rot3, o.rot4, o.rot5, o.rot6, o.rot7].filter rotUsed

def rotFirst (r : RotField) : Nat := r.base.toNat

def rotLast (r : RotField) : Nat := r.base.toNat + r.len.toNat

/-- Whether no two of these rings share a row (R77). -/
def ringsApart : List RotField → Bool
  | [] => true
  | r :: rs => rs.all (fun q => rotLast r < rotFirst q || rotLast q < rotFirst r) && ringsApart rs

/-- The LOOP that the instruction would make active, in kernel iteration 0 (R77). -/
def loopState (s : State) (o : LoopOp) : LoopState :=
  let start := (curStream s).pc + 24
  { start := start, stop := start + BitVec.ofNat 64 (4 * o.body.toNat), stages := o.st.toNat + 1,
    sp := o.sp.toNat, rots := loopRots o, trips := (rd s o.trip).toNat, j := 0,
    inHandler := trapActive (curStream s) }

/-- The stage predicates of two LOOPs have one in common. -/
def stagesMeet (a b : LoopState) : Bool :=
  a.sp != 0 && b.sp != 0 && a.sp < b.sp + b.stages && b.sp < a.sp + a.stages

/-- The checks of R77. A LOOP that is suspended while the handler is active (R429) does not confine the
handler's own loops. -/
def loopOk (s : State) (o : LoopOp) (l : LoopState) : Bool :=
  let st := curStream s
  o.body != 0
  && (if o.st = 0 then o.sp == 0 else o.sp != 0)
  && o.sp.toNat + o.st.toNat ≤ 15
  && (loopRots o).all (fun r => rotLast r ≤ 1023) && ringsApart (loopRots o)
  && ((loopRots o).isEmpty || s.cur.strm == .c)
  && st.loops.length < 4
  && st.loops.all (fun x => (l.inHandler && !x.inHandler) || (x.start ≤ l.start && l.stop ≤ x.stop))
  && st.loops.all (fun x => !stagesMeet l x)

def execLoop (o : LoopOp) (s : State) : Result :=
  issue (.loop o) allStrms none free (fun s =>
    let l := loopState s o
    if !loopOk s o l then .error (.trap .illegal 0 0)
    else if kernels l = 0 then .ok (.done (continueAt (record s (.loop o) false) l.stop))
    else .ok (.done (modCurStream (continueAt (record s (.loop o) false) l.start) fun st =>
      { st with loops := l :: st.loops, preds := stagePreds l 0 st.preds }))) s

/-! ### TRAPI, TRET (R430, R431) -/

/-- A trap that TRET resumes after: the instruction counts as issued (R426, R468). -/
def trapSkip (s : State) (i : Instr) (c : Cause) (addr : Word) : State :=
  takeTrap (modCurStream (record s i false) countIssue) s.cur (trapOf s i c addr 0 true)

def execTrapi (i : BitVec 18) (s : State) : Result :=
  issue (.trapi i) allStrms none free (fun s =>
    .ok (.done (trapSkip s (.trapi i) .swTrap (i.setWidth 64)))) s

/-- Bytes of an instruction whose first parcel is `w` (R431): 4 for the reserved class. -/
def classLength (w : Word) : Nat :=
  match w.toNat % 4 with
  | 1 => 12
  | 2 => 24
  | _ => 4

/-- The address TRET resumes at (R431). [DEDUCED, log 18] -/
def tretTarget (st : Stream) : Word :=
  if bitOf st.trap.cause 8 then st.returnPoint
  else if bitOf st.trap.cause 10 then st.trap.pc + BitVec.ofNat 64 (classLength st.trap.words[0])
  else st.trap.pc

/-- The stream after TRET: ACTIVE cleared, the handler's LOOPs inactive (R429, R431). [DEDUCED, log 18] -/
def leaveHandler (st : Stream) : Stream :=
  { st with
    trap := { st.trap with cause := st.trap.cause &&& ~~~(1#64 <<< 9) }
    loops := st.loops.filter fun l => !l.inHandler }

def execTret (s : State) : Result :=
  issue .tret allStrms none free (fun s =>
    if trapActive (curStream s) then
      .ok (.done (modCurStream (record s .tret false) fun st => seqTo (leaveHandler (countIssue st)) (tretTarget st)))
    else .error (.trap .illegal 0 0)) s

/-! ### Observation (R468, R472, R476) -/

/-- R468: a stop of the partition where DBG control bit 0 is set and it is not sealed, else BREAK; in a handler it
aborts the job, whatever the debug state. [DEDUCED, log 19] -/
def execBrk (i : BitVec 18) (s : State) : Result :=
  issue (.brk i) allStrms none free (fun s =>
    let p := curPart s
    if bitOf (getDebug s p).buffer 0 && !isSealed s p && !trapActive (curStream s) then
      .ok (.next (requestStop s p 2 i.toNat))
    else .ok (.done (trapSkip s (.brk i) .brk (i.setWidth 64)))) s

def execSnap (i : BitVec 18) (s : State) : Result :=
  issue (.snap i) allStrms none free (fun s => .ok (.next (fireTrigger s (curPart s) i.toNat 0))) s

/-- The value marker of R470, R472; sealed partitions leave the value out (R407). -/
def valueMarker (s : State) (n : Nat) (v : Word) : State :=
  let p := curPart s
  if bitOf (getDebug s p).traceCtl 10 then
    traceMarker s s.cur 1 (leBytes 2 n ++ if isSealed s p then [] else leBytes 8 v.toNat)
  else s

def execTrcm (a : Reg) (i : BitVec 13) (s : State) : Result :=
  issue (.trcm a i) allStrms none free (fun s =>
    .ok (.done (advance (valueMarker (record s (.trcm a i) false) i.toNat (rd s a)) (.trcm a i)))) s

end Sys2Proof.Machine
end

