-- ==== Sys2Proof/Machine/Peers.lean ====
section
/-! DEFINITION. The sending side of the peer fabric (R420, R421, R462): who the peers are, and release flags, each
sent after the data it covers and one at a time toward a receiving partition. -/

namespace Sys2Proof.Machine

/-- The fabric id of a partition (R403, FABJOIN). -/
def fabricOf (s : State) (p : Nat) : Word := (getPart s p).fabric

def ownChip (s : State) : Nat := bitsOf s.fabric.chips0 0 8

/-- The peers joined to a partition: chip and partition (R411, R420). -/
def joinedPeers (s : State) (p : Nat) : List (Nat × Nat) :=
  (getPart s p).joined.filterMap fun e =>
    if bitOf e.2 11 then some (bitsOf e.2 0 8, bitsOf e.2 8 3) else none

/-- Sequence number of the next flag from a partition to a peer partition, and the counter after (R421). -/
def nextSeqTo (s : State) (p chip target : Nat) : State × BitVec 32 :=
  let key := (p, chip, target)
  let q : BitVec 32 := ((s.fabric.sendSeq.find? fun e => e.1 == key).map (·.2)).getD 1
  ({ s with fabric := { s.fabric with
      sendSeq := (key, q + 1) :: s.fabric.sendSeq.filter fun e => e.1 != key } }, q)

/-- Whether two flags go from one partition to one peer partition. -/
def sameLine (f g : OutFlag) : Bool := f.part == g.part && f.chip == g.chip && f.target == g.target

/-- Whether a flag is the oldest undelivered one of its source and receiver: the only one under way (R462). -/
def headFlag (s : State) (f : OutFlag) : Bool := s.fabric.pending.find? (sameLine f) == some f

/-- The data that a flag covers, written at the peer before it (R421). -/
def flagData : FlagBody → List Byte
  | .collective _ _ _ _ _ _ _ data => data
  | _ => []

/-- What goes out for a flag whose turn it is (R462): the data and the confirming read, or, where there are none or
they are confirmed, the flag; nothing where no link carries its partition's traffic (R409).
[DEDUCED, log 79] -/
def emitFlag (s : State) (f : OutFlag) : State :=
  if anyLink s f.part then
    { s with out := s.out ++ if f.confirmed then [.flag f] else [.peerWrite f (flagData f.body), .peerRead f] }
  else s

/-- Change a pending flag. -/
def modFlag (s : State) (id : Nat) (f : OutFlag → OutFlag) : State :=
  { s with fabric := { s.fabric with pending := s.fabric.pending.map fun x => if x.id = id then f x else x } }

/-- Send a release flag, kept until it is delivered (R421, R463); it goes out once those before it are.
[DEDUCED, log 79] -/
def sendFlag (s : State) (p chip target : Nat) (body : FlagBody) : State :=
  let r := nextSeqTo s p chip target
  let f : OutFlag := ⟨r.1.fabric.nextFlag, r.1.time, chip, target, fabricOf s p, ownChip s, p, r.2, body, 0,
    (flagData body).isEmpty⟩
  let s' := { r.1 with
    fabric := { r.1.fabric with pending := r.1.fabric.pending ++ [f], nextFlag := r.1.fabric.nextFlag + 1 } }
  if headFlag s' f then emitFlag s' f else s'

/-- Send a flag to every peer that a partition is joined to. -/
def tellPeers (s : State) (p : Nat) (body : FlagBody) : State :=
  (joinedPeers s p).foldl (fun s q => sendFlag s p q.1 q.2 body) s

end Sys2Proof.Machine
end

