-- ==== Sys2Proof/Machine/MemInstr.lean ====
section
/-! DEFINITION. Loads, stores, atomics, releases, acquires, fences, waits on words, bindings, sync words and
barriers, and the row queues' transfers (R106–R120, R174–R188). -/

namespace Sys2Proof.Machine

/-! ### Loads and stores (R174, R175) -/

/-- The register value of the bytes of a load, sign- or zero-extended. -/
def extend (signed : Bool) (bs : List Byte) : Word :=
  let v := ofLe bs
  let n := 8 * bs.length
  if signed && v / 2 ^ (n - 1) % 2 = 1 then BitVec.ofNat 64 (v + (2 ^ 64 - 2 ^ n)) else BitVec.ofNat 64 v

/-- S(d) := n bytes at S(a) + imm (R174). -/
def loadInstr (i : Instr) (d a : Reg) (imm : BitVec 13) (n : Nat) (signed : Bool) (s : State) : Result :=
  issue i allStrms none free (fun s => do
    let (s, bs) ← load s (rd s a + sext imm) n
    .ok (.next (wr s d (extend signed bs)))) s

/-- n bytes at S(a) + imm := S(d) (R174). -/
def storeInstr (i : Instr) (d a : Reg) (imm : BitVec 13) (n : Nat) (s : State) : Result :=
  issue i allStrms none free (fun s => do
    let s ← store s (rd s a + sext imm) (leBytes n (rd s d).toNat)
    .ok (.next s)) s

/-- R175: S(d) := n bytes at S(a), then S(a) := S(a) + S(b). -/
def loadPost (i : Instr) (g : Guard) (d a b : Reg) (n : Nat) (signed : Bool) (s : State) : Result :=
  issue i allStrms (some g) free (fun s => do
    let sum := rd s a + rd s b
    let (s, bs) ← load s (rd s a) n
    .ok (.next (wr (wr s d (extend signed bs)) a sum))) s

/-- R175: n bytes at S(a) := S(d), then S(a) := S(a) + S(b). -/
def storePost (i : Instr) (g : Guard) (d a b : Reg) (n : Nat) (s : State) : Result :=
  issue i allStrms (some g) free (fun s => do
    let sum := rd s a + rd s b
    let s ← store s (rd s a) (leBytes n (rd s d).toNat)
    .ok (.next (wr s a sum))) s

def execLdb (d a : Reg) (i : BitVec 13) (s : State) : Result := loadInstr (.ldb d a i) d a i 1 true s
def execLdbu (d a : Reg) (i : BitVec 13) (s : State) : Result := loadInstr (.ldbu d a i) d a i 1 false s
def execLdh (d a : Reg) (i : BitVec 13) (s : State) : Result := loadInstr (.ldh d a i) d a i 2 true s
def execLdhu (d a : Reg) (i : BitVec 13) (s : State) : Result := loadInstr (.ldhu d a i) d a i 2 false s
def execLdw (d a : Reg) (i : BitVec 13) (s : State) : Result := loadInstr (.ldw d a i) d a i 4 true s
def execLdwu (d a : Reg) (i : BitVec 13) (s : State) : Result := loadInstr (.ldwu d a i) d a i 4 false s
def execLdd (d a : Reg) (i : BitVec 13) (s : State) : Result := loadInstr (.ldd d a i) d a i 8 false s
def execStb (d a : Reg) (i : BitVec 13) (s : State) : Result := storeInstr (.stb d a i) d a i 1 s
def execSth (d a : Reg) (i : BitVec 13) (s : State) : Result := storeInstr (.sth d a i) d a i 2 s
def execStw (d a : Reg) (i : BitVec 13) (s : State) : Result := storeInstr (.stw d a i) d a i 4 s
def execStd (d a : Reg) (i : BitVec 13) (s : State) : Result := storeInstr (.std d a i) d a i 8 s

def execLdpiB (g : Guard) (d a b : Reg) (s : State) : Result := loadPost (.ldpiB g d a b) g d a b 1 true s
def execLdpiBu (g : Guard) (d a b : Reg) (s : State) : Result := loadPost (.ldpiBu g d a b) g d a b 1 false s
def execLdpiH (g : Guard) (d a b : Reg) (s : State) : Result := loadPost (.ldpiH g d a b) g d a b 2 true s
def execLdpiHu (g : Guard) (d a b : Reg) (s : State) : Result := loadPost (.ldpiHu g d a b) g d a b 2 false s
def execLdpiW (g : Guard) (d a b : Reg) (s : State) : Result := loadPost (.ldpiW g d a b) g d a b 4 true s
def execLdpiWu (g : Guard) (d a b : Reg) (s : State) : Result := loadPost (.ldpiWu g d a b) g d a b 4 false s
def execLdpiD (g : Guard) (d a b : Reg) (s : State) : Result := loadPost (.ldpiD g d a b) g d a b 8 false s
def execStpiB (g : Guard) (d a b : Reg) (s : State) : Result := storePost (.stpiB g d a b) g d a b 1 s
def execStpiH (g : Guard) (d a b : Reg) (s : State) : Result := storePost (.stpiH g d a b) g d a b 2 s
def execStpiW (g : Guard) (d a b : Reg) (s : State) : Result := storePost (.stpiW g d a b) g d a b 4 s
def execStpiD (g : Guard) (d a b : Reg) (s : State) : Result := storePost (.stpiD g d a b) g d a b 8 s

/-! ### Cells: aligned words that agents update at one place -/

/-- Where a cell lies: in the scratchpads, with the window it meets, or in global memory. -/
inductive Cell where
  | spad (sp : Nat) (win : Option (Nat × Nat))
  | glob (x : Xl)
  deriving DecidableEq, Repr

/-- Which locations an instruction allows (R172, check 4). -/
inductive CellRule where
  /-- scratchpad, or WB memory (R176, R183) -/
  | spadOrWb
  /-- WB memory (R179) -/
  | wb
  /-- WB device memory (R178, R210) -/
  | wbDevice
  /-- anything but a stash window (R182) -/
  | any
  deriving DecidableEq, Repr

def CellRule.globOk : CellRule → Xl → Bool
  | .spadOrWb, x => effType x == 0
  | .wb, x => effType x == 0
  | .wbDevice, x => effType x == 0 && !isHostPa x.pa
  | .any, _ => true

def CellRule.spadOk : CellRule → Bool
  | .spadOrWb => true
  | .any => true
  | _ => false

/-- Checks 2 to 4 of R172 for a cell of `n` bytes: its place, or the failure; an address in a stash window is
translated before it is refused. [DEDUCED, log 31] -/
def cellAt (s : State) (a : Agent) (r : CellRule) (k : AccKind) (va : Word) (n : Nat) :
    Except AccFail Cell :=
  match locate a va with
  | .spad off win viaVa =>
    if viaVa then
      match agentXl s a va k with
      | .error e => .error e
      | .ok _ => .error (.fault .perm)
    else
      match a.spad off n with
      | none => .error (.fault .perm)
      | some sp => if r.spadOk then .ok (.spad sp win) else .error (.fault .perm)
  | .glob _ =>
    match agentXl s a va k with
    | .error e => .error e
    | .ok x => if r.globOk x then .ok (.glob x) else .error (.fault .perm)

/-- The parts a cell access touches (R159). -/
def cellParts (a : Agent) (va : Word) (n : Nat) (write : Bool) : List FootPart :=
  accessParts (locate a va) (some va) n write

/-- The job offset of an address in the scratchpad window. -/
def windowOff (va : Word) : Nat := if inSpadWindow va then va.toNat - Config.spadWindow else 0

/-- The granules of a cell that an instruction reads, as offset and length. -/
abbrev CellReads := Nat × Nat

/-- POISON of the granules that are read (R172, check 8), at the first failing byte. A granule of a WC page that the
stream's own buffered stores give whole is not read (R94). -/
def readPoison (s : State) (a : Agent) (c : Cell) (va : Word) (reads : CellReads) : Exec Unit :=
  match c with
  | .spad sp _ =>
    match spadPoisonIn s (sp + reads.1) reads.2 with
    | some g => .error (.trap .poison (poisonAddr va sp g) 0)
    | none => .ok ()
  | .glob x =>
    match poisonIn s a.view (x.pa + reads.1) reads.2 with
    | some g => if coveredByWc s x reads.2 then .ok () else .error (.trap .poison (poisonAddr va x.pa g) 0)
    | none => .ok ()

/-- The stream has accessed a cell: no later read of it returns anything older (R104, R105). -/
def cellSeen (s : State) (a : Agent) (c : Cell) (n : Nat) : State :=
  match c with
  | .spad sp _ => dropEarly s a.hart (spadPlaces sp n)
  | .glob x => dropEarly (readSeen s a.view x.pa n) a.hart (globPlaces x.pa n)

/-- The synchronous checks of an access to a cell, in the order of R172. -/
def cellChecks (s : State) (r : CellRule) (k : AccKind) (va : Word) (n align : Nat) (writes : Bool)
    (reads : CellReads) : Exec (State × Cell) := do
  let a := curAgent s
  check (va.toNat % align == 0) .align va
  let c ← liftAcc va (cellAt s a r k va n)
  match c with
  | .spad _ win =>
    let s ← liftAcc va (fillRange s a win n)
    check (!(writes && inSealed a (windowOff va) n)) .sealedRange va
    orderChecks s (cellParts a va n writes) va (windowOff va)
    readPoison s a c va reads
    .ok (cellSeen s a c n, c)
  | .glob _ =>
    orderChecks s (cellParts a va n writes) va 0
    readPoison s a c va reads
    .ok (cellSeen s a c n, c)

/-- The bytes of a cell as an agent reads them. [DEDUCED, log 34] -/
def cellRead (s : State) (v : Viewer) (c : Cell) (n : Nat) : List Byte :=
  match c with
  | .spad sp _ => Memory.bytes s.ms.spad sp n
  | .glob x => readPa s v x.cmp x.pa n

/-- A never-wet write to a cell (R115), `o` bytes into it. -/
def cellWrite (s : State) (a : Agent) (c : Cell) (o : Nat) (bs : List Byte) : State :=
  match c with
  | .spad sp win =>
    dirtyWin (dropEarly (writeSpad s (sp + o) bs) a.hart (spadPlaces (sp + o) bs.length)) a
      (win.map fun w => (w.1, w.2 + o)) bs.length
  | .glob x => writePa (noteBy s a x.ipa x.pa) (a.part, a.jobid) (some a.jobid) x.cmp (x.pa + o) bs

/-- What an atomic on `n` bytes reads: the last write in coherence order, a late one too (R104, R111).
[DEDUCED, log 34] -/
def cellNow (s : State) (c : Cell) (n : Nat) : State :=
  match c with
  | .spad .. => s
  | .glob x => performRange s (granules x.pa n)

/-- The physical address of a cell. -/
def cellPa : Cell → Nat
  | .spad sp _ => sp
  | .glob x => x.pa

/-! ### Atomics (R111, R176, R177) -/

/-- The old value, and the state after storing what `f` makes of it. [DEDUCED, log 34] -/
def atomicUpdate (s : State) (c : Cell) (f : Word → Option Word) : State × Word :=
  let a := curAgent s
  let s := cellNow s c 8
  let v := BitVec.ofNat 64 (ofLe (cellRead s a.view c 8))
  match f v with
  | some n => (cellWrite s a c 0 (leBytes 8 n.toNat), v)
  | none => (s, v)

/-- S(d) := the old value at S(a); the new value is stored. -/
def atomic (i : Instr) (q : ScopeAcq) (d a : Reg) (f : State → Word → Option Word) (s : State) : Result :=
  issue i allStrms none free (fun s => do
    let (s, c) ← cellChecks s .spadOrWb .atomic (rd s a) 8 8 true (0, 8)
    let g := f s
    let r := atomicUpdate (atomicSide s q.scope.toNat) c g
    let s := if q.acq then acquireSide r.1 q.scope.toNat else r.1
    .ok (.next (wr s d r.2))) s

def amo (i : Instr) (q : ScopeAcq) (d a b : Reg) (f : Word → Word → Word) (s : State) : Result :=
  atomic i q d a (fun s v => some (f v (rd s b))) s

def execAmoAdd (q : ScopeAcq) (d a b : Reg) (s : State) : Result :=
  amo (.amoAdd q d a b) q d a b (· + ·) s
def execAmoMin (q : ScopeAcq) (d a b : Reg) (s : State) : Result := amo (.amoMin q d a b) q d a b minS s
def execAmoMax (q : ScopeAcq) (d a b : Reg) (s : State) : Result := amo (.amoMax q d a b) q d a b maxS s
def execAmoMinu (q : ScopeAcq) (d a b : Reg) (s : State) : Result := amo (.amoMinu q d a b) q d a b minU s
def execAmoMaxu (q : ScopeAcq) (d a b : Reg) (s : State) : Result := amo (.amoMaxu q d a b) q d a b maxU s
def execAmoAnd (q : ScopeAcq) (d a b : Reg) (s : State) : Result :=
  amo (.amoAnd q d a b) q d a b (· &&& ·) s
def execAmoOr (q : ScopeAcq) (d a b : Reg) (s : State) : Result := amo (.amoOr q d a b) q d a b (· ||| ·) s
def execAmoSwap (q : ScopeAcq) (d a b : Reg) (s : State) : Result :=
  amo (.amoSwap q d a b) q d a b (fun _ y => y) s

/-- R177: S(b) is stored where V = S(d). -/
def execCas (q : ScopeAcq) (d a b : Reg) (s : State) : Result :=
  atomic (.cas q d a b) q d a (fun s v => if v = rd s d then some (rd s b) else none) s

/-! ### Release, acquire, fences (R106–R110, R179, R180) -/

/-- R108, R179: the release, then RELCNT + 1. -/
def execRel (sc : BitVec 4) (a : Reg) (s : State) : Result :=
  issue (.rel sc a) allStrms none free (fun s => do
    let (s, c) ← cellChecks s .wb .atomic (rd s a) 16 16 true (0, 8)
    let s := cellNow (countedRelease (releaseObject s sc.toNat (rd s a))) c 8
    let v := ofLe (cellRead s (curAgent s).view c 8)
    .ok (.next (cellWrite s (curAgent s) c 0 (leBytes 8 (v + 1))))) s

/-- R109, R179: the read of RELCNT, then the acquire. -/
def execAcq (sc : BitVec 4) (a : Reg) (s : State) : Result :=
  issue (.acq sc a) allStrms none free (fun s => do
    let (s, _) ← cellChecks s .wb .read (rd s a) 16 16 false (0, 8)
    .ok (.next (acquireObject s sc.toNat (rd s a)))) s

/-- The release side of a FENCE; a counted release at scope core or wider (R110, R477). -/
def fenceRelease (s : State) (scope : Nat) : State :=
  let s := releaseSide s scope
  if 1 ≤ scope then countedRelease s else s

def execFenceFull (sc : BitVec 4) (s : State) : Result :=
  simple (.fenceFull sc) none (fun s => acquireSide (fenceRelease s sc.toNat) sc.toNat) s
def execFenceAcqside (sc : BitVec 4) (s : State) : Result :=
  simple (.fenceAcqside sc) none (fun s => acquireSide s sc.toNat) s
def execFenceRelside (sc : BitVec 4) (s : State) : Result :=
  simple (.fenceRelside sc) none (fun s => fenceRelease s sc.toNat) s

/-! ### WAITA (R182) -/

/-- An unsatisfied poll: the stream waits, the lines that the poll filled stay filled (R97, R98). -/
def pollAgain (s : State) (d : Reg) (v : Word) (object : Nat) : Exec Effect := .ok (.stay s (.value d v object))

/-- The granule that WAITA polls: of a WC page with the stream's own buffered stores to it (R94, R173). -/
def polled (s : State) (c : Cell) : Word :=
  let bs := cellRead s (curAgent s).view c 8
  BitVec.ofNat 64 (ofLe (match c with
    | .glob x => if effType x = 1 then ownWc s s.cur x.pa bs else bs
    | .spad .. => bs))

/-- R182: wait until the granule satisfies the condition; S(d) receives the value seen. -/
def waita (i : Instr) (q : ScopeAcq) (d a b : Reg) (f : Word → Word → Bool) (s : State) : Result :=
  issue i allStrms none free (fun s => do
    let (s, c) ← cellChecks s .any .read (rd s a) 8 8 false (0, 8)
    let v := polled s c
    if !f v (rd s b) then pollAgain s d v 2081
    else
      let s := if q.acq then acquireSide s q.scope.toNat else s
      .ok (.next (wr s d v))) s

def execWaitaNe (q : ScopeAcq) (d a b : Reg) (s : State) : Result :=
  waita (.waitaNe q d a b) q d a b (· != ·) s
def execWaitaEq (q : ScopeAcq) (d a b : Reg) (s : State) : Result :=
  waita (.waitaEq q d a b) q d a b (· == ·) s
def execWaitaGeu (q : ScopeAcq) (d a b : Reg) (s : State) : Result :=
  waita (.waitaGeu q d a b) q d a b (fun v b => decide (b.toNat ≤ v.toNat)) s

/-! ### Bindings (R107, R181) -/

/-- Whether two regions of one PASID share a line. -/
def bindingMeets (x : Binding) (pasid : Nat) (base len : Word) : Bool :=
  x.pasid == pasid && x.base.toNat < base.toNat + len.toNat && base.toNat < x.base.toNat + x.length.toNat

/-- The first address of a region that may not be bound: one beyond the lower half, or one of a line that is bound
(R172, R181). -/
def bindFails (l : List Binding) (pasid : Nat) (base len : Word) : Option Nat :=
  ((if base.toNat + len.toNat ≤ 2 ^ 47 then [] else [max base.toNat (2 ^ 47)])
    ++ (l.filter fun x => bindingMeets x pasid base len).map fun x => max base.toNat x.base.toNat).min?

/-- [DESIGN CHOICE, log 124] -/
def execBind (d a b : Reg) (s : State) : Result :=
  issue (.bind d a b) allStrms none free (fun s => do
    let obj := rd s a
    let base := rd s b
    let len := rd s d
    let j := curJob s
    let p := getPart s j.ids.part
    let bad := bindFails p.bindings j.ids.pasid base len
    check (obj.toNat % 16 == 0) .align obj
    check (base.toNat % 256 == 0 && len.toNat % 256 == 0 && len != 0) .align base
    check bad.isNone .perm (BitVec.ofNat 64 (bad.getD 0))
    check (p.bindings.length < Config.bindEntries) .perm base
    .ok (.next (modPart s j.ids.part fun p =>
      { p with bindings := p.bindings ++ [⟨obj, base, len, j.ids.pasid⟩] }))) s

/-- Remove the first entry that matches. -/
def unbindFrom (x : Binding) : List Binding → List Binding
  | [] => []
  | y :: ys => if x = y then ys else y :: unbindFrom x ys

def execUnbind (d a b : Reg) (s : State) : Result :=
  simple (.unbind d a b) none (fun s =>
    let j := curJob s
    modPart s j.ids.part fun p =>
      { p with bindings := unbindFrom ⟨rd s a, rd s b, rd s d, j.ids.pasid⟩ p.bindings }) s

/-! ### Sync words (R118–R120, R183, R184) -/

/-- The fields of a sync word as read. -/
structure SyncWord where
  target : Nat
  count : Nat
  gen : Nat
  deriving DecidableEq, Repr

/-- [DEDUCED, log 34] -/
def syncRead (s : State) (v : Viewer) (c : Cell) : SyncWord :=
  let bs := cellRead s v c 16
  ⟨ofLe (slice bs 0 4), ofLe (slice bs 4 4), ofLe (slice bs 8 4)⟩

/-- One advance where a non-zero TARGET is reached (R119). -/
def SyncWord.advance (w : SyncWord) : SyncWord :=
  if w.target != 0 && w.target ≤ w.count then
    { w with count := w.count - w.target, gen := (w.gen + 1) % 2 ^ 32 }
  else w

/-- The update of R119 by `n` bytes: the sum is exact when it is compared with TARGET; COUNT, which is 32 bits
wide, holds it modulo 2^32. -/
def SyncWord.add (w : SyncWord) (n : Nat) : SyncWord :=
  let r := SyncWord.advance { w with count := w.count + n }
  { r with count := r.count % 2 ^ 32 }

/-- COUNT and GEN after an update, each where it has changed. [DEDUCED, log 34] -/
def syncCount (s : State) (a : Agent) (c : Cell) (old new : SyncWord) : State :=
  let s := if new.count = old.count then s else cellWrite s a c 4 (leBytes 4 new.count)
  if new.gen = old.gen then s else cellWrite s a c 8 (leBytes 4 new.gen)

/-- SWSET: TARGET, then COUNT and GEN where an advance is made (R183). [DEDUCED, log 34] -/
def syncSet (s : State) (a : Agent) (c : Cell) (t : Nat) : State :=
  let w := { syncRead s a.view c with target := t }
  syncCount (cellWrite s a c 0 (leBytes 4 t)) a c w w.advance

def execSwset (sc : BitVec 4) (a b : Reg) (s : State) : Result :=
  issue (.swset sc a b) allStrms none free (fun s => do
    let (s, c) ← cellChecks s .spadOrWb .atomic (rd s a) 16 16 true (0, 16)
    let s := cellNow (atomicSide s sc.toNat) c 16
    .ok (.next (syncSet s (curAgent s) c ((rd s b).toNat % 2 ^ 32)))) s

/-- (g − v) mod 2^32 in 1 to 2^31 − 1 (R120, R186). -/
def passed (g v : Nat) : Bool :=
  let x := (g + 2 ^ 32 - v % 2 ^ 32) % 2 ^ 32
  1 ≤ x && x < 2 ^ 31

def execSwwait (q : ScopeAcq) (d a b : Reg) (s : State) : Result :=
  issue (.swwait q d a b) allStrms none free (fun s => do
    let (s, c) ← cellChecks s .spadOrWb .read (rd s a) 16 16 false (8, 8)
    let g := ofLe (slice (cellRead s (curAgent s).view c 16) 8 4)
    if !passed g (rd s b).toNat then pollAgain s d (BitVec.ofNat 64 g) 2082
    else .ok (.next (wr (acquireSide s q.scope.toNat) d (BitVec.ofNat 64 g)))) s

/-! ### Barriers (R185, R186) -/

/-- The expected count of a level in DOMMEM (R185); at level 0 the number of streams that take part. -/
def domCount (dommem : Word) (level : Nat) : Nat :=
  if level = 0 then
    let m := bitsOf dommem 0 3
    if m = 0 then 3 else onesCount (BitVec.ofNat 3 m)
  else bitsOf dommem (3 + 10 * (level - 1)) 10

/-- Whether a stream may arrive at a level (R186). -/
def mayArrive (dommem : Word) (level : Nat) (t : Strm) : Bool :=
  if level = 0 then bitsOf dommem 0 3 == 0 || bitOf dommem (strmIdx t) else domCount dommem level != 0

/-- Arrived, phase, expected of an instance. -/
abbrev Arrival := Nat × Nat × Nat

/-- The arrival step of R186: the phase of the arrival, and the instance after it. -/
def arriveAt (x : Arrival) (expected : Nat) : Nat × Arrival :=
  let e := if x.1 = 0 then expected else x.2.2
  let arrived := x.1 + 1
  (x.2.1, if arrived = e then (0, (x.2.1 + 1) % 2 ^ 32, e) else (arrived, x.2.1, e))

/-- The instance (level ≥ 1) in a partition's list, at reset where it is not listed. -/
def findBarrier (l : List Barrier) (level domain number : Nat) : Arrival :=
  match l.find? fun b => b.level == level && b.domain == domain && b.number == number with
  | some b => (b.arrived, b.phase.toNat, b.expected)
  | none => (0, 0, 0)

def putBarrier (l : List Barrier) (level domain number : Nat) (x : Arrival) : List Barrier :=
  ⟨level, domain, number, x.1, BitVec.ofNat 32 x.2.1, x.2.2⟩ ::
    l.filter fun b => !(b.level == level && b.domain == domain && b.number == number)

/-- One arrival at an instance of level 1 to 6 of a partition. -/
def partArrive (s : State) (p level domain number expected : Nat) : State × Nat :=
  let r := arriveAt (findBarrier (getPart s p).barriers level domain number) expected
  (modPart s p fun x => { x with barriers := putBarrier x.barriers level domain number r.2 }, r.1)

/-- An arrival of the executing stream at level L (R186): the release, the arrival, and at level 6 the
flags to the joined peers. [DEDUCED, log 37] -/
def arrive (s : State) (level number : Nat) : State × Nat :=
  let s := if 1 ≤ level then releaseSide s level else flushWc s s.cur.core
  let s := countedRelease s
  let j := curJob s
  let e := domCount j.ids.dommem level
  if level = 0 then
    let r := arriveAt (Tab.getD j.barriers number (0, 0, 0)) e
    (modCurJob s fun j => { j with barriers := Tab.set j.barriers number r.2 }, r.1)
  else
    let r := partArrive s j.ids.part level (domainOf s.cur.core level) number e
    if level = 6 then
      (tellPeers r.1 j.ids.part (.barrier (BitVec.ofNat 11 number) e), r.2)
    else r

/-- PHASE of the instance a stream names. -/
def barrierPhase (s : State) (level number : Nat) : Nat :=
  let j := curJob s
  if level = 0 then (Tab.getD j.barriers number (0, 0, 0)).2.1
  else (findBarrier (getPart s j.ids.part).barriers level (domainOf s.cur.core level) number).2.1

/-- The checks of R186 on S(a) and on membership. [DESIGN CHOICE, log 124] -/
def barrierChecks (s : State) (level : Nat) (a : Word) (arrives : Bool) : Exec Unit := do
  check (a.toNat < 2048) .perm a
  check (!arrives || mayArrive (curJob s).ids.dommem level s.cur.strm) .perm a

/-- [DEDUCED, log 37] -/
def execBarArrive (sc : BitVec 4) (d a : Reg) (s : State) : Result :=
  issue (.barArrive sc d a) allStrms none free (fun s => do
    barrierChecks s sc.toNat (rd s a) true
    let r := arrive s sc.toNat (rd s a).toNat
    .ok (.next (wr r.1 d (BitVec.ofNat 64 r.2)))) s

/-- What an expired barrier wait leaves in S(d) (R186). -/
def expiredPhase (ph : Nat) : Word := BitVec.ofNat 64 (2 ^ 63 + ph)

def execBarWait (sc : BitVec 4) (d a b : Reg) (s : State) : Result :=
  issue (.barWait sc d a b) allStrms none free (fun s => do
    barrierChecks s sc.toNat (rd s a) false
    let n := (rd s a).toNat
    let ph := barrierPhase s sc.toNat n
    waitFor (passed ph (rd s b).toNat) (.value d (expiredPhase ph) n)
    .ok (.next (wr (acquireSide s sc.toNat) d (BitVec.ofNat 64 ph)))) s

def execBarArrivewait (sc : BitVec 4) (d a : Reg) (s : State) : Result :=
  issue (.barArrivewait sc d a) allStrms none free (fun s => do
    let n := (rd s a).toNat
    let ends (s : State) : State :=
      wr (modCurStream (acquireSide s sc.toNat) fun st => { st with arrived := none }) d
        (BitVec.ofNat 64 (barrierPhase s sc.toNat n))
    let wait (s : State) : WaitKind := .value d (expiredPhase (barrierPhase s sc.toNat n)) n
    match (curStream s).arrived with
    | some w => if passed (barrierPhase s sc.toNat n) w.toNat then .ok (.finish (ends s)) else .ok (.stay s (wait s))
    | none => do
      barrierChecks s sc.toNat (rd s a) true
      let (s, w) := arrive s sc.toNat n
      if passed (barrierPhase s sc.toNat n) w then .ok (.next (ends s))
      else .ok (.enter (modCurStream s fun st => { st with arrived := some (BitVec.ofNat 32 w) }) (wait s))) s

/-! ### RDQ and WRQ (R139, R141, R187, R188) -/

/-- R187: a tag RDQ accepts. -/
def rdqTagOk (t : BitVec 11) : Bool :=
  let f := t.toNat % 16
  ((1 ≤ f && f ≤ 7) || f == 15) && (t.getLsbD 10 == (f == 5))

/-- The rows of a run of bytes. -/
def rowsOf (t : BitVec 11) : Nat → List Byte → List QRow
  | 0, _ => []
  | n + 1, bs => ⟨t, BitVec.ofNat 2048 (ofLe (bs.take 256))⟩ :: rowsOf t n (bs.drop 256)

/-- The job offset of a register value: a value past every offset lies outside the grant. -/
def offsetOf (v : Word) : Nat := v.toNat

def execRdq (g : Guard) (f : BitVec 3) (d : BitVec 2) (a b : Reg) (s : State) : Result :=
  issue (.rdq g f d a b) [.l] (some g) free (fun s => do
    let n := f.toNat + 1
    let va := rd s a
    let t : BitVec 11 := (rd s b).setWidth 11
    waitFor (queueLength (curJob s).queues d.toNat + n ≤ 8) (.queue d.toNat)
    check (rdqTagOk t) .format
    check (va.toNat % 256 == 0) .align va
    let ag := curAgent s
    let (s, bs) ← loadSpad s ag (locateOff ag (offsetOf va)) va none (256 * n)
    .ok (.next (pushRows (drainWc s s.cur) d.toNat (rowsOf t n bs)))) s

/-- The bytes of a row's data. -/
def rowBytes (d : RowBits) : List Byte := leBytes 256 d.toNat

def execWrq (g : Guard) (f : BitVec 3) (d : BitVec 2) (a : Reg) (s : State) : Result :=
  issue (.wrq g f d a) [.s] (some g) free (fun s => do
    let n := f.toNat + 1
    let q := 4 + d.toNat
    let va := rd s a
    waitFor (n ≤ queueLength (curJob s).queues q) (.queue q)
    check (va.toNat % 256 == 0) .align va
    let rows := ((curJob s).queues.q.getD q []).take n
    let ag := curAgent s
    let s' ← storeSpad s ag (locateOff ag (offsetOf va)) va none (rows.flatMap fun r => rowBytes r.data)
    .ok (.next (popRows s' q n))) s

end Sys2Proof.Machine
end

