-- ==== Sys2Proof/Machine/Num.lean ====
section
/-! DEFINITION. Numbers (R240 to R281): exact values, the formats, rounding, encoding, special values,
integer corners, EXP2, the correctly rounded operations, and the plumb tree. -/

namespace Sys2Proof.Machine

/-! ### Exact values (R241) -/

/-- An exact value: NaN, an infinity, a signed zero, a non-zero rational ±num/den, or a positive square
root √(num/den) that an operation forms before its one rounding (R265). -/
inductive Ex where
  | nan
  | inf (neg : Bool)
  | zero (neg : Bool)
  | fin (neg : Bool) (num den : Nat)
  | root (num den : Nat)
  deriving DecidableEq, Repr, Inhabited

namespace Ex

/-- The integer `i` as an exact value: its zero is +0 (R259). -/
def ofInt (i : Int) : Ex := if i = 0 then .zero false else .fin (decide (i < 0)) i.natAbs 1

def neg : Ex → Ex
  | .inf s => .inf !s
  | .zero s => .zero !s
  | .fin s n d => .fin (!s) n d
  | x => x

def abs : Ex → Ex
  | .inf _ => .inf false
  | .zero _ => .zero false
  | .fin _ n d => .fin false n d
  | x => x

def isNan : Ex → Bool
  | .nan => true
  | _ => false

def isZero : Ex → Bool
  | .zero _ => true
  | _ => false

/-- The sign bit. -/
def sign : Ex → Bool
  | .inf s => s
  | .zero s => s
  | .fin s _ _ => s
  | _ => false

/-- The product (R257 to R259). -/
def mul : Ex → Ex → Ex
  | .nan, _ => .nan
  | _, .nan => .nan
  | .inf _, .zero _ => .nan
  | .zero _, .inf _ => .nan
  | .inf s, y => .inf (s != y.sign)
  | x, .inf s => .inf (x.sign != s)
  | .zero s, y => .zero (s != y.sign)
  | x, .zero s => .zero (x.sign != s)
  | .fin s n d, .fin t m e => .fin (s != t) (n * m) (d * e)
  | .root n d, .fin _ m e => .root (n * (m * m)) (d * (e * e))
  | .fin _ m e, .root n d => .root (n * (m * m)) (d * (e * e))
  | .root n d, .root m e => .root (n * m) (d * e)

/-- The reciprocal (R265). -/
def recip : Ex → Ex
  | .nan => .nan
  | .inf s => .zero s
  | .zero s => .inf s
  | .fin s n d => .fin s d n
  | .root n d => .root d n

/-- The quotient (R265). -/
def div (x y : Ex) : Ex :=
  match x, y with
  | .inf _, .inf _ => .nan
  | .zero _, .zero _ => .nan
  | _, _ => mul x y.recip

/-- The square root (R265). -/
def sqrt : Ex → Ex
  | .zero s => .zero s
  | .inf false => .inf false
  | .fin false n d => .root n d
  | _ => .nan

/-- The reciprocal square root (R265). -/
def rsqrt : Ex → Ex
  | .zero s => .inf s
  | .inf false => .zero false
  | .fin false n d => .root d n
  | _ => .nan

/-- The difference of two fractions of opposite signs; an exact zero takes the sign of R259. -/
def diff (rdn s : Bool) (n m d : Nat) : Ex :=
  if m < n then .fin s (n - m) d else if n < m then .fin (!s) (m - n) d else .zero rdn

/-- The sum; `rdn` is whether the rounding mode is RDN (R257 to R259). -/
def add (rdn : Bool) : Ex → Ex → Ex
  | .nan, _ => .nan
  | _, .nan => .nan
  | .inf s, .inf t => if s = t then .inf s else .nan
  | .inf s, _ => .inf s
  | _, .inf s => .inf s
  | .zero s, .zero t => if s = t then .zero s else .zero rdn
  | .zero _, y => y
  | x, .zero _ => x
  | .fin s n d, .fin t m e =>
    if d = e then (if s = t then .fin s (n + m) d else diff rdn s n m d)
    else
      let l := Nat.lcm d e
      let n' := n * (l / d)
      let m' := m * (l / e)
      if s = t then .fin s (n' + m') l else diff rdn s n' m' l
  | .root n d, _ => .root n d
  | _, .root n d => .root n d

/-- x < y on exact values that are not NaN; −0 is less than +0 (R260). -/
def lt : Ex → Ex → Bool
  | .inf s, .inf t => s && !t
  | .inf s, _ => s
  | _, .inf t => !t
  | .zero s, .zero t => s && !t
  | .zero _, y => !y.sign
  | x, .zero _ => x.sign
  | .fin s n d, .fin t m e =>
    if s && !t then true
    else if t && !s then false
    else if s then m * d < n * e
    else n * e < m * d
  | _, _ => false

/-- Equal in value: −0 equals +0. -/
def eqv (x y : Ex) : Bool :=
  match x, y with
  | .zero _, .zero _ => true
  | x, y => !x.isNan && !y.isNan && !lt x y && !lt y x

/-- R260, MAX: the left operand is kept at a tie. -/
def max (x y : Ex) : Ex := if x.isNan || y.isNan then .nan else if lt x y then y else x

/-- R260, MIN. -/
def min (x y : Ex) : Ex := if x.isNan || y.isNan then .nan else if lt y x then y else x

/-- 0 < |v| < 2^−126 (R255, R256). -/
def tiny : Ex → Bool
  | .fin _ n d => n * 2 ^ 126 < d
  | _ => false

/-- With flushing enabled a tiny value is zero with its sign (R255). -/
def flush (on : Bool) (x : Ex) : Ex := if on && x.tiny then .zero x.sign else x

end Ex

/-! ### Rounding (R250 to R252) -/

/-- ⌊√n⌋, bit by bit. -/
def isqrtFrom (n : Nat) : Nat → Nat → Nat
  | 0, r => r
  | k + 1, r => isqrtFrom n k (if (r + 2 ^ k) * (r + 2 ^ k) ≤ n then r + 2 ^ k else r)

def isqrt (n : Nat) : Nat := isqrtFrom n (Nat.log2 n / 2 + 1) 0

/-- ⌊log₂ (n/d)⌋ of a positive fraction. -/
def ilog2 (n d : Nat) : Int :=
  let e : Int := (Nat.log2 n : Int) - (Nat.log2 d : Int)
  if d * 2 ^ e.toNat ≤ n * 2 ^ (-e).toNat then e else e - 1

/-- A truncated magnitude and what was cut off: 0 nothing, 1 less than half, 2 half, 3 more than half. -/
abbrev Cut := Nat × Nat

def cutOf (n d : Nat) : Cut :=
  let r := n % d
  (n / d, if r = 0 then 0 else if 2 * r < d then 1 else if 2 * r = d then 2 else 3)

/-- The same of √(n/d). -/
def cutRoot (n d : Nat) : Cut :=
  let q := isqrt (n / d)
  let h := (2 * q + 1) * (2 * q + 1) * d
  (q, if q * q * d = n then 0 else if 4 * n < h then 1 else if 4 * n = h then 2 else 3)

/-- Whether a mode of R250 rounds away from zero. -/
def roundsUp (mode : Nat) (neg : Bool) (c : Cut) : Bool :=
  match mode with
  | 0 => c.2 == 3 || (c.2 == 2 && c.1 % 2 == 1)
  | 2 => c.2 != 0 && !neg
  | 3 => c.2 != 0 && neg
  | 4 => 2 ≤ c.2
  | _ => false

/-- The magnitude rounded. -/
def rounded (mode : Nat) (neg : Bool) (c : Cut) : Nat := c.1 + b2n (roundsUp mode neg c)

/-- A binary floating-point layout (R240): fraction bits, exponent bits. -/
structure FloatFmt where
  frac : Nat
  exp : Nat
  deriving DecidableEq, Repr

def fp32Fmt : FloatFmt := ⟨23, 8⟩
def bf16Fmt : FloatFmt := ⟨7, 8⟩
def fp16Fmt : FloatFmt := ⟨10, 5⟩

namespace FloatFmt

def bias (f : FloatFmt) : Nat := 2 ^ (f.exp - 1) - 1

def signBit (f : FloatFmt) : Nat := 2 ^ (f.frac + f.exp)

/-- The bits of +∞. -/
def infBits (f : FloatFmt) : Nat := (2 ^ f.exp - 1) * 2 ^ f.frac

def nanBits (f : FloatFmt) : Nat := f.infBits + 2 ^ (f.frac - 1)

def withSign (f : FloatFmt) (neg : Bool) (m : Nat) : Nat := b2n neg * f.signBit + m

/-- The exact value of an element (R240, R241). -/
def value (f : FloatFmt) (bits : Nat) : Ex :=
  let neg := bits / f.signBit % 2 == 1
  let e := bits / 2 ^ f.frac % 2 ^ f.exp
  let m := bits % 2 ^ f.frac
  if e = 2 ^ f.exp - 1 then (if m = 0 then .inf neg else .nan)
  else if e = 0 then (if m = 0 then .zero neg else .fin neg m (2 ^ (f.bias - 1 + f.frac)))
  else
    let m := m + 2 ^ f.frac
    let shift := f.bias + f.frac
    if shift ≤ e then .fin neg (m * 2 ^ (e - shift)) 1 else .fin neg m (2 ^ (shift - e))

/-- An infinite or overflowing result (R251): the largest finite value where the mode or sat says so. -/
def overflow (f : FloatFmt) (mode : Nat) (sat neg : Bool) : Nat :=
  if sat || mode == 1 || (mode == 2 && neg) || (mode == 3 && !neg) then f.withSign neg (f.infBits - 1)
  else f.withSign neg f.infBits

/-- Round a positive magnitude of binade `e`, given its cut at a unit 2^u. -/
def roundMag (f : FloatFmt) (mode : Nat) (sat neg : Bool) (e : Int) (cut : Int → Cut) : Nat :=
  let emin : Int := 1 - (f.bias : Int)
  let low := if e < emin then emin else e
  let m := (low - emin).toNat * 2 ^ f.frac + rounded mode neg (cut (low - f.frac))
  if f.infBits ≤ m then f.overflow mode sat neg else f.withSign neg m

/-- RoundTo with a floating-point format (R251), as the element's bits. -/
def round (f : FloatFmt) (mode : Nat) (sat : Bool) : Ex → Nat
  | .nan => f.nanBits
  | .inf s => f.withSign s (if sat then f.infBits - 1 else f.infBits)
  | .zero s => f.withSign s 0
  | .fin s n d => f.roundMag mode sat s (ilog2 n d) fun u => cutOf (n * 2 ^ (-u).toNat) (d * 2 ^ u.toNat)
  | .root n d => f.roundMag mode sat false (ilog2 n d / 2) fun u =>
      cutRoot (n * 2 ^ (2 * (-u)).toNat) (d * 2 ^ (2 * u).toNat)

end FloatFmt

/-- RoundTo(FP32, x, RNE) as an exact value. -/
def r32 (x : Ex) : Ex := fp32Fmt.value (fp32Fmt.round 0 false x)

/-- The bits of RoundTo(FP32, x, RNE). -/
def toFp32 (x : Ex) : BitVec 32 := BitVec.ofNat 32 (fp32Fmt.round 0 false x)

/-- The exact value of an FP32 word. -/
def ofFp32 (w : BitVec 32) : Ex := fp32Fmt.value w.toNat

/-- Minimum and maximum of an integer format: 4 INT32, 5 INT8, 6 UINT8. -/
def intRange (fmt : Nat) : Int × Int :=
  match fmt with
  | 4 => (-(2 ^ 31), 2 ^ 31 - 1)
  | 5 => (-128, 127)
  | _ => (0, 255)

def clampInt (fmt : Nat) (i : Int) : Int := max (intRange fmt).1 (min (intRange fmt).2 i)

/-- RoundTo with an integer format (R252). -/
def roundInt (fmt mode : Nat) : Ex → Int
  | .nan => 0
  | .zero _ => 0
  | .inf s => if s then (intRange fmt).1 else (intRange fmt).2
  | .fin s n d =>
    let m : Int := rounded mode s (cutOf n d)
    clampInt fmt (if s then -m else m)
  | .root n d => clampInt fmt (rounded mode false (cutRoot n d))

/-! ### Formats by code (R18, R19, R242 to R249) -/

/-- The float layout of a format code: 1 FP32, 2 BF16, 3 FP16. -/
def floatFmt (fmt : Nat) : Option FloatFmt :=
  match fmt with
  | 1 => some fp32Fmt
  | 2 => some bf16Fmt
  | 3 => some fp16Fmt
  | _ => none

def isInt (fmt : Nat) : Bool := 4 ≤ fmt && fmt ≤ 6

/-- Bytes of an element (R19). -/
def elemBytes (fmt : Nat) : Nat :=
  match fmt with
  | 1 => 4
  | 4 => 4
  | 2 => 2
  | 3 => 2
  | _ => 1

def elemBits (fmt : Nat) : Nat := 8 * elemBytes fmt

/-- Elements of a row (R19). -/
def elemCount (fmt : Nat) : Nat := 256 / elemBytes fmt

/-- Element `e` of a row. -/
def elemOf (fmt : Nat) (d : RowBits) (e : Nat) : Nat := d.toNat / 2 ^ (elemBits fmt * e) % 2 ^ elemBits fmt

/-- The elements of a row. -/
def elemsOf (fmt : Nat) (d : RowBits) : List Nat := (List.range (elemCount fmt)).map (elemOf fmt d)

/-- A row from its elements. -/
def rowOfElems (fmt : Nat) (l : List Nat) : RowBits :=
  BitVec.ofNat 2048 (l.foldr (fun x acc => x % 2 ^ elemBits fmt + acc * 2 ^ elemBits fmt) 0)

/-- The element's bits as the integer of its format: INT32 and INT8 signed (R242). [DEDUCED, log 42] -/
def intValue (fmt : Nat) (e : Nat) : Int :=
  if fmt != 6 && 2 ^ (elemBits fmt - 1) ≤ e then (e : Int) - 2 ^ elemBits fmt else e

/-- The bits of an integer in a format's width. -/
def intBits (fmt : Nat) (i : Int) : Nat := (i % 2 ^ elemBits fmt).toNat

/-- The magnitude of a DK8 code below 128 (R243), as a fraction; code 0 is zero. -/
def dk8Mag (c : Nat) : Nat × Nat :=
  if c = 0 then (0, 1)
  else
    let w := Nat.log2 c
    (2 ^ w + 9 * (c - 2 ^ w), 2 ^ w * 10 ^ (6 - w))

/-- The exact value of a DK8 code (R243). -/
def dk8Value (c : Nat) : Ex :=
  let m := c % 128
  if m = 0 then (if c < 128 then .zero false else .nan)
  else .fin (128 ≤ c) (dk8Mag m).1 (dk8Mag m).2

/-- The greatest code whose magnitude is at most |y|; `cmp p q` compares |y| with p/q. -/
def dk8Below (cmp : Nat → Nat → Ordering) : Nat :=
  [64, 32, 16, 8, 4, 2, 1].foldl
    (fun c b => if cmp (dk8Mag (c + b)).1 (dk8Mag (c + b)).2 = .lt then c else c + b) 0

/-- The nearest code, the even one at a tie (R244). -/
def dk8Nearest (cmp : Nat → Nat → Ordering) : Nat :=
  let lo := dk8Below cmp
  if lo = 127 then 127
  else
    let a := dk8Mag lo
    let b := dk8Mag (lo + 1)
    match cmp (a.1 * b.2 + b.1 * a.2) (2 * (a.2 * b.2)) with
    | .lt => lo
    | .gt => lo + 1
    | .eq => if lo % 2 = 0 then lo else lo + 1

/-- The DK8 code of an exact value (R244). -/
def dk8Code : Ex → Nat
  | .nan => 128
  | .zero _ => 0
  | .inf s => 127 + 128 * b2n s
  | .fin s n d =>
    let c := dk8Nearest fun p q => compare (n * q) (p * d)
    if c = 0 then 0 else c + 128 * b2n s
  | .root n d => dk8Nearest fun p q => compare (n * (q * q)) (p * p * d)

/-- R246: a positive normal FP32 value. -/
def gainUsable (g : BitVec 32) : Bool := 0x00800000 ≤ g.toNat && g.toNat < 0x7F800000

/-- v × g (R247). -/
def scale (g : BitVec 32) (v : Ex) : Ex := if g = fp32One then v else v.mul (ofFp32 g)

/-- x / g (R248). -/
def unscale (g : BitVec 32) (x : Ex) : Ex := if g = fp32One then x else x.div (ofFp32 g)

/-- Decode of R247 for a tag that is not RAW, whose gain has the value `g`. -/
def decodeElem (fmt : Nat) (g : BitVec 32) (e : Nat) : Ex :=
  match floatFmt fmt with
  | some f => scale g (f.value e)
  | none =>
    if isInt fmt then scale g (.ofInt (intValue fmt e))
    else scale g (dk8Value e)

/-- Encode of R248 for a tag that is not RAW, whose gain has the value `g`. -/
def encodeElem (fmt : Nat) (g : BitVec 32) (mode : Nat) (sat ftz : Bool) (x : Ex) : Nat :=
  let y := unscale g x
  match floatFmt fmt with
  | some f =>
    let e := f.round mode sat y
    if ftz && (scale g (f.value e)).tiny then f.withSign (f.value e).sign 0 else e
  | none => if isInt fmt then intBits fmt (roundInt fmt mode y) else dk8Code y

/-! ### Integer operations (R261, R262) -/

/-- The result of an exact integer operation: wrapped, or clamped. -/
def intResult (fmt : Nat) (sat : Bool) (i : Int) : Nat := intBits fmt (if sat then clampInt fmt i else i)

/-- The quotient of R262. -/
def intDiv (fmt : Nat) (sat : Bool) (a b : Int) : Nat :=
  if b = 0 then 2 ^ elemBits fmt - 1 else intResult fmt sat (a.tdiv b)

/-! ### EXP2 (R263, R264) -/

/-- T: 2^(i/64) rounded to FP32 with RNE. [DEDUCED, log 112] -/
def exp2Table : List Nat :=
  [0x3F800000, 0x3F8164D2, 0x3F82CD87, 0x3F843A29, 0x3F85AAC3, 0x3F871F62, 0x3F88980F, 0x3F8A14D5,
   0x3F8B95C2, 0x3F8D1ADF, 0x3F8EA43A, 0x3F9031DC, 0x3F91C3D3, 0x3F935A2B, 0x3F94F4F0, 0x3F96942D] ++
  [0x3F9837F0, 0x3F99E046, 0x3F9B8D3A, 0x3F9D3EDA, 0x3F9EF532, 0x3FA0B051, 0x3FA27043, 0x3FA43516,
   0x3FA5FED7, 0x3FA7CD94, 0x3FA9A15B, 0x3FAB7A3A, 0x3FAD583F, 0x3FAF3B79, 0x3FB123F6, 0x3FB311C4] ++
  [0x3FB504F3, 0x3FB6FD92, 0x3FB8FBAF, 0x3FBAFF5B, 0x3FBD08A4, 0x3FBF179A, 0x3FC12C4D, 0x3FC346CD,
   0x3FC5672A, 0x3FC78D75, 0x3FC9B9BE, 0x3FCBEC15, 0x3FCE248C, 0x3FD06334, 0x3FD2A81E, 0x3FD4F35B] ++
  [0x3FD744FD, 0x3FD99D16, 0x3FDBFBB8, 0x3FDE60F5, 0x3FE0CCDF, 0x3FE33F89, 0x3FE5B907, 0x3FE8396A,
   0x3FEAC0C7, 0x3FED4F30, 0x3FEFE4BA, 0x3FF28177, 0x3FF5257D, 0x3FF7D0DF, 0x3FFA83B3, 0x3FFD3E0C]

/-- ⌊x × 64⌋ of a finite value. -/
def floor64 : Ex → Int
  | .fin s n d => if s then -(((64 * n + d - 1) / d : Nat) : Int) else ((64 * n / d : Nat) : Int)
  | _ => 0

/-- x × 2^k. -/
def scale2 (x : Ex) (k : Int) : Ex := x.mul (.fin false (2 ^ k.toNat) (2 ^ (-k).toNat))

/-- Exp2 of R264, of an FP32 value, step by step. An n outside ±1024 is taken as ±1024: both lie beyond every
format, so that the caller rounds either to the same value. [DEDUCED, log 112] -/
def exp2 (x : Ex) : Ex :=
  match x with
  | .nan => .nan
  | .inf s => if s then .zero false else .inf false
  | x =>
    let t := floor64 x
    let n := t / 64
    let i := (t % 64).toNat
    let r := r32 (if t = 0 then x else x.add false (.fin (decide (0 < t)) t.natAbs 64))
    let a := r32 (r.mul (ofFp32 0x3D635847))
    let b := r32 ((ofFp32 0x3E75FDF0).add false a)
    let c := r32 (r.mul b)
    let d := r32 ((ofFp32 0x3F317218).add false c)
    let e := r32 (r.mul d)
    let q := r32 ((ofFp32 0x3F800000).add false e)
    let y := r32 ((ofFp32 (BitVec.ofNat 32 (exp2Table.getD i 0))).mul q)
    scale2 y (max (-1024) (min 1024 n))

/-! ### The plumb tree (R267 to R270) -/

/-- One level: neighbouring nodes combine, an absent one lets the other pass (R268). -/
def plumbLevel {α : Type} (f : α → α → α) : List (Option α) → List (Option α)
  | some x :: some y :: t => some (f x y) :: plumbLevel f t
  | some x :: none :: t => some x :: plumbLevel f t
  | none :: y :: t => y :: plumbLevel f t
  | [x] => [x]
  | [] => []

def plumbFrom {α : Type} (f : α → α → α) : Nat → List (Option α) → Option α
  | _, [] => none
  | _, [x] => x
  | 0, x :: _ => x
  | n + 1, l => plumbFrom f n (plumbLevel f l)

/-- PlumbReduce of R267: none is EMPTY. A list of N leaves needs ⌈log₂ N⌉ levels. -/
def plumb {α : Type} (f : α → α → α) (l : List (Option α)) : Option α := plumbFrom f (Nat.log2 l.length + 1) l

/-- The float sum of R270 with FP32 nodes, RNE. -/
def sum32 (x y : Ex) : Ex := r32 (x.add false y)

/-- The FP32 plumb sum. -/
def plumbSum32 (l : List (Option Ex)) : Ex := (plumb sum32 l).getD (.zero false)

/-- The float sum of R270 with nodes of format `f` and mode `m`. -/
def nodeSum (f : FloatFmt) (mode : Nat) (x y : Ex) : Ex :=
  f.value (f.round mode false (x.add (mode == 3) y))

/-- The exact sum of a list, first to last. -/
def exactSum : List Ex → Ex
  | [] => .zero false
  | x :: t => t.foldl (Ex.add false) x

/-- The lists of `k` consecutive elements. -/
def chunks {α : Type} (k : Nat) : Nat → List α → List (List α)
  | 0, _ => []
  | _ + 1, [] => []
  | n + 1, l => l.take k :: chunks k n (l.drop k)

/-- The root of R276: groups of 32 exact products rounded once, then the tree. -/
def kRoot (products : List Ex) : Ex :=
  plumbSum32 ((chunks 32 (products.length / 32 + 1) products).map fun g => some (r32 (exactSum g)))

end Sys2Proof.Machine
end

