-- ==== Sys2Proof/Machine/Amoq.lean ====
section
/-! DEFINITION. AMOQ and the ordered-atomic buffers of the home slices (R121–R123, R178). -/

namespace Sys2Proof.Machine

/-- FP32 addition rounded once, with no flush (R122). -/
def fp32Add (a b : BitVec 32) : BitVec 32 := toFp32 ((ofFp32 a).add false (ofFp32 b))

/-- VALUE and NEXT of an ordered cell (R121). -/
def orderedCell (s : State) (v : Viewer) (c : Cell) : BitVec 32 × BitVec 32 :=
  let bs := cellRead s v c 8
  (BitVec.ofNat 32 (ofLe (bs.take 4)), BitVec.ofNat 32 (ofLe (bs.drop 4)))

/-- Apply an update, then the buffered updates of the cell whose turn has come (R122). -/
def applyBuffered (cell : Nat) : Nat → List AmoqEntry → BitVec 32 × BitVec 32 →
    (BitVec 32 × BitVec 32) × List AmoqEntry
  | 0, buf, v => (v, buf)
  | n + 1, buf, v =>
    match buf.find? fun e => e.cell == cell && e.seq == v.2 with
    | some e =>
      applyBuffered cell n (buf.filter fun x => !(x.cell == cell && x.seq == v.2))
        (fp32Add v.1 e.update, v.2 + 1)
    | none => (v, buf)

/-- The effect of an update with sequence number `q` at its home slice (R122, R123); none where it is
refused. [DEDUCED, log 38, 39] -/
def amoqAt (s : State) (a : Agent) (c : Cell) (q u : BitVec 32) : Option State :=
  let cell := cellPa c
  let slice := Config.homeSlice (cell / 256) % Config.llcSlices
  let s := cellNow s c 8
  let v := orderedCell s a.view c
  let d := (q - v.2).toNat
  let stale := modPart s a.part fun p => { p with stale := satInc p.stale }
  if d = 0 then
    let r := applyBuffered cell s.ms.amoq.length s.ms.amoq (fp32Add v.1 u, v.2 + 1)
    let s := modMs s fun m => { m with amoq := r.2 }
    some (cellWrite s a c 0 (leBytes 4 r.1.1.toNat ++ leBytes 4 r.1.2.toNat))
  else if 2 ^ 31 ≤ d then some stale
  else if s.ms.amoq.any fun e => e.cell == cell && e.seq == q then some stale
  else if Config.amoqBuffer ≤ (s.ms.amoq.filter fun e => e.slice == slice).length then none
  else some (modMs s fun m => { m with amoq := m.amoq ++ [⟨slice, cell, q, u⟩] })

/-- [DEDUCED, log 38] -/
def execAmoq (q : ScopeAcq) (d a b : Reg) (s : State) : Result :=
  issue (.amoq q d a b) allStrms none free (fun s => do
    let (s, c) ← cellChecks s .wbDevice .atomic (rd s a) 16 16 true (0, 8)
    match amoqAt (atomicSide s q.scope.toNat) (curAgent s) c ((rd s d).setWidth 32) ((rd s b).setWidth 32) with
    | none => .error (.wait (.queue 20))
    | some s => .ok (.next (if q.acq then acquireSide s q.scope.toNat else s))) s

end Sys2Proof.Machine
end

