-- ==== Sys2Proof/Machine/Bulk.lean ====
section
/-! DEFINITION. Accesses to ranges of virtual addresses by agents that are no instruction of a stream: child
operations (R201, R202), the dispatcher, the host interfaces. A range is taken in pieces that stay inside
one 256-byte line. -/

namespace Sys2Proof.Machine

/-- The pieces of a range: address and length of each. -/
def piecesFrom : Nat → Nat → Nat → List (Nat × Nat)
  | 0, _, _ => []
  | fuel + 1, a, n =>
    if n = 0 then []
    else
      let k := min n (256 - a % 256)
      (a, k) :: piecesFrom fuel (a + k) (n - k)

def pieces (a n : Nat) : List (Nat × Nat) := piecesFrom (n / 256 + 2) a n

/-- Why a range access fails, and the first failing address. -/
abbrev BulkFail := AccFail × Word

/-- How an agent's accesses are made. -/
structure Bulk where
  ag : Agent
  /-- its global writes are wet (R113) -/
  wet : Bool := false
  /-- the job whose writes they are: its wet version follows never-wet writes (R115), and it is the writer
  of R460 -/
  own : Nat := 0
  quota : Nat := 0
  /-- a cancelled or faulted operation's writes: each granule old or new as the free choice says (R154) -/
  torn : Option Nat := none
  /-- the token entry whose written lines are noted (R477) -/
  tok : Option (Nat × Nat) := none
  /-- parts of the sources that have been read already, by virtual address; whether what is read now is kept
  there (R117) -/
  early : List (Nat × List Byte) := []
  keep : Bool := false
  /-- ranges that have been written already; the range written now, where it is not all of the rest (R103) -/
  performed : List (Nat × Nat) := []
  only : Option (Nat × Nat) := none
  /-- bytes that its sync word has counted already (R129) -/
  counted : Nat := 0

/-- Whose the wet writes of an operation are (R113), until it completes its own layer of them (R154). -/
def Bulk.wetWriter (b : Bulk) : WetWriter :=
  match b.tok with
  | some (core, slot) => match b.ag.who with
    | .op _ _ seq => ⟨b.own, .op slot seq, some (slot, seq)⟩
    | _ => ⟨b.own, .op slot core, none⟩
  | none => ⟨b.own, .stream b.ag.hart.strm, none⟩

/-- The bytes of a range, with what the agent has read of it already. -/
def Bulk.lay (b : Bulk) (va : Nat) (bs : List Byte) : List Byte :=
  if b.early.isEmpty then bs
  else
    bs.zipIdx.map fun x =>
      match b.early.find? fun e => e.1 ≤ va + x.2 && va + x.2 < e.1 + e.2.length with
      | some e => e.2.getD (va + x.2 - e.1) x.1
      | none => x.1

/-- Whether a granule of a virtual address has been read already. -/
def Bulk.hasRead (b : Bulk) (g : Nat) : Bool := b.early.any fun e => e.1 ≤ 8 * g && 8 * g + 8 ≤ e.1 + e.2.length

/-- Whether a granule of a virtual address is written now. -/
def Bulk.writesNow (b : Bulk) (g : Nat) : Bool :=
  (b.only.all fun r => r.1 ≤ 8 * g && 8 * g + 8 ≤ r.1 + r.2)
    && !(b.performed.any fun r => r.1 ≤ 8 * g && 8 * g + 8 ≤ r.1 + r.2)

/-- The first granule of a list, paired with the granules of the range at `va`, that is poisoned and has not been
read already. -/
def Bulk.firstBad (b : Bulk) (va : Nat) (gs : List Nat) (bad : Nat → Bool) : Option Nat :=
  (gs.zipIdx.find? fun e => bad e.1 && !b.hasRead (va / 8 + e.2)).map (·.1)

/-- What has been read is kept with the operation, where it is asked for and has not been kept yet. -/
def keepRead (s : State) (b : Bulk) (va : Nat) (bs : List Byte) : State :=
  match b.keep && !((granules va bs.length).all b.hasRead), b.tok with
  | true, some (core, slot) =>
    modCore s core fun c => { c with tokens := Tab.modify c.tokens slot fun e => { e with early := e.early ++ [(va, bs)] } }
  | _, _ => s

/-- Read one piece. -/
def readPiece (s : State) (b : Bulk) (va : Word) (n : Nat) : Except BulkFail (State × List Byte) :=
  match locate b.ag va with
  | .spad off win viaVa =>
    match b.ag.spad off n with
    | none => .error (.fault .perm, va)
    | some sp =>
      match (if viaVa then agentXl s b.ag va .read else .ok ⟨0, 0, 0, false⟩), fillRange s b.ag win n with
      | .error e, _ => .error (e, va)
      | .ok _, .error e => .error (e, va)
      | .ok _, .ok s =>
        match b.firstBad va.toNat (granules sp n) fun g => NatSet.has s.ms.spadPoison g with
        | some g => .error (.fault .poison, poisonAddr va sp g)
        | none =>
          let bs := b.lay va.toNat (Memory.bytes s.ms.spad sp n)
          .ok (keepRead s b va.toNat bs, bs)
  | .glob _ =>
    match agentXl s b.ag va .read with
    | .error e => .error (e, va)
    | .ok x =>
      match b.firstBad va.toNat (granules x.pa n) (jobPoison s b.ag.view) with
      | some g => .error (.fault .poison, poisonAddr va x.pa g)
      | none =>
        let bs := b.lay va.toNat (readPa s b.ag.view x.cmp x.pa n)
        .ok (keepRead (useFresh (readSeen s b.ag.view x.pa n) x.pa n) b va.toNat bs, bs)

/-- Read a range. -/
def readRange (s : State) (b : Bulk) (va : Word) (n : Nat) : Except BulkFail (State × List Byte) :=
  (pieces va.toNat n).foldl (fun r p => r.bind fun x =>
    (readPiece x.1 b (BitVec.ofNat 64 p.1) p.2).map fun y => (y.1, x.2 ++ y.2)) (.ok (s, []))

/-- The parts of the bytes for physical address `a` and virtual address `va` that are written now, as offset and
bytes: all of them, or of a torn write the granules that are new, and of a write in steps those whose turn it is. -/
def Bulk.parts (b : Bulk) (va a : Nat) (bs : List Byte) : List (Nat × List Byte) :=
  if b.torn.isNone && b.only.isNone && b.performed.isEmpty then [(0, bs)]
  else
    ((granules a bs.length).filter fun g =>
        (b.torn.all fun n => !Config.tornKeepsOld n g) && b.writesNow (va / 8 + (g - a / 8))).map fun g =>
      (8 * g - a, (granulePart a bs g).2)

/-- Note a written global line of an operation while the chalk line compares the partition (R477). -/
def noteOpWrite (s : State) (b : Bulk) (x : Xl) : State :=
  match b.tok with
  | none => s
  | some (core, slot) => noteOpLine s b.ag.part core slot x.ipa x.pa

/-- The line that a stash window shows is noted, where an operation writes in the window (R477). -/
def noteOpWin (s : State) (b : Bulk) (win : Option (Nat × Nat)) : State :=
  match win, b.ag.job with
  | some (w, o), some j =>
    match agentXl s b.ag (BitVec.ofNat 64 (stashVbase j w + o / 256 * 256)) .write with
    | .ok x => noteOpWrite s b x
    | .error _ => s
  | _, _ => s

/-- Write bytes to translated global memory, reached by virtual address `va`. -/
def writeXl (s : State) (b : Bulk) (va : Nat) (x : Xl) (bs : List Byte) : State :=
  if b.wet && effType x != 2 then
    if b.torn.isSome then s
    else (b.parts va x.pa bs).foldl (fun s p => writeWet s b.wetWriter x.cmp (x.pa + p.1) p.2) (noteOpWrite s b x)
  else
    (b.parts va x.pa bs).foldl (fun s p =>
      writePa s (b.ag.part, b.own) (some b.own) x.cmp (x.pa + p.1) p.2) (noteOpWrite s b x)

/-- Write one piece. -/
def writePiece (s : State) (b : Bulk) (va : Word) (bs : List Byte) : Except BulkFail State :=
  let n := bs.length
  match locate b.ag va with
  | .spad off win viaVa =>
    match b.ag.spad off n with
    | none => .error (.fault .perm, va)
    | some sp =>
      if inSealed b.ag off n then .error (.fault .sealedRange, va)
      else
        match (if viaVa then agentXl s b.ag va .write else .ok ⟨0, 0, 0, false⟩), fillRange s b.ag win n with
        | .error e, _ => .error (e, va)
        | .ok _, .error e => .error (e, va)
        | .ok _, .ok s =>
          let s := noteOpWin s b win
          .ok ((b.parts va.toNat sp bs).foldl (fun s p =>
            dirtyRange (writeSpad s (sp + p.1) p.2) b.ag (win.map fun w => (w.1, w.2 + p.1)) p.2.length) s)
  | .glob _ =>
    match agentXl s b.ag va .write with
    | .error e => .error (e, va)
    | .ok x =>
      if b.wet && effType x != 2 && !quotaOk s b.own b.quota x.pa n then .error (.fault .version, va)
      else .ok (writeXl s b va.toNat x bs)

/-- A range write as far as it goes: the state, and the first failure. After a failure other than VERSION
the other pieces may still have been written (R154); after VERSION none is (R116). -/
structure Written where
  st : State
  fail : Option BulkFail

def isVersion : Option BulkFail → Bool
  | some (.fault .version, _) => true
  | _ => false

/-- Write the pieces of a range. -/
def writePieces (b : Bulk) (va : Nat) (bs : List Byte) (w : Written) (p : Nat × Nat) : Written :=
  if isVersion w.fail then w
  else
    match writePiece w.st b (BitVec.ofNat 64 p.1) (slice bs (p.1 - va) p.2) with
    | .ok s => { w with st := s }
    | .error e => { w with fail := w.fail.or (some e) }

def writeRange (w : Written) (b : Bulk) (va : Word) (bs : List Byte) : Written :=
  (pieces va.toNat bs.length).foldl (writePieces b va.toNat bs) w

/-- A range write that must succeed as a whole. -/
def writeAll (s : State) (b : Bulk) (va : Word) (bs : List Byte) : Except BulkFail State :=
  let w := writeRange ⟨s, none⟩ b va bs
  match w.fail with
  | none => .ok w.st
  | some e => .error e

/-! ### Partition physical addresses and host addresses -/

/-- Write at a partition physical address, by stage 2 alone, into the partition's own GDDR 7 (R355, R356). -/
def writeIpa (s : State) (p ipa : Nat) (bs : List Byte) : Option State :=
  (pieces ipa bs.length).foldl (fun r x => r.bind fun s =>
    match ipaToPa s p x.1 .write with
    | .error _ => none
    | .ok (pa, _) =>
      if isHostPa pa then none else some (writePa s (p, 0) none false pa (slice bs (x.1 - ipa) x.2))) (some s)

/-- Read at a partition physical address. -/
def readIpa (s : State) (p ipa n : Nat) : Option (List Byte) :=
  (pieces ipa n).foldl (fun r x => r.bind fun bs =>
    match ipaToPa s p x.1 .read with
    | .error _ => none
    | .ok (pa, _) => if isHostPa pa then none else some (bs ++ readPa s (partView p) false pa x.2)) (some [])

/-- The first poisoned granule of a range of partition physical addresses, as an address (R458). -/
def ipaPoison (s : State) (p ipa n : Nat) : Option Nat :=
  (pieces ipa n).findSome? fun x =>
    match ipaToPa s p x.1 .read with
    | .error _ => none
    | .ok (pa, _) => (poisonIn s (partView p) pa x.2).map fun g => x.1 + (8 * g - pa)

/-- A read at a partition physical address by a unit of the device that has no fault record of its own: none where
a byte is not reached or poisoned. [DESIGN CHOICE, log 128] -/
def readSound (s : State) (p ipa n : Nat) : Option (List Byte) :=
  if (ipaPoison s p ipa n).isSome then none else readIpa s p ipa n

/-- The physical address of a host address behind a port (R392). -/
def hostPa (port : Nat) (addr : Word) : Nat := 0x400000000000 + port * 2 ^ 44 + addr.toNat % 2 ^ 44

/-- A device write to host memory. -/
def writeHost (s : State) (port : Nat) (addr : Word) (bs : List Byte) : State :=
  writePa s (0, 0) none false (hostPa port addr) bs

def readHost (s : State) (port : Nat) (addr : Word) (n : Nat) : List Byte := readPa s deviceView false (hostPa port addr) n

/-! ### The dispatcher (R388) -/

def noPred : Nat := 0xFFFFFFFF

/-- The dispatcher acting for a launch of a partition, or the device for another item of it. -/
def dispatcher (p pasid : Nat) (item : Nat := noPred) : Bulk :=
  { ag := { part := p, pasid := pasid, jobid := 0, hart := ⟨0, 0, .l⟩, job := none, who := .device p item,
            tlb := deviceTlb } }

/-- The cause a failed range access is recorded with; one that waits is not recorded. [DEDUCED, log 60] -/
def failCause : AccFail → Cause
  | .fault c => c
  | _ => .xlate

/-- The page whose request a failure waits for. -/
def AccFail.page : AccFail → Option Nat
  | .hostWait page => some page
  | _ => none

/-- An access of the device, or of an operation, waits for the host's answer for a page (R395).
[DEDUCED, log 30] -/
def noteWaiting (s : State) (who : Waiter) (page : Option Nat) : State :=
  match page with
  | none => s
  | some g => if s.ms.priWaiting.contains (who, g) then s else modMs s fun m => { m with priWaiting := m.priWaiting ++ [(who, g)] }

/-- An access of the device has been made, or has failed: a refusal that it met is used up. -/
def usedRefusal (s : State) (who : Waiter) : State :=
  if s.ms.priRefused.isEmpty then s else modMs s fun m => { m with priRefused := m.priRefused.filter fun e => e.1 != who }

end Sys2Proof.Machine
end

