-- ==== Sys2Proof/Machine/VCore.lean ====
section
/-! DEFINITION. What a V-class instruction computes (R284 to R307), apart from where its rows come from and
go to: operand values, the operation format and result tag, the checks of R288, masks, and the body of each
instruction. A body is a function of its inputs (`VIn`), so that the C-stream and the replay of a recipe
(R446) run the same one. -/

namespace Sys2Proof.Machine

/-! ### Rows, tags and masks -/

/-- A row tag's FMT, GAIN and SGN (R18). -/
abbrev Tag := BitVec 11

def Tag.fmt (t : Tag) : Nat := t.toNat % 16
def Tag.gain (t : Tag) : Nat := t.toNat / 16 % 64

/-- The tag of a format with a gain index: SGN is 1 exactly for INT8 (R18). -/
def mkTag (fmt gain : Nat) : Tag := BitVec.ofNat 11 (fmt % 16 + gain % 64 * 16 + b2n (fmt == 5) * 1024)

/-- RAW_TAG of R38. -/
def rawTag : Tag := 15

/-- An unwritten row (R20). -/
def Row.unwritten : Row := ⟨15, 0, 0, 0⟩

def Row.fix (r : Row) : Bool := r.tag.getLsbD 12
def Row.low (r : Row) : Tag := r.tag.setWidth 11

/-- A 16-bit tag from its parts. -/
def rowTag (t : Tag) (mark fix res : Bool) : BitVec 16 :=
  BitVec.ofNat 16 (t.toNat + b2n mark * 2048 + b2n fix * 4096 + b2n res * 8192)

/-- Four bytes of a row. -/
def lane32 (d : RowBits) (c : Nat) : Nat := d.toNat / 2 ^ (32 * c) % 2 ^ 32

/-- A row from its 64 lanes of four bytes. -/
def ofLanes (l : List Nat) : RowBits := BitVec.ofNat 2048 (l.foldr (fun x acc => x + acc * 2 ^ 32) 0)

/-- The new bytes where the column bit is set, the old ones elsewhere (R19, R24). -/
def mergeRow (old new : RowBits) (cols : BitVec 64) : RowBits :=
  if cols = 0xFFFFFFFFFFFFFFFF then new
  else ofLanes ((List.range 64).map fun c => if cols.getLsbD c then lane32 new c else lane32 old c)

/-- The granules of a row that a write under `cols` covers whole. -/
def wholeGranules (cols : BitVec 64) : BitVec 32 :=
  (List.range 32).foldl
    (fun m g => if cols.getLsbD (2 * g) && cols.getLsbD (2 * g + 1) then m ||| (1#32 <<< g) else m) 0

/-- Whether the column bit covers element `e` of a format (R19). -/
def colCovers (cols : BitVec 64) (fmt e : Nat) : Bool := cols.getLsbD (e * elemBytes fmt / 4)

/-! ### Inputs -/

/-- What an instruction reads once, at issue (R135, R288), or a body from its snapshot (R441). -/
structure VEnv where
  scal : Vector Word 32
  gains : Vector (BitVec 32) 64
  rowMask : BitVec 16
  colMask : BitVec 64
  top : BitVec 64
  rnd : BitVec 3
  ftz : Bool
  /-- R79: the rotated index of a descriptor with rot = 1, if legal -/
  rotate : Nat → Option Nat

/-- A source of an instruction: environment, rows and the tags they have, queue entries, the line of VLD and VST
at a step with its checks, the RECIPE trap of a write to a source row (R444), whether a write makes a row a new
ordinary one, and whether that many new ordinary rows and the storage of the rows written, in order, can be had
(R16). -/
structure VIn where
  env : VEnv
  row : Nat → Exec Row
  tagOf : Nat → Tag
  queue : Nat → List QRow
  line : Nat → Exec RowBits
  sourceOf : Nat → Option Stop
  newOrdinary : Nat → Bool
  room : Nat → Tab Row → List (Nat × Nat) → Bool
  depth : Nat

/-- What an instruction does: rows written, in order and each with its step, queue rows, a lane-mask entry, and
stores by step. -/
structure VOut where
  rows : Tab Row
  order : List (Nat × Nat)
  newOrd : Nat
  pushes : List QRow
  top : Option (BitVec 64)
  stores : List (Nat × RowBits × BitVec 64)

def VOut.empty : VOut := ⟨[], [], 0, [], none, []⟩

/-- The operands D, A and B, numbered as OPND numbers them (R288). -/
def opnd (v : VOp) (o : Nat) : Desc := if o = 0 then v.D else if o = 1 then v.A else v.B

/-- The row index of a row descriptor before its stride (R79); none where rotation is illegal. -/
def baseIndex (i : VIn) : Desc → Option Nat
  | .row idx _ rot _ _ => if rot then i.env.rotate idx.toNat else some idx.toNat
  | _ => some 0

def strideOf : Desc → Nat
  | .row _ st _ _ _ => st.toNat
  | _ => 0

/-- RowIndex (R38), after check 7 has passed. -/
def rowIndex (i : VIn) (d : Desc) (step : Nat) : Nat := (baseIndex i d).getD 0 + strideOf d * step

/-- Check 7 of R42 for a descriptor that is used at `steps` steps. -/
def indexOk (i : VIn) (d : Desc) (steps : Nat) : Bool :=
  match baseIndex i d with
  | none => false
  | some b => decide (b + strideOf d * (steps - 1) ≤ 1023)

/-- TRADDR of FORMAT and ROWS (R288). [DEDUCED, log 43] -/
def vAddr (i : VIn) (v : VOp) (o sub step code : Nat) : Word :=
  let d := opnd v o
  let w := match d with
    | .queue q _ _ => q.toNat + 1024
    | .row .. => rowIndex i d sub
    | _ => 0
  BitVec.ofNat 64 (w + step * 2048 + code * 32768)

def formatStop (i : VIn) (v : VOp) (o sub step : Nat) : Stop := .trap .format (vAddr i v o sub step o) 0

/-- A row as an earlier step of this instruction left it, or as it stands. -/
def seeRow (i : VIn) (out : VOut) (r : Nat) : Exec Row :=
  match Tab.get? out.rows r with
  | some x => .ok x
  | none => i.row r

/-- The first poisoned granule of a row; its address is taken as 256 × row index + 8 × granule.
[DEDUCED, log 43] -/
def poisonCheck (r : Nat) (x : Row) : Exec Unit :=
  match (List.range 32).find? fun g => x.poison.getLsbD g with
  | some g => .error (.trap .poison (BitVec.ofNat 64 (256 * r + 8 * g)) 0)
  | none => .ok ()

/-- The position in its queue of the row that operand `o` pops as its `k`-th (R140). -/
def popIndex (v : VOp) (o k : Nat) : Nat :=
  match v.A, v.B with
  | .queue a _ _, .queue b _ _ => if a = b then 2 * k + (o - 1) else k
  | _, _ => k

/-- A source row or popped entry: its tag and data, before the lane mode. -/
def rawRow (i : VIn) (v : VOp) (out : VOut) (o k : Nat) : Exec (Tag × RowBits) :=
  match opnd v o with
  | .row idx st rot ng ln => do
    let r := rowIndex i (.row idx st rot ng ln) k
    let x ← seeRow i out r
    poisonCheck r x
    .ok (x.low, x.data)
  | .queue q _ _ =>
    match (i.queue q.toNat)[popIndex v o k]? with
    | some e => .ok (e.tag, e.data)
    | none => .ok (rawTag, 0)
  | _ => .ok (rawTag, 0)

/-- The tag of a source row or popped entry, also where the row's replay fails. -/
def peekTag (i : VIn) (v : VOp) (o k : Nat) : Tag :=
  match opnd v o with
  | .row .. => i.tagOf (rowIndex i (opnd v o) k)
  | .queue q _ _ => ((i.queue q.toNat)[popIndex v o k]?).map (·.tag) |>.getD rawTag
  | _ => rawTag

/-- The tag of the tag source at step 0, which fixes T: there is none where its replay fails. -/
def sourceTag (i : VIn) (v : VOp) (o : Nat) : Exec Tag := do
  match opnd v o with
  | .row .. => let _ ← seeRow i .empty (rowIndex i (opnd v o) 0)
  | _ => .ok ()
  .ok (peekTag i v o 0)

/-- The lane mode, at the width of the row's tag (R285). -/
def laned (l : Lane) (xs : List Nat) : List Nat :=
  match l with
  | .straight => xs
  | .first => xs.map fun _ => xs.headD 0
  | .reversed => xs.reverse

/-! ### The operation format and the result tag (R286) -/

/-- What is fixed at issue. -/
structure VC where
  v : VOp
  i : VIn
  /-- F -/
  fmt : Nat
  /-- T -/
  tag : Tag
  /-- the tag source: 1 for A, 2 for B, 9 where there is none -/
  src : Nat
  isInt : Bool
  /-- whether A carries an integer format at the step (R292) -/
  aInt : Bool := false
  mode : Nat
  sat : Bool
  ftz : Bool
  /-- whether a tag source must have FMT fmt -/
  pinned : Bool

/-- The rounding mode of an instruction (R250). -/
def modeOf (i : VIn) (v : VOp) : Nat := if v.rnd = 7 then i.env.rnd.toNat else v.rnd.toNat

def tagSource (v : VOp) : Nat := if v.A.tagged then 1 else if v.B.tagged then 2 else 9

/-- Step 1 to 3 of R286; `free`: fmt names the result format; `own`: fmt names none. CTL.FTZ flushes as the
instruction's own bit does where the instruction `rounds` (R88, R284), for its operands and its result.
[DESIGN CHOICE, log 134] -/
def setup (i : VIn) (v : VOp) (fmtFree own : Bool) (rounds : Bool := true) : Exec VC := do
  let src := tagSource v
  let t ← if src = 9 then .ok (mkTag v.fmt.toNat 0) else sourceTag i v src
  let fmt := if own then 0 else v.fmt.toNat
  .ok { v := v, i := i, fmt := if fmt = 0 then t.fmt else fmt, tag := t, src := src, isInt := false,
        mode := modeOf i v, sat := v.sat, ftz := v.ftz || rounds && i.env.ftz,
        pinned := fmt != 0 && !fmtFree }

/-- [DEDUCED, log 44] -/
def VC.gain (c : VC) (t : Tag) : BitVec 32 := gainOf c.i.env.gains t.gain

/-- The columns a write of step `j` may touch (R24). -/
def VC.cols (c : VC) (j : Nat) : BitVec 64 :=
  if c.i.env.rowMask.getLsbD j then c.i.env.colMask &&& c.i.env.top else 0

def VC.bad (c : VC) (o sub j : Nat) : Stop := formatStop c.i c.v o sub j

/-- An integer as its format's integer after negation by a neg bit (R261). -/
def negInt (c : VC) (x : Int) : Int := intValue c.tag.fmt (intResult c.tag.fmt c.sat (-x))

/-- The elements of a row operand after the checks of its width, its FMT and its lane mode. -/
def rowElems (c : VC) (out : VOut) (o k j : Nat) (anyWidth : Bool := false) : Exec (Tag × List Nat) := do
  let (t, d) ← rawRow c.i c.v out o k
  if !anyWidth && elemBytes t.fmt != elemBytes c.tag.fmt then .error (c.bad o k j)
  else if c.pinned && c.src = o && t.fmt != c.fmt then .error (c.bad o k j)
  else .ok (t, laned (opnd c.v o).lane (elemsOf t.fmt d))

/-- The low bits of a scalar, as wide as an element of F. -/
def scalarBits (c : VC) (r : Reg) : Nat := (if r = 0 then 0 else c.i.env.scal[r.toNat]).toNat % 2 ^ elemBits c.fmt

/-- The exact values of an operand of a float operation (R247, R254, R285, R287). -/
def floatElems (c : VC) (out : VOut) (o k j : Nat) (anyWidth : Bool := false) : Exec (List Ex) :=
  let d := opnd c.v o
  -- an integer zero has no sign (R242, R259)
  let sgn (t : Tag) (x : Ex) : Ex := if d.neg && !(isInt t.fmt && x.isZero) then x.neg else x
  let val (t : Tag) (b : Nat) : Ex :=
    sgn t (Ex.flush (c.ftz && (floatFmt t.fmt).isSome) (decodeElem t.fmt (c.gain t) b))
  match d with
  | .scalar r _ =>
    if c.fmt = 15 then .error (c.bad o k j)
    else .ok (List.replicate (elemCount c.tag.fmt) (val (mkTag c.fmt 0) (scalarBits c r)))
  | .imm x =>
    if c.fmt = 15 then .error (c.bad o k j)
    else .ok (List.replicate (elemCount c.tag.fmt) (Ex.ofInt x.toInt))
  | .none => .ok (List.replicate (elemCount c.tag.fmt) (.zero false))
  | _ => do
    let (t, es) ← rowElems c out o k j anyWidth
    if t.fmt = 15 || !gainUsable (c.gain t) then .error (c.bad o k j)
    else .ok (es.map (val t))

/-- The integers of an operand of an integer operation (R249, R261, R285, R287); `gains`: its gain must be T's. -/
def intElems (c : VC) (out : VOut) (o k j : Nat) (gains : Bool := true) : Exec (List Int) :=
  let d := opnd c.v o
  let sgn (x : Int) : Int := if d.neg then negInt c x else x
  match d with
  | .scalar r _ =>
    if c.gain c.tag != fp32One then .error (c.bad o k j)
    else .ok (List.replicate (elemCount c.tag.fmt) (sgn (intValue c.fmt (scalarBits c r))))
  | .imm x =>
    if c.gain c.tag != fp32One then .error (c.bad o k j)
    else .ok (List.replicate (elemCount c.tag.fmt) x.toInt)
  | .none => .ok (List.replicate (elemCount c.tag.fmt) 0)
  | _ => do
    let (t, es) ← rowElems c out o k j
    if t.fmt != c.tag.fmt || gains && c.gain t != c.gain c.tag then .error (c.bad o k j)
    else .ok (es.map fun b => sgn (intValue t.fmt b))

/-- The bits of an operand of a bit operation (R285, R293); of an immediate wider than the element, the low
bits. [DESIGN CHOICE, log 129] -/
def bitElems (c : VC) (out : VOut) (o k j : Nat) (anyWidth : Bool := false) : Exec (List Nat) :=
  match opnd c.v o with
  | .scalar r _ => .ok (List.replicate (elemCount c.tag.fmt) (scalarBits c r))
  | .imm x => .ok (List.replicate (elemCount c.tag.fmt) (intBits c.tag.fmt x.toInt))
  | .none => .ok (List.replicate (elemCount c.tag.fmt) 0)
  | d =>
    if anyWidth then do
      let (t, x) ← rawRow c.i c.v out o k
      let es := laned d.lane (elemsOf t.fmt x)
      .ok (elemsOf c.tag.fmt (rowOfElems t.fmt es))
    else (rowElems c out o k j).map (·.2)

/-- Whether a tag can be encoded to (R246, R248). [DEDUCED, log 44] -/
def VC.encodable (c : VC) (t : Tag) : Bool := t.fmt != 15 && gainUsable (c.gain t)

/-- The elements of a copied operand (R285). [DEDUCED, log 113] -/
def copyElems (c : VC) (out : VOut) (o k j : Nat) : Exec (List Nat) :=
  match opnd c.v o with
  | .imm x =>
    .ok (List.replicate (elemCount c.tag.fmt)
      (encodeElem c.tag.fmt (c.gain c.tag) 0 false false (Ex.ofInt x.toInt)))
  | _ => bitElems c out o k j

/-- Whether a copy instruction encodes an immediate into T (R285). [DEDUCED, log 113] -/
def copiesImm : Desc → Bool
  | .imm _ => true
  | _ => false

/-- The integer of an index, base, gain or tag operand (R285), negated where its neg bit is set (R46). -/
def wholeInt (c : VC) : Desc → Int
  | .scalar r n =>
    let x := (if r = 0 then 0 else c.i.env.scal[r.toNat]).toInt
    if n then -x else x
  | .imm x => x.toInt
  | _ => 0

/-- Encode of R248 into the result tag. -/
def VC.out (c : VC) (x : Ex) : Nat := encodeElem c.tag.fmt (c.gain c.tag) c.mode c.sat c.ftz x

/-! ### Destinations -/

/-- The checks of D's tag before its elements are read: encodable where the instruction encodes, the
partial write of R24, and the write to a source row (R444). [DEDUCED, log 44, 113] -/
def destCheck (c : VC) (out : VOut) (k j : Nat) (tag : Tag) (full encodes : Bool) : Exec Unit :=
  match c.v.D with
  | .row idx st rot ng ln => do
    let r := rowIndex c.i (.row idx st rot ng ln) k
    let old ← seeRow c.i out r
    if encodes && !c.encodable tag then .error (c.bad 0 k j)
    else if !full && old.res && old.low != tag then .error (c.bad 0 k j)
    else match c.i.sourceOf r with
      | some e => .error e
      | none => .ok ()
  | _ => if encodes && !c.encodable tag then .error (c.bad 0 k j) else .ok ()

/-- Whether a destination row needs storage as a new ordinary row (R16). -/
def addsRow (c : VC) (out : VOut) (r : Nat) : Bool := (Tab.get? out.rows r).isNone && c.i.newOrdinary r

/-- Write a row at a step: the storage that it needs (R16, OPND 3), then the row. -/
def putDest (c : VC) (out : VOut) (r k j : Nat) (x : Row) : Exec VOut :=
  let new := addsRow c out r
  let out' := { out with
    rows := Tab.set out.rows r x, order := out.order ++ [(r, j)], newOrd := out.newOrd + b2n new }
  if new && !c.i.room out'.newOrd out'.rows out'.order then .error (.trap .rows (vAddr c.i c.v 0 k j 3) 0)
  else .ok out'

/-- The storage that the destination of step 0 needs, of an instruction that writes once (R302).
[DEDUCED, log 43] -/
def roomCheck (c : VC) : Exec Unit :=
  match c.v.D with
  | .row idx st rot ng ln =>
    (putDest c .empty (rowIndex c.i (.row idx st rot ng ln) 0) 0 0 ⟨rowTag rawTag false false true, 0, 0, 0⟩).map
      fun _ => ()
  | _ => .ok ()

/-- Write the destination of a step (R288, R140), after every other check of the step. -/
def stage (c : VC) (out : VOut) (k j : Nat) (tag : Tag) (data : RowBits) (cols : BitVec 64) : Exec VOut :=
  match c.v.D with
  | .row idx st rot ng ln => do
    let r := rowIndex c.i (.row idx st rot ng ln) k
    let old ← seeRow c.i out r
    putDest c out r k j ⟨rowTag tag false old.fix true, mergeRow old.data data cols,
      old.poison &&& ~~~(wholeGranules cols), 0⟩
  | .queue .. => .ok { out with pushes := out.pushes ++ [⟨tag, mergeRow 0 data cols⟩] }
  | _ => .ok out

def fullMask (cols : BitVec 64) : Bool := cols == 0xFFFFFFFFFFFFFFFF

/-- The steps 0 to n − 1 in order. [DEDUCED, log 43] -/
def overSteps (n : Nat) (f : VOut → Nat → Exec VOut) : Exec VOut :=
  (List.range n).foldl (fun r j => r.bind fun o => f o j) (.ok .empty)

/-- Element `e` of three lists together. -/
def zip3 {α β : Type} (f : Nat → α → α → α → β) : Nat → List α → List α → List α → List β
  | e, a :: as, b :: bs, z :: zs => f e a b z :: zip3 f (e + 1) as bs zs
  | _, _, _, _ => []

/-- A V-class body. -/
abbrev VProg := VIn → VOp → Exec VOut

/-! ### Elementwise arithmetic (R287 to R292) -/

/-- The meaning of a numeric instruction on one element. -/
structure NumOp where
  readsOld : Bool := false
  floatOnly : Bool := false
  fl : VC → Ex → Ex → Ex → Ex
  it : VC → Int → Int → Int → Nat := fun _ _ _ _ => 0

/-- R287: whether the operation is an integer operation, from the tags of step 0. -/
def intOperation (c : VC) (names : List Nat) (floatOnly : Bool) : Bool :=
  !floatOnly && isInt c.fmt
    && names.all fun o => !(opnd c.v o).tagged || isInt (peekTag c.i c.v o 0).fmt

/-- An integer operation rounds nothing: rnd must be 7 and ftz 0 (R45, R261). -/
def intLegal (v : VOp) (int : Bool) : Exec Unit := check (!int || v.rnd == 7 && !v.ftz) .illegal

/-- Whether operand A holds integers at a step: by its own tag, or by F where it carries none (R285). -/
def intAt (c : VC) (out : VOut) (k : Nat) : Exec Bool :=
  if c.v.A.tagged then (rawRow c.i c.v out 1 k).map fun t => isInt t.1.fmt else .ok (isInt c.fmt)

/-- One step of a numeric instruction, writing tag `wt`; `elem` gives the element written. -/
def numStep (c : VC) (op : NumOp) (k : Nat) (out : VOut) : Exec VOut := do
  let cols := c.cols k
  let old := if op.readsOld then 0 else 9
  if c.isInt then
    let z ← if old = 0 then intElems c out 0 k k else .ok (List.replicate (elemCount c.tag.fmt) 0)
    destCheck c out k k c.tag (fullMask cols) false
    let a ← intElems c out 1 k k
    let b ← intElems c out 2 k k
    stage c out k k c.tag (rowOfElems c.tag.fmt (zip3 (fun e x y z =>
      if colCovers cols c.tag.fmt e then op.it c x y z else 0) 0 a b z)) cols
  else
    let z ← if old = 0 then floatElems c out 0 k k else .ok (List.replicate (elemCount c.tag.fmt) (.zero false))
    destCheck c out k k c.tag (fullMask cols) true
    let a ← floatElems c out 1 k k
    let ai ← intAt c out k
    let b ← floatElems c out 2 k k
    stage c out k k c.tag (rowOfElems c.tag.fmt (zip3 (fun e x y z =>
      if colCovers cols c.tag.fmt e then c.out (op.fl { c with aInt := ai } x y z) else 0) 0 a b z)) cols

def numProg (op : NumOp) : VProg := fun i v => do
  let c ← setup i v false false
  let int := intOperation c (if op.readsOld then [0, 1, 2] else [1, 2]) op.floatOnly
  intLegal v int
  let c := { c with isInt := int }
  overSteps (v.n.toNat + 1) fun out j => numStep c op j out

def wrapInt (c : VC) (x : Int) : Nat := intResult c.tag.fmt c.sat x

def isRdn (c : VC) : Bool := c.mode == 3

def opAdd : NumOp := { fl := fun c x y _ => x.add (isRdn c) y, it := fun c x y _ => wrapInt c (x + y) }
def opSub : NumOp := { fl := fun c x y _ => x.add (isRdn c) y.neg, it := fun c x y _ => wrapInt c (x - y) }
def opMul : NumOp := { fl := fun _ x y _ => x.mul y, it := fun c x y _ => wrapInt c (x * y) }
def opFma : NumOp :=
  { readsOld := true, fl := fun c x y z => (x.mul y).add (isRdn c) z, it := fun c x y z => wrapInt c (x * y + z) }
def opFms : NumOp :=
  { readsOld := true, fl := fun c x y z => (x.mul y).add (isRdn c) z.neg,
    it := fun c x y z => wrapInt c (x * y - z) }
def opMin : NumOp := { fl := fun _ x y _ => x.min y, it := fun c x y _ => wrapInt c (min x y) }
def opMax : NumOp := { fl := fun _ x y _ => x.max y, it := fun c x y _ => wrapInt c (max x y) }
def opAbs : NumOp := { fl := fun _ x _ _ => x.abs, it := fun c x _ _ => wrapInt c x.natAbs }
def opDiv : NumOp := { fl := fun _ x y _ => x.div y, it := fun c x y _ => intDiv c.tag.fmt c.sat x y }
def opClamp : NumOp :=
  { readsOld := true, fl := fun _ x y z => (x.max y).min z, it := fun c x y z => wrapInt c (min (max x y) z) }

/-- R291: ((16 − w)·x + w·y) / 16 with w = fn. -/
def opLerp : NumOp :=
  { floatOnly := true
    fl := fun c x y _ =>
      let w := c.v.fn.toNat
      if w = 0 then x
      else (((Ex.ofInt (16 - w : Nat)).mul x).add (isRdn c) ((Ex.ofInt w).mul y)).div (Ex.ofInt 16) }

/-- An integral value in the direction of a mode (R292). -/
def roundIntegral (mode : Nat) : Ex → Ex
  | .fin s n d =>
    let m := rounded mode s (cutOf n d)
    if m = 0 then .zero s else .fin s m 1
  | x => x

/-- R292: an integer-tagged operand is unchanged in value. -/
def opRnd : NumOp :=
  { floatOnly := true, fl := fun c x _ _ => if c.aInt then x else roundIntegral c.mode x }

def opRcp : NumOp := { floatOnly := true, fl := fun _ x _ _ => x.recip }
def opRsq : NumOp := { floatOnly := true, fl := fun _ x _ _ => x.rsqrt }
def opSqrt : NumOp := { floatOnly := true, fl := fun _ x _ _ => x.sqrt }
def opExp2 : NumOp := { floatOnly := true, fl := fun _ x _ _ => exp2 (r32 x) }

/-! ### Conversions (R296, R297, R299) -/

/-- The gain index VCVT, VPACK, VUNPK and VGAIN take from B. -/
def gainFromB (c : VC) : Nat := (wholeInt c c.v.B % 64).toNat

def opCopyValue : NumOp := { floatOnly := true, fl := fun _ x _ _ => x }

/-- R296: T is fmt with B's gain. -/
def progCvt : VProg := fun i v => do
  let c ← setup i v true false
  let c := { c with tag := mkTag v.fmt.toNat (gainFromB c) }
  overSteps (v.n.toNat + 1) fun out j => numStep { c with v := { v with B := .none } } opCopyValue j out

/-- R297: T is A's FMT with B's gain. -/
def progGain : VProg := fun i v => do
  let c ← setup i v false false
  let c := { c with tag := mkTag c.tag.fmt (gainFromB c) }
  overSteps (v.n.toNat + 1) fun out j => numStep { c with v := { v with B := .none } } opCopyValue j out

/-- The width ratio of VPACK and VUNPK (R299); it must be 2 or 4. -/
def ratio (big small : Nat) : Option Nat :=
  if big = 2 * small then some 2 else if big = 4 * small then some 4 else none

/-- The exact values of a source row of VPACK or VUNPK, which must have width `wa`. -/
def packSource (c : VC) (out : VOut) (wa k j : Nat) : Exec (List Ex) := do
  let (t, _) ← rawRow c.i c.v out 1 k
  if elemBytes t.fmt != wa then .error (c.bad 1 k j) else floatElems c out 1 k j true

/-- The sub-steps 0 to r − 1 in order. -/
def foldExec {α : Type} (n : Nat) (f : α → Nat → Exec α) (x : α) : Exec α :=
  (List.range n).foldl (fun r k => r.bind fun o => f o k) (.ok x)

/-- More than 8 entries of one queue (R141), or a row past 1,023 at a sub-step (R299), in the body of a recipe;
the C-stream's instruction has passed these checks before it waits. -/
def packLimits (c : VC) (rows r : Nat) (d : Desc) : Exec Unit :=
  match d with
  | .queue .. => check (rows * r ≤ 8) .illegal
  | d => check (indexOk c.i d (rows * r)) .illegal

/-- VPACK: r source rows narrow into one. -/
def progPack : VProg := fun i v => do
  let c ← setup i v true false
  let wa := elemBytes c.tag.fmt
  let c := { c with tag := mkTag v.fmt.toNat (gainFromB c) }
  match ratio wa (elemBytes c.tag.fmt) with
  | none => do
    destCheck c .empty 0 0 c.tag (fullMask (c.cols 0)) true
    .error (c.bad 1 0 0)
  | some r => do
    packLimits c (v.n.toNat + 1) r v.A
    overSteps (v.n.toNat + 1) fun out j => do
      let cols := c.cols j
      destCheck c out j j c.tag (fullMask cols) true
      let xs ← foldExec r (fun acc k => (packSource c out wa (j * r + k) j).map (acc ++ ·)) []
      stage c out j j c.tag (rowOfElems c.tag.fmt (xs.map c.out)) cols

/-- VUNPK: one source row widens into r. -/
def progUnpk : VProg := fun i v => do
  let c ← setup i v true false
  let wa := elemBytes c.tag.fmt
  let c := { c with tag := mkTag v.fmt.toNat (gainFromB c) }
  match ratio (elemBytes c.tag.fmt) wa with
  | none => do
    destCheck c .empty 0 0 c.tag (fullMask (c.cols 0)) true
    .error (c.bad 1 0 0)
  | some r => do
    packLimits c (v.n.toNat + 1) r v.D
    overSteps (v.n.toNat + 1) fun out j => do
      let cols := c.cols j
      foldExec r (fun _ k => destCheck c out (j * r + k) j c.tag (fullMask cols) true) ()
      let xs ← packSource c out wa j j
      foldExec r (fun out k =>
        stage c out (j * r + k) j c.tag
          (rowOfElems c.tag.fmt ((slice xs (k * elemCount c.tag.fmt) (elemCount c.tag.fmt)).map c.out)) cols) out

/-! ### Bits, comparison, selection (R293 to R295) -/

def bitProg (f : Nat → Nat → Nat) : VProg := fun i v => do
  let c ← setup i v false false
  overSteps (v.n.toNat + 1) fun out j => do
    let cols := c.cols j
    destCheck c out j j c.tag (fullMask cols) false
    let a ← bitElems c out 1 j j
    let b ← bitElems c out 2 j j
    stage c out j j c.tag (rowOfElems c.tag.fmt (zip3 (fun _ x y _ => f x y) 0 a b a)) cols

/-- A shift: width in bits, element, count (R293). [DEDUCED, log 114] -/
def shiftProg (f : Nat → Nat → Nat → Nat) : VProg := fun i v => do
  let c ← setup i v false false
  overSteps (v.n.toNat + 1) fun out j => do
    let cols := c.cols j
    destCheck c out j j c.tag (fullMask cols) false
    let (t, a) ← rowElems c out 1 j j
    if !(isInt t.fmt || t.fmt == 15) then .error (c.bad 1 j j)
    else do
      let b ← bitElems c out 2 j j true
      stage c out j j c.tag (rowOfElems c.tag.fmt (zip3 (fun _ x y _ => f (elemBits c.tag.fmt) x y) 0 a b a)) cols

def shlBits (w a n : Nat) : Nat := if n < w then a * 2 ^ n % 2 ^ w else 0
def shrBits (w a n : Nat) : Nat := if n < w then a / 2 ^ n else 0
def sraBits (w a n : Nat) : Nat :=
  let top := a / 2 ^ (w - 1) % 2
  let k := min n w
  a / 2 ^ k + top * (2 ^ w - 2 ^ (w - k))

/-- The conditions of VCMP (R294) on ordered values. -/
def condHolds (cond : Nat) (lt gt : Bool) : Bool :=
  match cond with
  | 0 => !lt && !gt
  | 1 => lt || gt
  | 2 => lt
  | 3 => !gt
  | 4 => gt
  | _ => !lt

def exHolds (cond : Nat) (x y : Ex) : Bool :=
  if x.isNan || y.isNan then cond == 1 else condHolds cond (x.lt y) (y.lt x)

def intHolds (cond : Nat) (x y : Int) : Bool := condHolds cond (decide (x < y)) (decide (y < x))

/-- The comparisons of one step, by element. -/
def cmpStep (c : VC) (out : VOut) (j : Nat) : Exec (List Bool) := do
  let cond := c.v.fn.toNat % 8
  if c.isInt then
    let a ← intElems c out 1 j j
    let b ← intElems c out 2 j j
    .ok (zip3 (fun _ x y _ => intHolds cond x y) 0 a b a)
  else
    let a ← floatElems c out 1 j j
    let b ← floatElems c out 2 j j
    .ok (zip3 (fun _ x y _ => exHolds cond x y) 0 a b a)

def progCmp : VProg := fun i v => do
  let c ← setup i v false false false
  let c := { c with isInt := intOperation c [1, 2] false }
  overSteps (v.n.toNat + 1) fun out j => do
    let cols := c.cols j
    destCheck c out j j rawTag (fullMask cols) false
    let h ← cmpStep c out j
    stage c out j j rawTag
      (rowOfElems c.tag.fmt (h.map fun b => if b then 2 ^ elemBits c.tag.fmt - 1 else 0)) cols

/-- Whether the comparison holds for every element of column `col` (R19, R294). -/
def colHolds (fmt : Nat) (h : List Bool) (col : Nat) : Bool :=
  let per := 4 / elemBytes fmt
  (slice h (col * per) per).all id

/-- The operands' checks come before that of the stack. [DESIGN CHOICE, log 135] -/
def progCmpPush : VProg := fun i v => do
  let c ← setup i v false false false
  let c := { c with isInt := intOperation c [1, 2] false }
  let h ← cmpStep c .empty 0
  check (i.depth < 16) .queue 19
  let bits := (List.range 64).foldl (fun (m : BitVec 64) k =>
    if (c.cols 0).getLsbD k && colHolds c.tag.fmt h k then m ||| (1#64 <<< k) else m) 0
  .ok { VOut.empty with top := some bits }

/-- R295: the stack top chooses; the write mask is row mask AND column mask. -/
def progSel : VProg := fun i v => do
  let c ← setup i v false false
  overSteps (v.n.toNat + 1) fun out j => do
    let cols := if i.env.rowMask.getLsbD j then i.env.colMask else 0
    destCheck c out j j c.tag (fullMask cols) (copiesImm v.A || copiesImm v.B)
    let a ← copyElems c out 1 j j
    if v.A.tagged && v.B.tagged then
      let ta ← rawRow i v out 1 j
      let tb ← rawRow i v out 2 j
      if ta.1 != tb.1 then .error (c.bad 2 j j)
    let b ← copyElems c out 2 j j
    stage c out j j c.tag (rowOfElems c.tag.fmt
      (zip3 (fun e x y _ => if colCovers i.env.top c.tag.fmt e then x else y) 0 a b a)) cols

/-! ### Tags, moves and permutations (R298, R300) -/

/-- The new FMT is fixed at issue, as every T is (R286). -/
def progTag : VProg := fun i v => do
  let c ← setup i v true false
  let g := (wholeInt c v.B % 128).toNat
  let tag := mkTag c.fmt g
  overSteps (v.n.toNat + 1) fun out j => do
    let cols := c.cols j
    if decide (g / 64 = 1) != (c.fmt == 5) then .error (c.bad 0 j j)
    else
      destCheck c out j j tag (fullMask cols) false
      let (t, d) ← rawRow i v out 1 j
      stage c out j j tag (rowOfElems t.fmt (laned v.A.lane (elemsOf t.fmt d))) cols

def progMov : VProg := fun i v => do
  let c ← setup i v false false
  overSteps (v.n.toNat + 1) fun out j => do
    let cols := c.cols j
    destCheck c out j j c.tag (fullMask cols) (copiesImm v.A)
    let a ← copyElems c out 1 j j
    stage c out j j c.tag (rowOfElems c.tag.fmt a) cols

/-- An index operand reduced modulo the element count (R300). [DEDUCED, log 47] -/
def laneIndex (c : VC) (d : Desc) : Nat := (wholeInt c d % elemCount c.tag.fmt).toNat

/-- VEXT and VROT: the result elements from the source elements and the index. -/
def permProg (f : List Nat → Nat → List Nat) : VProg := fun i v => do
  let c ← setup i v false false
  overSteps (v.n.toNat + 1) fun out j => do
    let cols := c.cols j
    destCheck c out j j c.tag (fullMask cols) false
    let (_, a) ← rowElems c out 1 j j
    stage c out j j c.tag (rowOfElems c.tag.fmt (f a (laneIndex c v.B))) cols

def extElems (a : List Nat) (k : Nat) : List Nat := a.map fun _ => a.getD k 0
def rotElems (a : List Nat) (k : Nat) : List Nat := a.drop k ++ a.take k

/-- VPERM: element e is a[b8(e) mod Count], b8(e) byte wa·e of B's row. -/
def progPerm : VProg := fun i v => do
  let c ← setup i v false false
  overSteps (v.n.toNat + 1) fun out j => do
    let cols := c.cols j
    destCheck c out j j c.tag (fullMask cols) false
    let (_, a) ← rowElems c out 1 j j
    let (tb, db) ← rawRow i v out 2 j
    let b := rowOfElems tb.fmt (laned v.B.lane (elemsOf tb.fmt db))
    stage c out j j c.tag (rowOfElems c.tag.fmt ((List.range (elemCount c.tag.fmt)).map fun e =>
      a.getD (b.toNat / 2 ^ (elemBits c.tag.fmt * e) % 256 % elemCount c.tag.fmt) 0)) cols

/-- VINS: only element i is written, always a partial write. -/
def progIns : VProg := fun i v => do
  let c ← setup i v false false
  overSteps (v.n.toNat + 1) fun out j => do
    destCheck c out j j c.tag false (copiesImm v.A)
    let a ← copyElems c out 1 j j
    let k := laneIndex c v.B
    let old ← match v.D with
      | .row idx st rot ng ln => (seeRow i out (rowIndex i (.row idx st rot ng ln) j)).map (·.data)
      | _ => .ok 0
    let new := if colCovers (c.cols j) c.tag.fmt k then
        rowOfElems c.tag.fmt ((elemsOf c.tag.fmt old).set k (a.headD 0)) else old
    let out' ← stage c out j j c.tag new 0xFFFFFFFFFFFFFFFF
    -- a write narrower than a granule leaves poison (R458)
    match v.D with
    | .row idx st rot ng ln => do
      let r := rowIndex i (.row idx st rot ng ln) j
      let was ← seeRow i out r
      .ok { out' with rows := Tab.modify out'.rows r fun x => { x with poison := was.poison } }
    | _ => .ok out'

/-- R301. [DEDUCED, log 47] -/
def progIota : VProg := fun i v => do
  let c ← setup i v true false
  let c := { c with tag := mkTag v.fmt.toNat 0 }
  let b := wholeInt c v.A
  overSteps (v.n.toNat + 1) fun out j => do
    let cols := c.cols j
    destCheck c out j j c.tag (fullMask cols) true
    stage c out j j c.tag (rowOfElems c.tag.fmt ((List.range (elemCount c.tag.fmt)).map fun e : Nat =>
      c.out (Ex.ofInt (b + j * elemCount c.tag.fmt + e)))) cols

/-! ### Reductions and scans (R302, R303) -/

/-- The reductions. -/
inductive RedKind where
  | sum | max | min | amax | amin
  deriving DecidableEq, Repr

def RedKind.isArg : RedKind → Bool
  | .amax => true
  | .amin => true
  | _ => false

/-- Leaf pairs for the index forms: the value, its index, and the NaN rule of R270. -/
def pickArg (isMax : Bool) (x y : Ex × Nat) : Ex × Nat :=
  if x.1.isNan || y.1.isNan then
    if x.1.isNan && y.1.isNan then (.nan, min x.2 y.2) else if x.1.isNan then x else y
  else if isMax then (if x.1.lt y.1 then y else x) else (if y.1.lt x.1 then y else x)

/-- The reduction of a list of leaves (some absent), as the bits of an element of the result (R303).
[DEDUCED, log 47] -/
def reduceLeaves (c : VC) (k : RedKind) (int : Bool) (l : List (Option Ex)) : Nat :=
  match k with
  | .sum =>
    if int then
      wrapInt c ((l.filterMap id).foldl (fun s x => s + roundExact x) 0)
    else c.out (plumbSum32 (l.map fun x => x.map r32))
  | .max => encodeElem c.tag.fmt (if int then fp32One else c.gain c.tag) 0 false false
      ((plumb Ex.max l).getD (.inf true))
  | .min => encodeElem c.tag.fmt (if int then fp32One else c.gain c.tag) 0 false false
      ((plumb Ex.min l).getD (.inf false))
  | .amax => ((plumb (pickArg true) (l.zipIdx.map fun x => x.1.map fun v => (v, x.2))).map (·.2)).getD 0
  | .amin => ((plumb (pickArg false) (l.zipIdx.map fun x => x.1.map fun v => (v, x.2))).map (·.2)).getD 0
where
  /-- An integer leaf as an integer. -/
  roundExact : Ex → Int
    | .fin s n _ => if s then -(n : Int) else n
    | _ => 0

/-- Whether a reduction rounds (R284). [DESIGN CHOICE, log 134] -/
def RedKind.rounds : RedKind → Bool
  | .sum => true
  | _ => false

/-- The result tag of a reduction (R303); none where a 2-byte A has no index format. -/
def redTag (c : VC) (k : RedKind) (rows : Bool) : Option Tag :=
  if !k.isArg then some c.tag
  else if !rows then some (mkTag 4 0)
  else
    match elemBytes c.tag.fmt with
    | 4 => some (mkTag 4 0)
    | 1 => some (mkTag 6 0)
    | _ => none

/-- Leaves of a row under a mask at the width of its format (R24). -/
def leavesOf (fmt : Nat) (cols : BitVec 64) (l : List Ex) : List (Option Ex) :=
  l.zipIdx.map fun e => if colCovers cols fmt e.2 then some e.1 else none

/-- The leaves of the source row of a step under a mask. An integer sum has one source, whose gain is not compared
(R303); VAMAX and VAMIN over lanes take each row at its own width (R286, R303). [DEDUCED, log 47] -/
def redLeaves (c : VC) (out : VOut) (k : RedKind) (rows : Bool) (j : Nat) (cols : BitVec 64) :
    Exec (List (Option Ex)) := do
  if c.isInt then
    let l ← intElems c out 1 j j (k != .sum)
    .ok (leavesOf c.tag.fmt cols (l.map Ex.ofInt))
  else
    let l ← floatElems c out 1 j j (k.isArg && !rows)
    let (t, _) ← rawRow c.i c.v out 1 j
    .ok (leavesOf t.fmt cols l)

def redProg (k : RedKind) (scan : Bool) : VProg := fun i v => do
  let c ← setup i v false k.isArg k.rounds
  -- VAMAX and VAMIN name no operation format: they compare exact values (R286, R303)
  let int := intOperation c [1] k.isArg
  intLegal v int
  let c := { c with isInt := int }
  let rows := v.fn = 1
  let enc := !k.isArg && !int
  match redTag c k rows with
  | none => do
    let _ ← match v.D with
      | .row .. => (seeRow i .empty (rowIndex i v.D 0)).map fun _ => ()
      | _ => .ok ()
    .error (c.bad 1 0 0)
  | some t =>
    if !rows then
      overSteps (v.n.toNat + 1) fun out j => do
        let cols := c.cols j
        destCheck c out j j t (fullMask cols) enc
        let l ← redLeaves c out k rows j cols
        let es := if scan then
            (List.range (elemCount c.tag.fmt)).map fun e => reduceLeaves c k int (l.take (e + 1))
          else List.replicate (elemCount t.fmt) (reduceLeaves c k int l)
        stage c out j j t (rowOfElems t.fmt es) cols
    else if scan then
      (foldExec (v.n.toNat + 1) (fun (x : VOut × List (List (Option Ex))) j => do
        let cols := c.cols j
        destCheck c x.1 j j t (fullMask cols) enc
        let l ← redLeaves c x.1 k rows j cols
        let all := x.2 ++ [l]
        let es := (List.range (elemCount c.tag.fmt)).map fun e =>
          reduceLeaves c k int (all.map fun r => (r.getD e none))
        let out ← stage c x.1 j j t (rowOfElems t.fmt es) cols
        .ok (out, all)) (.empty, [])).map (·.1)
    else do
      let once := i.env.colMask &&& i.env.top
      let all ← foldExec (v.n.toNat + 1) (fun acc j => do
        if j = 0 then destCheck c .empty 0 0 t (fullMask once) enc
        let l ← redLeaves c .empty k rows j (c.cols j)
        if j = 0 then roomCheck c
        .ok (acc ++ [l])) []
      let es := (List.range (elemCount t.fmt)).map fun e => reduceLeaves c k int (all.map fun r => r.getD e none)
      stage c .empty 0 0 t (rowOfElems t.fmt es) once

/-! ### Bit counts and slots (R304, R305) -/

/-- The number of one bits of a number below 2^n. -/
def popcount (n x : Nat) : Nat := (List.range n).foldl (fun k b => k + x / 2 ^ b % 2) 0

def progPopc : VProg := fun i v => do
  let c ← setup i v false true
  overSteps (v.n.toNat + 1) fun out j => do
    let cols := c.cols j
    destCheck c out j j (mkTag 4 0) (fullMask cols) false
    let (t, d) ← rawRow i v out 1 j
    let es := laned v.A.lane (elemsOf t.fmt d)
    let n := (es.zipIdx.map fun e =>
      if colCovers cols t.fmt e.2 then popcount (elemBits t.fmt) e.1 else 0).sum
    stage c out j j (mkTag 4 0) (rowOfElems 4 (List.replicate 64 n)) cols

/-- Element p of VPFX for a bitmap (R305, R218). -/
def slotOf (bm p : Nat) : Nat := if bm / 2 ^ p % 2 = 1 then popcount p (bm % 2 ^ p) else 0xFFFFFFFF

def progPfx : VProg := fun i v => do
  let c ← setup i v false true
  overSteps (v.n.toNat + 1) fun out j => do
    let cols := c.cols j
    destCheck c out j j (mkTag 4 0) (fullMask cols) false
    let bm ← match v.A with
      | .scalar r _ => .ok (if r = 0 then 0 else i.env.scal[r.toNat]).toNat
      | _ => (rawRow i v out 1 j).map fun x => x.2.toNat % 2 ^ 64
    stage c out j j (mkTag 4 0) (rowOfElems 4 ((List.range 64).map (slotOf bm))) cols

/-! ### VLD and VST (R306, R307) -/

/-- R187: a tag that rows may be loaded with. -/
def loadTagOk (t : Tag) : Bool :=
  let f := t.fmt
  ((1 ≤ f && f ≤ 7) || f == 15) && (t.getLsbD 10 == (f == 5))

/-- The job offsets of the lines of VLD and VST. -/
def vLines (i : VIn) (v : VOp) (d : Desc) : List Nat :=
  let o := match d with
    | .scalar r _ => (if r = 0 then 0 else i.env.scal[r.toNat]).toNat
    | _ => 0
  (List.range (v.n.toNat + 1)).map fun j => o + 256 * (v.fn.toNat + 1) * j

/-- The tag VLD takes from B. -/
def vldTag (i : VIn) (v : VOp) : Tag :=
  match v.B with
  | .scalar r _ => (if r = 0 then 0 else i.env.scal[r.toNat]).setWidth 11
  | .imm x => x.setWidth 11
  | _ => rawTag

/-- At the first step D's checks come before B's (R288); the tag's come before those of the lines (R306). -/
def progLd : VProg := fun i v => do
  let t := vldTag i v
  let c : VC := { v := v, i := i, fmt := t.fmt, tag := t, src := 9, isInt := false, mode := 0, sat := false,
                  ftz := false, pinned := false }
  overSteps (v.n.toNat + 1) fun out j => do
    let cols := c.cols j
    destCheck c out j j t (fullMask cols) false
    if !loadTagOk t then .error (formatStop i v 2 0 j)
    let d ← i.line j
    stage c out j j t d cols

def progSt : VProg := fun i v => do
  let c ← setup i v false true
  overSteps (v.n.toNat + 1) fun out j => do
    let (t, d) ← rawRow i v out 1 j
    let _ ← i.line j
    let row := rowOfElems t.fmt (laned v.A.lane (elemsOf t.fmt d))
    .ok { out with stores := out.stores ++ [(j, row, c.cols j)] }

/-- The body of a V-class instruction. -/
def vProg : Instr → Option VProg
  | .vadd _ => some (numProg opAdd)
  | .vsub _ => some (numProg opSub)
  | .vmul _ => some (numProg opMul)
  | .vfma _ => some (numProg opFma)
  | .vfms _ => some (numProg opFms)
  | .vmin _ => some (numProg opMin)
  | .vmax _ => some (numProg opMax)
  | .vabs _ => some (numProg opAbs)
  | .vand _ => some (bitProg Nat.land)
  | .vor _ => some (bitProg Nat.lor)
  | .vxor _ => some (bitProg Nat.xor)
  | .vshl _ => some (shiftProg shlBits)
  | .vshr _ => some (shiftProg shrBits)
  | .vsra _ => some (shiftProg sraBits)
  | .vcmp _ => some progCmp
  | .vcmpPush _ => some progCmpPush
  | .vsel _ => some progSel
  | .vclamp _ => some (numProg opClamp)
  | .vlerp _ => some (numProg opLerp)
  | .vcvt _ => some progCvt
  | .vpack _ => some progPack
  | .vunpk _ => some progUnpk
  | .vtag _ => some progTag
  | .vgain _ => some progGain
  | .vrnd _ => some (numProg opRnd)
  | .vexp2 _ => some (numProg opExp2)
  | .vrcp _ => some (numProg opRcp)
  | .vrsq _ => some (numProg opRsq)
  | .vsqrt _ => some (numProg opSqrt)
  | .vdiv _ => some (numProg opDiv)
  | .vmov _ => some progMov
  | .vext _ => some (permProg extElems)
  | .vins _ => some progIns
  | .vperm _ => some progPerm
  | .vrot _ => some (permProg rotElems)
  | .viota _ => some progIota
  | .vrsum _ => some (redProg .sum false)
  | .vrmax _ => some (redProg .max false)
  | .vrmin _ => some (redProg .min false)
  | .vamax _ => some (redProg .amax false)
  | .vamin _ => some (redProg .amin false)
  | .vscan _ => some (redProg .sum true)
  | .vpopc _ => some progPopc
  | .vpfx _ => some progPfx
  | .vld _ => some progLd
  | .vst _ => some progSt
  | _ => none

end Sys2Proof.Machine
end

