-- ==== Sys2Proof/Machine/Rows.lean ====
section
/-! DEFINITION. Row storage (R15, R16, R38, R448), the marks of recipe rows (R442), and replay (R446,
R447): reading and writing the rows of a resident job. -/

namespace Sys2Proof.Machine

/-! ### Storage -/

def getRow (j : Job) (i : Nat) : Row := Tab.getD j.rows i .unwritten

/-- Physical rows in use on a core. -/
def rowsInUse (s : State) (core : Nat) : Nat := ((jobsOfCore s core).map fun e => residentRows e.2).sum

/-- The resident recipe row of lowest index that is not protected (R448). [DEDUCED, log 49] -/
def droppable (j : Job) (prot : List Nat) : Option Nat :=
  (j.rows.find? fun e => e.2.res && e.2.mark && !prot.contains e.1).map (·.1)

/-- How far a job's resident rows exceed its reservation. -/
def rowExcess (j : Job) : Nat := residentRows j - j.ids.rowRes

/-- Insert by excess, greatest first; the one already there stays first at a tie. -/
def insertExcess (e : Nat × Job) : List (Nat × Job) → List (Nat × Job)
  | [] => [e]
  | x :: xs => if rowExcess x.2 < rowExcess e.2 then e :: x :: xs else x :: insertExcess e xs

/-- The jobs whose resident rows exceed their reservation, by excess and then by slot. -/
def overReserved (l : List (Nat × Job)) : List (Nat × Job) :=
  (l.filter fun e => e.2.ids.rowRes < residentRows e.2).foldl (fun t e => insertExcess e t) []

/-- The victim of R448: slot and row. [DEDUCED, log 49] -/
def victim (s : State) (h : Hart) (prot : List Nat) : Option (Nat × Nat) :=
  let j := getJob s (jobKey h)
  if j.ids.rowRes ≤ residentRows j then (droppable j prot).map fun r => (h.slot, r)
  else ((overReserved (jobsOfCore s h.core)).filterMap fun e =>
    (droppable e.2 (if e.1 = h.slot then prot else [])).map fun r => (e.1, r)).head?

/-- A dropped row keeps FMT, GAIN and SGN; its storage returns to the core (R445). -/
def dropRow (x : Row) : Row := ⟨rowTag x.low true x.fix false, 0, 0, x.recipe⟩

def setRow (s : State) (k i : Nat) (x : Row) : State := modJob s k fun j => { j with rows := Tab.set j.rows i x }

/-- Obtain a physical row for a row that is not resident (R16, R448): none where there is no victim.
[DEDUCED, log 48] -/
def allocRow (s : State) (h : Hart) (prot : List Nat) : Option State :=
  if rowsInUse s h.core < Config.physRows then some s
  else
    (victim s h prot).map fun v =>
      modJob s (slotKey h.core v.1) fun j => { j with rows := Tab.modify j.rows v.2 dropRow }

/-- Recipes none of whose rows carries a mark are released (R442). -/
def releaseRecipes (j : Job) : Job :=
  { j with recipes := j.recipes.filter fun e => j.rows.any fun r => r.2.mark && r.2.recipe == e.1 }

/-- A row becomes an ordinary one with this image, or unwritten where it holds no storage and no mark. -/
def putRow (s : State) (k i : Nat) (x : Row) : State :=
  modJob s k fun j => releaseRecipes { j with rows := Tab.set j.rows i x }

/-! ### Recipes (R441 to R444) -/

/-- The recipe index of position `k` in a slot (R441). -/
def recipeIndex (h : Hart) (k : Nat) : Nat := 16 * h.slot + k

/-- The RECIPE trap (R450). -/
def recipeStop (h : Hart) (row k reason inner off : Nat) : Stop :=
  .trap .recipe (BitVec.ofNat 64 (row % 1024 + (if reason = 2 then 0 else recipeIndex h k) * 2 ^ 10
    + reason * 2 ^ 16 + inner * 2 ^ 24 + off % 2 ^ 20 * 2 ^ 32)) 0

/-- The lowest recipe of which a row is a source (R442, R444). -/
def sourceRecipe (j : Job) (i : Nat) : Option Nat :=
  (j.recipes.find? fun e => e.2.sources.contains i).map (·.1)

/-- Whether a row is in a recipe's range. -/
def Recipe.covers (r : Recipe) (i : Nat) : Bool := r.first ≤ i && i < r.first + r.count

/-- The rows of a recipe's range. -/
def Recipe.range (r : Recipe) : List Nat := (List.range r.count).map (r.first + ·)

/-- The environment of a recipe's body (R441). -/
def Recipe.env (r : Recipe) (k : BitVec 3) : VEnv :=
  { scal := r.scalars, gains := r.gains,
    rowMask := if k = 0 then 0xFFFF else r.rowMasks[k.toNat],
    colMask := if k = 0 then 0xFFFFFFFFFFFFFFFF else r.colMasks[k.toNat],
    top := r.top, rnd := r.rnd, ftz := r.ftz, rotate := fun _ => none }

/-! ### Lines of VLD and VST (R306, R307) -/

/-- The window of a job offset. [DEDUCED, log 24] -/
def offWin (a : Agent) (off : Nat) : Option (Nat × Nat) := a.job.bind fun j => winOfOff j off

/-- ALIGN and PERM of a line, whose stash lines are then filled (R97, R306); the address is a job offset.
[DEDUCED, log 45] -/
def openLine (s : State) (a : Agent) (o : Nat) : Exec State := do
  check (o % 256 == 0) .align (BitVec.ofNat 64 o)
  check ((a.spad o 256).isSome) .perm (BitVec.ofNat 64 o)
  liftAcc (BitVec.ofNat 64 o) (fillRange s a (offWin a o) 256)

def lineParts (offs : List Nat) (write : Bool) : List FootPart :=
  offs.map fun o => .spad (o / 256) (o / 256) write

/-- A line, POISON where it holds a poisoned granule; what the stream has read early is read so where the read is
its own (R103). -/
def readLine (s : State) (a : Agent) (own : Bool) (o : Nat) : Exec RowBits :=
  let sp := (a.spad o 256).getD 0
  match spadPoisonIn s sp 256 with
  | some g => .error (.trap .poison (BitVec.ofNat 64 (o + 8 * g - sp)) 0)
  | none =>
    let bs := Memory.bytes s.ms.spad sp 256
    .ok (BitVec.ofNat 2048 (ofLe (if own then withEarly s a.hart .spad sp bs else bs)))

/-- The states that the lines of the steps leave, in order, each with the line read, up to the first that fails.
[DEDUCED, log 45] -/
def overLines (f : State → Nat → Exec (State × RowBits)) (s : State) : List Nat → List (Exec (State × RowBits))
  | [] => []
  | o :: os =>
    match f s o with
    | .ok x => .ok x :: overLines f x.1 os
    | .error e => [.error e]

/-- The state after all lines. -/
def afterLines (s : State) (l : List (Exec (State × RowBits))) : Exec State :=
  match l.getLast? with
  | some r => r.map (·.1)
  | none => .ok s

/-- The line of a step. [DEDUCED, log 45] -/
def stepLine (l : List (Exec (State × RowBits))) (j : Nat) : Exec RowBits :=
  match l[j]? with
  | some r => r.map (·.2)
  | none => .ok 0

/-- A stream's early reads of some lines are used up. -/
def linesRead (s : State) (a : Agent) (offs : List Nat) : State :=
  offs.foldl (fun s o =>
    match a.spad o 256 with
    | some sp => dropEarly s a.hart (spadPlaces sp 256)
    | none => s) s

/-! ### Replay (R446, R447) -/

/-- The V-class operation of an instruction. -/
def vopOf (i : Instr) : Option VOp := i.vParts.map fun x => x.2.2

/-- Port 7 of a job replays in the C-stream's place (R446, R452). -/
def port7 (h : Hart) : Hart := { h with strm := .c }

/-- Check 3 of R306 for a line of a replayed VLD, as the C-stream makes it (R161). [DEDUCED, log 48, 48] -/
def replayOrder (s : State) (h : Hart) (o : Nat) : Exec Unit :=
  let j := getJob s (jobKey h)
  match (if detMode j then syncOverlap s (port7 h) j.ids.jobid (lineParts [o] false) else none) with
  | some (slot, e) => .error (.trap .overlap (BitVec.ofNat 64 o) (BitVec.ofNat 64 (tokenValue slot e.seq)))
  | none => .ok ()

/-- A line of a replayed VLD, with the checks of R306 in order. -/
def replayLine (s : State) (h : Hart) (o : Nat) : Exec (State × RowBits) := do
  let a := agentOf s (port7 h)
  let s ← openLine s a o
  replayOrder s h o
  let d ← readLine s a false o
  .ok (s, d)

/-- The working rows after one body instruction; rows outside the range are the job's (R446). -/
def replayOne (s : State) (h : Hart) (r : Recipe) (work : Tab Row) (i : Instr) : Exec (State × Tab Row) :=
  match vProg i, vopOf i with
  | some prog, some v => do
    let isLd := match i with | .vld _ => true | _ => false
    let env := r.env v.k
    let rowOf (n : Nat) : Row :=
      if r.covers n then Tab.getD work n .unwritten else getRow (getJob s (jobKey h)) n
    let base : VIn :=
      { env := env, row := fun n => .ok (rowOf n), tagOf := fun n => (rowOf n).low,
        queue := fun _ => [], line := fun _ => .ok 0, sourceOf := fun _ => none, newOrdinary := fun _ => false,
        room := fun _ _ _ => true, depth := 0 }
    let lines := if isLd then overLines (replayLine · h) s (vLines base v v.A) else []
    let out ← prog { base with line := stepLine lines } v
    let s ← afterLines s lines
    .ok (s, out.rows.foldl (fun w e => Tab.set w e.1 e.2) work)
  | _, _ => .ok (s, work)

/-- The trace record of a replayed instruction: port 7, in the C-stream's own sequence of PCs (R446, R452). -/
def traceReplayed (s : State) (h : Hart) (pc : Word) : State := traceInstr s (port7 h) 7 false pc 3

/-- The body in order (R446, step 3), with its trace records on port 7; where an instruction fails, its stop, whether
it is a VLD, and the number of those before it. -/
def replayBody (s : State) (h : Hart) (r : Recipe) (work : Tab Row) :
    Nat → List (Instr × Word) → Except (Stop × Bool × Nat) (State × Tab Row)
  | _, [] => .ok (s, work)
  | n, (i, pc) :: rest =>
    match replayOne s h r work i with
    | .error e => .error (e, (match i with | .vld _ => true | _ => false), n)
    | .ok (s, work) => replayBody (traceReplayed s h pc) h r work (n + 1) rest

/-- The storage of the dropped rows of a replay (R446, R448). -/
def allocRows (s : State) (h : Hart) (k : Nat) (prot : List Nat) : List Nat → Option State
  | [] => some s
  | i :: is =>
    let x := getRow (getJob s (jobKey h)) i
    if x.mark && x.recipe == k && !x.res then
      match allocRow s h prot with
      | none => none
      | some s =>
        allocRows (setRow s (jobKey h) i { x with tag := rowTag x.low true x.fix true }) h k prot is
    else allocRows s h k prot is

/-- A body trap becomes RECIPE at the reading instruction (R447). -/
def innerStop (h : Hart) (row k : Nat) (isLd : Bool) : Stop → Stop
  | .trap .recipe a t => .trap .recipe a t
  | .trap c a _ =>
    recipeStop h row k 0 c.code (if isLd && c != .format then a.toNat / 256 * 256 else 0)
  | e => e

/-- Steps 2 to 4 of R446 for the recipe at position `k`, whose sources are materialised. `row` is the row
whose read asked for it. A replay that fails leaves the trace records of the instructions it replayed.
[DEDUCED, log 48] -/
def replayRecipe (s : State) (h : Hart) (row k : Nat) (prot : List Nat) : State × Option Stop :=
  match Tab.get? (getJob s (jobKey h)).recipes k with
  | none => (s, none)
  | some r =>
    match allocRows s h k (prot ++ r.range ++ r.sources) r.range with
    | none => (s, some (recipeStop h row k 0 Cause.rows.code 0))
    | some s' =>
      match replayBody s' h r [] 0 (r.body.zip r.pcs) with
      | .error (e, isLd, n) => ((r.pcs.take n).foldl (traceReplayed · h) s, some (innerStop h row k isLd e))
      | .ok (s', work) =>
        (r.range.foldl (fun s i =>
          let x := getRow (getJob s (jobKey h)) i
          if x.mark && x.recipe == k then
            let w := Tab.getD work i .unwritten
            setRow s (jobKey h) i ⟨rowTag w.low true x.fix true, w.data, w.poison, k⟩
          else s) s', none)

/-- Replay for a read of row `i` (R446): sources that are dropped first, then the row's own recipe. The
state keeps the replays that completed; a recipe has depth 1 or 2, so `fuel` 2 suffices.
[DEDUCED, log 48] -/
def replay (fuel : Nat) (s : State) (h : Hart) (prot : List Nat) (i : Nat) : State × Option Stop :=
  match fuel with
  | 0 => (s, none)
  | fuel + 1 =>
    let x := getRow (getJob s (jobKey h)) i
    if x.mark && !x.res then
      match Tab.get? (getJob s (jobKey h)).recipes x.recipe with
      | none => (s, none)
      | some r =>
        let q := r.sources.foldl (fun (q : State × Option Stop) n =>
          match q.2 with
          | some _ => q
          | none => replay fuel q.1 h (prot ++ r.range ++ r.sources) n) (s, none)
        match q.2 with
        | some e => (q.1, some e)
        | none => replayRecipe q.1 h i x.recipe prot
    else (s, none)

/-- Replay every dropped row of a list, in order, up to the first that fails: that row and its stop.
[DEDUCED, log 48] -/
def materialise (s : State) (h : Hart) (prot : List Nat) : List Nat → State × Option (Nat × Stop)
  | [] => (s, none)
  | i :: is =>
    match replay 2 s h prot i with
    | (s, some e) => (s, some (i, e))
    | (s, none) => materialise s h prot is

/-- The state with every row replayed that can be, those after a failing one too: what the tags of the other
operands are judged by. [DEDUCED, log 48] -/
def materialiseAll (s : State) (h : Hart) (prot : List Nat) (rows : List Nat) : State × NatSet :=
  rows.foldl (fun q i =>
    match replay 2 q.1 h prot i with
    | (_, some _) => (q.1, NatSet.add q.2 i)
    | (s, none) => (s, q.2)) (s, [])

/-! ### Writing rows (R38) -/

/-- Write row images in order, each at its step, obtaining storage for those not resident; none where there is no
storage. `prot` are the operand rows, which are not dropped before the `last` step (R446). -/
def writeRows (s : State) (h : Hart) (prot : List Nat) (last : Nat) (rows : Tab Row) :
    List (Nat × Nat) → Option State
  | [] => some s
  | (i, j) :: is =>
    let x := getRow (getJob s (jobKey h)) i
    let put (s : State) : State := putRow s (jobKey h) i (Tab.getD rows i .unwritten)
    if x.res then writeRows (put s) h prot last rows is
    else
      match allocRow s h (if j < last then prot else []) with
      | some s => writeRows (put s) h prot last rows is
      | none => none

end Sys2Proof.Machine
end

