-- ==== Sys2Proof/Machine/Tokens.lean ====
section
/-! DEFINITION. The token table (R149–R170): judging a token, the push of a child operation, edges and
accumulator commit points, release, and the token instructions (R190–R196). -/

namespace Sys2Proof.Machine

/-! ### The table -/

def tokens (s : State) (core : Nat) : Tab TokenEntry := (getCore s core).tokens

def modTok (s : State) (core slot : Nat) (f : TokenEntry → TokenEntry) : State :=
  modCore s core fun c => { c with tokens := Tab.modify c.tokens slot f }

/-- The entries a job holds. -/
def heldBy (s : State) (core jobid : Nat) : List (Nat × TokenEntry) :=
  (tokens s core).filter fun e => e.2.holder == some jobid

/-- Change the resident job with this JOBID. -/
def modJobId (s : State) (jobid : Nat) (f : Job → Job) : State :=
  { s with jobs := s.jobs.map fun e => if e.2.ids.jobid = jobid then (e.1, f e.2) else e }

/-- The record of a failed operation (R163). -/
def tokenRecord (slot : Nat) (e : TokenEntry) : List Byte :=
  let f := e.fault.getD (.async, 0)
  -- token and stream as held at the fault: a later ADOPT leaves the record as it is (R167)
  let n := e.faultName.getD (BitVec.ofNat 32 (tokenValue slot e.seq), e.strm)
  faultRecord f.1.code (strmIdx n.2) (b2n e.det + 2 * b2n e.orphaned + 4 * b2n e.adopted)
    n.1.toNat e.pc f.2 e.ids.jobid (if e.det then e.name.toNat else 0) e.region.toNat
    (encode e.instr) (e.regs.map BitVec.toNat)

/-- Release an entry; the record of a detached failed operation is written (R154, R165). -/
def releaseTok (s : State) (core slot : Nat) : State :=
  match Tab.get? (tokens s core) slot with
  | none => s
  | some e =>
    let s := if e.det && e.state == .faulted then queueFault s e.ids.part (tokenRecord slot e) else s
    modCore s core fun c => { c with tokens := Tab.del c.tokens slot }

/-! ### Judging (R151) -/

inductive Judgement where
  | none | foreign | forward | retired
  | live (slot : Nat) (e : TokenEntry)
  deriving DecidableEq, Repr

def judge (s : State) (core jobid t : Nat) : Judgement :=
  if t = 0 then .none
  else
    let slot := t / 2 ^ 24 % 256
    let q := t % 2 ^ 24
    if q = 0 then .foreign
    else
      let gone : Judgement :=
        let age := ageOf (getCore s core).nextSeq q
        if age = 0 || 2 ^ 23 < age then .forward else .retired
      match Tab.get? (tokens s core) slot with
      | some e =>
        if e.seq = q then (if e.holder = some jobid then .live slot e else .foreign) else gone
      | Option.none => gone

/-- Judged for the executing stream. -/
def judgeCur (s : State) (t : Nat) : Judgement := judge s s.cur.core (curJob s).ids.jobid t

/-! ### Commit points (R26, R316–R318, R371) -/

/-- An ACCRD with PRIOR of one of these accumulators that has not read it yet (R317). [DEDUCED, log 51] -/
def priorReads (accs : List Nat) (e : TokenEntry) : Bool :=
  e.state.inFlight && (match e.instr with
    | .accrd m => m.prior && accs.contains m.acc.toNat
    | _ => false)

/-- Whether the commit point of an operation must wait for a PRIOR read (R317). [DEDUCED, log 51] -/
def commitWaits (s : State) (core jobid slot seq : Nat) : Bool :=
  match residentJob s jobid with
  | some j => (heldBy s core jobid).any fun e => priorReads (accsOwned j slot seq) e.2
  | none => false

/-- Whether the commit point of pending commits (R371) must wait for a PRIOR read of their accumulators (R317). -/
def pendingWaits (s : State) (core jobid : Nat) (sel : Nat → BitVec 32 → Bool) : Bool :=
  match residentJob s jobid with
  | some j =>
    let accs := (List.range 8).filter fun a => (j.accs.getD a .start).pending.any fun p => sel a p.1
    (heldBy s core jobid).any fun e => priorReads accs e.2
  | none => false

/-- The commit point of one accumulator's owner: the commit buffer becomes the committed value. -/
def Acc.commit (a : Acc) : Acc :=
  { a with val := a.buffer.getD a.val, buffer := none, owner := none }

/-- The owner is gone without a commit: the committed value stands (R318). [DEDUCED, log 52] -/
def Acc.disown (a : Acc) : Acc := { a with buffer := none, owner := none }

/-- Change the accumulators that an operation owns. -/
def mapOwned (j : Job) (slot seq : Nat) (f : Acc → Acc) : Job :=
  { j with accs := j.accs.map fun a => if a.owner = some (slot, seq) then f a else a }

/-- The commit point of an operation passes (R26). [DEDUCED, log 51] -/
def passCommit (s : State) (jobid slot seq : Nat) : State :=
  modJobId s jobid fun j => mapOwned j slot seq Acc.commit

/-- A pending commit whose commit point passes (R371). [DEDUCED, log 51] -/
def Acc.commitPending (a : Acc) (p : BitVec 32 → Bool) : Acc :=
  match a.pending.find? fun x => p x.1 with
  | some x => { a with val := x.2, pending := a.pending.filter fun y => !p y.1 }
  | none => a

/-- The commit points of R371 that naming a token passes, in the C-stream. -/
def pendingByToken (s : State) (t : Nat) : State :=
  if s.cur.strm = .c && t != 0 then
    modCurJob s fun j => { j with accs := j.accs.map fun a => a.commitPending fun v => v.toNat == t }
  else s

/-- The commit points of R371 that naming accumulators passes. -/
def pendingByAcc (s : State) (accs : List Nat) : State :=
  modCurJob s fun j =>
    { j with accs := Vector.ofFn fun i : Fin 8 =>
        if accs.contains i.val then (j.accs[i]).commitPending fun _ => true else j.accs[i] }

/-! ### Operand records (R163) -/

/-- The scalar register fields of an M-class word, in the order of R163. -/
inductive RegF where
  | ra | rb | rc | rd | re | rw
  deriving DecidableEq, Repr

/-- The register fields an instruction reads beside ta and tb (R163). -/
def usedFields (i : Instr) : List (RegF × Reg) :=
  match i.eParts, i.mParts with
  | some (_, r, e), _ =>
    ([(r.ra, RegF.ra, e.ra), (r.rb, .rb, e.rb), (r.rc, .rc, e.rc), (r.rd, .rd, e.rd), (r.re, .re, e.re),
      (r.rw, .rw, e.rw)].filter (·.1)).map (·.2)
  | none, some (_, r, m) =>
    ([(r.ra, RegF.ra, m.ra), (r.rb, .rb, m.rb), (r.rc, .rc, m.rc), (r.rd, .rd, m.rd)].filter (·.1)).map (·.2)
  | none, none => []

/-- The latched value of a register field of an operation; zero where the instruction does not use it. -/
def opVal (e : TokenEntry) (f : RegF) : Word :=
  e.regs.getD (2 + (usedFields e.instr).findIdx fun x => x.1 == f) 0

/-! ### Failed members of collectives (R225) -/

/-- The fields of a collective instruction. -/
def collOp : Instr → Option EngOp
  | .cred x | .cbc x | .cgth x | .crsc x => some x
  | _ => none

/-- A collective instance, within a partition: level, domain, id, ordinal (R223). -/
abbrev CollKey := Nat × Nat × Nat × Nat

/-- [DEDUCED, log 70] -/
def collKey (core : Nat) (e : TokenEntry) (x : EngOp) : CollKey :=
  (x.lvl.toNat, domainOf core x.lvl.toNat, (opVal e .re).toNat % 2048, e.ordinal)

/-- Members of a collective's domain: the DOMMEM field of its level. -/
def collSize (ids : JobIds) (x : EngOp) : Nat := bitsOf ids.dommem (3 + 10 * (x.lvl.toNat - 1)) 10

/-- Whether an operation of a job is a member of a failed instance: its instance has the same key, and it is of the
launch of the first member of this chip to fail, or the first itself, or its job is older than the failure.
[DEDUCED, log 70] -/
def FailedColl.covers (f : FailedColl) (k : CollKey) (ids : JobIds) : Bool :=
  f.key == k && (f.launch.all (· == (ids.launch, ids.armseq)) || ids.jobid < f.before)

/-- Every member of a failed instance has failed, or has sent its part from a peer chip. -/
def FailedColl.over (f : FailedColl) : Bool := f.size.any fun n => n ≤ f.count + f.others.length

/-- One more member of this chip of an instance of `n` members has failed; `others` have sent their part.
[DEDUCED, log 70] -/
def countFailed (k : CollKey) (n : Nat) (ids : JobIds) (before : Nat) (others : List Nat) :
    List FailedColl → List FailedColl
  | [] => [⟨k, some n, 1, others, some (ids.launch, ids.armseq), before⟩]
  | f :: fs =>
    if f.covers k ids then
      { f with size := some n, count := f.count + 1, launch := f.launch.or (some (ids.launch, ids.armseq)) } :: fs
    else f :: countFailed k n ids before others fs

/-- The members of peer chips that have sent their part of an instance of level 6. -/
def sentParts (s : State) (p : Nat) (k : CollKey) : List RemoteMember :=
  if k.1 = 6 then s.fabric.remote.filter fun r => r.part == p && r.cid == k.2.2.1 && r.ordinal == k.2.2.2 else []

/-- What peers have sent for an instance that has failed is no longer waited for. -/
def dropRemote (s : State) (p : Nat) (k : CollKey) : State :=
  let out := sentParts s p k
  { s with fabric := { s.fabric with remote := s.fabric.remote.filter fun r => !out.contains r } }

/-- The failed instances of a partition change; those that are over are forgotten. -/
def modFailed (s : State) (p : Nat) (f : List FailedColl → List FailedColl) : State :=
  modPart s p fun x => { x with failedColl := (f x.failedColl).filter fun c => !c.over }

/-- A member has failed: the others of its instance will, those on peer chips too (R225).
[DEDUCED, log 70] -/
def noteFailed (s : State) (core : Nat) (e : TokenEntry) : State :=
  match collOp e.instr with
  | none => s
  | some x =>
    let k := collKey core e x
    let others := (sentParts s e.ids.part k).map (·.member)
    let s := dropRemote (modFailed s e.ids.part (countFailed k (collSize e.ids x) e.ids s.nextJob others)) e.ids.part k
    if k.1 = 6 then
      tellPeers s e.ids.part (.failed (BitVec.ofNat 11 k.2.2.1) k.2.2.2 (bitsOf (opVal e .rd) 0 10) e.held.isSome)
    else s

/-- Entries that were in flight and have failed or been cancelled. -/
def noteFailures (before : Tab TokenEntry) (s : State) (core : Nat) : State :=
  ((tokens s core).filter fun e =>
    (e.2.state == .faulted || e.2.state == .cancelled)
      && (match Tab.get? before e.1 with | some b => b.seq == e.2.seq && b.state.inFlight | none => false)).foldl
    (fun s e => noteFailed s core e.2) s

/-! ### What follows a change of state (R154, R156) -/

/-- Whether an entry is one of these predecessors. -/
def isPred (preds : List (Nat × Nat)) (e : Nat × TokenEntry) : Bool := preds.contains (e.1, e.2.seq)

/-- An entry that fails: its state, its fault, and the name its fault record keeps (R163). -/
def TokenEntry.failed (e : TokenEntry) (slot now : Nat) (f : Cause × Word) : TokenEntry :=
  { e with state := .faulted, fault := some f, endedAt := now,
           faultName := some (BitVec.ofNat 32 (tokenValue slot e.seq), e.strm) }

/-- The state of a PENDING entry, from those of its predecessors. [DEDUCED, log 52] -/
def settleEntry (t : Tab TokenEntry) (now slot : Nat) (e : TokenEntry) : TokenEntry :=
  if e.state != .pending then e
  else
    let ps := t.filter (isPred e.preds)
    if ps.any fun x => x.2.state == .faulted || x.2.state == .cancelled then
      e.failed slot now (.async, 0)
    else if ps.all fun x => x.2.state == .done then { e with state := .ready }
    else e

/-- Carry failures and completions along the edges. Predecessors are pushed earlier, so as many rounds as
there are entries are enough. -/
def settleTable (now : Nat) : Nat → Tab TokenEntry → Tab TokenEntry
  | 0, t => t
  | n + 1, t => settleTable now n (t.map fun e => (e.1, settleEntry t now e.1 e.2))

/-- The accumulators of failed operations keep their committed values (R154, R318). [DEDUCED, log 52] -/
def disownFailed (s : State) (core : Nat) : State :=
  (tokens s core).foldl (fun s e =>
    if e.2.state == .faulted || e.2.state == .cancelled then
      match e.2.holder with
      | some id => modJobId s id fun j => mapOwned j e.1 e.2.seq Acc.disown
      | none => s
    else s) s

/-- A detached entry held by a saved job is released when its operation ends (R371). [DEDUCED, log 86] -/
def releaseSavedEnded (before : Tab TokenEntry) (s : State) (core : Nat) : State :=
  (tokens s core).foldl (fun s e =>
    match e.2.holder with
    | some id =>
      if !e.2.state.inFlight && (before.any fun b => b.1 == e.1 && b.2.seq == e.2.seq && b.2.state.inFlight)
          && (s.saved.any fun x => x.job.ids.jobid == id) then releaseTok s core e.1 else s
    | none => s) s

/-- Everything that follows when entries of a core have changed state since `before`. -/
def settleFrom (before : Tab TokenEntry) (s : State) (core : Nat) : State :=
  let s := modCore s core fun c => { c with tokens := settleTable c.cycle c.tokens.length c.tokens }
  releaseSavedEnded before (disownFailed (noteFailures before s core) core) core

def settleTokens (s : State) (core : Nat) : State := settleFrom (tokens s core) s core

/-! ### Seen bits (R161) -/

/-- The executing stream has seen these operations of its job, by a wait. -/
def markWaited (s : State) (ks : List (Nat × Nat)) : State :=
  markSeen s s.cur (curJob s).ids.jobid (ks.map fun k => tokKey k.1 k.2)

/-! ### Push (R155–R161) -/

/-- What an instruction adds to the push of R155. -/
structure PushSpec where
  i : Instr
  head : MHead
  strms : List Strm
  /-- its own checks, and its footprint -/
  checks : State → Exec (List FootPart)
  /-- the pushed kind and the ordinal it latches -/
  kind1 : State → Bool := fun _ => false
  ordinal : State → Nat := fun _ => 0
  /-- what else its push sets -/
  after : State → State := id

/-- The accumulators a footprint names, and those it writes. -/
def footAccs (fs : List FootPart) : List Nat :=
  fs.filterMap fun f => match f with | .acc a _ => some a | _ => none

def footAccsWritten (fs : List FootPart) : List Nat :=
  fs.filterMap fun f => match f with | .acc a true => some a | _ => none

def isPrior : Instr → Bool
  | .accrd m => m.prior
  | _ => false

/-- The parts of a footprint that count against an earlier operation: a cancelled one owns no
accumulator (R335), and a PRIOR read passes the owner by (R317). -/
def partsAgainst (s : State) (i : Instr) (fs : List FootPart) (x : Nat × TokenEntry) : List FootPart :=
  if x.2.state == .cancelled || (isPrior i && ownsAcc s x.1 x.2) then
    fs.filter fun f => match f with | .acc .. => false | _ => true
  else fs

/-- Judge a named predecessor (R155, check 1): its edge, if any. -/
def predEdge (s : State) (t : Nat) : Exec (List (Nat × Nat)) :=
  match judgeCur s t with
  | .foreign => .error (.trap .tokStale 0 (BitVec.ofNat 64 t))
  | .forward => .error (.trap .fwdWait 0 (BitVec.ofNat 64 t))
  | .live slot e => .ok [(slot, e.seq)]
  | _ => .ok []

/-- The named operations with their ancestors. -/
def withAncestors (s : State) (core : Nat) (ks : List (Nat × Nat)) : List (Nat × Nat) :=
  ks.foldl (fun acc k =>
    let up := match Tab.get? (tokens s core) k.1 with
      | some e => if e.seq = k.2 then e.ancestors else []
      | none => []
    (k :: up).foldl (fun a x => if a.contains x then a else a ++ [x]) acc) []

/-- The first address two footprints share: a job offset, else a virtual address, else an accumulator
(R161, R315). [DEDUCED, log 46] -/
def firstOverlap (xs ys : List FootPart) : Word :=
  let spad := xs.filter fun f => match f with | .spad .. => true | _ => false
  let glob := xs.filter fun f => match f with | .glob .. => true | _ => false
  if partsMeet spad ys then BitVec.ofNat 64 (256 * firstShared spad ys)
  else if partsMeet glob ys then BitVec.ofNat 64 (256 * firstShared glob ys)
  else
    BitVec.ofNat 64 (((List.range 8).find? fun a =>
      (xs.filter fun f => match f with | .acc b _ => b == a | _ => false).any fun x => ys.any x.meets).getD 0)

/-- The overlap checker at a push (R161). -/
def pushOverlap (s : State) (i : Instr) (fs : List FootPart) (ordered : List (Nat × Nat)) : Exec Unit :=
  let h := s.cur
  if !detMode (curJob s) then .ok ()
  else
    match oldest (getCore s h.core).nextSeq ((heldBy s h.core (curJob s).ids.jobid).filter fun x =>
        x.2.state != .cancelled && x.2.state != .faulted && !x.2.seen.getLsbD (strmIdx h.strm)
          && !ordered.contains (x.1, x.2.seq) && partsMeet (partsAgainst s i fs x) x.2.foot) with
    | some x => .error (.trap .overlap (firstOverlap (partsAgainst s i fs x) x.2.foot)
        (BitVec.ofNat 64 (tokenValue x.1 x.2.seq)))
    | none => .ok ()

/-- The lowest-numbered RELEASED slot. -/
def freeSlot (s : State) (core : Nat) : Option Nat :=
  (List.range Config.tokenSlots).find? fun k => (Tab.get? (tokens s core) k).isNone

/-- What the wait for a share finds (R157). -/
inductive Room where
  | ready (s : State) (slot : Nat)
  | waits
  | deliver (slot : Nat) (e : TokenEntry)

/-- [DEDUCED, log 53] -/
def roomAfter (s : State) (core : Nat) : Room :=
  match freeSlot s core with
  | some k => .ready s k
  | none => .waits

/-- Room in the share of the executing job (R157, R158). [DEDUCED, log 53] -/
def room (s : State) : Room :=
  let core := s.cur.core
  let jobid := (curJob s).ids.jobid
  let next := (getCore s core).nextSeq
  let held := heldBy s core jobid
  if held.length < Config.tokenShare then roomAfter s core
  else
    match (if detMode (curJob s) then none else
        oldest next (held.filter fun e => e.2.state == .done && !ownsAcc s e.1 e.2)) with
    | some e => roomAfter (releaseTok s core e.1) core
    | none =>
      if held.all fun e => e.2.state == .faulted || e.2.state == .cancelled then
        match oldest next (held.filter fun e => e.2.state == .faulted && !e.2.det && !e.2.reported) with
        | some e => .deliver e.1 e.2
        | none =>
          match oldest next held with
          | some e => roomAfter (releaseTok s core e.1) core
          | none => .waits
      else .waits

/-- The deferred trap that delivers an operation's fault (R164, R427). [DEDUCED, log 60] -/
def deferredTrap (slot : Nat) (e : TokenEntry) : TrapInfo :=
  let f := e.fault.getD (.async, 0)
  { cause := f.1, pc := e.pc, words := encode e.instr, addr := f.2,
    token := BitVec.ofNat 64 (tokenValue slot e.seq), defer := true }

def report (s : State) (slot : Nat) : State :=
  modTok s s.cur.core slot fun e => { e with reported := true }

/-- Deliver a fault at the executing stream's instruction. -/
def deliver (s : State) (slot : Nat) (e : TokenEntry) : Effect :=
  .trapTo (report s slot) (deferredTrap slot e)

/-- Advance NextSeq (R149). -/
def nextSeqAfter (q : Nat) : Nat := if q = 0xFFFFFF then 1 else q + 1

/-- The new entry of a push. -/
def newEntry (s : State) (p : PushSpec) (seq : Nat) (fs : List FootPart) (edges ordered : List (Nat × Nat)) :
    TokenEntry :=
  let j := curJob s
  { seq := seq, state := .pending, holder := some j.ids.jobid, strm := s.cur.strm, det := p.head.det, name := 0,
    prio := p.head.prio, seen := 1#3 <<< strmIdx s.cur.strm, learned := 0, reported := false, fault := none,
    instr := p.i, pc := (curStream s).pc,
    regs := rd s p.head.ta :: rd s p.head.tb :: (usedFields p.i).map fun f => rd s f.2,
    ctl := (viewedJob s).ctl, kind1 := p.kind1 s, ids := j.ids, region := j.rgnid, foot := fs, preds := edges,
    ancestors := ordered, adopted := false, orphaned := false, beforeHead := false, ordinal := p.ordinal s, endedAt := 0,
    pushedAt := cycleOf s s.cur.core, held := none, requests := [], written := [], faultName := none, early := [],
    performed := [], counted := 0, ran := false, issuer := s.cur.strm, noted := 0 }

/-- Place a new entry: its commit points, its ownership, its slot and its token (R26, R154, R155); `bad`: it is
FAULTED from the start (R156). The operation observes what its stream has stored (R159). -/
def place (s : State) (p : PushSpec) (slot : Nat) (fs : List FootPart) (edges ordered : List (Nat × Nat))
    (bad : Bool) : State :=
  let s := drainWc s s.cur
  let core := s.cur.core
  let seq := (getCore s core).nextSeq
  let entry := newEntry s p seq fs edges ordered
  let commits := s.cur.strm = .c && !isPrior p.i
  let s := if commits then edges.foldl (fun s k => passCommit s (curJob s).ids.jobid k.1 k.2) s else s
  let s := if commits then
      pendingByAcc (pendingByToken (pendingByToken s ((rd s p.head.ta).toNat % 2 ^ 32))
        ((rd s p.head.tb).toNat % 2 ^ 32)) (footAccs fs)
    else s
  let s := modCurJob s fun j =>
    { j with accs := Vector.ofFn fun i : Fin 8 =>
        if (footAccsWritten fs).contains i.val then
          { j.accs[i] with owner := some (slot, seq), buffer := none }
        else j.accs[i] }
  let s := modCore s core fun c =>
    { c with tokens := Tab.set c.tokens slot entry, nextSeq := nextSeqAfter seq }
  let s := p.after s
  let before := tokens s core
  let s := if bad then modTok s core slot fun e => e.failed slot (cycleOf s core) (.async, 0) else s
  let s := sweepSeen (settleFrom before s core) core (curJob s).ids.jobid
  wr s p.head.td (BitVec.ofNat 64 (tokenValue slot seq))

/-- Whether an operation named as a predecessor has failed (R156). -/
def anyFailed (s : State) (core : Nat) (edges : List (Nat × Nat)) : Bool :=
  (tokens s core).any fun e => edges.contains (e.1, e.2.seq) && (e.2.state == .faulted || e.2.state == .cancelled)

/-- Whether the commit points that a push passes must wait for a PRIOR read (R317). -/
def pushWaits (s : State) (p : PushSpec) (fs : List FootPart) (edges : List (Nat × Nat)) : Bool :=
  let jobid := (curJob s).ids.jobid
  s.cur.strm == .c && !isPrior p.i
    && ((edges.any fun k => commitWaits s s.cur.core jobid k.1 k.2)
      || pendingWaits s s.cur.core jobid fun a t =>
        (footAccs fs).contains a || t != 0 && (t.toNat == (rd s p.head.ta).toNat % 2 ^ 32
          || t.toNat == (rd s p.head.tb).toNat % 2 ^ 32))

/-- The body of a push (R155). -/
def pushBody (p : PushSpec) (s : State) : Exec Effect := do
  let ea ← predEdge s ((rd s p.head.ta).toNat % 2 ^ 32)
  let eb ← predEdge s ((rd s p.head.tb).toNat % 2 ^ 32)
  let fs ← p.checks s
  let core := s.cur.core
  let jobid := (curJob s).ids.jobid
  let fe := ((heldBy s core jobid).filter fun x =>
    x.2.strm == s.cur.strm && partsMeet (partsAgainst s p.i fs x) x.2.foot).map fun x => (x.1, x.2.seq)
  let edges := (ea ++ eb ++ fe).eraseDups
  let ordered := withAncestors s core edges
  let _ ← pushOverlap s p.i fs ordered
  let _ ← waitFor (!pushWaits s p fs edges) (.other none)
  match room s with
  | .waits => .error (.wait (.other none))
  | .deliver slot e => .ok (deliver s slot e)
  | .ready s' slot => .ok (.next (place s' p slot fs edges ordered (anyFailed s core edges)))

/-- The push of an M-class instruction. -/
def push (p : PushSpec) (s : State) : Result := issue p.i p.strms none free (pushBody p) s

/-! ### Ending an operation (R154) -/

/-- The lines an attached operation has written count, once, as written by a stream that has waited for it
(R477). -/
def noteWaited (s : State) (slot : Nat) (e : TokenEntry) : State :=
  if chalked s (curPart s) && !e.noted.getLsbD (strmIdx s.cur.strm) then
    modTok (modCurStream s fun st =>
      { st with written := e.written.foldl (fun t l => Tab.set t l.1 l.2) st.written }) s.cur.core slot
      fun e => { e with noted := e.noted ||| (1#3 <<< strmIdx s.cur.strm) }
  else s

/-- The attached operations of the executing stream, waited for at YIELD, RGN and END, count so (R432, R477). -/
def noteOwn (s : State) : State :=
  ((heldBy s s.cur.core (curJob s).ids.jobid).filter fun e =>
    !e.2.det && e.2.strm == s.cur.strm && e.2.state == .done).foldl (fun s e => noteWaited s e.1 e.2) s

/-- An entry leaves the states in flight, and what follows from that; a DONE one that every stream has seen is
released (R158). -/
def endTok (s : State) (core slot : Nat) (st : TokState) (f : Option (Cause × Word)) : State :=
  let before := tokens s core
  let s := modTok s core slot fun e =>
    { e with state := st, fault := f, endedAt := cycleOf s core, requests := [], held := none,
             faultName := f.map fun _ => (BitVec.ofNat 32 (tokenValue slot e.seq), e.strm) }
  let s := settleFrom before s core
  match (Tab.get? before slot).bind (·.holder) with
  | some id => sweepSeen s core id
  | none => s

/-! ### TWAIT and TTEST (R190, R191) -/

/-- The judgement of a token instruction's operand; LIVE alone reaches the operation (R190). -/
def tokenOperand (s : State) (a : Reg) : Exec (Option (Nat × TokenEntry)) :=
  let t := (rd s a).toNat % 2 ^ 32
  match judgeCur s t with
  | .foreign => .error (.trap .tokStale 0 (rd s a))
  | .forward => .error (.trap .fwdWait 0 (rd s a))
  | .live slot e => .ok (some (slot, e))
  | _ => .ok none

/-- The completion of a wait on an operation that is no longer in flight (R191). `f` is what else the
instruction does when it completes. -/
def waitEnds (s : State) (slot : Nat) (e : TokenEntry) (f : State → State) : Exec Effect :=
  let s := waitedWrites s (curJob s).ids.jobid s.cur.strm slot e.seq
  let tok := BitVec.ofNat 64 (tokenValue slot e.seq)
  let jobid := (curJob s).ids.jobid
  if e.state = .done then
    if s.cur.strm = .c && commitWaits s s.cur.core jobid slot e.seq then .error (.wait (.other (some 2080)))
    else
      let s := markWaited s ((slot, e.seq) :: e.ancestors)
      let s := if s.cur.strm = .c then passCommit s jobid slot e.seq else s
      .ok (.next (f (sweepSeen (noteWaited (acquireSide s 0) slot e) s.cur.core jobid)))
  else if e.det || e.strm != s.cur.strm then .error (.trapIn (report s slot) .async 0 tok)
  else if e.state = .faulted then
    if e.reported then .ok (.next (f s)) else .ok (deliver s slot e)
  else .ok (.next (f (acquireSide s 0)))

/-- A wait on an operation that has left the table completes. -/
def goneEnds (s : State) (t : Nat) : State :=
  let s := waitedWrites s (curJob s).ids.jobid s.cur.strm (t / 2 ^ 24) (t % 2 ^ 24)
  acquireSide (pendingByToken s t) 0

/-- Whether the commit that naming a token makes must wait for a PRIOR read (R317, R371). -/
def tokenWaits (s : State) (t : Nat) : Bool :=
  s.cur.strm == .c && t != 0 && pendingWaits s s.cur.core (curJob s).ids.jobid fun _ v => v.toNat == t

def execTwait (g : Guard) (a : Reg) (s : State) : Result :=
  issue (.twait g a) allStrms (some g) free (fun s => do
    match ← tokenOperand s a with
    | none => do
      let _ ← waitFor (!tokenWaits s ((rd s a).toNat % 2 ^ 32)) (.other (some 2080))
      .ok (.next (goneEnds s ((rd s a).toNat % 2 ^ 32)))
    | some (slot, e) =>
      if e.state.inFlight then .error (.wait (.other (some 2080))) else waitEnds s slot e id) s

def execTtest (g : Guard) (d : BitVec 4) (a : Reg) (s : State) : Result :=
  issue (.ttest g d a) allStrms (some g) free (fun s => do
    match ← tokenOperand s a with
    | none => do
      let _ ← waitFor (!tokenWaits s ((rd s a).toNat % 2 ^ 32)) (.other (some 2080))
      .ok (.next (wp (goneEnds s ((rd s a).toNat % 2 ^ 32)) d true))
    | some (slot, e) =>
      if e.state.inFlight then .ok (.next (wp s d false)) else waitEnds s slot e fun s => wp s d true) s

/-! ### DTCH, ADOPT, TSTAT, TPRI, TFREE (R193–R196) -/

/-- [DEDUCED, log 55] -/
def execDtch (g : Guard) (a b : Reg) (s : State) : Result :=
  issue (.dtch g a b) allStrms (some g) free (fun s => do
    match ← tokenOperand s a with
    | none => .ok (.next s)
    | some (slot, e) =>
      check (footAccs e.foot).isEmpty .illegal
      .ok (.next (modTok (cureLayer s e.ids.jobid slot e.seq) s.cur.core slot fun e =>
        { e with det := true, name := (rd s b).setWidth 32 }))) s

/-- The oldest orphan of a name on a core (R167). [DEDUCED, log 55] -/
def orphanNamed (s : State) (core : Nat) (name : Nat) : Option (Nat × TokenEntry) :=
  oldest (getCore s core).nextSeq
    ((tokens s core).filter fun e => e.2.holder == none && e.2.name.toNat == name)

/-- The entry as the adopter holds it (R167). [DEDUCED, log 54] -/
def adopted (s : State) (seq : Nat) (e : TokenEntry) : TokenEntry :=
  { e with seq := seq, holder := some (curJob s).ids.jobid, strm := s.cur.strm, adopted := true,
           orphaned := false, seen := 1#3 <<< strmIdx s.cur.strm, learned := 0 }

/-- Edges and accumulators name operations by slot and sequence number; the adopted one has a new number.
[DEDUCED, log 54] -/
def renameTok (slot old new : Nat) (t : Tab TokenEntry) : Tab TokenEntry :=
  let f := fun k : Nat × Nat => if k = (slot, old) then (slot, new) else k
  t.map fun e => (e.1, { e.2 with preds := e.2.preds.map f, ancestors := e.2.ancestors.map f })

/-- [DEDUCED, log 55] -/
def execAdopt (g : Guard) (d a : Reg) (s : State) : Result :=
  issue (.adopt g d a) allStrms (some g) free (fun s =>
    let name := (rd s a).toNat % 2 ^ 32
    match (if name = 0 then none else orphanNamed s s.cur.core name) with
    | none => .ok (.next (wr s d 0))
    | some (slot, e) =>
      match room s with
      | .waits => .error (.wait (.other none))
      | .deliver slot e => .ok (deliver s slot e)
      | .ready s _ =>
        let seq := (curCore s).nextSeq
        let s := modCurCore s fun c =>
          { c with nextSeq := nextSeqAfter seq,
                   tokens := renameTok slot e.seq seq (Tab.modify c.tokens slot (adopted s seq)) }
        .ok (.next (wr s d (BitVec.ofNat 64 (tokenValue slot seq))))) s

def TokState.code : TokState → Nat
  | .pending => 1
  | .ready => 2
  | .running => 3
  | .done => 4
  | .faulted => 5
  | .cancelled => 6

/-- The token status word (R153). -/
def statusWord (s : State) (slot : Nat) (e : TokenEntry) : Word :=
  let cause := if e.state = .faulted then (e.fault.map fun f => f.1.code).getD 0 else 0
  BitVec.ofNat 64 (e.state.code + b2n e.det * 8 + e.prio.toNat * 16 + b2n (ownsAcc s slot e) * 64
    + cause * 256 + e.seen.toNat * 2 ^ 16)

def execTstat (g : Guard) (d a : Reg) (s : State) : Result :=
  issue (.tstat g d a) allStrms (some g) free (fun s => do
    match ← tokenOperand s a with
    | none => .ok (.next (wr s d 0))
    | some (slot, e) =>
      let v := statusWord s slot e
      let s := if e.state == .faulted || e.state == .cancelled then report s slot else s
      .ok (.next (wr s d v))) s

def execTpri (g : Guard) (a b : Reg) (s : State) : Result :=
  issue (.tpri g a b) allStrms (some g) free (fun s => do
    match ← tokenOperand s a with
    | none => .ok (.next s)
    | some (slot, e) =>
      .ok (.next (if e.state == .pending || e.state == .ready then
        modTok s s.cur.core slot fun e => { e with prio := (rd s b).setWidth 2 } else s))) s

def execTfree (g : Guard) (a : Reg) (s : State) : Result :=
  issue (.tfree g a) allStrms (some g) free (fun s => do
    match ← tokenOperand s a with
    | none => .ok (.next s)
    | some (slot, e) =>
      let tok := BitVec.ofNat 64 (tokenValue slot e.seq)
      if e.state.inFlight then .error (.wait (.other (some 2080)))
      else if e.state = .done then
        match accsOwned (curJob s) slot e.seq with
        | n :: _ => .error (.trap .accOwn (BitVec.ofNat 64 n) tok)
        | [] => .ok (.next (releaseTok s s.cur.core slot))
      else if e.reported then .ok (.next (releaseTok s s.cur.core slot))
      else .error (.trapIn (report s slot) .async 0 tok)) s

/-! ### Events of the table (R158, R168) -/

/-- R158: in normal mode the device releases a DONE entry whenever it chooses. -/
def execTokenRelease (core tok : Nat) (s : State) : Result :=
  match Tab.get? (tokens s core) tok with
  | some e =>
    match e.holder.bind (residentJob s) with
    | some j =>
      .next (if e.state == .done && !detMode j && !ownsAcc s tok e then releaseTok s core tok else s)
    | none => .next s
  | none => .next s

/-- R168: an orphan that has ended is reaped after ORPHTMO cycles. -/
def reapDue (s : State) (core : Nat) (e : TokenEntry) : Bool :=
  e.holder == none && !e.state.inFlight
    && e.endedAt + (getPart s e.ids.part).orphtmo.toNat ≤ cycleOf s core

def execOrphanReap (core tok : Nat) (s : State) : Result :=
  match Tab.get? (tokens s core) tok with
  | some e => .next (if reapDue s core e then releaseTok s core tok else s)
  | none => .next s

end Sys2Proof.Machine
end

