-- ==== Sys2Proof/Machine/Engine.lean ====
section
/-! DEFINITION. What the engines share (R200–R203): how a running child operation reaches memory, sync
words named by an operation, footprints of ranges and lines. -/

namespace Sys2Proof.Machine

/-! ### Runs -/

/-- What the run of a child operation comes to: it succeeds, it fails a check with what it has written by
then, or it cannot complete yet. -/
inductive RunOut where
  | done (s : State)
  | fault (s : State) (c : Cause) (addr : Word)
  | wait (page : Option Nat)

/-- Go on after a part that may fail; what has been written so far is in `s`. -/
def RunOut.after {α : Type} (s : State) (x : Except BulkFail α) (k : α → RunOut) : RunOut :=
  match x with
  | .ok a => k a
  | .error (.fault c, addr) => .fault s c addr
  | .error (e, _) => .wait e.page

/-- A check of a run. -/
def RunOut.check (s : State) (b : Bool) (c : Cause) (addr : Word) (k : RunOut) : RunOut :=
  if b then k else .fault s c addr

/-- The end of a range write. -/
def RunOut.written (w : Written) (k : State → State) : RunOut :=
  match w.fail with
  | none => .done (k w.st)
  | some (.fault c, addr) => .fault w.st c addr
  | some (e, _) => .wait e.page

/-- A running operation: its core, its slot, its entry, how it reaches memory. -/
structure OpRun where
  core : Nat
  slot : Nat
  e : TokenEntry
  b : Bulk

/-- The job of an operation, resident or saved: the one that issued it. -/
def jobById (s : State) (id : Nat) : Option Job :=
  match residentJob s id with
  | some j => some j
  | none => (s.saved.find? fun x => x.job.ids.jobid == id).map (·.job)

/-- Whose writes of its job a detached operation sees ahead of other agents: those that its stream made, and those of
the operations before it by edges (R156, R159). [DEDUCED, log 61] -/
def detachedSight (e : TokenEntry) : List Writer :=
  .stream e.issuer :: (e.ancestors ++ e.preds).map fun x => .op x.1 x.2

/-- An operation as an agent (R201, R388). [DEDUCED, log 61] -/
def opRun (s : State) (core slot : Nat) (e : TokenEntry) (torn : Option Nat) : OpRun :=
  { core := core, slot := slot, e := e,
    b := { ag := { part := e.ids.part, pasid := e.ids.pasid, jobid := e.ids.jobid, hart := ⟨core, 0, e.strm⟩,
                   job := jobById s e.ids.jobid, who := .op core slot e.seq,
                   sees := if e.det then some (detachedSight e) else none },
           own := e.ids.jobid, quota := e.ids.verQuota, torn := torn, tok := some (core, slot),
           early := e.early, performed := e.performed, counted := e.counted } }

/-- The latched value of a register field. -/
def OpRun.v (o : OpRun) (f : RegF) : Word := opVal o.e f

/-- Its bits [31:0]. -/
def OpRun.w32 (o : OpRun) (f : RegF) : Nat := (opVal o.e f).toNat % 2 ^ 32

/-- How the global writes of CPY, GATH, SCAT and DCMP are made (R202, R203). [DEDUCED, log 61] -/
def OpRun.wetBulk (o : OpRun) (sync : Reg) : Bulk := { o.b with wet := !o.e.det && sync == 0 }

/-! ### Scratchpad lines -/

/-- The virtual address of a job offset in the scratchpad window. -/
def offVa (off : Nat) : Word := BitVec.ofNat 64 (Config.spadWindow + off)

/-- Failures at line operands name the job offset. -/
def atOffset {α : Type} (x : Except BulkFail α) : Except BulkFail α :=
  match x with
  | .ok a => .ok a
  | .error (e, a) => .error (e, a - BitVec.ofNat 64 Config.spadWindow)

def readOff (s : State) (o : OpRun) (off n : Nat) : Except BulkFail (State × List Byte) :=
  if off + n ≤ Config.spadSpan then atOffset (readRange s o.b (offVa off) n)
  else .error (.fault .perm, BitVec.ofNat 64 off)

/-- Write bytes at a job offset. -/
def writeOff (w : Written) (o : OpRun) (off : Nat) (bs : List Byte) : Written :=
  if off + bs.length ≤ Config.spadSpan then
    let x := writeRange w o.b (offVa off) bs
    if w.fail.isSome then x
    else { x with fail := x.fail.map fun e => (e.1, e.2 - BitVec.ofNat 64 Config.spadWindow) }
  else { w with fail := w.fail.or (some (.fault .perm, BitVec.ofNat 64 off)) }

/-! ### Sync words (R203) -/

/-- The first poisoned granule of a cell, as an address. -/
def cellPoison (s : State) (va : Word) : Cell → Option Word
  | .spad sp _ => (spadPoisonIn s sp 16).map fun g => poisonAddr va sp g
  | .glob x => (poisonIn s deviceView x.pa 16).map fun g => poisonAddr va x.pa g

/-- The sync word at an address, checked. -/
def syncAt (s : State) (o : OpRun) (addr : Word) : Except BulkFail (State × Cell) :=
  if addr.toNat % 16 != 0 then .error (.fault .align, addr)
  else
    match cellAt s o.b.ag .spadOrWb .atomic addr 16 with
    | .error e => .error (e, addr)
    | .ok c =>
      match c with
      | .spad _ win =>
        if inSealed o.b.ag (windowOff addr) 16 then .error (.fault .sealedRange, addr)
        else
          match fillRange s o.b.ag win 16 with
          | .error e => .error (e, addr)
          | .ok s => match cellPoison s addr c with | some a => .error (.fault .poison, a) | none => .ok (s, c)
      | .glob _ => match cellPoison s addr c with | some a => .error (.fault .poison, a) | none => .ok (s, c)

/-- The sync word an operation names in rw, where it names one. -/
def namedSync (s : State) (o : OpRun) (r : Reg) : Except BulkFail (State × Option Cell) :=
  if r = 0 then .ok (s, none) else (syncAt s o (o.v .rw)).map fun x => (x.1, some x.2)

/-- The update of R119 by `n` bytes that an operation has written. [DESIGN CHOICE, log 126] -/
def syncAdd (o : OpRun) (c : Cell) (n : Nat) (s : State) : State :=
  let s := cellNow s c 16
  let old := syncRead s o.b.ag.view c
  syncCount s o.b.ag c old (old.add n)

/-- The update of R119 by the bytes written, after all of them, but for those that have been counted already; a failed
or cancelled operation adds nothing (R203). [DESIGN CHOICE, log 126] -/
def syncDone (o : OpRun) (c : Option Cell) (n : Nat) (s : State) : State :=
  match c with
  | none => s
  | some c => if o.b.torn.isSome || o.b.only.isSome then s else syncAdd o c (n - o.b.counted) s

/-! ### Footprints (R159, R202) -/

/-- The part of a range [va, va + n) that lies in [lo, lo + len), as lines of job offset from `off` on.
[DEDUCED, log 56] -/
def spadPart (va n lo len off : Nat) (write : Bool) : List FootPart :=
  let a := max va lo
  let b := min (va + n) (lo + len)
  if a < b then [.spad ((off + (a - lo)) / 256) ((off + (b - 1 - lo)) / 256) write] else []

/-- The footprint of a range of virtual addresses: scratchpad window, stash windows, global lines. -/
def rangeParts (j : Job) (va : Word) (n : Nat) (write : Bool) : List FootPart :=
  let a := va.toNat
  if n = 0 then []
  else
    spadPart a n Config.spadWindow Config.spadSpan 0 write
    ++ ((List.range 4).flatMap fun w => spadPart a n (stashVbase j w) (stashSizeOf j w) (256 * stashLineOf j w) write)
    ++ (if Config.spadWindow ≤ a && a + n ≤ Config.spadWindow + Config.spadSpan then []
        else [.glob (a / 256) ((a + n - 1) / 256) write])

/-- The footprint of `n` scratchpad lines from line `l` on. -/
def linesPart (l n : Nat) (write : Bool) : List FootPart := if n = 0 then [] else [.spad l (l + n - 1) write]

/-- The sync word of rw as part of a footprint. -/
def syncPart (s : State) (r : Reg) : List FootPart :=
  if r = 0 then [] else rangeParts (viewedJob s) (rd s r) 16 true

/-- The push of an engine instruction: its encoding has been checked (R201); its footprint. -/
def enginePush (i : Instr) (x : EngOp) (foot : State → List FootPart) (s : State) : Result :=
  push { i := i, head := x.h, strms := [.l, .s], checks := fun s => .ok (foot s) } s

end Sys2Proof.Machine
end

