-- ==== Sys2Proof/Machine/Coll.lean ====
section
/-! DEFINITION. The collectives CRED, CBC, CGTH, CRSC (R223–R225): the push, and what an instance computes. -/

namespace Sys2Proof.Machine

/-- Bytes of one element of a reduction. -/
def collWidth (x : EngOp) : Nat := elemBytes x.h.fmt.toNat

/-- Source and destination lengths of a member: 0 CRED, 1 CBC, 2 CGTH, 3 CRSC (R223). -/
def collLengths (kind n : Nat) (x : EngOp) (count : Nat) : Nat × Nat :=
  match kind with
  | 0 => (count * collWidth x, count * collWidth x)
  | 1 => (count, count)
  | 2 => (count, n * count)
  | _ => (n * count * collWidth x, count * collWidth x)

def collKind : Instr → Nat
  | .cred _ => 0
  | .cbc _ => 1
  | .cgth _ => 2
  | _ => 3

/-! ### The push -/

/-- The pushes of a collective id at a level so far by the executing job (R223). [DEDUCED, log 70] -/
def pushCount (s : State) (x : EngOp) : Nat :=
  let key := ((curJob s).ids.jobid, x.lvl.toNat, (rd s x.re).toNat % 2048)
  (((curCore s).collectives.find? fun e => e.1 == key).map (·.2)).getD 0

def countColl (s : State) (x : EngOp) : State :=
  let key := ((curJob s).ids.jobid, x.lvl.toNat, (rd s x.re).toNat % 2048)
  let n := pushCount s x
  modCurCore s fun c => { c with collectives := (key, n + 1) :: c.collectives.filter fun e => e.1 != key }

def collPush (i : Instr) (x : EngOp) (s : State) : Result :=
  push { i := i, head := x.h, strms := [.l, .s],
         checks := fun s => do
           let n := collSize (curJob s).ids x
           check (n != 0) .illegal
           let l := collLengths (collKind i) n x ((rd s x.rc).toNat % 2 ^ 32)
           .ok (rangeParts (viewedJob s) (rd s x.ra) l.1 false ++ rangeParts (viewedJob s) (rd s x.rb) l.2 true
             ++ syncPart s x.rw),
         ordinal := fun s => pushCount s x,
         after := fun s => countColl s x } s

def execCred (x : EngOp) (s : State) : Result := collPush (.cred x) x s
def execCbc (x : EngOp) (s : State) : Result := collPush (.cbc x) x s
def execCgth (x : EngOp) (s : State) : Result := collPush (.cgth x) x s
def execCrsc (x : EngOp) (s : State) : Result := collPush (.crsc x) x s

/-! ### Members of an instance -/

/-- What every member of an instance must agree on, and its index. -/
structure Member where
  kind : Nat
  fmt : Nat
  op : Nat
  count : Nat
  root : Nat
  index : Nat
  deriving DecidableEq, Repr

def memberOf (e : TokenEntry) (x : EngOp) : Member :=
  let k := collKind e.instr
  ⟨k, x.h.fmt.toNat, x.op.toNat, (opVal e .rc).toNat % 2 ^ 32,
    if k = 1 then bitsOf (opVal e .rd) 16 10 else 0, bitsOf (opVal e .rd) 0 10⟩

/-- Whether members agree, and their indices are distinct and below N (R223). [DEDUCED, log 70] -/
def membersOk (n : Nat) : List Member → Bool
  | [] => true
  | m :: ms => m.index < n && ms.all (fun x => { x with index := m.index } == m && x.index != m.index) && membersOk n ms

/-- The source of a running member. -/
def collSource (s : State) (o : OpRun) (x : EngOp) : Except BulkFail (State × List Byte) :=
  let n := collSize o.e.ids x
  let l := collLengths (collKind o.e.instr) n x (o.w32 .rc)
  if (o.v .ra).toNat % 16 != 0 || l.1 % 16 != 0 then .error (.fault .align, o.v .ra)
  else if (o.v .rb).toNat % 16 != 0 || l.2 % 16 != 0 then .error (.fault .align, o.v .rb)
  else readRange s o.b (o.v .ra) l.1

/-! ### What a member receives (R223, R224) -/

/-- The reduction of one element over the members, in index order. -/
def reduceElem (fmt op : Nat) (l : List Nat) : Nat :=
  if fmt = 4 then
    let v := fun e => intValue 4 e
    let f : Nat → Nat → Nat := match op with
      | 0 => fun a b => (a + b) % 2 ^ 32
      | 1 => fun a b => if v a < v b then b else a
      | _ => fun a b => if v b < v a then b else a
    (plumb f (l.map some)).getD 0
  else
    let ff := if fmt = 1 then fp32Fmt else bf16Fmt
    let leaves := l.map fun e => some (ff.value e)
    match op with
    | 0 => ff.round 0 false ((plumb sum32 leaves).getD (.zero false))
    | 1 => ff.round 0 false ((plumb Ex.max leaves).getD (.zero false))
    | _ => ff.round 0 false ((plumb Ex.min leaves).getD (.zero false))

/-- Elements `a` to `a + n − 1` reduced over the sources, in member order. -/
def reduceRange (fmt op a n : Nat) (srcs : List (List Byte)) : List Byte :=
  let w := elemBytes fmt
  (List.range n).flatMap fun i =>
    leBytes w (reduceElem fmt op (srcs.map fun bs => ofLe (slice bs (w * (a + i)) w)))

/-- The destination bytes of the member with index `k`; the sources stand in index order. -/
def collResult (m : Member) (k : Nat) (srcs : List (List Byte)) : List Byte :=
  match m.kind with
  | 0 => reduceRange m.fmt m.op 0 m.count srcs
  | 1 => srcs.getD m.root []
  | 2 => srcs.flatten
  | _ => reduceRange m.fmt m.op (k * m.count) m.count srcs

/-- Write a member's destination, then its sync word. -/
def collDeliver (s : State) (o : OpRun) (x : EngOp) (bs : List Byte) : Except BulkFail State := do
  let (s, c) ← namedSync s o x.rw
  let s ← writeAll s o.b (o.v .rb) bs
  .ok (syncDone o c bs.length s)

/-- The flag that carries a member's contribution to a peer chip (R421). -/
def collFlag (o : OpRun) (x : EngOp) (bs : List Byte) : FlagBody :=
  let m := memberOf o.e x
  .collective (BitVec.ofNat 11 ((o.v .re).toNat % 2048)) o.e.ordinal m.index x.h.fmt
    (if m.kind = 0 then x.op else BitVec.ofNat 4 (4 * m.kind + x.op.toNat)) m.count m.root bs

/-- A member at level 6 sends its source to the joined peers when it starts (R223, R421). -/
def prepareColl (s : State) (o : OpRun) (x : EngOp) : Except BulkFail State :=
  if x.lvl.toNat != 6 then .ok (setHeldNone s o)
  else do
    let (s, bs) ← collSource s o x
    .ok (setHeldNone (tellPeers s o.e.ids.part (collFlag o x bs)) o)
where
  setHeldNone (s : State) (o : OpRun) : State := modTok s o.core o.slot fun e => { e with held := some [] }

/-- What a peer's member has sent, as a member. -/
def remoteMember (r : RemoteMember) : Member := ⟨r.op / 4 % 4, r.fmt, r.op % 4, r.count, r.root, r.member⟩

end Sys2Proof.Machine
end

