-- ==== Sys2Proof/Machine/Copy.lean ====
section
/-! DEFINITION. The copy engine: CPY, GATH, SCAT, PUT, DCMP, PFCH (R205–R209), the push and the run of each. -/

namespace Sys2Proof.Machine

/-! ### CPY (R205) -/

def cpyFoot (x : EngOp) (s : State) : List FootPart :=
  let n := (rd s x.rc).toNat % 2 ^ 32
  rangeParts (viewedJob s) (rd s x.ra) n false ++ rangeParts (viewedJob s) (rd s x.rb) n true ++ syncPart s x.rw

def execCpy (x : EngOp) (s : State) : Result := enginePush (.cpy x) x (cpyFoot x) s

/-- [DEDUCED, log 62] -/
def runCpy (x : EngOp) (o : OpRun) (s : State) : RunOut :=
  let src := o.v .ra
  let dst := o.v .rb
  let n := o.w32 .rc
  if n = 0 then .done s
  else
    .check s (src.toNat % 16 == 0 && n % 16 == 0) .align src <|
    .check s (dst.toNat % 16 == 0) .align dst <|
    .after s (readRange s o.b src n) fun r =>
    .after s (namedSync r.1 o x.rw) fun c =>
    .written (writeRange ⟨c.1, none⟩ (o.wetBulk x.rw) dst r.2) (syncDone o c.2 n)

/-! ### GATH, SCAT (R206) -/

def indexLines (cnt : Nat) : Nat := (4 * cnt + 255) / 256

def moveFoot (x : EngOp) (gather : Bool) (s : State) : List FootPart :=
  linesPart x.ln2.toNat (indexLines x.cnt.toNat) false ++ linesPart x.ln.toNat x.cnt.toNat gather
    ++ rangeParts (viewedJob s) (rd s x.rb) (256 * ((rd s x.rc).toNat % 2 ^ 32)) (!gather) ++ syncPart s x.rw

def execGath (x : EngOp) (s : State) : Result := enginePush (.gath x) x (moveFoot x true) s
def execScat (x : EngOp) (s : State) : Result := enginePush (.scat x) x (moveFoot x false) s

/-- The indices of GATH and SCAT, checked against the limit; a failure names the global address. -/
def readIndices (s : State) (x : EngOp) (o : OpRun) : Except BulkFail (State × List Nat) := do
  let n := x.cnt.toNat
  if (o.v .rb).toNat % 256 != 0 then .error (.fault .align, o.v .rb)
  let (s, bs) ← readOff s o (256 * x.ln2.toNat) (4 * n)
  let xs := (List.range n).map fun i => ofLe (slice bs (4 * i) 4)
  match xs.find? fun v => o.w32 .rc ≤ v with
  | some v => .error (.fault .perm, o.v .rb + BitVec.ofNat 64 (256 * v))
  | none => .ok (s, xs)

/-- The global line an index names. -/
def indexVa (o : OpRun) (v : Nat) : Word := o.v .rb + BitVec.ofNat 64 (256 * v)

/-- Read every global line that the indices name, in order. -/
def readGathered (s : State) (o : OpRun) (xs : List Nat) : Except BulkFail (State × List Byte) :=
  xs.foldl (fun r v => r.bind fun x =>
    (readRange x.1 o.b (indexVa o v) 256).map fun y => (y.1, x.2 ++ y.2)) (.ok (s, []))

def runGath (x : EngOp) (o : OpRun) (s : State) : RunOut :=
  .after s (readIndices s x o) fun r =>
  .after s (readGathered r.1 o r.2) fun d =>
  .after s (namedSync d.1 o x.rw) fun c =>
  .written (writeOff ⟨c.1, none⟩ o (256 * x.ln.toNat) d.2) (syncDone o c.2 (256 * x.cnt.toNat))

/-- [DESIGN CHOICE, log 133] -/
def runScat (x : EngOp) (o : OpRun) (s : State) : RunOut :=
  .after s (readIndices s x o) fun r =>
  .after s (readOff r.1 o (256 * x.ln.toNat) (256 * x.cnt.toNat)) fun d =>
  .after s (namedSync d.1 o x.rw) fun c =>
  .written (r.2.zipIdx.foldl (fun w e => writeRange w (o.wetBulk x.rw) (indexVa o e.1) (slice d.2 (256 * e.2) 256))
      ⟨c.1, none⟩) (syncDone o c.2 (256 * x.cnt.toNat))

/-! ### PUT (R207, R461) -/

def execPut (x : EngOp) (s : State) : Result :=
  enginePush (.put x) x (fun _ => linesPart x.ln.toNat x.cnt.toNat false) s

/-- Turn `i` of a route. [DESIGN CHOICE, log 63] -/
def turnOf (route i : Nat) : Nat := route / 4 ^ i % 4

/-- Why a route does not arrive, or the router it arrives at. -/
inductive Route where
  | arrived (router : Nat)
  | broken
  | outside
  deriving DecidableEq, Repr

/-- Follow the turns from the `i`-th on, at router `r` with heading `h` (R207). [DESIGN CHOICE, log 63] -/
def followRoute (s : State) (p route : Nat) : Nat → Nat → Nat → Nat → Route
  | 0, _, _, _ => .broken
  | fuel + 1, i, r, h =>
    if Tab.get? s.clusterOwner (Config.routerCluster r) != some p then .outside
    else if turnOf route i = 3 then (if route / 4 ^ (i + 1) = 0 then .arrived r else .broken)
    else
      let out := (match turnOf route i with | 0 => h | 1 => h + 3 | _ => h + 1) % 4
      if NatSet.has s.meshRetired (4 * r + out) then .broken
      else
        match Config.routerNext r out with
        | none => .broken
        | some r' => followRoute s p route fuel (i + 1) r' out

/-- The core a route string leads to, from a core of a partition. [DESIGN CHOICE, log 63] -/
def routeFrom (s : State) (p core route : Nat) : Route :=
  if 2 ^ 30 ≤ route then .broken
  else followRoute s p route 15 0 (Config.routerOf core) (Config.routerStraight (Config.routerOf core))

/-- The job a PUT delivers to. [DESIGN CHOICE, log 63] -/
def putTarget (s : State) (o : OpRun) (router : Nat) : Option (Nat × Job) :=
  match Config.routerCore router with
  | none => none
  | some core =>
    (s.jobs.find? fun x => x.1 / 4 == core && x.2.ids.jobid == (o.v .rc).toNat
      && x.2.ids.part == o.e.ids.part).map fun x => (core, x.2)

/-- The operation writing in another job's grant. [DEDUCED, log 64] -/
def putRun (o : OpRun) (core : Nat) (j : Job) : OpRun :=
  { o with b := { o.b with ag := { o.b.ag with part := j.ids.part, pasid := j.ids.pasid, jobid := j.ids.jobid,
                                               hart := ⟨core, 0, o.e.strm⟩, job := some j, tlb := core, sees := none },
                           own := j.ids.jobid, tok := none } }

/-- The sync word of a PUT, at a job offset of the destination. -/
def putSync (s : State) (q : OpRun) (r : Reg) (off : Word) : Except BulkFail (State × Option Cell) :=
  if r = 0 then .ok (s, none)
  else if off.toNat % 16 != 0 then .error (.fault .align, off)
  else if Config.spadSpan < off.toNat + 16 then .error (.fault .perm, off)
  else atOffset ((syncAt s q (offVa off.toNat)).map fun x => (x.1, some x.2))

/-- [DEDUCED, log 64] -/
def runPut (x : EngOp) (o : OpRun) (s : State) : RunOut :=
  let off := o.v .rb
  let n := 256 * x.cnt.toNat
  .check s (off.toNat % 256 == 0) .align off <|
  match routeFrom s o.e.ids.part o.core (o.w32 .ra) with
  | .broken => .fault s .link 0
  | .outside => .fault s .perm 0
  | .arrived router =>
    match putTarget s o router with
    | none => .fault s .perm off
    | some (core, j) =>
      let q := putRun o core j
      .after s (readOff s o (256 * x.ln.toNat) n) fun d =>
      .after s (putSync d.1 q x.rw (o.v .rw)) fun c =>
      .written (writeOff ⟨c.1, none⟩ q off.toNat d.2) (syncDone q c.2 n)

/-! ### DCMP (R102, R208) -/

def execDcmp (x : EngOp) (s : State) : Result :=
  enginePush (.dcmp x) x (fun s =>
    rangeParts (viewedJob s) (rd s x.ra) ((rd s x.rc).toNat % 2 ^ 32) true ++ syncPart s x.rw) s

/-- The views of one line are joined: its decoded bytes stand in memory and its metadata is cleared, for
other agents at the cure where the write is wet. [DEDUCED, log 40, 62] -/
def joinLine (s : State) (o : OpRun) (wet : Bool) (pa : Nat) : State :=
  match Tab.get? s.ms.comp (pa / 256) with
  | none => s
  | some _ =>
    let bs := (List.range 32).flatMap fun g => leBytes 8 (jobGranule s o.b.ag.view true (pa / 8 + g)).toNat
    let s := useFresh s pa 256
    if wet then
      modMs (writeWet s o.b.wetWriter false pa bs) fun m =>
        { m with wet := m.wet.map fun w =>
            if w.job = o.b.own && w.granule / 32 = pa / 256 then { w with join := true } else w }
    else
      writePa (modMs s fun m => { m with comp := Tab.del m.comp (pa / 256) }) (o.e.ids.part, o.b.own)
        (some o.b.own) false pa bs

/-- Join the lines of a range, as far as they can be reached; a line that is not stored compressed, as every line
of the scratchpad and of a stash window, is left unchanged (R208). -/
def joinRange (b : Bulk) (o : OpRun) (w : Written) (p : Nat × Nat) : Written :=
  let va : Word := BitVec.ofNat 64 p.1
  if isVersion w.fail then w
  else
    match locate b.ag va with
    | .spad off _ viaVa =>
      match b.ag.spad off 256, (if viaVa then agentXl w.st b.ag va .write else .ok ⟨0, 0, 0, false⟩) with
      | none, _ => { w with fail := w.fail.or (some (.fault .perm, va)) }
      | some _, .error e => { w with fail := w.fail.or (some (e, va)) }
      | some _, .ok _ => w
    | .glob _ =>
      match agentXl w.st b.ag va .write with
      | .error e => { w with fail := w.fail.or (some (e, va)) }
      | .ok x =>
        if (Tab.get? w.st.ms.comp (x.pa / 256)).isNone then w
        else
          match poisonIn w.st b.ag.view x.pa 256 with
          | some g => { w with fail := w.fail.or (some (.fault .poison, poisonAddr va x.pa g)) }
          | none =>
            let wet := b.wet && effType x != 2
            if wet && !quotaOk w.st b.own b.quota x.pa 256 then
              { w with fail := w.fail.or (some (.fault .version, va)) }
            else if b.torn.isSome || !(b.writesNow (va.toNat / 8)) then w
            else { w with st := joinLine w.st o wet x.pa }

/-- The bytes that a DCMP writes: those of the lines of its range that are stored compressed (R203, R208). -/
def joinedBytes (s : State) (b : Bulk) (ps : List (Nat × Nat)) : Nat :=
  256 * (ps.filter fun p =>
    match locate b.ag (BitVec.ofNat 64 p.1) with
    | .spad .. => false
    | .glob _ =>
      match agentXl s b.ag (BitVec.ofNat 64 p.1) .write with
      | .ok x => (Tab.get? s.ms.comp (x.pa / 256)).isSome
      | .error _ => false).length

/-- [DEDUCED, log 62] -/
def runDcmp (x : EngOp) (o : OpRun) (s : State) : RunOut :=
  let a := o.v .ra
  let n := o.w32 .rc
  .check s (a.toNat % 256 == 0 && n % 256 == 0) .align a <|
  .after s (namedSync s o x.rw) fun c =>
  .written ((pieces a.toNat n).foldl (joinRange (o.wetBulk x.rw) o) ⟨c.1, none⟩)
    (syncDone o c.2 (joinedBytes c.1 o.b (pieces a.toNat n) + (o.b.performed.map (·.2)).sum))

/-! ### PFCH (R209) -/

def execPfch (x : EngOp) (s : State) : Result := enginePush (.pfch x) x (fun _ => []) s

/-- PFCH changes no value that any agent reads, and never faults. -/
def runPfch (s : State) : RunOut := .done s

end Sys2Proof.Machine
end

