-- ==== Sys2Proof/Machine/Kv.lean ====
section
/-! DEFINITION. The KV engine and the prefix directory: block-table entries, pools, retiring records,
translations (R210–R214), KVAPP, KVGET, KVEVT, DIRPUB, DIRLK, KVFET (R215–R217, R219–R222, R422). -/

namespace Sys2Proof.Machine

/-! ### Objects in WB device memory -/

/-- The place of an aligned object in WB device memory. -/
def metaAt (s : State) (b : Bulk) (va : Word) (align : Nat) (k : AccKind) : Except BulkFail Xl :=
  if va.toNat % align != 0 then .error (.fault .align, va)
  else
    match cellAt s b.ag .wbDevice k va align with
    | .error e => .error (e, va)
    | .ok (.glob x) => .ok x
    | .ok (.spad _ _) => .error (.fault .perm, va)

/-- Its first `n` bytes, as they stand in coherence order: what is updated is read so (R111, R213). -/
def metaRead (s : State) (b : Bulk) (va : Word) (x : Xl) (n : Nat) : Except BulkFail (List Byte) :=
  let s := performRange s (granules x.pa n)
  match poisonIn s b.ag.view x.pa n with
  | some g => .error (.fault .poison, poisonAddr va x.pa g)
  | none => .ok (readPa s b.ag.view x.cmp x.pa n)

/-- A never-wet write `o` bytes into it (R202). -/
def metaWrite (s : State) (b : Bulk) (x : Xl) (o : Nat) (bs : List Byte) : State :=
  writePa s (b.ag.part, b.own) (some b.own) x.cmp (x.pa + o) bs

/-! ### Block-table entries (R210) -/

/-- The fields of a block-table entry. -/
structure KvBits where
  page : Nat
  home : Nat
  state : Nat
  elem : Nat
  hdim : Nat
  bitmap : Nat
  scale : BitVec 32
  version : Nat
  readers : Nat
  fid : Word
  deriving DecidableEq, Repr

def KvBits.ofBytes (bs : List Byte) : KvBits :=
  let w := ofLe (bs.take 8)
  { page := w % 2 ^ 48, home := w / 2 ^ 48 % 256, state := w / 2 ^ 56 % 16, elem := w / 2 ^ 60 % 4,
    hdim := w / 2 ^ 62, bitmap := ofLe (slice bs 8 8), scale := BitVec.ofNat 32 (ofLe (slice bs 16 4)),
    version := ofLe (slice bs 20 2), readers := ofLe (slice bs 22 2),
    fid := BitVec.ofNat 64 (ofLe (slice bs 24 8)) }

def KvBits.bytes (k : KvBits) : List Byte :=
  leBytes 8 (k.page % 2 ^ 48 + k.home % 256 * 2 ^ 48 + k.state % 16 * 2 ^ 56 + k.elem % 4 * 2 ^ 60 + k.hdim % 4 * 2 ^ 62)
    ++ leBytes 8 k.bitmap ++ leBytes 4 k.scale.toNat ++ leBytes 2 k.version ++ leBytes 2 k.readers
    ++ leBytes 8 k.fid.toNat

/-- No reserved STATE, ELEM or HDIM. -/
def KvBits.ok (k : KvBits) : Bool := k.state < 4 && k.elem < 3 && k.hdim < 2

/-- Head dimension, bytes of an element, bytes of a vector, format code of the element (R211, R242). -/
def KvBits.dim (k : KvBits) : Nat := if k.hdim = 0 then 64 else 128
def KvBits.width (k : KvBits) : Nat := if k.elem = 0 then 2 else 1
def KvBits.vec (k : KvBits) : Nat := k.dim * k.width
def KvBits.fmt (k : KvBits) : Nat := match k.elem with | 0 => 2 | 1 => 5 | _ => 7

/-- Bytes of the two halves of a page. -/
def KvBits.half (k : KvBits) : Nat := 64 * k.vec

/-- The slot of a position (R211). -/
def posSlot (bitmap p : Nat) : Nat := popcount p (bitmap % 2 ^ p)

/-- Surviving positions. -/
def kvCount (bitmap : Nat) : Nat := popcount 64 bitmap

/-- The value of a stored element (R211). -/
def KvBits.value (k : KvBits) (e : Nat) : Ex :=
  if k.elem = 0 then bf16Fmt.value e
  else (if k.elem = 1 then Ex.ofInt (intValue 5 e) else dk8Value e).mul (ofFp32 k.scale)

/-- Read an entry, whole and checked. [DEDUCED, log 66] -/
def kvEntry (s : State) (b : Bulk) (va : Word) (k : AccKind) : Except BulkFail (Xl × KvBits) := do
  let x ← metaAt s b va 32 k
  let bs ← metaRead s b va x 32
  let e := KvBits.ofBytes bs
  if e.ok then .ok (x, e) else .error (.fault .format, va)

/-- Bytes of a page, which lies where its address says, whatever bits [14:0] of that hold (R210).
[DEDUCED, log 66] -/
def readPage (s : State) (b : Bulk) (page off n : Nat) : Except BulkFail (State × List Byte) :=
  readRange s b (BitVec.ofNat 64 (page + off)) n

/-- [DEDUCED, log 66] -/
def writePage (s : State) (b : Bulk) (page off : Nat) (bs : List Byte) : Except BulkFail State :=
  writeAll s b (BitVec.ofNat 64 (page + off)) bs

/-! ### Pools (R212) -/

/-- A pool descriptor as read. [DEDUCED, log 66] -/
structure Pool where
  va : Word
  x : Xl
  freeBase : Word
  freeCap : Nat
  freeHead : Nat
  freeTail : Nat
  retCap : Nat
  retBase : Word
  retHead : Nat
  retTail : Nat

def powerUpTo (n top : Nat) : Bool := 0 < n && n ≤ top && n == 2 ^ Nat.log2 n

/-- [DEDUCED, log 66] -/
def poolAt (s : State) (b : Bulk) (va : Word) : Except BulkFail Pool := do
  let x ← metaAt s b va 64 .atomic
  let bs ← metaRead s b va x 64
  let u := fun o n => ofLe (slice bs o n)
  let p : Pool := ⟨va, x, BitVec.ofNat 64 (u 0 8), u 8 4, u 0x0C 4, u 0x10 4, u 0x14 4, BitVec.ofNat 64 (u 0x18 8),
    u 0x20 4, u 0x24 4⟩
  if powerUpTo p.freeCap (2 ^ 20) && powerUpTo p.retCap (2 ^ 16) then .ok p else .error (.fault .format, va)

/-- The addresses of a free-ring entry and of a retiring record. -/
def Pool.freeVa (p : Pool) (i : Nat) : Word := p.freeBase + BitVec.ofNat 64 (8 * (i % p.freeCap))
def Pool.retVa (p : Pool) (i : Nat) : Word := p.retBase + BitVec.ofNat 64 (16 * (i % p.retCap))

/-- A difference of two ring counts. -/
def ringGap (tail head : Nat) : Nat := (tail + 2 ^ 32 - head) % 2 ^ 32

/-- Room for `n` more retiring records. -/
def recordRoom (p : Pool) (n : Nat) : Except BulkFail Unit :=
  if ringGap p.retTail p.retHead + n ≤ p.retCap then .ok () else .error (.fault .version, p.va)

/-- A page is there to be taken. -/
def pageThere (p : Pool) : Except BulkFail Unit :=
  if p.freeTail = p.freeHead then .error (.fault .version, p.va) else .ok ()

def takePage (s : State) (b : Bulk) (va : Word) : Except BulkFail (State × Nat) := do
  let p ← poolAt s b va
  pageThere p
  let (s, bs) ← readRange s b (p.freeVa p.freeHead) 8
  .ok (metaWrite s b p.x 0x0C (leBytes 4 (p.freeHead + 1)), ofLe bs)

def returnPage (s : State) (b : Bulk) (va : Word) (page : Nat) : Except BulkFail State := do
  let p ← poolAt s b va
  let s ← writeAll s b (p.freeVa p.freeTail) (leBytes 8 page)
  .ok (metaWrite s b p.x 0x10 (leBytes 4 (p.freeTail + 1)))

/-- RETHEAD advances over leading cleared records: the new head. -/
def headAfter (s : State) (b : Bulk) (p : Pool) (h : Nat) : Nat → Except BulkFail Nat
  | 0 => .ok h
  | n + 1 =>
    if h = p.retTail then .ok h
    else do
      let (_, bs) ← readRange s b (p.retVa h + 12) 4
      if ofLe bs % 2 = 1 then .ok h else headAfter s b p ((h + 1) % 2 ^ 32) n

/-- A record that has no reader left: its page returns, the record is cleared. [DEDUCED, log 66] -/
def clearRecord (s : State) (b : Bulk) (va : Word) (i page : Nat) : Except BulkFail State := do
  let s ← returnPage s b va page
  let p ← poolAt s b va
  let s ← writeAll s b (p.retVa i) (List.replicate 16 0)
  let h ← headAfter s b p p.retHead (ringGap p.retTail p.retHead)
  .ok (metaWrite s b p.x 0x20 (leBytes 4 h))

/-- Append the retiring record of an entry's present version (R214). -/
def appendRecord (s : State) (b : Bulk) (va : Word) (pa : Nat) (k : KvBits) : Except BulkFail State := do
  let p ← poolAt s b va
  recordRoom p 1
  let s ← writeAll s b (p.retVa p.retTail) (leBytes 8 k.page ++ leBytes 2 k.version ++ leBytes 2 k.readers ++ leBytes 4 1)
  let s := metaWrite s b p.x 0x24 (leBytes 4 (p.retTail + 1))
  if k.readers = 0 then clearRecord s b va p.retTail k.page
  else
    .ok (modMs s fun m =>
      { m with kvRecords := m.kvRecords ++ [⟨pa, BitVec.ofNat 16 k.version, b.ag.part, b.ag.pasid, va, p.retTail⟩] })

/-- A version swap (R214). -/
def swapVersion (s : State) (b : Bulk) (pool : Word) (x : Xl) (k : KvBits) (page bitmap : Nat) (scale : BitVec 32) :
    Except BulkFail State :=
  let k' := { k with page := page, bitmap := bitmap, scale := scale, version := (k.version + 1) % 2 ^ 16, readers := 0 }
  appendRecord (metaWrite s b x 0 k'.bytes) b pool x.pa k

/-- An entry retirement (R214). -/
def retireEntry (s : State) (b : Bulk) (pool : Word) (x : Xl) (k : KvBits) : Except BulkFail State :=
  let k' := { k with state := 3, version := (k.version + 1) % 2 ^ 16, readers := 0 }
  appendRecord (metaWrite s b x 0 k'.bytes) b pool x.pa k

/-! ### Translations (R213) -/

/-- What a translation holds of an entry. -/
def HeldEntry.kv (h : HeldEntry) : KvBits := KvBits.ofBytes (leBytes 32 h.bits.toNat)

/-- Translate an entry: read it whole and count a reader, at the home where it is remote. -/
def translateEntry (s : State) (b : Bulk) (va : Word) (block : Nat) : Except BulkFail (State × HeldEntry) := do
  let (x, k) ← kvEntry s b va .atomic
  if k.state = 2 then .ok (s, ⟨block, x.pa, BitVec.ofNat 256 (ofLe k.bytes)⟩)
  else if k.readers = 65535 then .error (.wait, va)
  else
    let seen := if k.state = 3 then { k with bitmap := 0 } else k
    .ok (metaWrite s b x 0x16 (leBytes 2 (k.readers + 1)), ⟨block, x.pa, BitVec.ofNat 256 (ofLe seen.bytes)⟩)

/-- One reader fewer on a retiring record. -/
def releaseRecord (s : State) (r : KvRecord) : Except BulkFail State := do
  let b := dispatcher r.part r.pasid
  let p ← poolAt s b r.pool
  let (s, bs) ← readRange s b (p.retVa r.index) 16
  let n := ofLe (slice bs 10 2)
  if n ≤ 1 then
    let s ← clearRecord s b r.pool r.index (ofLe (bs.take 8))
    .ok (modMs s fun m => { m with kvRecords := m.kvRecords.filter (· != r) })
  else writeAll s b (p.retVa r.index + 10) (leBytes 2 (n - 1))

/-- A local reader ends: its count is the entry's while VERSION matches, else the retiring record's. A count that is
poisoned stays (R458). [DESIGN CHOICE, log 128] -/
def releaseReader (s : State) (b : Bulk) (h : HeldEntry) : State :=
  let s := performRange s (granules h.pa 32)
  let now := KvBits.ofBytes (readPa s b.ag.view false h.pa 32)
  if (poisonIn s b.ag.view h.pa 32).isSome then s
  else if now.version = h.kv.version then
    writePa s (b.ag.part, b.own) (some b.own) false (h.pa + 0x16) (leBytes 2 (now.readers - 1))
  else
    match s.ms.kvRecords.find? fun r => r.pa == h.pa && r.version.toNat == h.kv.version with
    | none => s
    | some r =>
      match releaseRecord s r with
      | .ok s => s
      | .error _ => s

/-! ### Requests to peer chips (R219, R422) -/

/-- Kinds of request. -/
def reqPub : Nat := 0
def reqLookup : Nat := 1
def reqFetch : Nat := 2
def reqAttend : Nat := 3
def reqRelease : Nat := 4

def chipCount (s : State) : Nat := bitsOf s.fabric.chips0 8 7

/-- The home chip of a prefix id (R219). -/
def homeOf (s : State) (id : Word) : Nat :=
  let h := id.toNat * 0x9E3779B97F4A7C15 % 2 ^ 64
  let i := h / 2 ^ 32 * chipCount s / 2 ^ 32
  bitsOf (Tab.getD s.fabric.chips (i + 1) 0) 0 8

/-- The partition of a chip that a partition is joined to (R420). [DEDUCED, log 69] -/
def joinedPart (s : State) (p chip : Nat) : Option Nat :=
  ((getPart s p).joined.find? fun e => bitOf e.2 11 && bitsOf e.2 0 8 == chip).map fun e => bitsOf e.2 8 3

/-- Send a request for an operation; LINK where no joined partition of the chip is there to receive it.
[DEDUCED, log 69] -/
def sendRequest (s : State) (o : OpRun) (item chip kind : Nat) (id : Word) (payload : List Byte) :
    Except BulkFail State :=
  match (if chipCount s = 0 || !anyLink s o.e.ids.part then none else joinedPart s o.e.ids.part chip) with
  | none => .error (.fault .link, 0)
  | some q =>
    let tag := s.fabric.nextTag
    let s := modTok s o.core o.slot fun e => { e with requests := e.requests ++ [⟨item, chip, q, tag, s.time, false, none⟩] }
    .ok { s with fabric := { s.fabric with nextTag := tag + 1 }, out := s.out ++ [.request chip q (fabricOf s o.e.ids.part) tag kind id payload] }

/-- The reply to the request for an item of an operation. -/
def replyTo (o : OpRun) (item : Nat) : Option ReplyBody :=
  (o.e.requests.find? fun r => r.item == item).bind (·.reply)

/-- Whether a reply tells that the home has counted a reader: a failed one counts none. -/
def countsReader : ReplyBody → Bool
  | .page _ => true
  | .partials _ => true
  | _ => false

/-- RELEASE requests go out for the readers that homes have counted for operations that have ended, where a link
carries them (R409, R422, R463). [DEDUCED, log 104] -/
def sendReleases (s : State) : State :=
  let go (e : EndedReader) : Bool := e.answered && anyLink s e.part
  { s with
    out := s.out ++ (s.fabric.ended.filter go).map fun e =>
      .request e.chip e.peer (fabricOf s e.part) 0 reqRelease e.id (leBytes 2 e.version)
    fabric := { s.fabric with ended := s.fabric.ended.filter fun e => !go e } }

/-- An operation that has asked a home to translate an entry ends: the reader is released, once the home has answered
that it counts one (R422, R463). [DEDUCED, log 104] -/
def releaseRemote (s : State) (o : OpRun) (h : HeldEntry) : State :=
  match o.e.requests.find? fun r => r.item == h.block with
  | none => s
  | some r =>
    if r.reply.all countsReader then
      sendReleases { s with fabric := { s.fabric with ended := s.fabric.ended ++
        [⟨r.tag, o.e.ids.part, r.chip, r.part, h.kv.fid, h.kv.version, r.reply.isSome⟩] } }
    else s

/-- A reader ends its translations: at its completion, its fault or its cancel (R213). -/
def releaseHeld (s : State) (o : OpRun) : State :=
  (o.e.held.getD []).foldl (fun s h =>
    if h.kv.state = 2 then releaseRemote s o h else releaseReader s o.b h) s

/-- The operation holds these translations. -/
def setHeld (s : State) (o : OpRun) (hs : List HeldEntry) : State :=
  modTok s o.core o.slot fun e => { e with held := some hs }

/-! ### KVAPP (R215) -/

def kvLine (s : State) (r : Reg) (write : Bool) : List FootPart := rangeParts (viewedJob s) (rd s r) 32 write
def poolPart (s : State) (r : Reg) : List FootPart := rangeParts (viewedJob s) (rd s r) 64 true

def execKvapp (x : EngOp) (s : State) : Result :=
  enginePush (.kvapp x) x (fun s =>
    linesPart x.ln.toNat (if x.h.fmt = 1 then 4 else 2) false ++ kvLine s x.ra true ++ poolPart s x.rc) s

/-- The token: d elements of the key and d of the value, as exact values. -/
def readToken (s : State) (x : EngOp) (o : OpRun) (d : Nat) : Except BulkFail (State × List Ex) := do
  let w := elemBytes x.h.fmt.toNat
  let v := if d * w ≤ 256 then 1 else 2
  let (s, ks) ← readOff s o (256 * x.ln.toNat) (d * w)
  let (s, vs) ← readOff s o (256 * (x.ln.toNat + v)) (d * w)
  let f := if x.h.fmt = 1 then fp32Fmt else bf16Fmt
  .ok (s, (List.range (2 * d)).map fun i => f.value (ofLe (slice (ks ++ vs) (w * i) w)))

def isFinite : Ex → Bool
  | .nan => false
  | .inf _ => false
  | _ => true

/-- Enc of R215: the bits of y / sc in the entry's element format. -/
def kvEnc (k : KvBits) (sc : BitVec 32) (y : Ex) : Nat :=
  if k.elem = 0 then bf16Fmt.round 0 false y
  else if k.elem = 1 then intBits 5 (roundInt 5 0 (y.div (ofFp32 sc)))
  else dk8Code (y.div (ofFp32 sc))

/-- The bytes of a vector of element bits. -/
def vecBytes (k : KvBits) (l : List Nat) : List Byte := l.flatMap (leBytes k.width)

/-- Write a key vector and a value vector into a slot of a page. -/
def writeSlot (s : State) (b : Bulk) (k : KvBits) (page slot : Nat) (key val : List Byte) : Except BulkFail State := do
  let s ← writePage s b page (slot * k.vec) key
  writePage s b page (k.half + slot * k.vec) val

/-- The limit of a format: 127 for INT8, 9.859375 for DK8. -/
def kvLim (k : KvBits) : Ex := if k.elem = 1 then .fin false 127 1 else .fin false 631 64

/-- The least power of two, from 2^−126 up, with m ≤ lim × 2^e. -/
def leastScale (lim m : Ex) : BitVec 32 :=
  let e := ((List.range 256).find? fun (i : Nat) => !((scale2 lim ((i : Int) - 126)).lt m)).getD 0
  BitVec.ofNat 32 ((e + 1) * 2 ^ 23)

/-- The scale that the first token of an empty page gives: the least power of two that is enough. -/
def firstScale (k : KvBits) (m : Ex) : BitVec 32 := leastScale (kvLim k) m

/-- The least k ≥ 1 that is enough. -/
def rescaleBy (k : KvBits) (m : Ex) : Nat :=
  (((List.range 400).map (· + 1)).find? fun (i : Nat) => !((scale2 ((kvLim k).mul (ofFp32 k.scale)) i).lt m)).getD 0

/-- The old elements of a page under a new scale, vector after vector. -/
def recode (k : KvBits) (ns : BitVec 32) (bs : List Byte) : List Byte :=
  bs.map fun b => BitVec.ofNat 8 (kvEnc k ns (k.value b.toNat))

/-- The rescaling case of KVAPP. -/
def kvRescale (s : State) (o : OpRun) (x : Xl) (k : KvBits) (p : Nat) (toks : List Ex) (m : Ex) :
    Except BulkFail State := do
  let ns := toFp32 (scale2 (ofFp32 k.scale) (rescaleBy k m))
  if 0x7F800000 ≤ ns.toNat then .error (.fault .format, o.v .ra)
  let pool := o.v .rc
  let d ← poolAt s o.b pool
  pageThere d
  recordRoom d 1
  let n := kvCount k.bitmap
  let (s, keys) ← readPage s o.b k.page 0 (n * k.vec)
  let (s, vals) ← readPage s o.b k.page k.half (n * k.vec)
  let (s, page) ← takePage s o.b pool
  let s ← writePage s o.b page 0 (recode k ns keys)
  let s ← writePage s o.b page k.half (recode k ns vals)
  let enc := toks.map (kvEnc k ns)
  let s ← writeSlot s o.b k page (posSlot k.bitmap p) (vecBytes k (enc.take k.dim)) (vecBytes k (enc.drop k.dim))
  swapVersion s o.b pool x k page (k.bitmap ||| 2 ^ p) ns

def kvAppend (s : State) (x : EngOp) (o : OpRun) : Except BulkFail State := do
  let ea := o.v .ra
  let p := (o.v .rb).toNat % 64
  let (l, k) ← kvEntry s o.b ea .atomic
  if k.state != 0 || k.fid != 0 || k.bitmap / 2 ^ (p + 1) != 0 then .error (.fault .perm, ea)
  let (s, toks) ← readToken s x o k.dim
  if !toks.all isFinite then .error (.fault .format, ea)
  let inPlace := fun (s : State) (k : KvBits) => do
    let enc := toks.map (kvEnc k k.scale)
    let s ← writeSlot s o.b k k.page (posSlot k.bitmap p) (vecBytes k (enc.take k.dim)) (vecBytes k (enc.drop k.dim))
    Except.ok (metaWrite s o.b l 8 (leBytes 8 (k.bitmap ||| 2 ^ p) ++ leBytes 4 k.scale.toNat))
  if k.elem = 0 then inPlace s k
  else
    let fresh := k.bitmap == 0 && k.scale == 0
    if !fresh && (k.scale == 0 || 0x7F800000 ≤ k.scale.toNat) then .error (.fault .format, ea)
    let m := toks.foldl (fun a y => if a.lt y.abs then y.abs else a) (.zero false)
    let k := if fresh then { k with scale := firstScale k m } else k
    if ((kvLim k).mul (ofFp32 k.scale)).lt m then kvRescale s o l k p toks m else inPlace s k

def runKvapp (x : EngOp) (o : OpRun) (s : State) : RunOut := .after s (kvAppend s x o) .done

/-! ### KVGET (R216) -/

/-- Lines of one vector in an output format. -/
def outLines (fmt d : Nat) : Nat := max 1 (d * elemBytes fmt / 256)

def execKvget (x : EngOp) (s : State) : Result :=
  enginePush (.kvget x) x (fun s =>
    kvLine s x.ra false ++ linesPart x.ln.toNat (if x.h.fmt = 1 then 257 else 129) true ++ syncPart s x.rw) s

/-- A reader's request for a remote page, or nothing where the entry is local (R216, R222). -/
def fetchRemote (s : State) (o : OpRun) (h : HeldEntry) : Except BulkFail State :=
  if h.kv.state = 2 then sendRequest s o h.block h.kv.home reqFetch h.kv.fid [] else .ok s

/-- KVGET makes its translation when it starts. -/
def prepareKvget (s : State) (o : OpRun) : Except BulkFail State := do
  let (s, h) ← translateEntry s o.b (o.v .ra) 0
  let s ← fetchRemote s o h
  .ok (setHeld s o [h])

/-- Bytes that the spec leaves open. [DEDUCED, log 67] -/
def freeBytes (s : State) (n : Nat) : List Byte :=
  (List.range n).map fun i => (Config.freeWord s.fresh i).setWidth 8

/-- The page of a held entry: read here, or the home's reply; a retired entry has none.
[DEDUCED, log 67] -/
def heldPage (s : State) (o : OpRun) (h : HeldEntry) : Except BulkFail (State × List Byte) :=
  if h.kv.state = 2 then
    match replyTo o h.block with
    | some (.page bs) => .ok (s, bs)
    | some _ => .error (.fault .perm, o.v .ra)
    | none => .error (.wait, 0)
  else if h.kv.state = 3 then .ok ({ s with fresh := s.fresh + 1 }, freeBytes s (2 * h.kv.half))
  else readPage s o.b h.kv.page 0 (2 * h.kv.half)

/-- The element bits of a position's vector: key or value half. -/
def posElems (k : KvBits) (page : List Byte) (p : Nat) (value : Bool) : List Nat :=
  let base := (if value then k.half else 0) + posSlot k.bitmap p * k.vec
  (List.range k.dim).map fun i => ofLe (slice page (base + i * k.width) k.width)

/-- The output of one position's vector, padded to whole lines. -/
def posOut (k : KvBits) (fmt : Nat) (page : List Byte) (value : Bool) (p : Nat) : List Byte :=
  let n := 256 * outLines fmt k.dim
  let f := if fmt = 1 then fp32Fmt else bf16Fmt
  if k.bitmap / 2 ^ p % 2 = 0 then List.replicate n 0
  else
    let bs := (posElems k page p value).flatMap fun e => leBytes (elemBytes fmt) (f.round 0 false (k.value e))
    (bs ++ List.replicate n 0).take n

/-- What KVGET writes after line LN. [DEDUCED, log 67] -/
def kvgetBytes (k : KvBits) (fmt : Nat) (page : List Byte) : List Byte :=
  if fmt = 15 then page.take (2 * k.half)
  else (List.range 64).flatMap (posOut k fmt page false) ++ (List.range 64).flatMap (posOut k fmt page true)

/-- [DEDUCED, log 67] -/
def runKvget (x : EngOp) (o : OpRun) (s : State) : RunOut :=
  match o.e.held with
  | some [h] =>
    .after s (heldPage s o h) fun pg =>
    .after s (namedSync pg.1 o x.rw) fun c =>
      let bs := h.kv.bytes ++ List.replicate 224 0 ++ kvgetBytes h.kv x.h.fmt.toNat pg.2
      .written (writeOff ⟨c.1, none⟩ o (256 * x.ln.toNat) bs) (syncDone o c.2 bs.length)
  | _ => .wait none

/-! ### KVEVT (R217) -/

def execKvevt (x : EngOp) (s : State) : Result :=
  enginePush (.kvevt x) x (fun s => kvLine s x.ra true ++ poolPart s x.rc) s

/-- One half of the page with the slots that stay, in compacted order. -/
def compact (k : KvBits) (left : Nat) (bs : List Byte) : List Byte :=
  (List.range 64).flatMap fun p =>
    if left / 2 ^ p % 2 = 1 then slice bs (posSlot k.bitmap p * k.vec) k.vec else []

/-- [DEDUCED, log 68] -/
def kvEvict (s : State) (o : OpRun) : Except BulkFail State := do
  let ea := o.v .ra
  let (l, k) ← kvEntry s o.b ea .atomic
  if k.state != 0 || k.fid != 0 then .error (.fault .perm, ea)
  let left := k.bitmap &&& (2 ^ 64 - 1 - (o.v .rb).toNat)
  if left = k.bitmap then .ok s
  else
    let pool := o.v .rc
    let d ← poolAt s o.b pool
    pageThere d
    recordRoom d 1
    let n := kvCount k.bitmap
    let (s, keys) ← readPage s o.b k.page 0 (n * k.vec)
    let (s, vals) ← readPage s o.b k.page k.half (n * k.vec)
    let (s, page) ← takePage s o.b pool
    let s ← writePage s o.b page 0 (compact k left keys)
    let s ← writePage s o.b page k.half (compact k left vals)
    swapVersion s o.b pool l k page left k.scale

/-- [DEDUCED, log 68] -/
def runKvevt (o : OpRun) (s : State) : RunOut := .after s (kvEvict s o) .done

/-! ### The prefix directory (R219–R222) -/

/-- The record of a prefix id under a fabric id. -/
def findPrefix (s : State) (fabric id : Word) : Option PrefixRecord :=
  s.fabric.directory.find? fun r => r.fabric == fabric && r.id == id

/-- A directory gains a record (R220). -/
def addPrefix (s : State) (r : PrefixRecord) : Except BulkFail State :=
  if 65536 ≤ s.fabric.directory.length then .error (.fault .version, 0)
  else .ok { s with fabric := { s.fabric with directory := s.fabric.directory ++ [r] } }

/-- The record that an entry is published as. [DEDUCED, log 69] -/
def prefixRecord (fabric : Word) (k : KvBits) (page part : Nat) (pasid : Option Nat) : PrefixRecord :=
  { fabric := fabric, id := k.fid, page := page, elem := k.elem, hdim := k.hdim, scale := k.scale,
    version := BitVec.ofNat 16 k.version, bitmap := BitVec.ofNat 64 k.bitmap, readers := 0, part := part,
    pasid := pasid }

/-- The entry a lookup gives (R221), for a requester at this chip or at another. -/
def lookupEntry (s : State) (fabric id : Word) (here : Bool) : KvBits :=
  match findPrefix s fabric id with
  | some r => ⟨r.page, ownChip s, if here then 0 else 2, r.elem, r.hdim, r.bitmap.toNat, r.scale, r.version.toNat, 0, id⟩
  | none => ⟨0, 0, 3, 0, 0, 0, 0, 0, 0, id⟩

def execDirpub (x : EngOp) (s : State) : Result := enginePush (.dirpub x) x (fun s => kvLine s x.ra false) s
def execDirlk (x : EngOp) (s : State) : Result := enginePush (.dirlk x) x (fun s => kvLine s x.rb true) s
def execKvfet (x : EngOp) (s : State) : Result :=
  enginePush (.kvfet x) x (fun s => kvLine s x.ra false ++ kvLine s x.rb true ++ poolPart s x.rc) s

/-- LINK where the chip list is empty (R219). -/
def chipsThere (s : State) : Except BulkFail Unit :=
  if chipCount s = 0 then .error (.fault .link, 0) else .ok ()

/-- The entry that DIRPUB publishes. -/
def pubEntry (s : State) (o : OpRun) : Except BulkFail KvBits := do
  chipsThere s
  let (_, k) ← kvEntry s o.b (o.v .ra) .read
  if k.state != 0 || k.fid == 0 then .error (.fault .perm, o.v .ra)
  .ok k

/-- DIRPUB sends its page to a home on another chip when it starts. -/
def prepareDirpub (s : State) (o : OpRun) : Except BulkFail State := do
  let k ← pubEntry s o
  if homeOf s k.fid = ownChip s then .ok (setHeld s o [])
  else
    let (s, bs) ← readPage s o.b k.page 0 (2 * k.half)
    let s ← sendRequest s o 0 (homeOf s k.fid) reqPub k.fid (k.bytes ++ bs)
    .ok (setHeld s o [])

def publishPrefix (s : State) (o : OpRun) : Except BulkFail State := do
  let k ← pubEntry s o
  if homeOf s k.fid = ownChip s then
    match findPrefix s (fabricOf s o.e.ids.part) k.fid with
    | some _ => .ok s
    | none => addPrefix s (prefixRecord (fabricOf s o.e.ids.part) k k.page o.e.ids.part (some o.e.ids.pasid))
  else
    match replyTo o 0 with
    | some .done => .ok s
    | some _ => .error (.fault .version, 0)
    | none => .error (.wait, 0)

def runDirpub (o : OpRun) (s : State) : RunOut := .after s (publishPrefix s o) .done

/-- DIRLK asks a home on another chip when it starts. -/
def prepareDirlk (s : State) (o : OpRun) : Except BulkFail State := do
  chipsThere s
  let id := o.v .ra
  let s ← if homeOf s id = ownChip s then .ok s else sendRequest s o 0 (homeOf s id) reqLookup id []
  .ok (setHeld s o [])

/-- The 32 bytes that a lookup returns. [DEDUCED, log 69] -/
def lookedUp (s : State) (o : OpRun) : Except BulkFail (List Byte) := do
  chipsThere s
  let id := o.v .ra
  if homeOf s id = ownChip s then .ok (lookupEntry s (fabricOf s o.e.ids.part) id true).bytes
  else
    match replyTo o 0 with
    | some (.entry bs) => .ok (((bs ++ List.replicate 32 0).take 32))
    | some _ => .ok (KvBits.bytes ⟨0, 0, 3, 0, 0, 0, 0, 0, 0, id⟩)
    | none => .error (.wait, 0)

def runDirlk (o : OpRun) (s : State) : RunOut :=
  .after s (metaAt s o.b (o.v .rb) 32 .write) fun x =>
  .after s (lookedUp s o) fun bs => .done (metaWrite s o.b x 0 bs)

/-- KVFET translates its source at the home when it starts (R222). -/
def prepareKvfet (s : State) (o : OpRun) : Except BulkFail State := do
  chipsThere s
  let (x, k) ← kvEntry s o.b (o.v .ra) .read
  if k.state != 2 then .error (.fault .perm, o.v .ra)
  let h : HeldEntry := ⟨0, x.pa, BitVec.ofNat 256 (ofLe k.bytes)⟩
  let s ← fetchRemote s o h
  .ok (setHeld s o [h])

/-- [DEDUCED, log 69] -/
def kvFetch (s : State) (o : OpRun) (h : HeldEntry) : Except BulkFail State := do
  let (s, bs) ← heldPage s o h
  let x ← metaAt s o.b (o.v .rb) 32 .write
  let (s, page) ← takePage s o.b (o.v .rc)
  let s ← writePage s o.b page 0 bs
  .ok (metaWrite s o.b x 0 { h.kv with page := page, state := 1, readers := 0 }.bytes)

def runKvfet (o : OpRun) (s : State) : RunOut :=
  match o.e.held with
  | some [h] => .after s (kvFetch s o h) .done
  | _ => .wait none

end Sys2Proof.Machine
end

