-- ==== Sys2Proof/Machine/Matrix.lean ====
section
/-! DEFINITION. The matrix engine (R311–R335): operands in scratchpad, the checks of a push, and the push and the
run of MMA, MMI, ATTN, ACCZ, ACCRD, ACCWR, DRNQ, MTRN, QNT, DQNT and RQNT. -/

namespace Sys2Proof.Machine

/-! ### Operands and the checks at the push (R311, R312, R315) -/

/-- Where the lines of an operand must lie (R312). -/
inductive BankRule where
  | group0 | group1 | oneGroup
  deriving DecidableEq, Repr

/-- An operand in scratchpad: first line, stride, rows, lines of each row, placement, whether it is written.
A group of consecutive lines has stride 1. -/
structure Operand where
  line : Nat
  stride : Nat
  rows : Nat
  per : Nat
  rule : BankRule
  write : Bool
  deriving DecidableEq, Repr

/-- Its lines, row after row (R311). [DEDUCED, log 115] -/
def Operand.lines (x : Operand) : List Nat :=
  (List.range x.rows).flatMap fun i => (List.range x.per).map fun c => x.line + i * x.stride + c

def Operand.parts (x : Operand) : List FootPart :=
  (List.range x.rows).map fun i => .spad (x.line + i * x.stride) (x.line + i * x.stride + x.per - 1) x.write

def inGroup0 (l : Nat) : Bool := l < 0x800

/-- Whether a line is where the operand's rule asks it to be. -/
def Operand.placed (x : Operand) (l : Nat) : Bool :=
  match x.rule with
  | .group0 => inGroup0 l
  | .group1 => !inGroup0 l
  | .oneGroup => inGroup0 l == inGroup0 x.line

/-- A job offset of a line. -/
def lineOff (l : Nat) : Word := BitVec.ofNat 64 (256 * l)

/-- Trap with the first of the lines that fails a check. [DEDUCED, log 115] -/
def checkLines (ls : List Nat) (ok : Nat → Bool) (c : Cause) : Exec Unit :=
  match ls.find? fun l => !ok l with
  | some l => .error (.trap c (lineOff l) 0)
  | none => .ok ()

/-- Checks 1 to 4 of R315. [DEDUCED, log 115] -/
def operandChecks (s : State) (xs : List Operand) : Exec Unit := do
  let a := agentOf s s.cur
  match xs.find? fun x => x.stride % 2 == 0 with
  | some x => .error (.trap .bankConflict (lineOff x.line) 0)
  | none => .ok ()
  match xs.findSome? fun x => x.lines.find? fun l => !x.placed l with
  | some l => .error (.trap .bankGroup (lineOff l) 0)
  | none => .ok ()
  checkLines (xs.flatMap Operand.lines) (fun l => (a.spad (256 * l) 256).isSome) .perm
  checkLines ((xs.filter Operand.write).flatMap Operand.lines) (fun l => !inSealed a (256 * l) 256) .sealedRange

/-- The pushed kind of an accumulator of the executing job (R316). [DEDUCED, log 74] -/
def pushedInt (s : State) (a : Nat) : Bool := ((curJob s).accs.getD a .start).pushedInt

/-- Check 5 of R315 on the kind of ACC. [DEDUCED, log 74] -/
def kindCheck (s : State) (m : MatOp) (int : Bool) : Exec Unit :=
  check (pushedInt s m.acc.toNat == int) .format (BitVec.ofNat 64 m.acc.toNat)

/-- The push of an instruction of this chapter: its operands, its own part of check 5, the rest of its
footprint. -/
def matPush (i : Instr) (m : MatOp) (xs : List Operand) (check5 : State → Exec Unit)
    (rest : State → List FootPart) (kind1 : State → Bool) (after : State → State) (s : State) : Result :=
  push { i := i, head := m.h, strms := [.c], kind1 := kind1, after := after,
         checks := fun s => do
           operandChecks s xs
           check5 s
           .ok (xs.flatMap Operand.parts ++ rest s) } s

/-- A strided operand with one line per row. -/
def rowsAt (l : BitVec 12) (st : BitVec 12) (rows : BitVec 7) (write : Bool) : Operand :=
  ⟨l.toNat, st.toNat, rows.toNat, 1, .oneGroup, write⟩

/-- A group of consecutive lines. -/
def groupAt (l : BitVec 12) (n : Nat) (write : Bool) : Operand := ⟨l.toNat, 1, n, 1, .oneGroup, write⟩

/-- Lines of a row of K elements of the two factors. -/
def kLines (m : MatOp) (w : Nat) : Nat := (32 * m.kb.toNat * w + 255) / 256

def factorA (m : MatOp) (w : Nat) : Operand := ⟨m.la.toNat, m.sa.toNat, m.m.toNat, kLines m w, .group0, false⟩
def factorB (m : MatOp) (w : Nat) : Operand := ⟨m.lb.toNat, m.sb.toNat, m.n.toNat, kLines m w, .group1, false⟩

/-! ### Reading and writing rows -/

/-- The bytes of each row of a strided operand, `n` of each. -/
def readRows (s : State) (o : OpRun) (line stride rows n : Nat) : Except BulkFail (State × List (List Byte)) :=
  (List.range rows).foldl (fun r i => r.bind fun x =>
    (readOff x.1 o (256 * (line + i * stride)) n).map fun y => (y.1, x.2 ++ [y.2])) (.ok (s, []))

/-- The elements of a row, by width in bytes. -/
def splitElems (w : Nat) (bs : List Byte) : List Nat :=
  (List.range (bs.length / w)).map fun i => ofLe (slice bs (w * i) w)

def joinElems (w : Nat) (l : List Nat) : List Byte := l.flatMap (leBytes w)

/-- Write the first bytes of each row. -/
def matWriteRows (w : Written) (o : OpRun) (line stride : Nat) (rows : List (List Byte)) : Written :=
  rows.zipIdx.foldl (fun w e => writeOff w o (256 * (line + e.2 * stride)) e.1) w

/-! ### Accumulator values (R25, R26) -/

def AccVal.el (v : AccVal) (r c : Nat) : BitVec 32 := v.tile.extractLsb' (32 * (64 * r + c)) 32

/-- Element `r` of a side column. -/
def sideEl (x : RowBits) (r : Nat) : BitVec 32 := x.extractLsb' (32 * r) 32

/-- Words, the first lowest, as one number. -/
def joinWords (l : List (BitVec 32)) : Nat := l.foldr (fun x acc => x.toNat + acc * 2 ^ 32) 0

def tileOf (f : Nat → Nat → BitVec 32) : BitVec 131072 :=
  BitVec.ofNat _ (joinWords ((List.range 4096).map fun i => f (i / 64) (i % 64)))

def sideOf (f : Nat → BitVec 32) : RowBits := BitVec.ofNat _ (joinWords ((List.range 64).map f))

/-- A tile with new elements in rows i < m, columns c < n. [DEDUCED, log 75] -/
def AccVal.withTile (v : AccVal) (m n : Nat) (f : Nat → Nat → BitVec 32) : AccVal :=
  { v with tile := tileOf fun r c => if r < m && c < n then f r c else v.el r c }

/-- New side columns in rows i < m. -/
def AccVal.withSide (v : AccVal) (m : Nat) (fm fs : Nat → BitVec 32) : AccVal :=
  { v with rmax := sideOf fun r => if r < m then fm r else sideEl v.rmax r,
           rsum := sideOf fun r => if r < m then fs r else sideEl v.rsum r }

/-- The accumulator of a job, by the operation that reads it. -/
def accOf (s : State) (o : OpRun) (a : Nat) : Acc :=
  ((residentJob s o.e.ids.jobid).map fun j => j.accs.getD a .start).getD .start

/-- Committed(ACC). -/
def committed (s : State) (o : OpRun) (a : Nat) : AccVal := (accOf s o a).val

/-- The numbers under which R458 counts the elements of an accumulator: the tile's, then the running maxima, then
the running sums. -/
def tileIndex (m n : Nat) : List Nat := (List.range m).flatMap fun r => (List.range n).map fun c => 64 * r + c
def maxIndex (m : Nat) : List Nat := (List.range m).map (4096 + ·)
def sumIndex (m : Nat) : List Nat := (List.range m).map (4160 + ·)

/-- The operation reads these elements: POISON where one is poisoned (R458). [DEDUCED, log 75] -/
def readAcc (s : State) (o : OpRun) (a : Nat) (els : List Nat) : Except BulkFail AccVal :=
  let x := accOf s o a
  if els.any (NatSet.has x.poison) then .error (.fault .poison, 0) else .ok x.val

/-- The result of an accumulator: in the commit buffer while the operation still owns it, else, its commit
point having passed, committed. The written elements are no longer poisoned. [DEDUCED, log 74] -/
def setAcc (s : State) (o : OpRun) (a : Nat) (els : List Nat) (v : AccVal) : State :=
  modJobId s o.e.ids.jobid fun j =>
    { j with accs := Vector.ofFn fun i : Fin 8 =>
        let x := j.accs[i]
        if i.val = a then
          let x := { x with poison := x.poison.filter fun n => !els.contains n }
          if x.owner = some (o.slot, o.e.seq) then { x with buffer := some v } else { x with val := v }
        else x }

/-! ### Products (R319, R320) -/

def execMma (m : MatOp) (s : State) : Result :=
  let w := elemBytes m.h.fmt.toNat
  matPush (.mma m) m [factorA m w, factorB m w]
    (fun s => do
      kindCheck s m false
      check (m.h.fmt != 7 || (gainUsable ((rd s m.ra).setWidth 32) && gainUsable ((rd s m.ra >>> 32).setWidth 32)))
        .format)
    (fun _ => [.acc m.acc.toNat true]) (fun _ => false) id s

def execMmi (m : MatOp) (s : State) : Result :=
  matPush (.mmi m) m [factorA m 1, factorB m 1] (fun s => kindCheck s m true)
    (fun _ => [.acc m.acc.toNat true]) (fun _ => false) id s

/-- An element of a factor of MMA; `g` is its DK8 scale. -/
def factorElem (fmt : Nat) (g : BitVec 32) (e : Nat) : Ex :=
  match floatFmt fmt with
  | some f => f.value e
  | none => r32 ((dk8Value e).mul (ofFp32 g))

/-- MmaElement without its last addition. -/
def dotRoot (a b : List Ex) : Ex := kRoot (List.zipWith Ex.mul a b)

def runMma (m : MatOp) (o : OpRun) (s : State) : RunOut :=
  let fmt := m.h.fmt.toNat
  let w := elemBytes fmt
  let k := 32 * m.kb.toNat
  let acc := m.acc.toNat
  let mm := m.m.toNat
  let nn := m.n.toNat
  .after s (readRows s o m.la.toNat m.sa.toNat mm (k * w)) fun a =>
  .after s (readRows a.1 o m.lb.toNat m.sb.toNat nn (k * w)) fun b =>
  .after s (readAcc b.1 o acc (tileIndex mm nn)) fun v =>
    let as := a.2.map fun r => (splitElems w r).map (factorElem fmt ((o.v .ra).setWidth 32))
    let bs := b.2.map fun r => (splitElems w r).map (factorElem fmt ((o.v .ra >>> 32).setWidth 32))
    .done (setAcc b.1 o acc (tileIndex mm nn) (v.withTile mm nn fun i n =>
      toFp32 ((ofFp32 (v.el i n)).add false (dotRoot (as.getD i []) (bs.getD n [])))))

/-- A byte as the integer it stands for. -/
def byteInt (signed : Bool) (e : Nat) : Int := if signed then intValue 5 e else e

def intDot (a b : List Int) : Int := (List.zipWith (· * ·) a b).foldl (· + ·) 0

def runMmi (m : MatOp) (o : OpRun) (s : State) : RunOut :=
  let k := 32 * m.kb.toNat
  let acc := m.acc.toNat
  let mm := m.m.toNat
  let nn := m.n.toNat
  .after s (readRows s o m.la.toNat m.sa.toNat mm k) fun a =>
  .after s (readRows a.1 o m.lb.toNat m.sb.toNat nn k) fun b =>
  .after s (readAcc b.1 o acc (tileIndex mm nn)) fun v =>
    let as := a.2.map fun r => (splitElems 1 r).map (byteInt (m.h.fmt.getLsbD 0))
    let bs := b.2.map fun r => (splitElems 1 r).map (byteInt (m.h.fmt.getLsbD 1))
    .done (setAcc b.1 o acc (tileIndex mm nn) (v.withTile mm nn fun i n =>
      BitVec.ofNat 32 (intResult 4 (m.h.fmt.getLsbD 2)
        ((v.el i n).toInt + intDot (as.getD i []) (bs.getD n [])))))

/-! ### Attention (R321–R325) -/

/-- The accumulators an ATTN names (R316, R325). -/
def attnAccs (m : MatOp) : List Nat := if m.acc.toNat = 7 then [7] else [m.acc.toNat, m.acc.toNat + 1]

/-- [DEDUCED, log 73] -/
def execAttn (m : MatOp) (s : State) : Result :=
  matPush (.attn m) m [⟨m.la.toNat, m.sa.toNat, m.m.toNat, 1, .group0, false⟩]
    (fun s => kindCheck s m false)
    (fun s => rangeParts (viewedJob s) (rd s m.ra) (16 * ((rd s m.rb).toNat % 2 ^ 32)) false
      ++ (attnAccs m).map fun a => .acc a true)
    (fun s => m.acc.toNat != 7 && pushedInt s (m.acc.toNat + 1)) id s

/-- What an ATTN asks of one item: d, M, sc, b_r, and S(RD) where it is CAUSAL. -/
structure AttnAsk where
  d : Nat
  m : Nat
  sc : BitVec 32
  block : Nat
  causal : Option Word
  deriving DecidableEq, Repr

/-- Position `p` survives for query row `i` (R321). -/
def survives (k : KvBits) (q : AttnAsk) (i p : Nat) : Bool :=
  k.bitmap / 2 ^ p % 2 == 1 && (match q.causal with
    | none => true
    | some lim => 64 * q.block + p ≤ lim.toNat + i)

/-- A partial of one row: m_b, l_b, O_b; −∞, +0 and nothing where no key survives. -/
abbrev Partial := BitVec 32 × BitVec 32 × List (BitVec 32)

def negInf : BitVec 32 := 0xFF800000

/-- A group of products of O_b, absent where no key of it survives. -/
def weightGroup (l : List (Option Ex)) : Option Ex :=
  match l.filterMap id with
  | [] => none
  | ps => some (r32 (exactSum ps))

/-- Partial of R322 for row `i` with query `qs`; `keys` and `vals` are the vectors of the slots. -/
def partialRow (k : KvBits) (q : AttnAsk) (keys vals : List (List Ex)) (i : Nat) (qs : List Ex) : Partial :=
  let vec := fun (l : List (List Ex)) p => l.getD (posSlot k.bitmap p) []
  let scores := (List.range 64).map fun p =>
    if survives k q i p then some (r32 ((ofFp32 q.sc).mul (dotRoot qs (vec keys p)))) else none
  match scores.filterMap id with
  | [] => (negInf, 0, [])
  | x :: xs =>
    let mb := xs.foldl Ex.max x
    let ps := scores.map fun sc => sc.map fun y => r32 (exp2 (r32 (y.add false mb.neg)))
    let weights := ps.map fun p => p.map fun y => bf16Fmt.value (bf16Fmt.round 0 false y)
    let o := (List.range q.d).map fun c =>
      let prods := weights.zipIdx.map fun e => e.1.map fun w => w.mul ((vec vals e.2).getD c (.zero false))
      toFp32 (plumbSum32 [weightGroup (prods.take 32), weightGroup (prods.drop 32)])
    (toFp32 mb, toFp32 (plumbSum32 ps), o)

/-- The vectors of the slots, as exact FP32 values (R211, R322). -/
def slotVecs (k : KvBits) (bs : List Byte) : List (List Ex) :=
  (List.range (kvCount k.bitmap)).map fun i =>
    (splitElems k.width (slice bs (i * k.vec) k.vec)).map fun e => r32 (k.value e)

/-- The query rows as exact values. -/
def queryVals (rows : List (List Byte)) : List (List Ex) := rows.map fun r => (splitElems 2 r).map bf16Fmt.value

/-- The partials of a block, from its translation alone. -/
def blockPartials (s : State) (b : Bulk) (k : KvBits) (q : AttnAsk) (rows : List (List Byte)) :
    Except BulkFail (State × List Partial) :=
  if k.bitmap = 0 then .ok (s, List.replicate q.m (negInf, 0, []))
  else do
    let n := kvCount k.bitmap * k.vec
    let (s, ks) ← readPage s b k.page 0 n
    let (s, vs) ← readPage s b k.page k.half n
    let keys := slotVecs k ks
    let vals := slotVecs k vs
    .ok (s, (queryVals rows).zipIdx.map fun e => partialRow k q keys vals e.2 e.1)

/-- The running state of one row: m, l, O. -/
structure AttnRow where
  m : BitVec 32
  l : BitVec 32
  o : List (BitVec 32)
  deriving DecidableEq, Repr

/-- RoundTo(FP32, RoundTo(FP32, x × α, RNE) + RoundTo(FP32, y × β, RNE), RNE). -/
def blend (α β : Ex) (x y : BitVec 32) : BitVec 32 :=
  toFp32 ((r32 ((ofFp32 x).mul α)).add false (r32 ((ofFp32 y).mul β)))

/-- The merge of R323. -/
def mergeAttn (r : AttnRow) (p : Partial) : AttnRow :=
  if p.1 = negInf then r
  else if r.m = negInf then ⟨p.1, p.2.1, p.2.2⟩
  else
    let m' := Ex.max (ofFp32 r.m) (ofFp32 p.1)
    let α := r32 (exp2 (r32 ((ofFp32 r.m).add false m'.neg)))
    let β := r32 (exp2 (r32 ((ofFp32 p.1).add false m'.neg)))
    ⟨toFp32 m', blend α β r.l p.2.1, List.zipWith (blend α β) r.o p.2.2⟩

/-- Item `r` of the list: entry address and logical block number. [DEDUCED, log 73] -/
def readItem (s : State) (o : OpRun) (r : Nat) : Except BulkFail (State × Word × Nat) := do
  let va := o.v .ra + BitVec.ofNat 64 (16 * r)
  match cellAt s o.b.ag .wb .read va 16 with
  | .error e => .error (e, va)
  | .ok _ => .ok ()
  let (s, bs) ← readRange s o.b va 16
  if ofLe (slice bs 12 4) = 0 then .ok (s, BitVec.ofNat 64 (ofLe (bs.take 8)), ofLe (slice bs 8 4))
  else .error (.fault .format, va)

/-- Every block of an ATTN has the same HDIM (R321). [DEDUCED, log 117] -/
def sameDim (k : KvBits) (first : Option Nat) : Bool :=
  match first with | some d => d == k.dim | none => true

/-- The second accumulator of an ATTN over blocks of d = 128 (R321). [DEDUCED, log 117] -/
def pairOk (m : MatOp) (o : OpRun) (k : KvBits) : Bool := k.dim != 128 || (m.acc.toNat != 7 && !o.e.kind1)

/-- What is asked of an item. -/
def askOf (m : MatOp) (o : OpRun) (d block : Nat) : AttnAsk :=
  ⟨d, m.m.toNat, (o.v .rc).setWidth 32, block, if m.causal then some (o.v .rd) else none⟩

/-- The payload of an ATTEND request. [DEDUCED, log 69] -/
def askBytes (q : AttnAsk) (rows : List (List Byte)) : List Byte :=
  leBytes 4 q.d ++ leBytes 4 q.m ++ leBytes 4 q.sc.toNat ++ leBytes 4 q.block
    ++ leBytes 8 (b2n q.causal.isSome) ++ leBytes 8 (q.causal.getD 0).toNat ++ rows.flatten

/-- Translate the items from the `r`-th on, asking the homes of remote ones. [DEDUCED, log 73] -/
def attnItems (m : MatOp) (o : OpRun) (s : State) (hs : List HeldEntry) :
    Nat → Nat → Except BulkFail (State × List HeldEntry)
  | 0, _ => .ok (s, hs)
  | n + 1, r => do
    let va := o.v .ra + BitVec.ofNat 64 (16 * r)
    let (s, entry, block) ← readItem s o r
    if hs.any fun h => block ≤ h.block then .error (.fault .perm, va)
    let (s, h) ← translateEntry s o.b entry block
    if !sameDim h.kv ((hs.head?).map fun h => h.kv.dim) then .error (.fault .format, entry)
    if !pairOk m o h.kv then .error (.fault .format, 0)
    let s ← if h.kv.state = 2 then do
        let (s, rows) ← readRows s o m.la.toNat m.sa.toNat m.m.toNat (2 * h.kv.dim)
        sendRequest s o block h.kv.home reqAttend h.kv.fid (askBytes (askOf m o h.kv.dim block) rows)
      else .ok s
    attnItems m o s (hs ++ [h]) n (r + 1)

/-- ATTN makes its translations when it starts. -/
def prepareAttn (m : MatOp) (s : State) (o : OpRun) : Except BulkFail State := do
  let n := o.w32 .rb
  if n = 0 then .ok (setHeld s o [])
  else
    if (o.v .ra).toNat % 16 != 0 then .error (.fault .align, o.v .ra)
    let (s, hs) ← attnItems m o s [] n 0
    .ok (setHeld s o hs)

/-- The partials of one item: formed here, or by its home (R324). -/
def itemPartials (m : MatOp) (o : OpRun) (s : State) (h : HeldEntry) (rows : List (List Byte)) :
    Except BulkFail (State × List Partial) :=
  if h.kv.state = 2 then
    match replyTo o h.block with
    | some (.partials ps) => .ok (s, ps)
    | some _ => .error (.fault .perm, 0)
    | none => .error (.wait, 0)
  else blockPartials s o.b h.kv (askOf m o h.kv.dim h.block) rows

/-- The state of row `i` as the accumulators hold it. -/
def startRow (d : Nat) (v w : AccVal) (i : Nat) : AttnRow :=
  ⟨sideEl v.rmax i, sideEl v.rsum i, (List.range d).map fun c => if c < 64 then v.el i c else w.el i (c - 64)⟩

def attnMerge (m : MatOp) (o : OpRun) (q : List (List Byte)) (r : State × List AttnRow) (h : HeldEntry) :
    Except BulkFail (State × List AttnRow) := do
  let (s, ps) ← itemPartials m o r.1 h q
  .ok (s, r.2.zipIdx.map fun e => mergeAttn e.1 (ps.getD e.2 (negInf, 0, [])))

def runAttn (m : MatOp) (o : OpRun) (s : State) : RunOut :=
  match o.e.held with
  | none => .wait none
  | some [] => .done s
  | some (h :: hs) =>
    let d := h.kv.dim
    let mm := m.m.toNat
    let a := m.acc.toNat
    .after s (readRows s o m.la.toNat m.sa.toNat mm (2 * d)) fun q =>
    .after s (readAcc q.1 o a (tileIndex mm 64 ++ maxIndex mm ++ sumIndex mm)) fun v =>
    .after s (if d = 128 then readAcc q.1 o (a + 1) (tileIndex mm 64) else .ok v) fun w =>
    .after s ((h :: hs).foldl (fun r h => r.bind fun x => attnMerge m o q.2 x h)
        (.ok (q.1, (List.range mm).map (startRow d v w)))) fun r =>
      let row := fun i => r.2.getD i ⟨0, 0, []⟩
      let v' := (v.withTile mm 64 fun i c => (row i).o.getD c 0).withSide mm (fun i => (row i).m) (fun i => (row i).l)
      let s := setAcc r.1 o a (tileIndex mm 64 ++ maxIndex mm ++ sumIndex mm) v'
      .done (if d = 128 then
        setAcc s o (a + 1) (tileIndex mm 64) (w.withTile mm 64 fun i c => (row i).o.getD (64 + c) 0) else s)

/-! ### Moving accumulators (R326–R328) -/

def execAccz (m : MatOp) (s : State) : Result :=
  matPush (.accz m) m [] (fun _ => .ok ()) (fun _ => [.acc m.acc.toNat true]) (fun _ => false)
    (fun s => modCurJob s fun j =>
      { j with accs := Vector.ofFn fun i : Fin 8 =>
          if i.val = m.acc.toNat then { j.accs[i] with pushedInt := m.h.fmt == 4 } else j.accs[i] }) s

def runAccz (m : MatOp) (o : OpRun) (s : State) : RunOut :=
  .done (setAcc s o m.acc.toNat (tileIndex 64 64 ++ maxIndex 64 ++ sumIndex 64)
    { AccVal.start with isInt := m.h.fmt == 4 })

/-- The side columns' lines. -/
def sideGroup (m : MatOp) (write : Bool) : List Operand := if m.side then [groupAt m.lc 2 write] else []

def execAccrd (m : MatOp) (s : State) : Result :=
  matPush (.accrd m) m (rowsAt m.la m.sa m.m true :: sideGroup m true)
    (fun s => if m.norm then kindCheck s m false else .ok ())
    (fun _ => [.acc m.acc.toNat false]) (fun _ => false) id s

/-- The exact value of an accumulator element. -/
def AccVal.value (v : AccVal) (r c : Nat) : Ex :=
  if v.isInt then .ofInt (v.el r c).toInt else ofFp32 (v.el r c)

/-- The rounding mode of ACCRD. -/
def accMode (m : MatOp) (o : OpRun) : Nat := if m.rnd = 7 then bitsOf o.e.ctl 0 3 else m.rnd.toNat

def runAccrd (m : MatOp) (o : OpRun) (s : State) : RunOut :=
  let mm := m.m.toNat
  let nn := m.n.toNat
  let fmt := m.h.fmt.toNat
  let sums := if m.norm || m.side then sumIndex mm else []
  let maxs := if m.side then maxIndex mm else []
  .after s (readAcc s o m.acc.toNat (tileIndex mm nn ++ maxs ++ sums)) fun v =>
    let rows := (List.range mm).map fun i => joinElems (elemBytes fmt) ((List.range nn).map fun c =>
      let x := if m.norm then (v.value i c).div (ofFp32 (sideEl v.rsum i)) else v.value i c
      encodeElem fmt fp32One (accMode m o) m.sat false x)
    let w := matWriteRows ⟨s, none⟩ o m.la.toNat m.sa.toNat rows
    let side := fun (x : RowBits) => joinElems 4 ((List.range mm).map fun i => (sideEl x i).toNat)
    .written (if m.side then writeOff (writeOff w o (256 * m.lc.toNat) (side v.rmax)) o (256 * (m.lc.toNat + 1)) (side v.rsum)
      else w) id

def execAccwr (m : MatOp) (s : State) : Result :=
  matPush (.accwr m) m (rowsAt m.la m.sa m.m false :: sideGroup m false)
    (fun s => kindCheck s m (4 ≤ m.h.fmt.toNat)) (fun _ => [.acc m.acc.toNat true]) (fun _ => false) id s

/-- An element loaded into an accumulator (R328). -/
def loadElem (fmt e : Nat) : BitVec 32 :=
  match floatFmt fmt with
  | some f => toFp32 (f.value e)
  | none => BitVec.ofInt 32 (intValue fmt e)

/-- The side columns that ACCWR loads. -/
def readSide (s : State) (m : MatOp) (o : OpRun) (k : Nat) : Except BulkFail (State × List Nat) :=
  (readOff s o (256 * (m.lc.toNat + k)) (4 * m.m.toNat)).map fun x => (x.1, splitElems 4 x.2)

def runAccwr (m : MatOp) (o : OpRun) (s : State) : RunOut :=
  let mm := m.m.toNat
  let nn := m.n.toNat
  let fmt := m.h.fmt.toNat
  let w := elemBytes fmt
  .after s (readRows s o m.la.toNat m.sa.toNat mm (nn * w)) fun r =>
    let v := committed s o m.acc.toNat
    let rows := r.2.map fun x => (splitElems w x).map (loadElem fmt)
    let v := v.withTile mm nn fun i c => (rows.getD i []).getD c 0
    if m.side then
      .after s (readSide r.1 m o 0) fun x =>
      .after s (readSide x.1 m o 1) fun y =>
        .done (setAcc y.1 o m.acc.toNat (tileIndex mm nn ++ maxIndex mm ++ sumIndex mm)
          (v.withSide mm (fun i => BitVec.ofNat 32 (x.2.getD i 0)) (fun i => BitVec.ofNat 32 (y.2.getD i 0))))
    else .done (setAcc r.1 o m.acc.toNat (tileIndex mm nn) v)

/-! ### DRNQ (R329) -/

/-- The clamps of a control word. -/
def drainLo (ctl : Word) : Nat := bitsOf ctl 16 8
def drainHi (ctl : Word) : Nat := bitsOf ctl 24 8
def drainZp (ctl : Word) : Int := ((ctl.setWidth 16 : BitVec 16)).toInt

/-- The control word is one that R329 allows. -/
def drainCtlOk (fmt : Nat) (ctl : Word) : Bool :=
  if fmt = 7 then bitsOf ctl 0 32 == 0 else intValue fmt (drainLo ctl) ≤ intValue fmt (drainHi ctl)

def execDrnq (m : MatOp) (s : State) : Result :=
  matPush (.drnq m) m [rowsAt m.la m.sa m.m true, groupAt m.lb 3 false]
    (fun s => do
      kindCheck s m true
      check (drainCtlOk m.h.fmt.toNat (rd s m.ra)) .format)
    (fun _ => [.acc m.acc.toNat false]) (fun _ => false) id s

/-- The rational i / d. -/
def ratioOf (i : Int) (d : Nat) : Ex := if i = 0 then .zero false else .fin (decide (i < 0)) i.natAbs d

/-- x rounded to an integer, ties to even. -/
def nearestInt (i : Int) (d : Nat) : Int :=
  let m : Int := rounded 0 (decide (i < 0)) (cutOf i.natAbs d)
  if i < 0 then -m else m

/-- Drain of R329. -/
def drain (fmt : Nat) (ctl : Word) (acc bias mul : Int) (shift : Nat) : Nat :=
  let x := (acc + bias) * mul
  let d := 2 ^ (31 + shift)
  if fmt = 7 then dk8Code (ratioOf x d)
  else intBits fmt (max (intValue fmt (drainLo ctl)) (min (intValue fmt (drainHi ctl)) (nearestInt x d + drainZp ctl)))

/-- [DEDUCED, log 76] -/
def runDrnq (m : MatOp) (o : OpRun) (s : State) : RunOut :=
  let mm := m.m.toNat
  let nn := m.n.toNat
  let fmt := m.h.fmt.toNat
  let par := fun k => 256 * (m.lb.toNat + k)
  .after s (readOff s o (par 0) (4 * nn)) fun bias =>
  .after s (readOff bias.1 o (par 1) (4 * nn)) fun mul =>
  .after s (readOff mul.1 o (par 2) nn) fun shift =>
    let sh := splitElems 1 shift.2
    .check s (sh.all (· ≤ 31)) .format (BitVec.ofNat 64 (par 2 + sh.findIdx (31 < ·))) <|
    .after s (readAcc shift.1 o m.acc.toNat (tileIndex mm nn)) fun v =>
      let bs := (splitElems 4 bias.2).map (intValue 4)
      let ms := (splitElems 4 mul.2).map (intValue 4)
      let rows := (List.range mm).map fun i => joinElems 1 ((List.range nn).map fun c =>
        drain fmt (o.v .ra) (v.el i c).toInt (bs.getD c 0) (ms.getD c 0) (sh.getD c 0))
      .written (matWriteRows ⟨shift.1, none⟩ o m.la.toNat m.sa.toNat rows) id

/-! ### MTRN, QNT, DQNT (R330–R332) -/

def execMtrn (m : MatOp) (s : State) : Result :=
  matPush (.mtrn m) m [rowsAt m.la m.sa m.m false, rowsAt m.lb m.sb m.n true] (fun _ => .ok ()) (fun _ => [])
    (fun _ => false) id s

def runMtrn (m : MatOp) (o : OpRun) (s : State) : RunOut :=
  let w := elemBytes m.h.fmt.toNat
  .after s (readRows s o m.la.toNat m.sa.toNat m.m.toNat (m.n.toNat * w)) fun r =>
    .written (matWriteRows ⟨r.1, none⟩ o m.lb.toNat m.sb.toNat
      ((List.range m.n.toNat).map fun j => r.2.flatMap fun row => slice row (j * w) w)) id

def execQnt (m : MatOp) (s : State) : Result :=
  matPush (.qnt m) m [rowsAt m.la m.sa m.m false, rowsAt m.lb m.sb m.m true, groupAt m.lc 1 (!m.scsrc)]
    (fun _ => .ok ()) (fun _ => []) (fun _ => false) id s

/-- lim of R331. -/
def quantLim (fmt : Nat) : Ex :=
  match fmt with
  | 5 => .fin false 127 1
  | 6 => .fin false 255 1
  | _ => .fin false 631 64

def greatestAbs (l : List Ex) : Ex := l.foldl (fun a y => if a.lt y.abs then y.abs else a) (.zero false)

/-- An element encoded from x / s with a single rounding. -/
def quantElem (fmt : Nat) (g : BitVec 32) (x : Ex) : Nat :=
  let y := x.div (ofFp32 g)
  if fmt = 7 then dk8Code y else intBits fmt (roundInt fmt 0 y)

/-- The source rows of QNT as exact values. -/
def quantRows (m : MatOp) (rows : List (List Byte)) : List (List Ex) :=
  let f := if m.srcfmt = 1 then fp32Fmt else bf16Fmt
  rows.map fun r => (splitElems (elemBytes m.srcfmt.toNat) r).map f.value

/-- The given scales of a line. -/
def readScales (s : State) (m : MatOp) (o : OpRun) : Except BulkFail (State × List (BitVec 32)) :=
  (readOff s o (256 * m.lc.toNat) (4 * m.m.toNat)).map fun x => (x.1, (splitElems 4 x.2).map (BitVec.ofNat 32))

def quantWrite (m : MatOp) (o : OpRun) (s : State) (xs : List (List Ex)) (gs : List (BitVec 32)) : Written :=
  matWriteRows ⟨s, none⟩ o m.lb.toNat m.sb.toNat
    ((List.zip xs gs).map fun e => joinElems 1 (e.1.map (quantElem m.h.fmt.toNat e.2)))

/-- The line of the first source element that is no number, of rows of `w` bytes an element at `line`. -/
def badSource (line stride w : Nat) (xs : List (List Ex)) : Nat :=
  let i := xs.findIdx fun l => !l.all isFinite
  line + i * stride + w * (xs.getD i []).findIdx (fun x => !isFinite x) / 256

/-- [DEDUCED, log 76] -/
def runQnt (m : MatOp) (o : OpRun) (s : State) : RunOut :=
  .after s (readRows s o m.la.toNat m.sa.toNat m.m.toNat (m.n.toNat * elemBytes m.srcfmt.toNat)) fun r =>
    let xs := quantRows m r.2
    .check s (xs.all fun l => l.all isFinite) .format
        (lineOff (badSource m.la.toNat m.sa.toNat (elemBytes m.srcfmt.toNat) xs)) <|
    if m.scsrc then
      .after s (readScales r.1 m o) fun g =>
      .check s (g.2.all gainUsable) .format (lineOff m.lc.toNat) <|
      .written (quantWrite m o g.1 xs g.2) id
    else
      let gs := xs.map fun l => leastScale (quantLim m.h.fmt.toNat) (greatestAbs l)
      .written (writeOff (quantWrite m o r.1 xs gs) o (256 * m.lc.toNat) (joinElems 4 (gs.map BitVec.toNat))) id

def execDqnt (m : MatOp) (s : State) : Result :=
  matPush (.dqnt m) m [rowsAt m.la m.sa m.m false, rowsAt m.lb m.sb m.m true, groupAt m.lc 1 false]
    (fun _ => .ok ()) (fun _ => []) (fun _ => false) id s

/-- The exact value of a one-byte element. -/
def byteValue (fmt e : Nat) : Ex := if fmt = 7 then dk8Value e else .ofInt (intValue fmt e)

def runDqnt (m : MatOp) (o : OpRun) (s : State) : RunOut :=
  let fmt := m.h.fmt.toNat
  let f := if fmt = 1 then fp32Fmt else bf16Fmt
  .after s (readRows s o m.la.toNat m.sa.toNat m.m.toNat m.n.toNat) fun r =>
  .after s (readScales r.1 m o) fun g =>
    .written (matWriteRows ⟨g.1, none⟩ o m.lb.toNat m.sb.toNat ((List.zip r.2 g.2).map fun e =>
      joinElems (elemBytes fmt) ((splitElems 1 e.1).map fun x =>
        f.round 0 false ((byteValue m.srcfmt.toNat x).mul (ofFp32 e.2))))) id

/-! ### RQNT (R333) -/

def execRqnt (m : MatOp) (s : State) : Result :=
  matPush (.rqnt m) m [] (fun _ => .ok ()) (fun s => kvLine s m.ra true ++ poolPart s m.rb) (fun _ => false) id s

/-- The ELEM code of a format. -/
def kvElemOf (fmt : Nat) : Nat := match fmt with | 2 => 0 | 5 => 1 | _ => 2

/-- The new page and the swap. [DEDUCED, log 76] -/
def rqntSwap (s : State) (o : OpRun) (x : Xl) (k k' : KvBits) (ns : BitVec 32) (keys vals : List Byte) :
    Except BulkFail State := do
  let pool := o.v .rb
  let p ← poolAt s o.b pool
  pageThere p
  recordRoom p 1
  let enc := fun (bs : List Byte) => vecBytes k' ((splitElems k.width bs).map fun e => kvEnc k' ns (k.value e))
  let (s, page) ← takePage s o.b pool
  let s ← writePage s o.b page 0 (enc keys)
  let s ← writePage s o.b page k'.half (enc vals)
  swapVersion s o.b pool x { k with elem := k'.elem } page k.bitmap ns

def requantise (s : State) (m : MatOp) (o : OpRun) : Except BulkFail State := do
  let ea := o.v .ra
  let (x, k) ← kvEntry s o.b ea .atomic
  if k.state != 0 || k.fid != 0 then .error (.fault .perm, ea)
  let n := kvCount k.bitmap * k.vec
  let (s, keys) ← if n = 0 then .ok (s, []) else readPage s o.b k.page 0 n
  let (s, vals) ← if n = 0 then .ok (s, []) else readPage s o.b k.page k.half n
  let xs := (splitElems k.width (keys ++ vals)).map k.value
  if !xs.all isFinite then .error (.fault .format, ea)
  let k' := { k with elem := kvElemOf m.h.fmt.toNat }
  if k'.elem = 0 then
    if k.elem = 0 then .ok s else rqntSwap s o x k k' fp32One keys vals
  else if k.bitmap = 0 then rqntSwap s o x k k' 0 keys vals
  else
    let ns := firstScale k' (greatestAbs xs)
    if k'.elem = k.elem && ns == k.scale then .ok s else rqntSwap s o x k k' ns keys vals

/-- [DEDUCED, log 76] -/
def runRqnt (m : MatOp) (o : OpRun) (s : State) : RunOut := .after s (requantise s m o) .done

end Sys2Proof.Machine
end

