-- ==== Sys2Proof/Machine/Launch.lean ====
section
/-! DEFINITION. Launch records and their life (R341–R353), the event arbiter and its log (R354, R355), the
order of the dispatcher (R347, R348), the retirement of launches and of frames (R352, R357, R358), and the
interrupts of the queue interfaces (R416–R418). -/

namespace Sys2Proof.Machine

/-! ### Fields (R342, R356) -/

/-- `n` bytes at byte `off` of a table of 64-bit words. No field spans two words. -/
def fieldOf {k : Nat} (w : Vector Word k) (off n : Nat) : Nat :=
  bitsOf (w.getD (off / 8) 0) (8 * (off % 8)) (8 * n)

def setField {k : Nat} (w : Vector Word k) (off n v : Nat) : Vector Word k :=
  w.setIfInBounds (off / 8) (setBits (w.getD (off / 8) 0) (8 * (off % 8)) (8 * n) v)

def Launch.get (l : Launch) (off n : Nat) : Nat := fieldOf l.words off n

def Launch.put (l : Launch) (off n v : Nat) : Launch := { l with words := setField l.words off n v }

def Launch.state (l : Launch) : Nat := l.get 0 1
def Launch.armseq (l : Launch) : Nat := l.get 1 3
def Launch.prio (l : Launch) : Nat := l.get 4 2
def Launch.flags (l : Launch) : Nat := l.get 6 2
def Launch.count (l : Launch) : Nat := l.get 0x18 4
def Launch.deadline (l : Launch) : Nat := l.get 0x20 8
def Launch.strm (l : Launch) : Nat := l.get 0x38 4
def Launch.sink (l : Launch) : Word := BitVec.ofNat 64 (l.get 0x48 8)

def StreamDesc.get (d : StreamDesc) (off n : Nat) : Nat := fieldOf d.words off n

def StreamDesc.put (d : StreamDesc) (off n v : Nat) : StreamDesc := { d with words := setField d.words off n v }

/-- Whether an index lies in a partition's share (R341). -/
def inShare (s : State) (p i : Nat) : Bool :=
  let x := getPart s p
  x.shareFirst ≤ i && i < x.shareFirst + x.shareCount

/-- The partition whose share holds an index. -/
def partOfIndex (s : State) (i : Nat) : Option Nat := (List.range Config.numParts).find? fun p => inShare s p i

/-- The stream id of an event of a launch, 0xFFFF where it belongs to no stream (R355). -/
def Launch.streamId (l : Launch) : Nat := if l.strm / 2 ^ 31 = 1 then l.strm % 256 else 0xFFFF

/-! ### The event log (R354, R355) -/

/-- The 32 bytes of an event record. -/
def eventRecord (seq time type src stream index arg : Nat) : List Byte :=
  leBytes 8 seq ++ leBytes 8 time ++ leBytes 1 type ++ leBytes 1 src ++ leBytes 2 stream ++ leBytes 4 index
    ++ leBytes 8 arg

/-- DETP of the partition's template (R88). -/
def detPart (s : State) (p : Nat) : Bool := bitOf (getPart s p).ctlTmpl 4

def modLog (s : State) (p : Nat) (f : EventLog → EventLog) : State := modPart s p fun x => { x with log := f x.log }

def logFull (l : EventLog) : Bool := l.cap.toNat ≤ l.wr.toNat - l.rd.toNat

/-- Write one record at WR, losing the oldest unread one where the log is full; a record that cannot be
written is lost. [DEDUCED, log 92] -/
def logWrite (s : State) (p : Nat) (r : List Byte) : State :=
  let l := (getPart s p).log
  let lose := fun s => modPart s p fun x => { x with lost := satInc x.lost }
  if l.cap = 0 then s
  else
    match writeIpa s p (l.base.toNat + 32 * (l.wr.toNat % l.cap.toNat)) r with
    | none => lose s
    | some s =>
      let s := if logFull l then lose (modLog s p fun l => { l with rd := l.rd + 1 }) else s
      modLog s p fun l => { l with wr := l.wr + 1 }

/-- CUR becomes `r`, and RUN 0 (R358). -/
def takeRung (s : State) (st r : Nat) : State := modSdesc s st fun d => (d.put 0x40 1 r).put 0x42 2 0

/-- A rung change takes effect as its event is logged. -/
def HeldEvent.effect (s : State) (e : HeldEvent) : State :=
  match e.rung with
  | some (st, r) => takeRung s st r
  | none => s

/-- Write the records that wait at the arbiter of a deterministic partition while there is room. -/
def flushLog (s : State) (p : Nat) : Nat → State
  | 0 => s
  | n + 1 =>
    match (getPart s p).log.waiting with
    | [] => s
    | r :: rs =>
      if (getPart s p).log.cap != 0 && logFull (getPart s p).log then s
      else flushLog (logWrite (r.effect (modLog s p fun l => { l with waiting := rs })) p r.record) p n

/-- A partition in replay mode (R479). -/
def replaying (s : State) (p : Nat) : Bool := bitOf (getDebug s p).replayCtl 0

/-- Whether the arbiter takes an event of the partition now: in a deterministic partition an event waits
rather than overwrite an unread record, and those behind it wait too. A replay logs nothing.
[DEDUCED, log 80] -/
def arbiterOpen (s : State) (p : Nat) : Bool :=
  let l := (getPart s p).log
  replaying s p || !detPart s p || l.cap == 0 || (l.waiting.isEmpty && !logFull l)

/-- The 32 bytes of the next logged event of a replay. -/
def nextLogged (s : State) (p : Nat) : Option (List Byte) :=
  let l := (getPart s p).log
  let n := (getDebug s p).replayIndex
  if n < l.wr.toNat && l.cap != 0 then readSound s p (l.base.toNat + 32 * (n % l.cap.toNat)) 32 else none

/-- The replay goes on to the next logged event. -/
def replayNext (s : State) (p : Nat) : State := modDebug s p fun d => { d with replayIndex := d.replayIndex + 1 }

/-- Whether an event that names a launch takes place now (R354, R479). -/
inductive Turn where
  | now | later | diverges
  deriving DecidableEq, Repr

/-- The turn of an ARM (type 1) or a retirement (type 4) of a launch. -/
def eventTurn (s : State) (p type i : Nat) : Turn :=
  if replaying s p then
    match nextLogged s p with
    | none => .later
    | some r =>
      if ofLe (slice r 0x10 1) != type then .later
      else if ofLe (slice r 0x14 4) = i then .now
      else .diverges
  else if arbiterOpen s p then .now
  else .later

/-- An event receives the next sequence number and is logged, and a rung change takes effect; in replay mode it is
the next logged event, and nothing is logged. -/
def logEvent (s : State) (p type src stream index arg : Nat) (rung : Option (Nat × Nat) := none) : State :=
  if replaying s p then (if type = 7 then s else replayNext s p) else
  let l := (getPart s p).log
  let r : HeldEvent := ⟨eventRecord l.seq s.time type src stream index arg, rung⟩
  let s := modLog s p fun l => { l with seq := l.seq + 1 }
  if detPart s p && (!l.waiting.isEmpty || (l.cap != 0 && logFull l)) then
    modLog s p fun l => { l with waiting := l.waiting ++ [r] }
  else logWrite (r.effect s) p r.record

/-! ### Fault records without a job, fault sinks (R353, R494) -/

/-- The record of work that never ran as a job (R494). -/
def unstartedRecord (c : Cause) (addr : Word) (index record : Nat) : List Byte :=
  faultRecord c.code 0 8 0 0 addr 0 0 0 [index, record] []

/-- The record of a failed arming by the launch window or the scheduler (R342, R494). -/
def failedArming (s : State) (p i : Nat) : State := queueFault s p (unstartedRecord .launch 0 i 0xFFFFFFFF)

/-- A fault record as the host reads it: of a sealed partition without ADDR and REGS (R407).
[DESIGN CHOICE, log 106] -/
def hostRecord (s : State) (p : Nat) (r : List Byte) : List Byte :=
  if isSealed s p then r.take 0x10 ++ List.replicate 8 0 ++ slice r 0x18 0x28 ++ List.replicate 64 0 else r

/-- Whether an address of a partition lies in host memory. -/
def inHostMemory (s : State) (p pasid : Nat) (va : Word) : Bool :=
  match translate s p pasid va .write with
  | .ok x => isHostPa x.pa
  | .error _ => false

/-- Write a record to a fault sink (R353). [DESIGN CHOICE, log 106] -/
def sinkWrite (s : State) (b : Bulk) (sink : Word) (r : List Byte) : Except BulkFail State := do
  let (s, bs) ← readRange s b sink 16
  let count := ofLe (bs.take 8)
  let cap := ofLe (bs.drop 8)
  let at_ := sink + BitVec.ofNat 64 (256 + 128 * count)
  let r := if inHostMemory s b.ag.part b.ag.pasid at_ then hostRecord s b.ag.part r else r
  let s ← if count < cap then writeAll s b at_ r else .ok s
  writeAll s b sink (leBytes 8 (count + 1))

/-- A fault record goes to the sink, or to the partition fault queue where there is none or it cannot be
written; where the sink's page waits for the host (R395), the state that waits. [DEDUCED, log 125] -/
def faultTo (s : State) (b : Bulk) (sink : Word) (r : List Byte) : Except State State :=
  if sink = 0 then .ok (queueFault s b.ag.part r)
  else
    match sinkWrite s b sink r with
    | .ok s => .ok (usedRefusal s b.ag.who)
    | .error (.hostWait page, _) => .error (noteWaiting s b.ag.who (some page))
    | .error _ => .ok (queueFault (usedRefusal s b.ag.who) b.ag.part r)

/-! ### Interrupts (R418) -/

/-- Change one port. -/
def modPort (s : State) (n : Nat) (f : Port → Port) : State :=
  { s with ports := s.ports.setIfInBounds n (f (s.ports.getD n .reset)) }

def getPort (s : State) (n : Nat) : Port := s.ports.getD n .reset

/-- An interrupt message for a partition leaves by a port; one that the port's link does not carry is dropped and
counted (R409). [DEDUCED, log 31] -/
def interrupt (s : State) (fn part : Nat) (addr : Word) (data : BitVec 32) : State :=
  if linkCarries s part fn then { s with out := s.out ++ [.interrupt fn addr data] }
  else modPort s fn fun x => { x with dropped := satInc x.dropped }

/-- Raise vector `v` of interface `i` of function `fn`. -/
def raiseVector (s : State) (fn i v : Nat) : State :=
  let pt := getPort s fn
  let e := Tab.getD pt.remap (32 * i + v) .reset
  let part := bitsOf (pt.ifaces.getD i .reset).ctl 1 3
  if e.ctl.getLsbD 0 && e.ctl.toNat / 8 % 8 == part then
    if e.ctl.getLsbD 1 then
      modPort s fn fun x => { x with remap := Tab.set x.remap (32 * i + v) { e with ctl := e.ctl ||| 4 } }
    else interrupt s fn part e.addr e.data
  else modPort s fn fun x => { x with dropped := satInc x.dropped }

/-- The completion record of a packet, of 16 bytes (R416). -/
def Completion.bytes (c : Completion) : List Byte :=
  leBytes 4 c.index ++ leBytes 2 (b2n c.late) ++ leBytes 1 c.req.iface ++ leBytes 1 c.req.queue ++ leBytes 8 c.time

/-- The completion a packet asked for, at the retirement of its launch (R416); where its page waits for the host
(R395), it is kept. [DEDUCED, log 102, 125] -/
def complete (s : State) (p : Nat) (c : Completion) : State :=
  let r := c.req
  let b := dispatcher p r.pasid.toNat c.index
  let vector := fun s => if r.flags.getLsbD 1 then raiseVector s r.fn r.iface r.vector else s
  if r.flags.getLsbD 0 then
    match writeAll s b r.cplva c.bytes with
    | .ok s => vector (usedRefusal s b.ag.who)
    | .error (.hostWait page, _) =>
      modPart (noteWaiting s b.ag.who (some page)) p fun x => { x with completions := x.completions ++ [c] }
    | .error e =>
      vector (queueFault (usedRefusal s b.ag.who) p (faultRecord (failCause e.1).code 0 0 0 0 r.cplva 0 0 0 [] []))
  else vector s

def completePacket (s : State) (p i : Nat) (r : PacketReq) (late : Bool) : State := complete s p ⟨i, r, late, s.time⟩

/-- The completions that wait are tried again. -/
def retryCompletions (s : State) (p : Nat) : State :=
  (getPart s p).completions.foldl (fun s c => complete s p c) (modPart s p fun x => { x with completions := [] })

/-! ### Streams and rungs (R356–R358) -/

/-- Base launch index and count of a rung. -/
def rungBase (d : StreamDesc) (r : Nat) : Nat := d.get (0x20 + 8 * r) 4
def rungCount (d : StreamDesc) (r : Nat) : Nat := d.get (0x24 + 8 * r) 2

/-- A rung number that a stream has. -/
def rungPresent (d : StreamDesc) (r : Nat) : Bool := r < 4 && rungCount d r != 0

def streamEnabled (d : StreamDesc) : Bool := d.get 0x45 1 % 2 == 1
def recordsLog (d : StreamDesc) : Bool := d.get 0x45 1 / 2 % 2 == 1
def playsLog (d : StreamDesc) : Bool := d.get 0x45 1 / 4 % 2 == 1

/-- The scheduler moves CUR to `r`: a rung change, logged as TYPE 5, whose effect waits with its event (R355, R358);
in replay mode rung changes come from the log alone (R479). [DEDUCED, log 83] -/
def changeRung (s : State) (p st r : Nat) : State :=
  if replaying s p then s
  else logEvent (modSdesc s st fun d => d.put 0x42 2 0) p 5 1 st 0xFFFFFFFF r (some (st, r))

/-- CUR has become `r`, by a request or a byte of the rung log: logged as TYPE 5 where it was another. -/
def logRung (s : State) (p st old r src : Nat) : State := if old = r then s else logEvent s p 5 src st 0xFFFFFFFF r

/-- The next present rung of lower quality, and of higher. -/
def rungAbove (d : StreamDesc) : Option Nat :=
  (List.range 4).find? fun r => d.get 0x40 1 < r && rungPresent d r

def rungBelow (d : StreamDesc) : Option Nat :=
  ((List.range 4).reverse).find? fun r => r < d.get 0x40 1 && rungPresent d r

/-- The partition that owns a stream (R356). -/
def streamOwner (s : State) (st : Nat) : Option Nat := Tab.get? s.ownOwner st

/-- A frame has been judged: on time, or late (R357, R358). -/
def endFrame (s : State) (p st : Nat) (onTime : Bool) : State :=
  let s := modSdesc s st fun d => if onTime then d else d.put 0x70 4 (d.get 0x70 4 + 1)
  let d := getSdesc s st
  if !streamEnabled d || playsLog d then s
  else if !onTime then modSdesc s st fun d => d.put 0x42 2 0
  else
    let run := d.get 0x42 2 + 1
    let s := modSdesc s st fun d => d.put 0x42 2 run
    if d.get 0x41 1 != 0 && d.get 0x41 1 ≤ run then
      match rungBelow d with
      | some r => changeRung s p st r
      | none => modSdesc s st fun d => d.put 0x42 2 0
    else s

/-- Whether a launch belongs to the set of a frame that is being judged. -/
def Frame.holds (d : StreamDesc) (i : Nat) (f : Frame) : Bool :=
  rungBase d f.rung ≤ i && i < rungBase d f.rung + rungCount d f.rung

/-- The stream and the frame that a launch was armed for. -/
def frameOf (s : State) (i : Nat) : Option (Nat × Frame) :=
  let l := getLaunch s i
  if l.strm / 2 ^ 31 = 1 then
    ((getSdesc s (l.strm % 256)).frames.find? (Frame.holds (getSdesc s (l.strm % 256)) i)).map
      fun f => (l.strm % 256, f)
  else none

def modFrame (s : State) (st number : Nat) (f : Frame → Frame) : State :=
  modSdesc s st fun d => { d with frames := d.frames.map fun x => if x.number = number then f x else x }

/-- A launch of a frame was seen with negative slack: the current frame changes the rung, once (R357, R358).
[DEDUCED, log 83] -/
def sawNegative (s : State) (p st : Nat) (f : Frame) : State :=
  let d := getSdesc s st
  let s := modFrame s st f.number fun f => { f with onTime := false }
  if f.caused || d.current != some f.number || playsLog d || !streamEnabled d then s
  else
    match rungAbove d with
    | some r => changeRung (modFrame s st f.number fun f => { f with caused := true }) p st r
    | none => modSdesc s st fun d => d.put 0x42 2 0

/-- A frame is judged once its attempts are made and its launches have retired (R357). -/
def judgeFrame (s : State) (p st number : Nat) : State :=
  match (getSdesc s st).frames.find? fun f => f.number == number with
  | some f =>
    if f.left = 0 && !f.arming then
      endFrame (modSdesc s st fun d => { d with frames := d.frames.filter fun x => x.number != number }) p st f.onTime
    else s
  | none => s

/-- A launch of a frame has retired. [DEDUCED, log 83] -/
def frameRetired (s : State) (p st number : Nat) (late : Bool) : State :=
  judgeFrame (modFrame s st number fun f => { f with onTime := f.onTime && !late, left := f.left - 1 }) p st number

/-! ### Retirement (R352) -/

/-- RELCNT of the DONE object is incremented. -/
def doneIncrement (s : State) (p pasid i : Nat) (va : Word) : Except AccFail State :=
  let b := dispatcher p pasid i
  if va.toNat % 16 != 0 then .error (.fault .align)
  else
    match agentXl s b.ag va .atomic with
    | .error e => .error e
    | .ok x =>
      if effType x != 0 then .error (.fault .perm)
      else
        let s := performRange s (granules x.pa 8)
        if (poisonIn s deviceView x.pa 8).isSome then .error (.fault .poison)
        else .ok (writePa s (p, 0) none x.cmp x.pa (leBytes 8 (ofLe (readPa s deviceView x.cmp x.pa 8) + 1)))

/-- Predecessors latched by armed launches learn of a retirement: they stand as state 4 (R349). -/
def notePred (i seq : Nat) (l : Launch) : Launch :=
  { l with preds := l.preds.map fun x =>
      if x.1 = i && (x.2.2 = 0 || x.2.2 = 1 || x.2.1 = seq) then (x.1, x.2.1, 4) else x }

/-- A launch that retires, as its record stands. -/
def retirementOf (s : State) (i : Nat) : Retirement :=
  let l := getLaunch s i
  { index := i, done := BitVec.ofNat 64 (l.get 0x40 8), pasid := l.armedPasid.toNat, deadline := l.deadline,
    stream := l.streamId, armseq := l.armseq, armedAt := l.armedAt, packet := l.packet,
    frame := (frameOf s i).map fun x => (x.1, x.2.number) }

/-- Step 4 of R352, and what the retirement has others do. -/
def logRetirement (s : State) (p : Nat) (r : Retirement) : State :=
  let s := usedRefusal s (.device p r.index)
  let late := r.deadline != 0 && r.deadline < s.time
  let s := logEvent s p 4 2 r.stream r.index (b2n late)
  let s := { s with pool := s.pool.map fun e => (e.1, notePred r.index r.armseq e.2) }
  let s := match r.packet with
    | some q => completePacket s p r.index q late
    | none => s
  let s := sample s p 3 0 (s.time - r.armedAt)
  match r.frame with
  | some (st, number) => frameRetired s p st number late
  | none => s

/-- Steps 3 and 4 of R352; the increment of a DONE object whose page waits for the host (R395) is made later.
[DEDUCED, log 125] -/
def endRetirement (s : State) (p : Nat) (r : Retirement) : State :=
  if r.done = 0 then logRetirement s p r
  else
    match doneIncrement s p r.pasid r.index r.done with
    | .ok s => logRetirement s p r
    | .error (.hostWait page) =>
      modPart (noteWaiting s (.device p r.index) (some page)) p fun x => { x with retiring := x.retiring ++ [r] }
    | .error e => logRetirement (queueFault s p (faultRecord (failCause e).code 0 0 0 0 r.done 0 0 0 [] [])) p r

/-- A launch retires (R352). -/
def retireLaunch (s : State) (p i : Nat) : State :=
  let r := retirementOf s i
  endRetirement (modLaunch (publishLaunch s i) i fun l =>
    { (l.put 0 1 4) with since := none, card := none, packet := none }) p r

/-- Whether every record of an armed launch has retired. -/
def allRetired (l : Launch) : Bool := (l.state == 2 || l.state == 3) && l.since.isSome && l.count ≤ l.retired

/-- Whether a latched predecessor is satisfied (R349, R350). -/
def predSatisfied (s : State) (early : Bool) (x : Nat × Nat × Nat) : Bool :=
  let l := getLaunch s x.1
  x.2.2 == 4 || (x.2.2 < 2 && l.state == 4)
    || (early && l.state == 3 && l.next == l.count && l.dealt == l.count && l.opened == l.count
        && (x.2.2 < 2 || x.2.1 == l.armseq))

/-- An armed launch becomes ready when its predecessors are satisfied (R349); with no records, or its last
record retired, it retires as soon as the arbiter takes the event (R343, R352). [DEDUCED, log 80] -/
def settleLaunch (s : State) (i : Nat) : State :=
  match partOfIndex s i with
  | none => s
  | some p =>
    let l := getLaunch s i
    let s := if l.state == 2 && l.since.isNone
        && l.preds.all (predSatisfied s (l.flags / 2 % 2 == 1)) then
        modLaunch s i fun l => { l with since := some s.time } else s
    if allRetired (getLaunch s i) then
      match eventTurn s p 4 i with
      | .now => retireLaunch s p i
      | .later => s
      | .diverges => requestStop s p 3 0
    else s

/-- Carry readiness and retirements through the pool, for as many rounds as there are launches. -/
def settlePool (s : State) : State :=
  (List.range s.pool.length).foldl (fun s _ => (s.pool.map (·.1)).foldl settleLaunch s) s

/-- The retirements that wait are tried again, in order, as the arbiter takes their events.
[DEDUCED, log 125] -/
def retryRetirements (s : State) (p : Nat) : State :=
  (getPart s p).retiring.foldl (fun s r =>
    match eventTurn s p 4 r.index with
    | .now => endRetirement s p r
    | _ => modPart s p fun x => { x with retiring := x.retiring ++ [r] }) (modPart s p fun x => { x with retiring := [] })

/-! ### Arming (R342–R345, R349) -/

/-- The field checks of R342. -/
def fieldsOk (s : State) (p : Nat) (l : Launch) : Bool :=
  l.state ≤ 4 && l.prio ≤ 23 && l.flags < 16 && l.get 0x1C 4 % 8 == 0
  && l.strm / 1024 % 2 ^ 21 == 0 && l.get 0x3C 4 == 0 && l.get 0x78 7 == 0
  && [l.get 0x30 4, l.get 0x34 4].all fun x => x == noPred || inShare s p x

/-- The state and field checks of an arming. -/
def armable (s : State) (p i : Nat) (l : Launch) : Bool :=
  inShare s p i && (l.state == 1 || l.state == 4) && fieldsOk s p l

/-- The arming of R343: STATE and ARMSEQ first, then the predecessors are latched (R349). -/
def armRecord (s : State) (i : Nat) : State :=
  let s := modLaunch s i fun l =>
    { ((l.put 0 1 2).put 1 3 (l.armseq + 1)) with
      armedPasid := l.pasid, card := none, next := 0, retired := 0, opened := 0, dealt := 0,
      armedAt := s.time, since := none, cores := [], packet := none, asked := [] }
  let l := getLaunch s i
  let latch := fun x => (x, (getLaunch s x).armseq, (getLaunch s x).state)
  modLaunch s i fun l' =>
    { l' with preds := ([l.get 0x30 4, l.get 0x34 4].filter (· != noPred)).map latch }

/-! ### The dispatcher's order (R347, R348) -/

def widthOf (s : State) (p : Nat) (l : Launch) : Nat :=
  let n := coreCount s p
  if l.get 0x2C 4 = 0 then n else min (l.get 0x2C 4) n

/-- Effective level with base priority `prio`, ready since `since`. -/
def levelOf (s : State) (p prio since : Nat) : Nat :=
  let ag := (getPart s p).agelim.toNat
  min 23 (prio + if ag = 0 then 0 else (s.time - since) / ag)

/-- Slack as a signed 64-bit number. -/
def slackOf (s : State) (l : Launch) (remaining w : Nat) : Int :=
  if l.deadline = 0 then 2 ^ 63 - 1
  else
    let v : Int := (l.deadline : Int) - s.time - (ceilDiv remaining w * l.get 0x28 4 : Nat)
    (BitVec.ofInt 64 v).toInt

/-- The keys of R347: level, slack, stream, index. -/
abbrev DealKey := Nat × Int × Nat × Nat

def dealKey (s : State) (p i remaining w since : Nat) : DealKey :=
  let l := getLaunch s i
  (levelOf s p l.prio since, slackOf s l remaining w, (if l.strm / 2 ^ 31 = 1 then l.strm % 256 else 256), i)

/-- Whether the first key goes before the second. -/
def keyBefore (a b : DealKey) : Bool :=
  if a.1 != b.1 then b.1 < a.1
  else if a.2.1 != b.2.1 then a.2.1 < b.2.1
  else if a.2.2.1 != b.2.2.1 then a.2.2.1 < b.2.2.1
  else a.2.2.2 < b.2.2.2

/-- The key of a launch as it stands, and of a saved job (R370). -/
def launchKey (s : State) (p i : Nat) : DealKey :=
  let l := getLaunch s i
  dealKey s p i (l.count - l.next) (widthOf s p l) (l.since.getD s.time)

/-- A job's record has retired: its launch counts it (R352). -/
def recordRetired (s : State) (j : JobIds) (signalled : Bool) : State :=
  let s := modLaunch s j.launch fun l =>
    { l with retired := l.retired + 1, opened := if signalled then l.opened else l.opened + 1 }
  settlePool s

end Sys2Proof.Machine
end

