-- ==== Sys2Proof/Machine/Media.lean ====
section
/-! DEFINITION. Frame tiles and frame rings: ENQF (R226, R227) and FRADV (R228, R229). -/

namespace Sys2Proof.Machine

/-! ### ENQF (R227) -/

def execEnqf (x : EngOp) (s : State) : Result := enginePush (.enqf x) x (fun _ => linesPart x.ln.toNat 48 false) s

/-- The one enabled stream descriptor whose FTQ field names a queue (R227, R356). -/
def boundStream (s : State) (q : Nat) : Option StreamDesc :=
  (s.streams.find? fun e => streamEnabled e.2 && e.2.get 0x58 1 == q).map (·.2)

/-- Frame width, height and bit depth of a descriptor. -/
def frameWidth (d : StreamDesc) : Nat := d.get 0x5A 2
def frameHeight (d : StreamDesc) : Nat := d.get 0x5C 2
def frameDepth (d : StreamDesc) : Nat := d.get 0x59 1

/-- The encoder that takes the tiles of a queue (R419). -/
def encoderOf (s : State) (q : Nat) : Option Codec :=
  (s.encoders.find? fun e => bitOf e.2.ctl 0 && bitsOf e.2.ctl 3 5 == q).map (·.2)

/-- Whether the queue's encoder takes tiles as they come: it has no closed frame to write first. -/
def encoderFree (s : State) (q : Nat) : Bool := (encoderOf s q).isSome && (getFtq s q).closed.isEmpty

/-- Tiles that stand in the queue's 64 places: those that its encoder has not taken. [DEDUCED, log 71] -/
def queuedTiles (f : FrameTileQueue) : Nat := (f.tiles.filter fun t => !t.taken).length

/-- Whether frame `a` is later than frame `b` (R227). -/
def laterFrame (a b : BitVec 16) : Bool := 1 ≤ (a - b).toNat && (a - b).toNat < 2 ^ 15

/-- How a queue treats a tile of a frame. -/
inductive TileFate where
  | accepted | opens | stale | waits
  deriving DecidableEq, Repr

/-- [DEDUCED, log 71] -/
def tileFate (f : FrameTileQueue) (frame : BitVec 16) (col row : Nat) : TileFate :=
  let full := 64 ≤ queuedTiles f
  let again := f.tiles.any fun t => t.frame == frame && t.col == col && t.row == row
  let later := match f.newest with | none => true | some n => laterFrame frame n
  if f.openFrames.contains frame then (if full && !again then .waits else .accepted)
  else if later then (if 2 ≤ f.openFrames.length || full then .waits else .opens)
  else .stale

/-- The samples of a plane at byte `base` of the tile: `n` by `n`, of which `w` by `h` lie in the frame. -/
def planeSamples (bs : List Byte) (base n w h top : Nat) : List (Option Nat × Bool) :=
  (List.range (n * n)).map fun k =>
    let v := ofLe (slice bs (base + 2 * k) 2)
    if k % n < w && k / n < h then (some (min v top), decide (top < v)) else (none, false)

/-- The samples of a tile, clamped, those beyond the frame's edge dropped. -/
def tileSamples (d : StreamDesc) (col row : Nat) (bs : List Byte) : List (Option Nat × Bool) :=
  let top := if frameDepth d = 8 then 255 else 1023
  let w := frameWidth d - 64 * col
  let h := frameHeight d - 64 * row
  planeSamples bs 0 64 w h top
    ++ planeSamples bs 8192 32 (w / 2) (h / 2) top ++ planeSamples bs 10240 32 (w / 2) (h / 2) top

/-- Number of tile positions of a frame. -/
def tilePositions (d : StreamDesc) : Nat := ceilDiv (frameWidth d) 64 * ceilDiv (frameHeight d) 64

/-- A frame whose tiles have all arrived closes (R227). -/
def closeFrame (d : StreamDesc) (frame : BitVec 16) (f : FrameTileQueue) : FrameTileQueue :=
  if (f.tiles.filter fun t => t.frame == frame).length = tilePositions d then
    { f with openFrames := f.openFrames.filter (· != frame), closed := f.closed ++ [frame] }
  else f

/-- A tile enters the queue, in the place of an earlier one of its position. [DEDUCED, log 71] -/
def putTile (d : StreamDesc) (t : FrameTile) (clamped : Nat) (f : FrameTileQueue) : FrameTileQueue :=
  let opens := !f.openFrames.contains t.frame
  let f := { f with
    tiles := (f.tiles.filter fun x => !(x.frame == t.frame && x.col == t.col && x.row == t.row)) ++ [t]
    openFrames := if opens then f.openFrames ++ [t.frame] else f.openFrames
    newest := if opens then some t.frame else f.newest
    clamps := satAdd f.clamps clamped }
  closeFrame d t.frame f

/-- [DEDUCED, log 71] -/
def runEnqf (x : EngOp) (o : OpRun) (s : State) : RunOut :=
  let q := (o.v .ra).toNat % 32
  let word := (o.v .rb).toNat
  let frame : BitVec 16 := BitVec.ofNat 16 word
  let col := word / 2 ^ 16 % 256
  let row := word / 2 ^ 24 % 256
  match (if Tab.get? s.ownOwner (256 + q) == some o.e.ids.part then boundStream s q else none) with
  | none => .fault s .perm 0
  | some d =>
    .check s (word < 2 ^ 32 && 64 * col < frameWidth d && 64 * row < frameHeight d) .perm 0 <|
    match tileFate (getFtq s q) frame col row with
    | .waits => .wait none
    | .stale => .done (modFtq s q fun f => { f with stale := satInc f.stale })
    | _ =>
      .after s (readOff s o (256 * x.ln.toNat) (48 * 256)) fun r =>
        let xs := tileSamples d col row r.2
        let tile : FrameTile := ⟨frame, col, row, xs.flatMap fun v => leBytes 2 (v.1.getD 0), encoderFree r.1 q⟩
        .done (modFtq r.1 q (putTile d tile (xs.filter (·.2)).length))

/-! ### Frame rings (R228) -/

/-- Why a partition physical address is not reached. -/
def ipaCause (s : State) (p ipa n : Nat) (k : AccKind) : Cause :=
  ((pieces ipa n).findSome? fun x => match ipaToPa s p x.1 k with
    | .error e => some e.cause
    | .ok _ => none).getD .perm

/-- [DESIGN CHOICE, log 128] -/
def ringRead (s : State) (p ipa n : Nat) : Except BulkFail (List Byte) :=
  match readIpa s p ipa n with
  | some bs => match ipaPoison s p ipa n with
    | none => .ok bs
    | some a => .error (.fault .poison, BitVec.ofNat 64 a)
  | none => .error (.fault (ipaCause s p ipa n .read), BitVec.ofNat 64 ipa)

def ringWrite (s : State) (p ipa : Nat) (bs : List Byte) : Except BulkFail State :=
  match writeIpa s p ipa bs with
  | some s => .ok s
  | none => .error (.fault (ipaCause s p ipa bs.length .write), BitVec.ofNat 64 ipa)

/-- What a ring or slot header says of a frame. -/
structure SlotHead where
  frame : Word
  ents : Word
  nent : Nat
  flags : Nat
  deriving DecidableEq, Repr

def SlotHead.ofBytes (bs : List Byte) : SlotHead :=
  ⟨BitVec.ofNat 64 (ofLe (bs.take 8)), BitVec.ofNat 64 (ofLe (slice bs 8 8)), ofLe (slice bs 16 4), ofLe (slice bs 20 4)⟩

def SlotHead.bytes (h : SlotHead) : List Byte :=
  leBytes 8 h.frame.toNat ++ leBytes 8 h.ents.toNat ++ leBytes 4 h.nent ++ leBytes 4 h.flags ++ List.replicate 8 0

def SlotHead.valid (h : SlotHead) : Bool := h.flags % 2 == 1
def SlotHead.anchor (h : SlotHead) : Bool := h.flags / 2 % 2 == 1

/-- A ring as its header and its descriptor give it. -/
structure Ring where
  base : Nat
  slots : Nat
  slotSize : Nat
  last : Word
  pubs : Nat
  anchors : List SlotHead

/-- The ring of a stream. Its header's reset values, LAST all ones above all, are for system software to write: the spec
names no act of the device that writes them, and memory that nothing has written reads 0.
[DEDUCED, log 72] -/
def ringAt (s : State) (p st : Nat) : Except BulkFail Ring := do
  let d := getSdesc s st
  if d.get 0x50 4 = 0 then .error (.fault .perm, 0)
  let bs ← ringRead s p (d.get 0x48 8) 256
  .ok { base := d.get 0x48 8, slots := d.get 0x50 4, slotSize := d.get 0x54 4,
        last := BitVec.ofNat 64 (ofLe (bs.take 8)), pubs := ofLe (slice bs 8 8),
        anchors := (List.range 4).map fun a => SlotHead.ofBytes (slice bs (0x10 + 32 * a) 32) }

/-- The place of slot `i` of a ring. -/
def Ring.slotIpa (r : Ring) (i : Nat) : Nat := r.base + 256 + i * r.slotSize

def Ring.slotOf (r : Ring) (f : Word) : Nat := f.toNat % r.slots

def slotHead (s : State) (p : Nat) (r : Ring) (i : Nat) : Except BulkFail SlotHead :=
  (ringRead s p (r.slotIpa i) 32).map SlotHead.ofBytes

/-- The slot headers of a ring, read one after another. -/
def slotHeads (s : State) (p : Nat) (r : Ring) : Except BulkFail (List SlotHead) :=
  (List.range r.slots).foldl (fun a i => a.bind fun hs => (slotHead s p r i).map fun h => hs ++ [h]) (.ok [])

/-- Publish a frame in a ring: slot header, anchor, then LAST and PUBCNT (R229). [DEDUCED, log 72] -/
def ringPublish (s : State) (p : Nat) (r : Ring) (h : SlotHead) (anchor : Option Nat) : Except BulkFail State := do
  let s ← ringWrite s p (r.slotIpa (r.slotOf h.frame)) h.bytes
  let s ← match anchor with
    | some a => ringWrite s p (r.base + 0x10 + 32 * a) ({ h with flags := 1 }.bytes.take 24)
    | none => .ok s
  ringWrite s p r.base (leBytes 8 h.frame.toNat ++ leBytes 8 (r.pubs + 1))

/-! ### FRADV (R229) -/

def fradvFoot (x : EngOp) (s : State) : List FootPart :=
  rangeParts (viewedJob s) (rd s x.rc) (32 * ((rd s x.rd).toNat % 2 ^ 32)) true ++ poolPart s x.re

def execFradvPub (x : EngOp) (s : State) : Result := enginePush (.fradvPub x) x (fradvFoot x) s
def execFradvPin (x : EngOp) (s : State) : Result := enginePush (.fradvPin x) x (fradvFoot x) s
def execFradvUnpin (x : EngOp) (s : State) : Result := enginePush (.fradvUnpin x) x (fradvFoot x) s

/-- The addresses of a frame's entries. -/
def entryVas (h : SlotHead) : List Word := (List.range h.nent).map fun i => h.ents + BitVec.ofNat 64 (32 * i)

/-- The entries among these that are not already STATE 3, read and checked. -/
def liveEntries (s : State) (b : Bulk) (vas : List Word) : Except BulkFail (List Word) :=
  vas.foldl (fun r va => r.bind fun l =>
    (kvEntry s b va .atomic).map fun e => if e.2.state = 3 then l else l ++ [va]) (.ok [])

/-- Entry retirements of these entries, one after another (R214). -/
def retireAll (s : State) (b : Bulk) (pool : Word) (vas : List Word) : Except BulkFail State :=
  vas.foldl (fun r va => r.bind fun s => do
    let (x, k) ← kvEntry s b va .atomic
    if k.state = 3 then .ok s else retireEntry s b pool x k) (.ok s)

/-- Step 1 of publishing: the release at partition scope of the writes ordered before the push, its stream's and those
of the operations before it by edges. -/
def publishRelease (s : State) (o : OpRun) : State :=
  let s := match residentJob s o.e.ids.jobid with
    | some j => stashWriteBack (cure (flushWc s o.core) o.e.ids.jobid) o.core j
    | none => s
  publish s 4 fun e => e.job == o.e.ids.jobid && (detachedSight o.e).any e.writers.contains

/-- The entries that a publication into a slot retires (R229, step 2), with room for their records in the pool. -/
def slotEntries (s : State) (b : Bulk) (pool : Word) (old : SlotHead) : Except BulkFail (List Word) := do
  let gone ← liveEntries s b (if old.valid && !old.anchor then entryVas old else [])
  let p ← poolAt s b pool
  recordRoom p gone.length
  .ok gone

/-- Ops 0 and 1. [DEDUCED, log 72] -/
def fradvPublish (s : State) (o : OpRun) (r : Ring) (pin : Bool) : Except BulkFail State := do
  let p := o.e.ids.part
  let f := o.v .rb
  let old ← slotHead s p r (r.slotOf f)
  if f == r.last && old.valid && old.frame == f && old.ents == o.v .rc && old.nent == o.w32 .rd then .ok s
  else
    let free := (List.range 4).find? fun a => match r.anchors[a]? with | some h => h.flags == 0 | none => false
    if !(r.last == 0xFFFFFFFFFFFFFFFF || f == r.last + 1) then .error (.fault .perm, 0)
    if pin && free.isNone then .error (.fault .perm, 0)
    let gone ← slotEntries s o.b (o.v .re) old
    let s ← retireAll (publishRelease s o) o.b (o.v .re) gone
    let s := modSdesc s ((o.v .ra).toNat % 256) fun d => { d with published := some (o.b.ag.pasid, o.v .re) }
    ringPublish s p r ⟨f, o.v .rc, o.w32 .rd, if pin then 3 else 1⟩ (if pin then free else none)

/-- Op 2. -/
def fradvUnpin (s : State) (o : OpRun) (r : Ring) : Except BulkFail State := do
  let p := o.e.ids.part
  let f := o.v .rb
  match r.anchors.zipIdx.find? fun a => a.1.flags != 0 && a.1.frame == f with
  | none => .error (.fault .perm, 0)
  | some (h, a) =>
    let heads ← slotHeads s p r
    let kept := (heads.filter SlotHead.valid).flatMap entryVas
    let gone ← liveEntries s o.b ((entryVas h).filter fun va => !kept.contains va)
    let pool ← poolAt s o.b (o.v .re)
    recordRoom pool gone.length
    let s ← retireAll s o.b (o.v .re) gone
    let s ← ringWrite s p (r.base + 0x10 + 32 * a) (List.replicate 24 0)
    let now ← slotHead s p r (r.slotOf f)
    if now.frame == f then
      ringWrite s p (r.slotIpa (r.slotOf f) + 20) (leBytes 4 (now.flags - now.flags / 2 % 2 * 2))
    else .ok s

/-- FRADV: 0 publish, 1 publish and pin, 2 unpin. -/
def fradv (s : State) (o : OpRun) (op : Nat) : Except BulkFail State := do
  let st := (o.v .ra).toNat % 256
  if streamOwner s st != some o.e.ids.part then .error (.fault .perm, 0)
  let r ← ringAt s o.e.ids.part st
  if op = 2 then fradvUnpin s o r else fradvPublish s o r (op == 1)

/-- [DEDUCED, log 72] -/
def runFradv (op : Nat) (o : OpRun) (s : State) : RunOut := .after s (fradv s o op) .done

end Sys2Proof.Machine
end

