-- ==== Sys2Proof/Machine/Child.lean ====
section
/-! DEFINITION. The life of a child operation (R154): ENGINE_SELECT, CHILD_OP_DONE, CHILD_OP_FAULT,
COLLECTIVE_INSTANCE, LINK_TIMEOUT and CNCL. -/

namespace Sys2Proof.Machine

/-! ### What runs -/

/-- The engine of an operation (R162). -/
def engineOf (i : Instr) : Option Engine :=
  match i with
  | .mma _ | .mmi _ | .attn _ | .accz _ | .accrd _ | .accwr _ | .drnq _ | .mtrn _ | .qnt _ | .dqnt _ | .rqnt _ =>
    some .matrix
  | .cpy _ | .gath _ | .scat _ | .put _ | .dcmp _ | .pfch _ => some .copy
  | .kvapp _ | .kvget _ | .kvevt _ | .dirlk _ | .dirpub _ | .kvfet _ => some .kv
  | .cred _ | .cbc _ | .cgth _ | .crsc _ => some .collective
  | .enqf _ | .fradvPub _ | .fradvPin _ | .fradvUnpin _ => some .media
  | _ => none

/-- The run of an operation; a collective runs with its instance alone. [DESIGN CHOICE, log 2] -/
def runOp (o : OpRun) (s : State) : RunOut :=
  match o.e.instr with
  | .mma m => runMma m o s
  | .mmi m => runMmi m o s
  | .attn m => runAttn m o s
  | .accz m => runAccz m o s
  | .accrd m => runAccrd m o s
  | .accwr m => runAccwr m o s
  | .drnq m => runDrnq m o s
  | .mtrn m => runMtrn m o s
  | .qnt m => runQnt m o s
  | .dqnt m => runDqnt m o s
  | .rqnt m => runRqnt m o s
  | .cpy x => runCpy x o s
  | .gath x => runGath x o s
  | .scat x => runScat x o s
  | .put x => runPut x o s
  | .dcmp x => runDcmp x o s
  | .pfch _ => runPfch s
  | .kvapp x => runKvapp x o s
  | .kvget x => runKvget x o s
  | .kvevt _ => runKvevt o s
  | .dirlk _ => runDirlk o s
  | .dirpub _ => runDirpub o s
  | .kvfet _ => runKvfet o s
  | .enqf x => runEnqf x o s
  | .fradvPub _ => runFradv 0 o s
  | .fradvPin _ => runFradv 1 o s
  | .fradvUnpin _ => runFradv 2 o s
  | _ => .wait none

/-- What an operation does as it starts: its translations (R213) and its messages to peers (R422).
[DEDUCED, log 59] -/
def prepareOp (s : State) (o : OpRun) : Except BulkFail State :=
  if o.e.held.isSome then .ok s
  else
    match o.e.instr with
    | .kvget _ => prepareKvget s o
    | .kvfet _ => prepareKvfet s o
    | .dirpub _ => prepareDirpub s o
    | .dirlk _ => prepareDirlk s o
    | .attn m => prepareAttn m s o
    | .cred x | .cbc x | .cgth x | .crsc x => prepareColl s o x
    | _ => .ok s

/-- The operations of whose writes each element is old or new after a cancel or a fault (R154); the others
write nothing before they complete. [DEDUCED, log 57, 65] -/
def tearable (i : Instr) : Bool :=
  match i with
  | .cpy _ | .gath _ | .scat _ | .put _ | .kvget _ | .accrd _ | .drnq _ | .mtrn _ | .qnt _ | .dqnt _ => true
  | _ => false

/-- What a cancelled or faulted operation leaves of its writes. [DEDUCED, log 57] -/
def tornRun (s : State) (core slot : Nat) (e : TokenEntry) : State :=
  if tearable e.instr then
    let t := { s with fresh := s.fresh + 1 }
    match runOp (opRun t core slot e (some s.fresh)) t with
    | .done s' => s'
    | .fault s' _ _ => s'
    | .wait _ => s
  else s

/-! ### How an operation ends -/

/-- Major opcode of an operation (R52). [DEDUCED, log 65] -/
def majorOp (i : Instr) : Nat :=
  match i.eParts, i.mParts with
  | some (n, _, _), _ => n
  | none, some (n, _, _) => n
  | none, none => 0

/-- What a job's streams have read early is used up where one of its operations completes. -/
def orderHolder (s : State) (e : TokenEntry) : State :=
  match e.holder.bind (findJob s) with
  | some (core, slot) => orderJobReads s core slot
  | none => s

/-- A running operation becomes DONE, its writes performed. -/
def finishOp (s : State) (core slot : Nat) (e : TokenEntry) : State :=
  let s := settleLayer (orderHolder s e) e.ids.jobid slot e.seq
  let s := sample (releaseHeld s (opRun s core slot e none)) e.ids.part 0 (majorOp e.instr) (cycleOf s core - e.pushedAt)
  endTok s core slot .done none

/-- A failed or cancelled operation adds nothing (R203): what its sync word has counted of it is taken back, where it
still stands there. [DESIGN CHOICE, log 126] -/
def takeBack (s : State) (o : OpRun) : State :=
  let r : Reg := ((usedFields o.e.instr).find? fun f => f.1 == .rw).elim 0 (·.2)
  if o.b.counted = 0 then s
  else
    match namedSync s o r with
    | .ok (s, some c) =>
      let s := cellNow s c 16
      let w := syncRead s o.b.ag.view c
      syncCount s o.b.ag c w { w with count := w.count - o.b.counted }
    | _ => s

/-- A running operation becomes FAULTED. [DEDUCED, log 60] -/
def failOp (s : State) (core slot : Nat) (e : TokenEntry) (c : Cause) (addr : Word) : State :=
  let s := if c = .version then settleLayer s e.ids.jobid slot e.seq else discardLayer s e.ids.jobid slot e.seq
  endTok (releaseHeld (takeBack s (opRun s core slot e none)) (opRun s core slot e none)) core slot .faulted
    (some (c, addr))

/-- An operation in flight is cancelled (R154). [DEDUCED, log 57] -/
def cancelOp (s : State) (core slot : Nat) (e : TokenEntry) : State :=
  if e.state = .running then
    let s := discardLayer (tornRun s core slot e) e.ids.jobid slot e.seq
    endTok (releaseHeld (takeBack s (opRun s core slot e none)) (opRun s core slot e none)) core slot .cancelled none
  else endTok s core slot .cancelled none

/-- The running operation of a slot. -/
def runningAt (s : State) (core slot : Nat) : Option TokenEntry :=
  match Tab.get? (tokens s core) slot with
  | some e => if e.state = .running then some e else none
  | none => none

/-! ### The sources of a running operation (R103, R117) -/

/-- Whether a part of a footprint holds another that is read. -/
def FootPart.holds : FootPart → FootPart → Bool
  | .spad a b _, .spad c d _ => a ≤ c && d ≤ b
  | .glob a b _, .glob c d _ => a ≤ c && d ≤ b
  | _, _ => false

/-- A running operation reads a range of its sources and keeps what it has read (R117).
[DESIGN CHOICE, log 2] -/
def opReadPart (s : State) (core slot va len : Nat) : State :=
  match runningAt s core slot with
  | none => s
  | some e =>
    let o := opRun s core slot e none
    match o.b.ag.job with
    | none => s
    | some j =>
      let parts := rangeParts j (BitVec.ofNat 64 va) len false
      if va % 8 == 0 && len % 8 == 0 && len != 0 && parts.all fun p => e.foot.any fun f => f.holds p then
        match readRange s { o.b with keep := true } (BitVec.ofNat 64 va) len with
        | .ok (s, _) => s
        | .error _ => s
      else s

/-! ### ENGINE_SELECT (R162) -/

/-- The operation an engine chooses: the highest priority, then the greatest age. -/
def chosen (s : State) (core : Nat) (eng : Engine) : Option (Nat × TokenEntry) :=
  let ready := (tokens s core).filter fun x => x.2.state == .ready && engineOf x.2.instr == some eng
  [3, 2, 1, 0].findSome? fun (p : Nat) =>
    oldest (getCore s core).nextSeq (ready.filter fun x => x.2.prio.toNat == p)

/-- Whether an engine can take another operation: the matrix engine serves one at a time.
[DEDUCED, log 58] -/
def engineFree (s : State) (core : Nat) (eng : Engine) : Bool :=
  eng != .matrix || !((tokens s core).any fun x => x.2.state == .running && engineOf x.2.instr == some .matrix)

/-- [DEDUCED, log 4, 58, 59] -/
def execEngineSelect (core : Nat) (eng : Engine) (s : State) : Result :=
  .next (match (if engineFree s core eng then chosen s core eng else none) with
    | none => s
    | some (slot, e) =>
      let s := modTok s core slot fun e => { e with state := .running }
      match prepareOp s (opRun s core slot { e with state := .running } none) with
      | .ok s => s
      | .error _ => s)

/-! ### CHILD_OP_DONE, CHILD_OP_FAULT (R154, R201) -/

/-- [DEDUCED, log 2, 4] -/
def execChildOpDone (core tok : Nat) (s : State) : Result :=
  .next (match runningAt s core tok with
    | none => s
    | some e =>
      match prepareOp s (opRun s core tok e none) with
      | .error x => noteWaiting s (.op core tok e.seq) x.1.page
      | .ok s =>
        match runningAt s core tok with
        | none => s
        | some e =>
          if e.ran then finishOp s core tok e
          else
            match runOp (opRun s core tok e none) s with
            | .done s' => finishOp s' core tok e
            | .wait page => noteWaiting s (.op core tok e.seq) page
            | _ => s)

/-- Whether a member's instance has failed elsewhere (R225). -/
def instanceFailed (s : State) (core : Nat) (e : TokenEntry) : Bool :=
  match collOp e.instr with
  | none => false
  | some x => (getPart s e.ids.part).failedColl.any fun f => f.covers (collKey core e x) e.ids

/-- What a failing run leaves: after VERSION the writes it had performed (R116), else a torn footprint.
[DEDUCED, log 60] -/
def faultState (s s' : State) (core slot : Nat) (e : TokenEntry) (c : Cause) : State :=
  if c = .version then s' else tornRun s core slot e

def execChildOpFault (core tok : Nat) (s : State) : Result :=
  .next (match runningAt s core tok with
    | none => s
    | some e =>
      if instanceFailed s core e then failOp s core tok e .async 0
      else if e.ran then s
      else
        match prepareOp s (opRun s core tok e none) with
        | .error (.fault c, a) => failOp s core tok e c a
        | .error _ => s
        | .ok s =>
          match runningAt s core tok with
          | none => s
          | some e =>
            match runOp (opRun s core tok e none) s with
            | .fault s' c a => failOp (faultState s s' core tok e c) core tok e c a
            | _ => s)

/-! ### COLLECTIVE_INSTANCE (R223–R225) -/

/-- A running member on this chip. -/
structure LocalMember where
  core : Nat
  slot : Nat
  e : TokenEntry
  x : EngOp

/-- The running members of an instance. -/
def localMembers (s : State) (part : Nat) (k : CollKey) : List LocalMember :=
  s.cores.flatMap fun c => c.2.tokens.filterMap fun t =>
    match collOp t.2.instr with
    | none => none
    | some x =>
      if t.2.state == .running && t.2.ids.part == part && x.lvl.toNat == k.1 && collKey c.1 t.2 x == k then
        some ⟨c.1, t.1, t.2, x⟩
      else none

def LocalMember.run (s : State) (m : LocalMember) : OpRun := opRun s m.core m.slot m.e none

/-- Whether a flag carries the contribution of a member of a level-6 collective. -/
def isContribution (e : TokenEntry) (x : EngOp) : FlagBody → Bool
  | .collective cid ordinal member .. =>
    x.lvl.toNat == 6 && cid.toNat == (opVal e .re).toNat % 2048 && ordinal == e.ordinal
      && member == (memberOf e x).index
  | _ => false

/-- Whether a member's part is still under way to a peer chip (R421, R463). [DEDUCED, log 70] -/
def untold (s : State) (e : TokenEntry) (x : EngOp) : Bool :=
  s.fabric.pending.any fun f => f.part == e.ids.part && isContribution e x f.body

/-- Every member fails: those named with their own cause, the others with ASYNC (R225).
[DEDUCED, log 70] -/
def failMembers (s : State) (ms : List LocalMember) (cause : LocalMember → Option (Cause × Word)) : State :=
  ms.foldl (fun s m =>
    let c := (cause m).getD (.async, 0)
    failOp s m.core m.slot m.e c.1 c.2) s

/-- Why a member's part of a range access fails. -/
def ownFailure {α : Type} (x : Except BulkFail α) : Option (Cause × Word) :=
  match x with
  | .error (.fault c, a) => some (c, a)
  | _ => none

/-- The page whose request a member's part waits for. -/
def waitPage {α : Type} (x : Except BulkFail α) : Option Nat :=
  match x with
  | .error (e, _) => e.page
  | .ok _ => none

/-- The bytes of a source that was read. [DEDUCED, log 59] -/
def sourceBytes (x : Except BulkFail (State × List Byte)) : List Byte :=
  match x with
  | .ok y => y.2
  | .error _ => []

/-- The sources of all members, in index order. -/
def instanceSources (s : State) (ms : List LocalMember) (rs : List RemoteMember) : List (List Byte) :=
  let all := ms.map (fun m => ((memberOf m.e m.x).index, sourceBytes (collSource s (m.run s) m.x)))
    ++ rs.map fun r => (r.member, r.data)
  (List.range all.length).map fun i => ((all.find? fun y => y.1 == i).map (·.2)).getD []

/-- Deliver every member's result, then complete the members. -/
def deliverAll (s : State) (ms : List LocalMember) (srcs : List (List Byte)) : State :=
  let out := fun (m : LocalMember) => collResult (memberOf m.e m.x) (memberOf m.e m.x).index srcs
  let s := ms.foldl (fun s m =>
    match collDeliver s (m.run s) m.x (out m) with
    | .ok s => s
    | .error _ => s) s
  ms.foldl (fun s m => finishOp s m.core m.slot m.e) s

/-- [DEDUCED, log 70] -/
def execCollectiveInstance (part lvl dom cid ordinal : Nat) (s : State) : Result :=
  let k : CollKey := (lvl, dom, cid, ordinal)
  let ms := localMembers s part k
  let rs := sentParts s part k
  .next (match ms with
    | [] => s
    | m :: _ =>
      let n := collSize m.e.ids m.x
      if ms.length + rs.length < n || ms.any (fun m => instanceFailed s m.core m.e || untold s m.e m.x) then s
      else
        let used := fun (s : State) =>
          { s with fabric := { s.fabric with remote := s.fabric.remote.filter fun r => !rs.contains r } }
        if !membersOk n (ms.map (fun m => memberOf m.e m.x) ++ rs.map remoteMember) then
          used (failMembers s ms fun _ => some (.perm, 0))
        else
          let src := fun (m : LocalMember) => collSource s (m.run s) m.x
          let srcs := instanceSources s ms rs
          let dst := fun (m : LocalMember) =>
            collDeliver s (m.run s) m.x (collResult (memberOf m.e m.x) (memberOf m.e m.x).index srcs)
          let why := fun m => (ownFailure (src m)).or (ownFailure (dst m))
          let page := fun m => (waitPage (src m)).or (waitPage (dst m))
          if ms.any fun m => (page m).isSome then
            ms.foldl (fun s m => noteWaiting s (.op m.core m.slot m.e.seq) (page m)) s
          else if ms.any fun m => (why m).isSome then used (failMembers s ms why)
          else used (deliverAll s ms srcs))

/-! ### A part of a running operation's writes (R103, R117, R129) -/

/-- The operations that write memory, and no sync word, in an order of their own: all their writes may be performed
ahead of their completion. [DESIGN CHOICE, log 2] -/
def runsAhead (i : Instr) : Bool :=
  match i with
  | .kvapp _ | .kvevt _ | .kvfet _ | .rqnt _ | .dirlk _ | .fradvPub _ | .fradvPin _ | .fradvUnpin _ => true
  | _ => false

/-- A running operation has written a range of its destination. -/
def notePerformed (s : State) (core slot : Nat) (l : List (Nat × Nat)) : State :=
  modTok s core slot fun e => { e with performed := e.performed ++ l }

/-- Whether a range meets none of those written already. -/
def unperformed (e : TokenEntry) (va len : Nat) : Bool :=
  e.performed.all fun r => va + len ≤ r.1 || r.1 + r.2 ≤ va

/-- A member of a collective whose instance could run writes a range of its destination; every member has read its
sources by then (R205, R223). [DESIGN CHOICE, log 2] -/
def collWritePart (s : State) (core slot : Nat) (e : TokenEntry) (x : EngOp) (va len : Nat) : State :=
  let k := collKey core e x
  let part := e.ids.part
  let ms := localMembers s part k
  let rs := sentParts s part k
  let n := collSize e.ids x
  if ms.length + rs.length < n || ms.any (fun m => instanceFailed s m.core m.e)
      || !membersOk n (ms.map (fun m => memberOf m.e m.x) ++ rs.map remoteMember) then s
  else
    let keep (o : OpRun) : OpRun := { o with b := { o.b with keep := true } }
    match ms.foldl (fun r m => r.bind fun s => (collSource s (keep (m.run s)) m.x).map (·.1)) (Except.ok s) with
    | .error _ => s
    | .ok s =>
      match runningAt s core slot with
      | none => s
      | some e =>
        let o := opRun s core slot e none
        let bs := collResult (memberOf e x) (memberOf e x).index (instanceSources s (localMembers s part k) rs)
        match collDeliver s { o with b := { o.b with only := some (va, len) } } x bs with
        | .ok s => notePerformed s core slot [(va, len)]
        | .error _ => s

/-- A DCMP joins the lines of a range; those not stored compressed it leaves (R208).
[DESIGN CHOICE, log 2] -/
def joinPart (s : State) (o : OpRun) (va len : Nat) : State :=
  match runOp { o with b := { o.b with only := some (va, len) } } s with
  | .done t =>
    notePerformed t o.core o.slot ((pieces va len).filter fun p =>
      p.1 % 256 == 0 && p.2 == 256 && 0 < joinedBytes s o.b [p] && joinedBytes t o.b [p] == 0)
  | _ => s

/-- A running operation performs the writes of a range of its destination ahead of the others, or all of them
(R103, R117); it has read all its sources by then (R205). [DESIGN CHOICE, log 2] -/
def opWritePart (s : State) (core slot va len : Nat) : State :=
  match runningAt s core slot with
  | none => s
  | some e =>
    let o := opRun s core slot e none
    if runsAhead e.instr then
      match e.ran, prepareOp s o with
      | false, .ok s =>
        match (runningAt s core slot).map fun e => runOp (opRun s core slot e none) s with
        | some (.done s) => modTok s core slot fun e => { e with ran := true }
        | _ => s
      | _, _ => s
    else if va % 8 != 0 || len % 8 != 0 || len == 0 || !unperformed e va len then s
    else
      match e.instr, collOp e.instr with
      | .dcmp _, _ => joinPart s o va len
      | _, some x => collWritePart s core slot e x va len
      | i, none =>
        if tearable i then
          match runOp { o with b := { o.b with only := some (va, len), keep := true } } s with
          | .done s => notePerformed s core slot [(va, len)]
          | _ => s
        else s

/-- The range of virtual addresses that an operation with a sync word writes, and the field that names it. -/
def countedRange (o : OpRun) : Option (Nat × Nat × Reg) :=
  match o.e.instr with
  | .cpy x => some ((o.v .rb).toNat, o.w32 .rc, x.rw)
  | .gath x => some (Config.spadWindow + 256 * x.ln.toNat, 256 * x.cnt.toNat, x.rw)
  | .dcmp x => some ((o.v .ra).toNat, o.w32 .rc, x.rw)
  | i => (collOp i).map fun x =>
    ((o.v .rb).toNat, (collLengths (collKind i) (collSize o.e.ids x) x (o.w32 .rc)).2, x.rw)

/-- The bytes of a range that have been written already. [DESIGN CHOICE, log 126] -/
def performedIn (e : TokenEntry) (va len : Nat) : Nat :=
  (e.performed.map fun r => min (va + len) (r.1 + r.2) - max va r.1).sum

/-- A running operation adds bytes that it has written to its sync word, ahead of the others and short of an advance
(R119, R129). [DESIGN CHOICE, log 126] -/
def opCount (s : State) (core slot n : Nat) : State :=
  match runningAt s core slot with
  | none => s
  | some e =>
    let o := opRun s core slot e none
    match countedRange o with
    | none => s
    | some (va, len, r) =>
      match namedSync s o r with
      | .ok (s, some c) =>
        let t := cellNow s c 16
        let w := syncRead t o.b.ag.view c
        if e.counted + n ≤ performedIn e va len && (w.target == 0 || w.count + n < w.target) then
          modTok (syncAdd o c n t) core slot fun e => { e with counted := e.counted + n }
        else s
      | _ => s

/-! ### LINK_TIMEOUT (R463) -/

/-- 2 ms. -/
def linkLimit : Nat := 2000000

/-- A message of a running operation that has not been delivered for 2 ms. -/
def linkOverdue (s : State) (e : TokenEntry) : Bool :=
  e.requests.any (fun r => !r.delivered && r.reply.isNone && r.sentAt + linkLimit ≤ s.time)
  || (match collOp e.instr with
    | none => false
    | some x => s.fabric.pending.any fun f =>
        f.part == e.ids.part && headFlag s f && f.sentAt + linkLimit ≤ s.time && isContribution e x f.body)

def execLinkTimeout (core tok : Nat) (s : State) : Result :=
  .next (match runningAt s core tok with
    | none => s
    | some e => if linkOverdue s e then failOp s core tok e .link 0 else s)

/-! ### CNCL (R192) -/

/-- [DEDUCED, log 57] -/
def execCncl (g : Guard) (a : Reg) (s : State) : Result :=
  issue (.cncl g a) allStrms (some g) free (fun s => do
    match ← tokenOperand s a with
    | none => .ok (.next s)
    | some (slot, e) =>
      let s := if e.state.inFlight then cancelOp s s.cur.core slot e else s
      -- the completion of a CNCL reports the failure (R190)
      let s := if e.state = .done then s else report s slot
      .ok (.next (acquireSide s 0))) s

end Sys2Proof.Machine
end

