-- ==== Sys2Proof/Machine/Sched.lean ====
section
/-! DEFINITION. Arming, launch parameters, early successors, rungs and migration (R344–R351, R359–R361), and
the events of the dispatcher and the periodic scheduler (R345–R348, R357, R358, R362, R363). -/

namespace Sys2Proof.Machine

/-! ### ARM, LPUT, LSUC, LPRW (R344, R350, R351) -/

/-- The checks of an ARM. -/
def armAllowed (s : State) (i : Nat) : Bool :=
  armable s (curPart s) i (getLaunch s i) && (getLaunch s i).flags / 8 % 2 == 0

/-- A rung request of the job, or a migration, has not reached the arbiter yet: what the job does next comes after it
(R354). [DEDUCED, log 80] -/
def requestsOut (s : State) : Bool :=
  !replaying s (curPart s) && (getPart s (curPart s)).rungReqs.any fun e => e.1 == (curJob s).ids.jobid

/-- Release side at partition scope (R110), ahead of the arming. -/
def armRelease (s : State) : State := releaseSide s 4

/-- The arming by an ARM (R343), and its event. -/
def armNow (s : State) (i : Nat) : State :=
  settlePool (logEvent (armRecord s i) (curPart s) 1 3 (getLaunch (armRecord s i) i).streamId i 0)

/-- ARM. Where its checks and its release have been made already (R344), only its arming is left.
[DEDUCED, log 84] -/
def execArm (g : Guard) (a : Reg) (s : State) : Result :=
  issue (.arm g a) allStrms (some g) free (fun s => do
    let p := curPart s
    let i := (rd s a).toNat
    check ((curStream s).arming || armAllowed s i) .launch (rd s a)
    let _ ← waitFor (!requestsOut s) (.other none)
    match eventTurn s p 1 i with
    | .later => .error (.wait (.other none))
    | .diverges => .ok (.stay (requestStop s p 3 0) (.other none))
    | .now =>
      if (curStream s).arming then
        let s := modCurStream s fun st => { st with arming := false }
        if armAllowed s i then .ok (.next (armNow s i)) else .error (.trapIn s .launch (rd s a) 0)
      else .ok (.next (armNow (armRelease s) i))) s

/-- An LPUT (R344): the record's state and `ok` are checked, then the field is written.
[DEDUCED, log 84] -/
def lput (i : Instr) (g : Guard) (a b : Reg) (ok : Word → Bool) (f : Launch → Word → Launch) (s : State) : Result :=
  issue i allStrms (some g) free (fun s => do
    let n := (rd s a).toNat
    let l := getLaunch s n
    check (inShare s (curPart s) n && (l.state == 1 || l.state == 4) && ok (rd s b)) .launch (rd s a)
    .ok (.next (modLaunch s n fun l => f l (rd s b)))) s

def execLputDeadline (g : Guard) (a b : Reg) (s : State) : Result :=
  lput (.lputDeadline g a b) g a b (fun _ => true) (fun l v => l.put 0x20 8 v.toNat) s

def execLputArgs (g : Guard) (a b : Reg) (s : State) : Result :=
  lput (.lputArgs g a b) g a b (fun _ => true) (fun l v => l.put 0x10 8 v.toNat) s

def execLputCount (g : Guard) (a b : Reg) (s : State) : Result :=
  lput (.lputCount g a b) g a b (fun v => v.toNat < 2 ^ 32) (fun l v => l.put 0x18 4 v.toNat) s

/-- fn 3–7: the patch word fn − 3 (R344). -/
def execLputPatch (g : Guard) (f : BitVec 3) (a b : Reg) (s : State) : Result :=
  lput (.lputPatch g f a b) g a b (fun _ => true) (fun l v => l.put (0x50 + 8 * (f.toNat - 3)) 8 v.toNat) s

def execLsuc (g : Guard) (s : State) : Result :=
  simple (.lsuc g) (some g) (fun s =>
    let j := curJob s
    if j.signalled then s
    else
      settlePool (modLaunch (modCurJob s fun j => { j with signalled := true }) j.ids.launch fun l =>
        { l with opened := l.opened + 1 })) s

/-- Whether every predecessor of a job's launch, as latched, has retired (R351). -/
def predsRetired (s : State) (j : Job) : Bool := (getLaunch s j.ids.launch).preds.all fun x => x.2.2 == 4

def execLprw (g : Guard) (s : State) : Result :=
  issue (.lprw g) allStrms (some g) free (fun s =>
    if predsRetired s (curJob s) then .ok (.next (acquireSide s 5)) else .error (.wait (.other (some 2083)))) s

/-! ### RUNG, MIGR (R360, R361) -/

/-- [DEDUCED, log 84] -/
def rungChecks (s : State) (a : Word) : Exec Unit :=
  check (a.toNat < 256 && streamOwner s a.toNat == some (curPart s)) .perm a

/-- [DEDUCED, log 80] -/
def execRung (g : Guard) (d a : Reg) (s : State) : Result :=
  issue (.rung g d a) allStrms (some g) free (fun s => do
    rungChecks s (rd s a)
    .ok (.next (wr s d (BitVec.ofNat 64 ((getSdesc s (rd s a).toNat).get 0x40 1))))) s

def execRungReq (g : Guard) (d a b : Reg) (s : State) : Result :=
  issue (.rungReq g d a b) allStrms (some g) free (fun s => do
    rungChecks s (rd s a)
    let st := (rd s a).toNat
    check (rungPresent (getSdesc s st) (rd s b).toNat) .launch (rd s b)
    let cur := (getSdesc s st).get 0x40 1
    let s' := modPart s (curPart s) fun p => { p with rungReqs := p.rungReqs ++ [((curJob s).ids.jobid, st, (rd s b).toNat)] }
    .ok (.next (wr s' d (BitVec.ofNat 64 cur)))) s

/-- The partition lacks the migration permission of PERMS bit 2 (R402). -/
def lacksMigration (s : State) : Bool := !bitOf (getPart s (curPart s)).perms 5

/-- [DEDUCED, log 80, 84] -/
def execMigr (g : Guard) (d a b : Reg) (s : State) : Result :=
  issue (.migr g d a b) allStrms (some g) lacksMigration (fun s => do
    let p := curPart s
    let src := rd s a
    let dst := rd s b
    check (src.toNat < coreCount s p) .perm src
    check (dst.toNat < coreCount s p) .perm dst
    let n := (rd s d).toNat
    if n = 0 || src = dst || replaying s p then .ok (.next s)
    else
      let _ ← waitFor (arbiterOpen s p && !requestsOut s) (.other none)
      let s := logEvent s p 7 3 0xFFFF src.toNat (dst.toNat * 2 ^ 32 + n)
      .ok (.next (modPart s p fun x => { x with migrations := x.migrations ++ [(src.toNat, dst.toNat, n)] }))) s

/-! ### Cores as the distributor sees them (R15, R17, R30, R363) -/

/-- The jobs that hold a grant on a core: resident and saved (R369). -/
def grantsOn (s : State) (core : Nat) : List Grant :=
  (s.jobs.filter fun e => e.1 / 4 == core).map (·.2.grant)
    ++ (s.saved.filter fun x => x.core == core).map (·.job.grant)

/-- The lowest 4 KiB boundary of a bank group at which `half` bytes are free (R30). [DEDUCED, log 80] -/
def placeHalf (used : List (Nat × Nat)) (lo half : Nat) : Option Nat :=
  ((List.range 129).map fun k => lo + 4096 * k).find? fun b =>
    b + half ≤ lo + Config.groupSplit && used.all fun u => b + half ≤ u.1 || u.1 + u.2 ≤ b

/-- [DEDUCED, log 80] -/
def placeGrant (s : State) (core bytes : Nat) : Option Grant :=
  let gs := grantsOn s core
  let half := bytes / 2
  match placeHalf (gs.map fun g => (g.base0, g.half)) 0 half,
      placeHalf (gs.map fun g => (g.base1, g.half)) Config.groupSplit half with
  | some a, some b => some ⟨half, a, b⟩
  | _, _ => none

/-- Rows reserved on a core (R15). -/
def rowsReserved (s : State) (core : Nat) : Nat :=
  ((s.jobs.filter fun e => e.1 / 4 == core).map fun e => e.2.ids.rowRes).sum

/-- The slot that a job takes: the lowest free one. [DESIGN CHOICE, log 123] -/
def freeJobSlot (s : State) (core : Nat) : Option Nat :=
  (List.range 4).find? fun k => (Tab.get? s.jobs (slotKey core k)).isNone

/-- Whether a job of this reservation and grant can become resident at once (R15 to R17). -/
def fitsNow (s : State) (core rows bytes : Nat) : Bool :=
  (freeJobSlot s core).isSome && rowsReserved s core + rows ≤ Config.physRows && (placeGrant s core bytes).isSome

def residentCount (s : State) (core : Nat) : Nat := (s.jobs.filter fun e => e.1 / 4 == core).length

/-- Records allotted to a core and not yet dealt. -/
def allottedTo (s : State) (core : Nat) : Nat := ((getCore s core).localQueue.map (·.2.2)).sum

/-- The cores that hold allotted or dealt records of a launch (R346). -/
def holdsLaunch (s : State) (i core : Nat) : Bool :=
  (getCore s core).localQueue.any (fun c => c.1 == i)
    || s.jobs.any (fun e => e.1 / 4 == core && e.2.ids.launch == i)
    || s.saved.any fun x => x.core == core && x.job.ids.launch == i

/-- When a core can take a chunk (R363): now, or when its cluster will have woken and 2 µs more.
[DEDUCED, log 82] -/
def readyTime (s : State) (core : Nat) : Nat :=
  let cl := clusterOf core
  let c := getCluster s cl
  if !c.gated then s.time
  else
    match c.wakeAt with
    | some t => max t s.time + 2000
    | none =>
      let first := match s.lastWake with | some t => max s.time (t + 250) | none => s.time
      first + 250 * (s.wakeQueue.takeWhile (· != cl)).length + 2000 + 2000

/-! ### Job cards and allotment (R59, R346, R363) -/

/-- The dispatcher's read of a launch's card (R60). -/
def cardBytes (s : State) (p i : Nat) : Except BulkFail (State × List Byte) :=
  let l := getLaunch s i
  readRange s (dispatcher p l.armedPasid.toNat i) (BitVec.ofNat 64 (l.get 8 8)) 64

/-- The page for which the read of a launch's card waits (R395). [DEDUCED, log 125] -/
def cardPage (s : State) (p i : Nat) : Option Nat :=
  if (getLaunch s i).card.isSome then none
  else
    match cardBytes s p i with
    | .error e => e.1.page
    | .ok _ => none

/-- The card as read for a launch (R17, R59, R494). [DEDUCED, log 80] -/
def readCard (s : State) (p i : Nat) : State × Card :=
  let va : Word := BitVec.ofNat 64 ((getLaunch s i).get 8 8)
  match cardBytes s p i with
  | .error e => (usedRefusal s (.device p i), ⟨0, 0, 0, 0, 0, 0, some (failCause e.1, e.2)⟩)
  | .ok (s, bs) =>
    let u := fun o n => ofLe (slice bs o n)
    let rows := u 8 2
    let spad := u 0x0C 4
    let verq := u 0x10 4
    let ok := u 0x0A 2 == 0 && (slice bs 0x1A 38).all (· == 0) && spad % 8192 == 0 && verq % 256 == 0
      && rows ≤ 1024 && spad ≤ 2 ^ 20
    (usedRefusal s (.device p i),
     { entry := BitVec.ofNat 64 (u 0 8), rows := rows, grant := spad,
       quota := if verq = 0 then 0x40000 else verq, minChunk := u 0x14 4, divisor := u 0x18 2,
       bad := if ok then none else some (.launch, va) })

/-- The cores a chunk of a launch may go to (R346, R363). [DEDUCED, log 82] -/
def chunkCores (s : State) (p i : Nat) : List Nat :=
  let l := getLaunch s i
  let all := coresOfPart s p
  let held := all.filter (holdsLaunch s i)
  let allowed :=
    if l.flags / 4 % 2 == 1 && !l.cores.isEmpty then l.cores
    else if widthOf s p l ≤ held.length then held else all
  allowed.filter fun c => (getCore s c).localQueue.length < 8

/-- The keys of R363 for one core, lowest first. [DEDUCED, log 82, 131] -/
def coreKey (s : State) (card : Card) (core : Nat) : List Nat :=
  [readyTime s core, b2n !(fitsNow s core card.rows card.grant && (getCore s core).localQueue.isEmpty),
   residentCount s core + allottedTo s core, b2n (getCluster s (clusterOf core)).gated, core]

/-- Lexicographic order. -/
def listBefore : List Nat → List Nat → Bool
  | a :: as, b :: bs => if a = b then listBefore as bs else a < b
  | _, _ => false

/-- The first of some elements in an order. -/
def firstBy {α : Type} (before : α → α → Bool) : List α → Option α
  | [] => none
  | x :: xs => some (xs.foldl (fun b y => if before y b then y else b) x)

/-- R346: the records of the next chunk. -/
def chunkSize (remaining minChunk divisor w : Nat) : Nat :=
  min remaining (max (if minChunk = 0 then 1 else minChunk)
    (ceilDiv remaining ((if divisor = 0 then 2 else divisor) * max 1 w)))

/-- Launches of a partition that are armed, ready and not wholly allotted. -/
def candidates (s : State) (p : Nat) : List Nat :=
  (s.pool.map (·.1)).filter fun i =>
    let l := getLaunch s i
    inShare s p i && (l.state == 2 || l.state == 3) && l.since.isSome && l.next < l.count

/-- Launches seen with negative slack at a dispatch decision (R357). -/
def noteSlack (s : State) (p : Nat) : State :=
  (candidates s p).foldl (fun s i =>
    if (launchKey s p i).2.1 < 0 then
      match frameOf s i with
      | some (st, f) => sawNegative s p st f
      | none => s
    else s) s

/-- Ask a gated cluster to wake (R363). -/
def requestWake (s : State) (cl : Nat) : State :=
  let c := getCluster s cl
  if c.gated && c.wakeAt.isNone && !s.wakeQueue.contains cl then { s with wakeQueue := s.wakeQueue ++ [cl] } else s

/-- Allot the next chunk of a launch to a core. -/
def allotTo (s : State) (p i : Nat) (card : Card) (core : Nat) : State :=
  let l := getLaunch s i
  let n := chunkSize (l.count - l.next) card.minChunk card.divisor (widthOf s p l)
  let s := modCore s core fun c => { c with localQueue := c.localQueue ++ [(i, l.next, n)] }
  let s := modLaunch s i fun l =>
    let m := l.put 0 1 3
    let cs := if l.cores.isEmpty then [core] else l.cores
    { m with next := l.next + n, since := some s.time, cores := cs }
  settlePool (requestWake s (clusterOf core))

/-- The reads of cards that wait for a host page (R395). -/
def noteCards (s : State) (p : Nat) : State :=
  (candidates s p).foldl (fun s i => noteWaiting s (.device p i) (cardPage s p i)) s

/-- R346 to R348, R363: the dispatcher allots a chunk of the first launch in its order that has a core, and whose card
is read. [DEDUCED, log 80] -/
def execLaunchAllot (part : Nat) (s : State) : Result :=
  if stopped s part then .next s
  else
    match firstBy (fun a b => keyBefore (launchKey s part a) (launchKey s part b))
        ((candidates s part).filter fun i => !(chunkCores s part i).isEmpty && (cardPage s part i).isNone) with
    | none => .next (noteCards s part)
    | some i =>
      let s := noteCards s part
      let s := sample (noteSlack s part) part 4 0 (launchKey s part i).2.1.toNat
      let l := getLaunch s i
      let r := match l.card with
        | some c => (s, c)
        | none => readCard s part i
      let s := modLaunch r.1 i fun l => { l with card := some r.2 }
      match firstBy (fun a b => listBefore (coreKey s r.2 a) (coreKey s r.2 b)) (chunkCores s part i) with
      | none => .next s
      | some core => .next (allotTo s part i r.2 core)

/-! ### Room for a saved context (R369) -/

/-- The shadow plane's contexts of a core. -/
def inPlane (s : State) (core : Nat) : List Saved := s.saved.filter fun x => x.core == core && !x.inMemory

/-- A partition's contexts in its context area. -/
def inArea (s : State) (p : Nat) : Nat := (s.saved.filter fun x => x.job.ids.part == p && x.inMemory).length

/-- Context slots of a partition: 640 KiB each; none with base or size 0. [DEDUCED, log 87] -/
def areaSlots (s : State) (p : Nat) : Nat :=
  if (getPart s p).ctxBase = 0 then 0 else (getPart s p).ctxSize.toNat / 655360

/-- Whether `n` more contexts of `rows` rows in all find room in the shadow plane. -/
def planeRoom (s : State) (core n rows : Nat) : Bool :=
  (inPlane s core).length + n ≤ 4 && ((inPlane s core).map fun x => residentRows x.job).sum + rows ≤ Config.physRows

/-- A job that has been asked to leave, or is leaving. -/
def leaving (j : Job) : Bool :=
  requested j || (match j.phase with | .draining _ => true | .flipping _ => true | _ => false)

/-- The jobs that leave a core, and the rows that they may have by then: their reservations.
[DEDUCED, log 85] -/
def leavers (s : State) (core : Nat) : List Job := ((jobsOfCore s core).filter fun e => leaving e.2).map (·.2)

def reserved (js : List Job) : Nat := (js.map fun j => j.ids.rowRes).sum

/-- How many of the oldest contexts of a core's shadow plane go to the context area before these jobs' contexts find
room (R369). -/
def spillsFor (s : State) (core : Nat) (js : List Job) : Nat :=
  let rows := (inPlane s core).map fun x => residentRows x.job
  ((List.range (rows.length + 1)).find? fun k =>
    rows.length - k + js.length ≤ 4 && (rows.drop k).sum + reserved js ≤ Config.physRows).getD rows.length

/-- Whether the context area of a partition has the slots that the jobs which leave its cores may need, with `js` in
the place of those that leave `core`. [DEDUCED, log 85] -/
def slotsFor (s : State) (p core : Nat) (js : List Job) : Bool :=
  inArea s p + ((coresOfPart s p).map fun c => spillsFor s c (if c = core then js else leavers s c)).sum ≤ areaSlots s p

/-- The first context that satisfies `p` changes. -/
def changeFirst (p : Saved → Bool) (f : Saved → Saved) : List Saved → List Saved
  | [] => []
  | x :: xs => if p x then f x :: xs else x :: changeFirst p f xs

/-- A context is marked as in the area, or in the shadow plane. -/
def moveSaved (s : State) (jobid : Nat) (area : Bool) : State :=
  { s with saved := changeFirst (fun x => x.job.ids.jobid == jobid) (fun x => { x with inMemory := area }) s.saved }

/-- The oldest other contexts of the shadow plane go to the area until what it holds fits, where the area then still
has what the leaving jobs may need. [DEDUCED, log 87] -/
def spillFor (s : State) (core : Nat) (x : Saved) : Nat → Option State
  | 0 => none
  | n + 1 =>
    if planeRoom s core 0 0 then (if slotsFor s x.job.ids.part core (leavers s core) then some s else none)
    else
      match (inPlane s core).find? fun y => y.job.ids.jobid != x.job.ids.jobid with
      | some y => spillFor (moveSaved s y.job.ids.jobid true) core x n
      | none => none

/-- A context of the area returns to the shadow plane (R370); where the plane is full, its oldest contexts take the
place in the area that it leaves, and free ones. [DEDUCED, log 87] -/
def bringIn (s : State) (x : Saved) : Option State := spillFor (moveSaved s x.job.ids.jobid false) x.core x 5

/-! ### Dealing (R34, R347, R370, R494) -/

/-- Whether a saved context can be restored to its core (R370), by way of the shadow plane. -/
def canRestore (s : State) (x : Saved) : Bool :=
  (freeJobSlot s x.core).isSome && rowsReserved s x.core + x.job.ids.rowRes ≤ Config.physRows
    && (!x.inMemory || (bringIn s x).isSome)

/-- The key of a saved job: a ready launch of one record that ages from its save (R370). -/
def savedKey (s : State) (x : Saved) : DealKey := dealKey s x.job.ids.part x.job.ids.launch 1 1 x.savedAt

/-- The saved context of a core that the dispatcher would restore next. -/
def nextSaved (s : State) (core : Nat) : Option Saved :=
  firstBy (fun a b => keyBefore (savedKey s a) (savedKey s b))
    (s.saved.filter fun x => x.core == core && canRestore s x)

/-- Whether a saved context goes before the head of the core's local queue. [DEDUCED, log 87] -/
def savedFirst (s : State) (p core i : Nat) : Bool :=
  match nextSaved s core with
  | some x => !keyBefore (launchKey s p i) (savedKey s x)
  | none => false

/-- Whether the head of a core's local queue can be dealt: where it finds no place, it holds back no saved context
(R370, R374). [DEDUCED, log 87] -/
def headFits (s : State) (core i : Nat) : Bool :=
  match (getLaunch s i).card with
  | some card => card.bad.isSome || fitsNow s core card.rows card.grant
  | none => false

/-- The head record leaves the local queue. -/
def takeHead : List (Nat × Nat × Nat) → List (Nat × Nat × Nat)
  | [] => []
  | (i, r, n) :: t => if n ≤ 1 then t else (i, r + 1, n - 1) :: t

/-- The head record of a core's queue leaves it. -/
def popHead (s : State) (core : Nat) : State := modCore s core fun c => { c with localQueue := takeHead c.localQueue }

/-- The head record of a core's queue is retired unstarted (R17, R34, R59, R494), once its fault record is
written. [DEDUCED, log 125] -/
def retireUnstarted (s : State) (p core i record : Nat) (c : Cause) (addr : Word) : State :=
  let l := getLaunch s i
  match faultTo s (dispatcher p l.armedPasid.toNat i) l.sink (unstartedRecord c addr i record) with
  | .error s => s
  | .ok s =>
    settlePool (modLaunch (popHead s core) i fun l =>
      { l with dealt := l.dealt + 1, retired := l.retired + 1, opened := l.opened + 1 })

/-- The three first PCs: each word's address plus its signed value (R34). -/
def entryPcs (entry : Word) (bs : List Byte) : List Word :=
  (List.range 3).map fun k =>
    entry + BitVec.ofNat 64 (4 * k) + (BitVec.ofNat 32 (ofLe (slice bs (4 * k) 4))).signExtend 64

/-- The scalar registers at job start (R34). -/
def startRegs (s : State) (p i record core : Nat) : Vector Word 32 :=
  let l := getLaunch s i
  let w := fun n => BitVec.ofNat 64 n
  let base : Vector Word 32 := (Vector.replicate 32 0).setIfInBounds 1 (w (l.get 0x10 8 + record * l.get 0x1C 4))
  let base := ((((base.setIfInBounds 2 (w record)).setIfInBounds 3 (w i)).setIfInBounds 4
    (w (logicalCore s p core))).setIfInBounds 5 (w l.strm))
  (List.range 5).foldl (fun v k => v.setIfInBounds (24 + k) (w (l.get (0x50 + 8 * k) 8))) base

/-- CTL at job start (R88). -/
def startCtl (s : State) (p : Nat) (l : Launch) : Word :=
  BitVec.ofNat 64 (bitsOf (getPart s p).ctlTmpl 0 4 + 16 * b2n (l.flags % 2 == 1 || detPart s p))

/-- The numbers of a new job. [DESIGN CHOICE, log 11] -/
def startIds (s : State) (p i record : Nat) (card : Card) : JobIds :=
  let l := getLaunch s i
  { jobid := s.nextJob, part := p, pasid := l.armedPasid.toNat, launch := i, record := record,
    armseq := l.armseq, stream := BitVec.ofNat 64 (l.strm % 256), rung := BitVec.ofNat 64 (l.strm / 256 % 4),
    dommem := l.dommem, rowRes := card.rows, verQuota := card.quota, sink := l.sink }

/-- A record becomes a resident job (R34); every job starts with an acquire, and its stash is empty. -/
def startJob (s : State) (p core slot i record : Nat) (card : Card) (g : Grant) (pcs : List Word) : State :=
  let l := getLaunch s i
  let job := Job.start (startIds s p i record card) (startCtl s p l) g
  let regs := startRegs s p i record core
  let st := fun k => { Stream.start (pcs.getD k 0) with regs := regs }
  let key := slotKey core slot
  let s := { s with
    nextJob := s.nextJob + 1
    jobs := Tab.set s.jobs key job
    strs := Tab.set (Tab.set (Tab.set s.strs (3 * key) (st 0)) (3 * key + 1) (st 1)) (3 * key + 2) (st 2) }
  settlePool (modLaunch s i fun l => { l with dealt := l.dealt + 1 })

/-- R34, R347: the head record of a core's local queue becomes a resident job, or is retired unstarted. -/
def execJobDeal (core : Nat) (s : State) : Result :=
  match Tab.get? s.clusterOwner (clusterOf core), (getCore s core).localQueue with
  | some p, (i, record, _) :: _ =>
    let l := getLaunch s i
    if stopped s p || (getCluster s (clusterOf core)).gated || savedFirst s p core i then .next s
    else
      match l.card with
      | none => .next s
      | some card =>
        match card.bad with
        | some (c, a) => .next (retireUnstarted s p core i record c a)
        | none =>
          if !fitsNow s core card.rows card.grant then .next s
          else
            match readRange s (dispatcher p l.armedPasid.toNat i) card.entry 12 with
            | .error (.hostWait page, _) => .next (noteWaiting s (.device p i) (some page))
            | .error e => .next (retireUnstarted (usedRefusal s (.device p i)) p core i record (failCause e.1) e.2)
            | .ok (read, bs) =>
              let read := usedRefusal read (.device p i)
              let pcs := entryPcs card.entry bs
              match pcs.find? fun pc => pc.toNat % 4 != 0 with
              | some pc => .next (retireUnstarted read p core i record .align pc)
              | none =>
                match freeJobSlot s core, placeGrant s core card.grant with
                | some slot, some g => .next (startJob (popHead read core) p core slot i record card g pcs)
                | _, _ => .next s
  | _, _ => .next s

/-! ### The launch window (R345) -/

/-- Copy a slot's bytes 0x04 to 0x77 into a record. -/
def copySlot (l : Launch) (bs : List Byte) : Launch :=
  (List.range 15).foldl (fun l k =>
    if k = 0 then l.put 4 4 (ofLe (slice bs 4 4)) else l.put (8 * k) 8 (ofLe (slice bs (8 * k) 8))) l

def nextGo (g : Nat) : Nat := if g = 255 then 1 else g + 1

/-- The address of a share's slot in a launch window. -/
def slotPa (x : Part) (base index : Nat) : Nat := base + 128 * (index - x.shareFirst)

/-- R345: the line monitor reads the go byte of a slot whose line the host has written. -/
def execLaunchWindowArm (index : Nat) (s : State) : Result :=
  match partOfIndex s index with
  | none => .next s
  | some p =>
    match (getPart s p).window with
    | none => .next s
    | some base =>
      let bs := readPa s deviceView false (slotPa (getPart s p) base index) 128
      let l := getLaunch s index
      let read := modPart s p fun x => { x with windowWritten := NatSet.del x.windowWritten index }
      if !NatSet.has (getPart s p).windowWritten index then .next s
      else if (bs.getD 127 0).toNat != l.go then .next read
      else if !arbiterOpen s p then .next s
      else
        let s := modLaunch read index fun l =>
          let l := { l with go := nextGo l.go }
          if (l.state == 1 || l.state == 4) && !replaying s p then copySlot l bs else l
        let l := getLaunch s index
        if replaying s p then .next (failedArming s p index)
        else if armable s p index l then
          let s := armRecord s index
          .next (settlePool (logEvent s p 2 0 l.streamId index 0))
        else .next (logEvent (failedArming s p index) p 2 0 l.streamId index (2 ^ 63))

/-! ### Period boundaries (R357, R358) -/

/-- Frame number bits of an event's ARG (R355). -/
def frameArg (n : Nat) (failed : Bool) : Nat := n % 2 ^ 63 + b2n failed * 2 ^ 63

/-- The rung read from the rung log (R358). [DEDUCED, log 83, 136] -/
def playRung (s : State) (p st : Nat) : State × Nat :=
  let d := getSdesc s st
  let cur := d.get 0x40 1
  let idx := d.get 0x6C 4
  if d.get 0x68 4 ≤ idx then (s, cur)
  else
    let s' := modSdesc s st fun d => d.put 0x6C 4 (idx + 1)
    match readSound s p (d.get 0x60 8 + idx) 1 with
    | some [b] =>
      if rungPresent d b.toNat then
        (if replaying s p then s' else logRung (modSdesc s' st fun d => d.put 0x40 1 b.toNat) p st cur b.toNat 1, b.toNat)
      else (queueFault s' p (unstartedRecord .launch 0 0 0), cur)
    | _ => (queueFault s' p (unstartedRecord .launch 0 0 0), cur)

/-- The rung used is written to the rung log (R358). [DEDUCED, log 83, 136] -/
def recordRung (s : State) (p st r : Nat) : State :=
  let d := getSdesc s st
  let idx := d.get 0x6C 4
  if recordsLog d && idx < d.get 0x68 4 then
    let s' := modSdesc s st fun d => d.put 0x6C 4 (idx + 1)
    (writeIpa s' p (d.get 0x60 8 + idx) [BitVec.ofNat 8 r]).getD s'
  else s

/-- Step 1 of R357: the rung of the frame. In a replay streams play their rung logs (R479).
[DEDUCED, log 83] -/
def fixRung (s : State) (p st : Nat) : State × Nat :=
  if playsLog (getSdesc s st) || replaying s p then playRung s p st
  else
    let r := (getSdesc s st).get 0x40 1
    (recordRung s p st r, r)

/-- The launches of a rung's set, ascending. -/
def rungSet (d : StreamDesc) (r : Nat) : List Nat := (List.range (rungCount d r)).map (rungBase d r + ·)

def setBusy (s : State) (d : StreamDesc) (r : Nat) : Bool :=
  (rungSet d r).any fun i => (getLaunch s i).state == 2 || (getLaunch s i).state == 3

/-- Step 2 of R357: the frame is skipped. -/
def skipFrame (s : State) (p st number r : Nat) : State :=
  let s := logEvent s p 9 1 st (rungBase (getSdesc s st) r) (frameArg number false)
  modSdesc s st fun d =>
    let d := (d.put 0x74 4 (d.get 0x74 4 + 1)).put 0x70 4 (d.get 0x70 4 + 1)
    let d := if playsLog d then d else d.put 0x42 2 0
    { (d.put 0x18 8 (d.get 0x18 8 + 1)) with due := d.due.drop 1 }

/-- One periodic arming of step 3 of R357; whether it armed. -/
def periodicArm (s : State) (p st t number r i : Nat) : State × Bool :=
  let d := getSdesc s st
  let l := getLaunch s i
  let l' := (((l.put 0x20 8 (t + d.get 0x10 8)).put 4 2 (d.get 0x44 1)).put 0x38 4 (st + r * 256 + 2 ^ 31)).put
    0x70 8 number
  if armable s p i l' && l.flags / 8 % 2 == 1 then
    (logEvent (armRecord (modLaunch s i fun _ => l') i) p 3 1 st i (frameArg number false), true)
  else (logEvent (failedArming s p i) p 3 1 st i (frameArg number true), false)

/-- The boundary that is acted on goes on. -/
def modDue (s : State) (st : Nat) (f : DueBoundary → DueBoundary) : State :=
  modSdesc s st fun d => { d with due := d.due.modifyHead f }

/-- A frame is judged from its first arming attempt on: whether the attempt armed its launch. -/
def noteAttempt (s : State) (st number r : Nat) (armed : Bool) : State :=
  modSdesc s st fun d =>
    let d := if d.frames.any fun f => f.number == number then d
      else { d with frames := ⟨number, r, true, false, 0, true⟩ :: d.frames }
    { d with
      frames := d.frames.map fun f =>
        if f.number = number then { f with onTime := f.onTime && armed, left := f.left + b2n armed } else f
      current := if armed then some number else d.current }

/-- The next launch of the set of the boundary that is acted on has its arming attempt (R357, step 3). -/
def armOne (s : State) (p st r : Nat) : State :=
  match (getSdesc s st).due with
  | [] => s
  | b :: _ =>
    let x := periodicArm s p st b.time b.number r (rungBase (getSdesc s st) r + b.next)
    modDue (noteAttempt x.1 st b.number r x.2) st fun b => { b with rung := some r, next := b.next + 1 }

/-- Step 4 of R357, once every launch of the set has had its attempt. -/
def endSet (s : State) (p st r : Nat) : State :=
  match (getSdesc s st).due with
  | [] => s
  | b :: _ =>
    if b.next < rungCount (getSdesc s st) r then s
    else
      let s := modSdesc s st fun d => { (d.put 0x18 8 (d.get 0x18 8 + 1)) with due := d.due.drop 1 }
      judgeFrame (modFrame s st b.number fun f => { f with arming := false }) p st b.number

/-- Steps 3 and 4 of R357, as far as the arbiter takes the events. [DEDUCED, log 83] -/
def armFrame (s : State) (p st r : Nat) (b : DueBoundary) : State :=
  let s := (List.range (rungCount (getSdesc s st) r - b.next)).foldl
    (fun s _ => if arbiterOpen s p then armOne s p st r else s) s
  settlePool (endSet s p st r)

/-- A boundary falls: it is logged with the number of its frame. -/
def boundaryFalls (s : State) (p st : Nat) : State :=
  let d := getSdesc s st
  let number := (d.get 0x18 8 + d.due.length) % 2 ^ 64
  let s := logEvent s p 8 1 st 0xFFFFFFFF (frameArg number false)
  modSdesc s st fun d => { d with due := d.due ++ [⟨d.nextAt, number, none, 0⟩], nextAt := d.nextAt + d.get 0 8 }

/-- The rung of a boundary, fixed once. -/
def dueRung (s : State) (p st : Nat) (b : DueBoundary) : State × Nat :=
  match b.rung with
  | some r => (s, r)
  | none =>
    let x := fixRung s p st
    (modDue x.1 st fun b => { b with rung := some x.2 }, x.2)

/-- The first boundary that has fallen is acted on (R357), as far as the arbiter takes its events; with log play it
waits for its launches. [DEDUCED, log 83] -/
def actBoundary (s : State) (p st : Nat) : State :=
  match (getSdesc s st).due with
  | [] => s
  | b :: _ =>
    if b.rung.isNone && playsLog (getSdesc s st) && !arbiterOpen s p then s
    else
      let x := dueRung s p st b
      let s := x.1
      let d := getSdesc s st
      if !arbiterOpen s p then s
      else if b.next = 0 && (stopped s p || setBusy s d x.2) then
        (if playsLog d then s else skipFrame s p st b.number x.2)
      else armFrame s p st x.2 b

/-- Whether a stream of lower id of the partition has a boundary at the same time that is still to be logged
(R355), be it one after others that are. -/
def lowerBoundary (s : State) (p st t : Nat) : Bool :=
  s.streams.any fun e => e.1 < st && streamOwner s e.1 == some p && streamEnabled e.2
    && e.2.nextAt ≤ t && (t - e.2.nextAt) % e.2.get 0 8 == 0

/-- Boundaries whose events wait at the arbiter go on, ahead of the events behind them (R355). -/
def serveBoundaries (s : State) (p : Nat) : State :=
  ((s.streams.filter fun e => streamOwner s e.1 == some p && streamEnabled e.2 && !e.2.due.isEmpty).map (·.1)).foldl
    (fun s st => if arbiterOpen s p && !replaying s p then actBoundary s p st else s) s

/-- R357: a boundary of an enabled stream, or one that waited under log play. [DEDUCED, log 4] -/
def execPeriodBoundary (stream : Nat) (s : State) : Result :=
  match streamOwner s stream with
  | none => .next s
  | some p =>
    let d := getSdesc s stream
    if stream < 256 && streamEnabled d && arbiterOpen s p && !replaying s p then
      .next (actBoundary
        (if d.nextAt ≤ s.time && !lowerBoundary s p stream d.nextAt then boundaryFalls s p stream else s) p stream)
    else .next s

/-! ### Rung requests and migrations at the arbiter (R360–R362) -/

def execRungRequestApply (part : Nat) (s : State) : Result :=
  match (getPart s part).rungReqs with
  | [] => .next s
  | (_, st, r) :: rest =>
    if !arbiterOpen s part || replaying s part then .next s
    else
      let s := modPart s part fun x => { x with rungReqs := rest }
      let s := logEvent s part 6 3 st 0xFFFFFFFF r
      let d := getSdesc s st
      .next (if playsLog d && streamEnabled d then s else logRung (takeRung s st r) part st (d.get 0x40 1) r 3)

/-- The last `k` records of a chunk leave a core's queue for place `n` of another's. -/
def moveTail (s : State) (src dst n k : Nat) (c : Nat × Nat × Nat) : State :=
  let s := modCore s src fun x =>
    { x with localQueue := x.localQueue.filterMap fun e =>
        if e != c then some e else if e.2.2 ≤ k then none else some (e.1, e.2.1, e.2.2 - k) }
  modCore s dst fun x =>
    { x with localQueue := x.localQueue.take n ++ (c.1, c.2.1 + (c.2.2 - k), k) :: x.localQueue.drop n }

/-- How many cores hold allotted or dealt records of a launch. -/
def holders (s : State) (p i : Nat) : Nat := ((coresOfPart s p).filter (holdsLaunch s i)).length

/-- Whether a move of a launch's records keeps what R346 asks: no more than W cores hold records of it, and a local
queue at most 8 chunks. [DEDUCED, log 80] -/
def moveKeeps (s t : State) (p i dst : Nat) : Bool :=
  holders t p i ≤ max (widthOf s p (getLaunch s i)) (holders s p i) && (getCore t dst).localQueue.length ≤ 8

/-- Move up to `n` records between two cores, from the tail of the one's queue, the highest index first (R361).
Records of a launch with same-core affinity stay, and those that have no place (R346). [DEDUCED, log 80] -/
def moveRecords (s : State) (p src dst n : Nat) : State :=
  let place := (getCore s dst).localQueue.length
  let x := (getCore s src).localQueue.reverse.foldl (fun (x : State × Nat) c =>
    let k := min c.2.2 x.2
    let t := moveTail x.1 src dst place k c
    if k = 0 || (getLaunch s c.1).flags / 4 % 2 == 1 || !moveKeeps x.1 t p c.1 dst then x else (t, x.2 - k)) (s, n)
  requestWake x.1 (clusterOf dst)

def execMigrationApply (part : Nat) (s : State) : Result :=
  match (getPart s part).migrations with
  | [] => .next s
  | (src, dst, n) :: rest =>
    if stopped s part then .next s
    else
      let s := modPart s part fun x => { x with migrations := rest }
      match physCore s part src, physCore s part dst with
      | some a, some b => .next (if replaying s part then s else moveRecords s part a b n)
      | _, _ => .next s

/-- R362: a migration command of the balancer, of the form of R361. [DESIGN CHOICE, log 81] -/
def execBalancerTick (s : State) : Result :=
  if s.time % 2000 != 0 then .next s
  else
    .next ((s.parts.map (·.1)).foldl (fun s p =>
      let m := Config.balancerMove s.fresh p
      let s := { s with fresh := s.fresh + 1 }
      if m.1 < coreCount s p && m.2.1 < coreCount s p && m.1 != m.2.1 && m.2.2 != 0 && m.2.2 < 2 ^ 32
          && arbiterOpen s p && !replaying s p then
        let s := logEvent s p 7 2 0xFFFF m.1 (m.2.1 * 2 ^ 32 + m.2.2)
        modPart s p fun x => { x with migrations := x.migrations ++ [m] }
      else s) s)

/-! ### Clusters (R363) -/

/-- The partition register GATEIDLE of a cluster's owner. -/
def gateIdle (s : State) (cl : Nat) : Nat :=
  match Tab.get? s.clusterOwner cl with
  | some p => (getPart s p).gateidle.toNat
  | none => Part.reset.gateidle.toNat

/-- Whether a cluster has a resident job or an allotted record. -/
def clusterBusy (s : State) (cl : Nat) : Bool :=
  (List.range Config.coresPerCluster).any fun k =>
    residentCount s (Config.coresPerCluster * cl + k) != 0 || allottedTo s (Config.coresPerCluster * cl + k) != 0

/-- [DEDUCED, log 4] -/
def execClusterGate (cluster : Nat) (s : State) : Result :=
  let c := getCluster s cluster
  .next (if !c.gated && !clusterBusy s cluster && c.idleSince + gateIdle s cluster ≤ s.time then
    modCluster s cluster fun c => { c with gated := true, wakeAt := none } else s)

def execClusterWakeStart (cluster : Nat) (s : State) : Result :=
  match s.wakeQueue with
  | cl :: rest =>
    if cl = cluster && (match s.lastWake with | some t => t + 250 ≤ s.time | none => true) then
      .next (modCluster { s with wakeQueue := rest, lastWake := some s.time } cl fun c =>
        { c with wakeAt := some (s.time + 2000) })
    else .next s
  | [] => .next s

def execClusterWakeDone (cluster : Nat) (s : State) : Result :=
  match (getCluster s cluster).wakeAt with
  | some t =>
    .next (if t ≤ s.time then
      modCluster s cluster fun c => { c with gated := false, wakeAt := none, idleSince := s.time } else s)
  | none => .next s

end Sys2Proof.Machine
end

