-- ==== Sys2Proof/Machine/Partition.lean ====
section
/-! DEFINITION. Partitions and what they own (R33, R399–R401), their measurement, sealing and quotes
(R404–R406). -/

namespace Sys2Proof.Machine

/-! ### Scrubbing (R33, R400) -/

/-- A memory image without the bytes of a range. -/
def dropRange (m : Memory) (lo n : Nat) : Memory := m.filter fun e => !(decide (lo ≤ e.1) && decide (e.1 < lo + n))

def dropNums (t : NatSet) (lo n : Nat) : NatSet := t.filter fun k => !(decide (lo ≤ k) && decide (k < lo + n))

def inRange (lo n k : Nat) : Bool := lo ≤ k && k < lo + n

/-- A GDDR 7 unit reads zero, and nothing of its lines is left anywhere. [DEDUCED, log 90] -/
def scrubUnit (s : State) (u : Nat) : State :=
  let lo := u * 2 ^ 30
  let gran := inRange (lo / 8) (2 ^ 30 / 8)
  let line := inRange (lo / 256) (2 ^ 30 / 256)
  modMs s fun m =>
    { m with
      mem := dropRange m.mem lo (2 ^ 30)
      memPoison := dropNums m.memPoison (lo / 8) (2 ^ 30 / 8)
      wet := m.wet.filter fun w => !gran w.granule
      wc := m.wc.filter fun w => !inRange lo (2 ^ 30) w.pa
      late := m.late.filter fun e => !gran e.granule
      stash := m.stash.filter fun l => !inRange lo (2 ^ 30) l.pa
      comp := m.comp.filter fun c => !line c.1
      writer := m.writer.filter fun c => !line c.1
      amoq := m.amoq.filter fun a => !inRange lo (2 ^ 30) a.cell
      oldCode := m.oldCode.filter fun e => !gran e.2.1
      kvRecords := m.kvRecords.filter fun r => !inRange lo (2 ^ 30) r.pa }

def coresOfCluster (cl : Nat) : List Nat := (List.range Config.coresPerCluster).map (Config.coresPerCluster * cl + ·)

/-- Operations of a core that are in flight are cancelled, and every entry is released (R168). -/
def reapCore (s : State) (core : Nat) : State :=
  let s := (tokens s core).foldl (fun s x =>
    match Tab.get? (tokens s core) x.1 with
    | some e => if e.state.inFlight then cancelOp s core x.1 e else s
    | none => s) s
  (tokens s core).foldl (fun s x => releaseTok s core x.1) s

/-- A core is zeroed (R33). -/
def zeroCore (s : State) (core : Nat) : State :=
  let s := modCore (reapCore s core) core fun c =>
    { c with tokens := [], localQueue := [], collectives := [], tracePend := [], traceSeq := .replicate 3 none, traceJob := none }
  modMs s fun m =>
    { m with
      spad := dropRange m.spad (core * Config.spadSpan) Config.spadSpan
      spadPoison := dropNums m.spadPoison (core * Config.spadSpan / 8) (Config.spadSpan / 8) }

/-- What a table of owners gives a partition. -/
def ownedBy (t : Tab Nat) (p : Nat) : List Nat := (t.filter fun e => e.2 == p).map (·.1)

/-- Whether a cluster lies in the domain of a barrier instance (R185). -/
def inDomain (b : Barrier) (cl : Nat) : Bool :=
  match b.level with
  | 1 => clusterOf b.domain == cl
  | 2 => b.domain == cl
  | 3 => b.domain == cl / Config.clustersPerQuadrant
  | _ => true

/-- The named-barrier entries of a cluster's cores are at reset (R29, R33): each partition's instances whose
domain has no other cluster of the partition. [DEDUCED, log 90] -/
def zeroBarriers (s : State) (cl : Nat) : State :=
  let stays (p : Nat) (b : Barrier) : Bool :=
    !inDomain b cl || (ownedBy s.clusterOwner p).any fun c => c != cl && inDomain b c
  { s with parts := s.parts.map fun e => (e.1, { e.2 with barriers := e.2.barriers.filter (stays e.1) }) }

def zeroCluster (s : State) (cl : Nat) : State := zeroBarriers ((coresOfCluster cl).foldl zeroCore s) cl

/-- A cluster on which work of its owner stands. [DEDUCED, log 89] -/
def clusterInUse (s : State) (cl : Nat) : Bool :=
  clusterBusy s cl || s.saved.any fun x => clusterOf x.core == cl

/-! ### Readers held for peers (R422) -/

/-- A reader of a prefix record that this chip counts for a requester is released. -/
def dropReader (r : Nat × Nat × Nat × Word) (d : PrefixRecord) : PrefixRecord :=
  if d.fabric.toNat = r.2.2.1 && d.id = r.2.2.2 then { d with readers := d.readers - 1 } else d

def chipListed (f : Fabric) (chip : Nat) : Bool :=
  (List.range (bitsOf f.chips0 8 7)).any fun k => bitsOf (Tab.getD f.chips (k + 1) 0) 0 8 == chip

/-- The readers that a choice selects are released. -/
def releaseReaders (f : Fabric) (gone : Nat × Nat × Nat × Word → Bool) : Fabric :=
  { f with
    remoteReaders := f.remoteReaders.filter fun r => !gone r
    directory := f.directory.map fun d => (f.remoteReaders.filter gone).foldl (fun d r => dropReader r d) d }

/-- Readers held for chips that are no longer in the list are released. -/
def releaseUnlisted (f : Fabric) : Fabric := releaseReaders f fun r => !chipListed f r.1

/-! ### Destroying a partition (R400, R401) -/

def jobsOfPart (s : State) (p : Nat) : List Nat :=
  (s.jobs.filter fun e => e.2.ids.part == p).map (·.2.ids.jobid)
    ++ (s.saved.filter fun x => x.job.ids.part == p).map (·.job.ids.jobid)

/-- The partition's jobs are gone, with their wet lines, buffered stores and stash lines. -/
def removeJobs (s : State) (p : Nat) : State :=
  let ids := jobsOfPart s p
  let keys := (s.jobs.filter fun e => e.2.ids.part == p).map (·.1)
  let s := modMs s fun m =>
    { m with
      wet := m.wet.filter fun w => !ids.contains w.job
      wc := m.wc.filter fun w => !ids.contains w.job
      stash := m.stash.filter fun l => !ids.contains l.job
      oldCode := m.oldCode.filter fun e => !ids.contains e.1 }
  { s with
    jobs := s.jobs.filter fun e => e.2.ids.part != p
    strs := s.strs.filter fun e => !keys.contains (e.1 / 3)
    saved := s.saved.filter fun x => x.job.ids.part != p }

/-- An armed or dealing launch of a destroyed partition is built again. -/
def disarm (l : Launch) : Launch :=
  if l.state = 2 || l.state = 3 then
    { l.put 0 1 1 with since := none, card := none, packet := none, preds := [] }
  else l

/-- The owned objects of OWN that run are disabled. -/
def disableOwned (s : State) (p : Nat) : State :=
  let own := ownedBy s.ownOwner p
  let off := fun (t : Tab Codec) (base : Nat) =>
    t.map fun e => if own.contains (base + e.1) then (e.1, { e.2 with ctl := e.2.ctl &&& ~~~1#64 }) else e
  { s with
    streams := s.streams.map fun e =>
      if own.contains e.1 then
        (e.1, { e.2.put 0x45 1 (e.2.get 0x45 1 / 2 * 2) with
                due := [], frames := [], current := none, published := none })
      else e
    encoders := off s.encoders 288
    decoders := off s.decoders 304 }

/-- Host pages of the ports a partition owns leave the translation caches. -/
def dropAts (s : State) (p : Nat) (t : List AtsEntry) : List AtsEntry :=
  t.filter fun e => Tab.get? s.ownOwner (312 + namedPort e.page) != some p

/-- What the fabric holds for a partition goes with it; its readers are the home's to drop (R422). -/
def dropPartOfFabric (f : Fabric) (p : Nat) : Fabric :=
  { f with
    directory := f.directory.filter fun d => d.part != p
    pending := f.pending.filter fun x => x.part != p
    ended := f.ended.filter fun e => e.part != p
    remote := f.remote.filter fun r => r.part != p }

/-- PDESTROY. [DEDUCED, log 90] -/
def destroyPart (s : State) (p : Nat) : State :=
  let units := ownedBy s.unitOwner p
  let clusters := ownedBy s.clusterOwner p
  let s := (clusters.flatMap coresOfCluster).foldl reapCore s
  let s := disableOwned (removeJobs s p) p
  let s := { s with pool := s.pool.map fun e => if inShare s p e.1 then (e.1, disarm e.2) else e }
  let s := clusters.foldl zeroCluster (units.foldl scrubUnit s)
  let s := modMs s fun m => { m with tlb := m.tlb.filter fun e => e.part != p, ats := dropAts s p m.ats }
  { s with
    unitOwner := s.unitOwner.filter fun e => e.2 != p
    clusterOwner := s.clusterOwner.filter fun e => e.2 != p
    ownOwner := s.ownOwner.filter fun e => e.2 != p
    fabric := dropPartOfFabric s.fabric p
    parts := Tab.set s.parts p .reset }

/-- PCREATE: an open partition with an empty measurement and fresh barrier instances (R185, R405). -/
def createPart (s : State) (p : Nat) : State :=
  modPart s p fun x => { x with state := .opened, measurement := 0, measCount := 0, cfgDigest := 0, barriers := [] }

/-! ### Measurement and sealing (R404, R405) -/

def bytes512 (w : BitVec 512) : List Byte := leBytes 64 w.toNat

/-- One more entry of type `t` (R405). -/
def extendMeasure (s : State) (p t : Nat) (d : List Byte) : State :=
  modPart s p fun x =>
    { x with
      measurement := BitVec.ofNat 512 (ofLe (sha512 (bytes512 x.measurement ++ leBytes 8 t ++ d)))
      measCount := x.measCount + 1 }

/-- The number with these bits set. -/
def bitMask (l : List Nat) : Nat := (l.map (2 ^ ·)).sum

/-- The numbers of `[lo, lo + n)` in a list, from `lo` on. -/
def fromTo (l : List Nat) (lo n : Nat) : List Nat := (l.filter (inRange lo n)).map (· - lo)

/-- The configuration record (R405). [DEDUCED, log 91] -/
def configRecord (s : State) (p : Nat) : List Byte :=
  let x := getPart s p
  let own := ownedBy s.ownOwner p
  leBytes 4 (bitMask (ownedBy s.clusterOwner p)) ++ leBytes 4 x.perms.toNat ++ leBytes 4 x.shareFirst
    ++ leBytes 4 x.shareCount ++ leBytes 8 x.ctlTmpl.toNat ++ leBytes 8 x.s2root.toNat ++ leBytes 8 x.pasidBase.toNat
    ++ leBytes 4 x.pasidCount.toNat ++ leBytes 4 0 ++ leBytes 48 (bitMask (ownedBy s.unitOwner p))
    ++ leBytes 32 (bitMask (fromTo own 0 256)) ++ leBytes 4 (bitMask (fromTo own 256 32))
    ++ leBytes 2 (bitMask (fromTo own 288 16)) ++ leBytes 1 (bitMask (fromTo own 304 8)) ++ List.replicate 25 0

/-- Whether a physical address lies in a unit of the partition. -/
def ownUnit (s : State) (p pa : Nat) : Bool := pa < gddrEnd && Tab.get? s.unitOwner (pa / 2 ^ 30) == some p

/-- The stage-2 tables reachable from a table lie in the partition's own units; `n` levels follow. -/
def tablesOwn (s : State) (p : Nat) : Nat → Nat → Nat → Bool
  | 0, _, pa => ownUnit s p pa
  | n + 1, level, pa =>
    ownUnit s p pa && (List.range 512).all fun k =>
      match parseEntry true level 0 (readEntry s (pa + 8 * k)) with
      | .table t => tablesOwn s p n (level + 1) t
      | _ => true

/-- The PASID table lies in the partition's own memory. -/
def pasidTableOwn (s : State) (p : Nat) : Bool :=
  let x := getPart s p
  let n := 16 * x.pasidCount.toNat
  let first := x.pasidBase.toNat / 4096
  x.pasidCount != 0 && (List.range ((x.pasidBase.toNat + n - 1) / 4096 - first + 1)).all fun k =>
    match ipaToPa s p (4096 * (first + k)) .read with
    | .ok (pa, _) => ownUnit s p pa
    | .error _ => false

/-- Whether every resource of R399 of which a partition has one is configured, and of those it owns by number the
ones it cannot run without. [DESIGN CHOICE, log 121] -/
def configured (s : State) (p : Nat) : Bool :=
  let x := getPart s p
  !(ownedBy s.clusterOwner p).isEmpty && !(ownedBy s.unitOwner p).isEmpty && x.shareCount != 0
    && x.s2root != 0 && x.pasidCount != 0 && x.log.cap != 0 && x.ctxSize != 0

/-- Whether SEAL succeeds (R401, R404). [DESIGN CHOICE, log 121] -/
def sealable (s : State) (p : Nat) : Bool :=
  let x := getPart s p
  x.state == .opened && (jobsOfPart s p).isEmpty
  && (s.pool.all fun e => !inShare s p e.1 || (e.2.state != 2 && e.2.state != 3))
  && configured s p && tablesOwn s p 3 0 (bitsOf x.s2root 12 36 * 4096) && pasidTableOwn s p

/-- SEAL: the configuration is measured and the state is SEALED. [DEDUCED, log 91] -/
def sealPart (s : State) (p : Nat) : State :=
  let d := sha512 (configRecord s p)
  modPart (extendMeasure s p 2 d) p fun x => { x with state := .sealed, cfgDigest := BitVec.ofNat 512 (ofLe d) }

/-! ### Quotes (R406) -/

/-- Bytes 0x000 to 0x1FF of a quote over a nonce. [DEDUCED, log 91] -/
def quoteBody (s : State) (p : Nat) (nonce : List Byte) : List Byte :=
  let x := getPart s p
  leBytes 4 1 ++ leBytes 4 (p + (if x.state = .sealed then 2 ^ 31 else 0)) ++ leBytes 8 x.measCount ++ nonce
    ++ bytes512 x.measurement ++ bytes512 x.cfgDigest ++ leBytes 8 Config.serial.toNat
    ++ sha512 (s.platform.running.getD Config.flashImage) ++ List.replicate 232 0

/-- `b` to the power `e`, modulo `n`, by the bits of `e` from the lowest on. -/
def powMod (n : Nat) : Nat → Nat → Nat → Nat
  | 0, _, _ => 1 % n
  | fuel + 1, b, e =>
    let r := powMod n fuel (b * b % n) (e / 2)
    if e % 2 = 1 then b * r % n else r

/-- The fused identity modulus (R403). -/
def identityModulus : Nat := ((List.range 64).map fun i => (Config.identityWord i).toNat * 2 ^ (64 * i)).sum

/-- The DER prefix of a SHA-512 digest (RFC 8017, 9.2). -/
def sha512Prefix : List Byte :=
  [0x30, 0x51, 0x30, 0x0D, 0x06, 0x09, 0x60, 0x86, 0x48, 0x01, 0x65, 0x03, 0x04, 0x02, 0x03, 0x05, 0x00, 0x04, 0x40]

/-- The 512 bytes that RSASSA-PKCS1-v1_5 signs for a message (RFC 8017, 9.2), most significant first. -/
def encodedMessage (msg : List Byte) : List Byte :=
  let t := sha512Prefix ++ sha512 msg
  [0x00, 0x01] ++ List.replicate (512 - 3 - t.length) 0xFF ++ [0x00] ++ t

/-- The signature of a message under the identity key, 512 bytes, most significant first (R406).
[DEDUCED, log 91] -/
def identitySign (msg : List Byte) : List Byte :=
  (leBytes 512 (powMod identityModulus 4096 (ofLe (encodedMessage msg).reverse) Config.identityExponent)).reverse

/-- The 1,024 bytes of a quote. [DEDUCED, log 91] -/
def quoteBytes (s : State) (p : Nat) (nonce : List Byte) : List Byte :=
  let b := quoteBody s p nonce
  b ++ identitySign b

end Sys2Proof.Machine
end

