-- ==== Sys2Proof/Machine/Fetch.lean ====
section
/-! DEFINITION. Fetching an instruction (R39, R40, R145, R146, R458), the traps of check 1 and of an
undecodable word (R41, R42), and which streams may issue (R366, R427, R466). -/

namespace Sys2Proof.Machine

/-- Why no instruction was fetched. -/
inductive FetchFail where
  /-- check 1 of R42 fails: cause, first failing byte, the parcels fetched so far -/
  | fault (c : Cause) (addr : Word) (words : List Nat)
  /-- the host has not answered the request of a page yet (R395) -/
  | waits (page : Nat)
  /-- the parcels decode to no instruction (R41) -/
  | illegal (words : List Nat)
  deriving DecidableEq, Repr

/-- The granule as a job's fetch reads it (R146): where it was written while the job is resident, any of
the values it has had since. [DEDUCED, log 14] -/
def fetchGranule (s : State) (v : Viewer) (cmp : Bool) (g : Nat) : Granule :=
  let now := jobGranule s v cmp g
  match (s.ms.oldCode.filter fun e => e.1 == v.job && e.2.1 == g).map (·.2.2) with
  | [] => now
  | olds => (now :: olds).getD (Config.fetchChoice s.fresh g) now

/-- One parcel at an address, for an agent (R40, R146). -/
def fetchParcel (s : State) (a : Agent) (pc : Word) : Except AccFail Nat :=
  match agentXl s a pc .fetch with
  | .error e => .error e
  | .ok x =>
    if jobPoison s a.view (x.pa / 8) then .error (.fault .poison)
    else .ok (ofLe (slice (leBytes 8 (fetchGranule s a.view x.cmp (x.pa / 8)).toNat) (x.pa % 8) 4))

/-- `n` more parcels from `pc` on, after those fetched already. -/
def fetchMore (s : State) (a : Agent) (pc : Word) (got : List Nat) : Nat → Except FetchFail (List Nat)
  | 0 => .ok got
  | n + 1 =>
    match fetchParcel s a (pc + BitVec.ofNat 64 (4 * got.length)) with
    | .error (.hostWait page) => .error (.waits page)
    | .error .wait => .error (.waits 0)
    | .error (.fault c) => .error (.fault c.precise (pc + BitVec.ofNat 64 (4 * got.length)) got)
    | .ok p => fetchMore s a pc (got ++ [p]) n

/-- The parcels of the instruction at an address: parcel 0, then as many as its class has (R40). -/
def fetchParcels (s : State) (h : Hart) (pc : Word) : Except FetchFail (List Nat) :=
  match fetchMore s (agentOf s h) pc [] 1 with
  | .error e => .error e
  | .ok ps => fetchMore s (agentOf s h) pc ps (parcelCount (ps.headD 0) - 1)

/-- The instruction at an address, decoded. -/
def fetchAt (s : State) (h : Hart) (pc : Word) : Except FetchFail Instr :=
  match fetchParcels s h pc with
  | .error e => .error e
  | .ok ps =>
    match decode ps with
    | .ok i => .ok i
    | .error _ => .error (.illegal ps)

/-- The instruction at the PC of a stream. -/
def fetch (s : State) (h : Hart) : Except FetchFail Instr := fetchAt s h (getStream s h).pc

/-- The trap of a fetch that gave no instruction, at the PC of the stream (R40, R41). [DEDUCED, log 15] -/
def fetchTrap (s : State) (h : Hart) (c : Cause) (addr : Word) (words : List Nat) : State :=
  takeTrap s h { cause := c, pc := (getStream s h).pc, words := words, addr := addr, token := 0 }

/-- What becomes of a stream whose fetch gave no instruction. [DEDUCED, log 15] -/
def fetchFailed (s : State) (h : Hart) : FetchFail → State
  | .fault c addr words => fetchTrap s h c addr words
  | .waits page => block s h (.fetch page)
  | .illegal words => fetchTrap s h .illegal 0 words

/-- The state a fetch leaves: a free choice of R146 is used up. [DEDUCED, log 14] -/
def afterFetch (s : State) : State := if s.ms.oldCode = [] then s else { s with fresh := s.fresh + 1 }

/-- Whether a stream may issue: its job runs (R366, R372, R428), it stands at no rendezvous (R81), and its
partition is not stopped, unless the stream is being stepped (R466). -/
def canIssue (s : State) (h : Hart) : Bool :=
  live s h && (getStream s h).stand.isNone
    && (!(stopped s (getJob s (jobKey h)).ids.part) || (getStream s h).stepping)

end Sys2Proof.Machine
end

