-- ==== Sys2Proof/Machine/Regions.lean ====
section
/-! DEFINITION. The rendezvous instructions (R81–R84, R432–R435), the retirement of a job (R84, R166), and
the two events that end a wait: the expiry of WAITTMO (R28, R142) and a detected deadlock (R143). -/

namespace Sys2Proof.Machine

/-- Do something as another stream of the device. -/
def asStream (s : State) (h : Hart) (f : State → State) : State := { f { s with cur := h } with cur := s.cur }

/-- The streams of a slot that stand at a rendezvous. -/
def standers (s : State) (core slot : Nat) : List (Hart × Rendezvous) :=
  (hartsOf core slot).filterMap fun h => (getStream s h).stand.map fun r => (h, r)

/-- Whether two streams stand at the same rendezvous (R433). -/
def Rendezvous.meets : Rendezvous → Rendezvous → Bool
  | .rdv, .rdv | .yield _, .yield _ | .ended, .ended => true
  | .rgn a, .rgn b => a == b
  | _, _ => false

/-- The QUEUE trap of a stream at the instruction `i` (R142). -/
def queueTrapAt (s : State) (h : Hart) (i : Instr) (qcode : Nat) : State :=
  takeTrap s h { cause := .queue, pc := (getStream s h).pc, words := encode i,
                 addr := BitVec.ofNat 64 qcode, token := 0 }

/-- Every standing stream takes QUEUE at its rendezvous instruction. -/
def trapStanders (s : State) (l : List (Hart × Rendezvous)) (qcode : Nat) : State :=
  l.foldl (fun s e => queueTrapAt s e.1 (rendInstr e.2) qcode) s

/-- The rendezvous instruction of a standing stream has issued. -/
def issueStanding (s : State) (e : Hart × Rendezvous) : State :=
  (endStep · e.1) <| asStream s e.1 fun s =>
    modCurStream (advance (record s (rendInstr e.2) false) (rendInstr e.2)) fun st => { st with stand := none }

/-- Whether every queue of a job is empty (R144). -/
def queuesEmpty (j : Job) : Bool := (queueLengths j.queues).all (· == 0)

/-- A rendezvous at which one stream's seen bit was set sets the others' (R161). -/
def shareSeen (s : State) (core jobid : Nat) : State :=
  sweepSeen (modCore s core fun c =>
    { c with tokens := c.tokens.map fun e =>
        if e.2.holder == some jobid && e.2.seen != 0 then (e.1, { e.2 with seen := 7, learned := 7 }) else e })
    core jobid

/-- The DONE entries that a deterministic job releases at RGN, YIELD and END (R158). -/
def releaseDone (s : State) (core : Nat) (j : Job) : State :=
  if detMode j then
    modCore s core fun c =>
      { c with tokens := c.tokens.filter fun e =>
          !(e.2.holder == some j.ids.jobid && e.2.state == .done && !ownsAcc s e.1 e.2) }
  else s

/-- Every write of the job that is buffered or wet becomes a cured one (R82, R113). -/
def cureRegion (s : State) (core jobid : Nat) : State := cure (flushWc s core) jobid

/-- What a stream latches at a region head (R80, R435, R465). -/
def latchHead (st : Stream) : Stream :=
  { st with head := ⟨st.pc, st.loops, st.preds, st.pos, st.releases, st.written⟩ }

/-- A region begins: the restart points, the end of FORCED and of the protection (R83, R435). -/
def beginRegion (s : State) (core slot : Nat) (n : Option (BitVec 18)) : State :=
  let s := (hartsOf core slot).foldl (fun s h => modStream s h latchHead) s
  let id := (getJob s (slotKey core slot)).ids.jobid
  let s := modCore s core fun c =>
    { c with tokens := c.tokens.map fun e =>
        if e.2.holder == some id then (e.1, { e.2 with beforeHead := true }) else e }
  modJob s (slotKey core slot) fun j =>
    { j with
      rgnid := match n with | some n => n.setWidth 64 | none => j.rgnid
      prereq := j.prereq &&& ~~~2#64
      protectedUntil := none
      queues := { j.queues with headPushed := j.queues.pushed } }

/-- A job with a request is descheduled at its YIELD (R83, R367). -/
def deschedule (s : State) (core slot : Nat) : State :=
  modJob s (slotKey core slot) fun j =>
    if requested j then { j with phase := .flipping false, reqAt := none } else j

/-- Three streams have met at a rendezvous that is not END; the last is the executing stream. -/
def meet (s : State) (l : List (Hart × Rendezvous)) (r : Rendezvous) : State :=
  let core := s.cur.core
  let slot := s.cur.slot
  let j := curJob s
  let s := orderJobReads (l.foldl issueStanding s) core slot
  match r with
  | .rdv => shareSeen (flushWc s core) core j.ids.jobid
  | .rgn n =>
    beginRegion (releaseDone (shareSeen (cureRegion s core j.ids.jobid) core j.ids.jobid) core j) core slot (some n)
  | .yield _ =>
    deschedule (beginRegion (releaseDone (shareSeen (cureRegion s core j.ids.jobid) core j.ids.jobid) core j)
      core slot none) core slot
  | .ended => s

/-! ### Retirement (R84, R166) -/

/-- Entries that no resident job holds (R157, R371). -/
def orphanCount (s : State) (core : Nat) : Nat :=
  ((tokens s core).filter fun e =>
    match e.2.holder with
    | none => true
    | some id => s.saved.any fun x => x.job.ids.jobid == id).length

/-- A detached entry becomes an orphan under its name, or under its token value. -/
def orphanEntry (slot : Nat) (e : TokenEntry) : TokenEntry :=
  { e with
    holder := none
    orphaned := true
    name := if e.name = 0 then BitVec.ofNat 32 (tokenValue slot e.seq) else e.name }

/-- The entries a retiring job does not hand on: attached ones, cancelled ones, and in deterministic mode
those that are DONE. [DEDUCED, log 53] -/
def dropsAtEnd (j : Job) (e : TokenEntry) : Bool :=
  !e.det || e.state == .cancelled || (detMode j && e.state == .done)

/-- Detached entries of a retiring job, oldest first. [DEDUCED, log 56] -/
def handedOn (s : State) (core : Nat) (j : Job) : List (Nat × TokenEntry) :=
  (heldBy s core j.ids.jobid).filter fun e => !dropsAtEnd j e.2

/-- One detached entry of the job, the oldest, moves to the orphan list. [DEDUCED, log 56] -/
def orphanOne (s : State) (core : Nat) (j : Job) : State :=
  match oldest (getCore s core).nextSeq (handedOn s core j) with
  | some (k, _) => modTok s core k (orphanEntry k)
  | none => s

/-- Detached entries move to the orphan list while it has room. [DEDUCED, log 56] -/
def orphanSome (s : State) (core : Nat) (j : Job) : State :=
  (handedOn s core j).foldl (fun s _ =>
    if orphanCount s core < Config.orphanShare then orphanOne s core j else s) s

/-- The job leaves its slot: its entries, its windows, its streams (R84 step 4). -/
def removeJob (s : State) (core slot : Nat) (j : Job) : State :=
  let id := j.ids.jobid
  let s := modCore s core fun c =>
    { c with
      tokens := c.tokens.filter fun e => e.2.holder != some id
      collectives := c.collectives.filter fun e => e.1.1 != id }
  let s := discardWet (stashDrop (leaveReads s core slot) id) id
  let s := modMs s fun m =>
    { m with oldCode := m.oldCode.filter fun e => e.1 != id, wc := m.wc.filter fun w => w.job != id }
  let s := modCluster s (clusterOf core) fun c => { c with idleSince := s.time }
  { s with
    jobs := Tab.del s.jobs (slotKey core slot)
    strs := (hartsOf core slot).foldl (fun t h => Tab.del t (hartKey h)) s.strs }

/-- The job retires, after its entries have moved. -/
def retireJob (s : State) (core slot : Nat) : State :=
  let j := getJob s (slotKey core slot)
  recordRetired (removeJob s core slot j) j.ids j.signalled

/-- The last END (R84): the region is cured, each stream's END counts as a release, the job retires.
[DEDUCED, log 56] -/
def endJob (s : State) (core slot : Nat) : State :=
  let s := (hartsOf core slot).foldl (fun s h => asStream s h countedRelease) s
  retireJob s core slot

/-! ### RDV, YIELD, RGN, END -/

/-- An attached operation that the executing stream has pushed and that has not ended. -/
def ownPending (s : State) : Bool :=
  (heldBy s s.cur.core (curJob s).ids.jobid).any fun e =>
    !e.2.det && e.2.strm == s.cur.strm && e.2.state.inFlight

/-- The oldest fault of the executing stream's attached operations that is not delivered yet (R432). -/
def undelivered (s : State) : Option (Nat × TokenEntry) :=
  oldest (curCore s).nextSeq ((heldBy s s.cur.core (curJob s).ids.jobid).filter fun e =>
    !e.2.det && e.2.strm == s.cur.strm && e.2.state == .faulted && !e.2.reported)

/-- The last END where the queues are empty: detached entries move as the orphan list has room (R166). -/
def endBody (s : State) (l : List (Hart × Rendezvous)) : Exec Effect :=
  let core := s.cur.core
  let j := curJob s
  let s1 := orphanSome (stashWriteBack (cureRegion s core j.ids.jobid) core j) core j
  if (handedOn s1 core j).isEmpty then
    .ok (.done (l.foldl issueStanding (sampleFlag s1 s1.cur)) fun s => endJob s core s.cur.slot)
  else .ok (.stay (modCurStream s1 fun st => { st with stand := none }) (.other (some rendezvousObject)))

/-- The executing stream arrives at a rendezvous (R81, R144, R433). -/
def arriveRdv (r : Rendezvous) (s : State) : Exec Effect :=
  let s := modCurStream s fun st => { st with stand := some r }
  let l := standers s s.cur.core s.cur.slot
  let others := l.filter fun e => e.1 != s.cur
  -- a stream that stands at END waits no longer
  let s' := if r = .ended then sampleFlag s s.cur else s
  let here := fun q => Effect.trapTo (trapStanders s' others q)
    { cause := .queue, pc := (curStream s).pc, words := encode (rendInstr r), addr := BitVec.ofNat 64 q, token := 0 }
  if l.length < 3 then .ok (.stay s' (.queue 16))
  else if !(l.all fun e => e.2.meets r) then .ok (here 17)
  else if r != .rdv && !queuesEmpty (curJob s) then .ok (here 18)
  else if r = .ended then endBody s l
  else .ok (.done (meet s l r))

/-- [DEDUCED, log 35] -/
def execRdv (s : State) : Result := issue .rdv allStrms none free (arriveRdv .rdv) s

def execYield (g : Guard) (s : State) : Result :=
  issue (.yield_ g) allStrms (some g) free (fun s => do
    check (!trapActive (curStream s)) .illegal
    let _ ← waitFor (!ownPending s) (.other (some rendezvousObject))
    arriveRdv (.yield g) (noteOwn s)) s

/-- What RGN and END do before they arrive (R432). -/
def beforeArrival (s : State) (k : Exec Effect) : Exec Effect := do
  check (!trapActive (curStream s)) .illegal
  let _ ← waitFor (!ownPending s) (.other (some rendezvousObject))
  match undelivered s with
  | some (slot, e) => .ok (deliver s slot e)
  | none => k

def execRgn (n : BitVec 18) (s : State) : Result :=
  issue (.rgn n) allStrms none free (fun s => do
    check (n != 0) .illegal
    beforeArrival s (arriveRdv (.rgn n) (noteOwn s))) s

def execEnd (s : State) : Result :=
  issue .end_ allStrms none free (fun s => beforeArrival s (arriveRdv .ended (noteOwn s))) s

/-! ### WAITTMO (R28, R142, R182, R186) -/

/-- The instruction at which a stream is blocked. -/
def blockedInstr (s : State) (h : Hart) : Except FetchFail Instr :=
  match (getStream s h).stand with
  | some r => .ok (rendInstr r)
  | none => fetch s h

/-- A wait that WAITTMO ends completes as expired: the register takes the value last read. A stream that has
arrived at a barrier has entered before. -/
def expire (s : State) (h : Hart) (i : Instr) (d : Reg) (v : Word) : State :=
  let s := { s with cur := h }
  let s' := advance (modCurStream (wr (record s i false) d v) fun st => { st with arrived := none }) i
  if (curStream s).arrived.isSome then endInstr s s' else settle i s s'

/-- What WAITTMO does to a stream that has waited long enough. -/
def timeOut (s : State) (h : Hart) (k : WaitKind) : State :=
  match k, blockedInstr s h with
  | .queue c, .ok i => queueTrapAt s h i c
  | .queues c _, .ok i => queueTrapAt s h i c
  | .value d v _, .ok i => expire s h i d v
  | .queue _, .error e => fetchFailed s h e
  | .queues _ _, .error e => fetchFailed s h e
  | .value _ _ _, .error e => fetchFailed s h e
  | _, _ => s

/-- Whether a stream's wait has lasted for WAITTMO cycles. -/
def waitExpired (s : State) (h : Hart) (w : Wait) : Bool :=
  let j := seenJob s h (getJob s (jobKey h))
  live s h && !stopped s j.ids.part && j.waittmo != 0 && w.since + j.waittmo.toNat ≤ cycleOf s h.core

/-- [DEDUCED, log 77] -/
def execWaittmoExpiry (h : Hart) (s : State) : Result :=
  match (getStream s h).wait with
  | some w => .next (if waitExpired s h w then timeOut s h w.kind else s)
  | none => .next s

/-! ### Deadlock (R143) -/

/-- The writer and the reader of a queue, by QCODE (R27). -/
def queueEnds (c : Nat) : Strm × Strm :=
  if c < 4 then (.l, .c)
  else if c < 8 then (.c, .s)
  else
    match c with
    | 8 => (.l, .c)
    | 9 => (.c, .s)
    | 10 => (.c, .l)
    | 11 => (.s, .l)
    | 12 => (.l, .c)
    | _ => (.c, .s)

/-- Whom a stream that reads or writes a queue waits on: the writer of an empty one, the reader of a full one. -/
def otherEnd (t : Strm) (c : Nat) : Strm := if t = (queueEnds c).2 then (queueEnds c).1 else (queueEnds c).2

/-- The streams a stream waits on; none where it is not blocked. [DEDUCED, log 77] -/
def waitsOn (s : State) (h : Hart) : Option (List Strm) :=
  let st := getStream s h
  if st.stand = some .ended then some []
  else
    match st.wait with
    | some ⟨_, .queue c⟩ =>
      if c < 14 then some [otherEnd h.strm c]
      else if st.stand.isSome then
        some (allStrms.filter fun t => (getStream s { h with strm := t }).stand.isNone)
      else none
    | some ⟨_, .queues c more⟩ => some ((c :: more).map (otherEnd h.strm))
    | _ => none

/-- The streams of a set whose waits-on sets lie inside it. -/
def closedPart (s : State) (set : List Hart) : List Hart :=
  set.filter fun h =>
    match waitsOn s h with
    | some l => l.all fun t => set.any fun x => x.strm == t
    | none => false

/-- The largest set of blocked streams of a job in which every waits-on set lies. [DEDUCED, log 77] -/
def deadlockSet (s : State) (core slot : Nat) : List Hart :=
  closedPart s (closedPart s (closedPart s (hartsOf core slot)))

/-- A stream of a deadlock that is in a queue wait takes QUEUE with DLK = 1. -/
def deadlockTrap (s : State) (h : Hart) : State :=
  let st := getStream s h
  match (if st.stand = some .ended then none else st.wait), blockedInstr s h with
  | some ⟨_, .queue c⟩, .ok i => queueTrapAt s h i (c + 256)
  | some ⟨_, .queues c _⟩, .ok i => queueTrapAt s h i (c + 256)
  | some ⟨_, .queue _⟩, .error e => fetchFailed s h e
  | some ⟨_, .queues _ _⟩, .error e => fetchFailed s h e
  | _, _ => s

/-- [DEDUCED, log 77] -/
def execDeadlockDetect (core slot : Nat) (s : State) : Result :=
  let set := deadlockSet s core slot
  .next (if live s ⟨core, slot, .l⟩ && !stopped s (getJob s (slotKey core slot)).ids.part then
    set.foldl deadlockTrap s else s)

end Sys2Proof.Machine
end

