-- ==== Sys2Proof/Machine/Preempt.lean ====
section
/-! DEFINITION. Pre-emption (R365–R372, R437) and the end of a trap abort (R428): requests, the forced save, the
drain, the flip, contexts in memory, the resume, protection. -/

namespace Sys2Proof.Machine

/-! ### Requests (R365, R366) -/

/-- Whether a job can be saved: the shadow plane has room beside the jobs that are leaving already, or the context
area the slots that this takes (R365). Its rows count as its reservation: it may have so many by the time it leaves,
and a forced save always finds room (R369). [DEDUCED, log 85] -/
def canSave (s : State) (core : Nat) (j : Job) : Bool :=
  slotsFor s j.ids.part core (j :: (leavers s core).filter fun x => x.ids.jobid != j.ids.jobid)

/-- REQ becomes 1 and the count of PRELIM starts; a request for a job that has one, or that is not running,
has no effect. -/
def requestJob (s : State) (core slot : Nat) : State :=
  modJob s (slotKey core slot) fun j =>
    if j.phase = .running && !requested j then { j with prereq := j.prereq ||| 1, reqAt := some (cycleOf s core) } else j

/-- Whether a job has been asked to make room for a record of a launch. [DEDUCED, log 85] -/
def hasVictim (s : State) (i r : Nat) : Bool := NatSet.has (getLaunch s i).asked r

/-- The first records of a chunk that have no victim yet: as many as there are jobs suffice. -/
def unplaced (s : State) (c : Nat × Nat × Nat) : List Nat :=
  ((List.range (min c.2.2 (s.jobs.length + 1))).map (c.2.1 + ·)).filter fun r => !hasVictim s c.1 r

/-- The allotted records of a partition that fit on no core and have no victim yet: core, launch, record.
[DEDUCED, log 85] -/
def contenders (s : State) (p : Nat) : List (Nat × Nat × Nat) :=
  (coresOfPart s p).flatMap fun core => (getCore s core).localQueue.flatMap fun c =>
    match (getLaunch s c.1).card with
    | some card =>
      if card.bad.isNone && (coresOfPart s p).all fun k => !fitsNow s k card.rows card.grant then
        (unplaced s c).map fun r => (core, c.1, r)
      else []
    | none => []

/-- Whether the record would have room on a core if one resident job of it were saved. -/
def roomWithout (s : State) (core : Nat) (j : Job) (card : Card) : Bool :=
  rowsReserved s core - j.ids.rowRes + card.rows ≤ Config.physRows && (placeGrant s core card.grant).isSome

/-- A job that may be chosen for a contender: core, slot, job. -/
abbrev Victim := Nat × Nat × Job

def levelOfJob (s : State) (j : Job) : Nat := (launchKey s j.ids.part j.ids.launch).1

/-- A record leaves the chunk that holds it. [DEDUCED, log 85] -/
def takeRecord (i r : Nat) : List (Nat × Nat × Nat) → List (Nat × Nat × Nat)
  | [] => []
  | (k, first, n) :: t =>
    if k = i && first ≤ r && r < first + n then
      [(i, first, r - first), (i, r + 1, first + n - (r + 1))].filter (fun c => c.2.2 != 0) ++ t
    else (k, first, n) :: takeRecord i r t

/-- The chunk that holds a record goes to the head. [DEDUCED, log 85] -/
def chunkFirst (i r : Nat) (q : List (Nat × Nat × Nat)) : List (Nat × Nat × Nat) :=
  let holds (c : Nat × Nat × Nat) : Bool := c.1 == i && c.2.1 ≤ r && r < c.2.1 + c.2.2
  q.filter holds ++ q.filter fun c => !holds c

/-- The contender goes to the head of a core's queue (R365): of its own core's with its chunk, where the place is there,
or of another's by a migration, which is logged. [DEDUCED, log 85, 131] -/
def moveContender (s : State) (p : Nat) (x : Nat × Nat × Nat) (core : Nat) : State :=
  if x.1 = core then modCore s core fun c => { c with localQueue := chunkFirst x.2.1 x.2.2 c.localQueue }
  else
    let s := logEvent s p 7 2 0xFFFF (logicalCore s p x.1) (logicalCore s p core * 2 ^ 32 + 1)
    let s := modCore s x.1 fun c => { c with localQueue := takeRecord x.2.1 x.2.2 c.localQueue }
    modCore s core fun c => { c with localQueue := (x.2.1, x.2.2, 1) :: c.localQueue }

/-- Whether the contender's record may move to a core (R346). [DEDUCED, log 85] -/
def mayMove (s : State) (p : Nat) (x : Nat × Nat × Nat) (core : Nat) : Bool :=
  x.1 == core ||
    (moveKeeps s (moveContender s p x core) p x.2.1 core
      && (getCore (moveContender s p x core) x.1).localQueue.length ≤ 8)

/-- The eligible victims for a contender (R365). [DEDUCED, log 85] -/
def victims (s : State) (p : Nat) (x : Nat × Nat × Nat) : List Victim :=
  match (getLaunch s x.2.1).card with
  | none => []
  | some card =>
    let cores := if (getLaunch s x.2.1).flags / 4 % 2 = 1 then [x.1] else (coresOfPart s p).filter (mayMove s p x)
    cores.flatMap fun c => (jobsOfCore s c).filterMap fun e =>
      let j := e.2
      if j.phase == .running && !requested j && j.protectedUntil.isNone
          && levelOfJob s j < (launchKey s p x.2.1).1 && roomWithout s c j card && canSave s c j then
        some (c, e.1, j)
      else none

/-- The order of R365: lowest level, latest deadline, highest JOBID. -/
def victimBefore (s : State) (a b : Victim) : Bool :=
  let due := fun (v : Victim) =>
    let d := (getLaunch s v.2.2.ids.launch).deadline
    if d = 0 then 2 ^ 64 else d
  if levelOfJob s a.2.2 != levelOfJob s b.2.2 then levelOfJob s a.2.2 < levelOfJob s b.2.2
  else if due a != due b then due b < due a
  else b.2.2.ids.jobid < a.2.2.ids.jobid

/-- One victim for each record that has no place. [DEDUCED, log 85] -/
def execPreemptRequest (part : Nat) (s : State) : Result :=
  if stopped s part || !arbiterOpen s part then .next s
  else
    match firstBy (fun a b => keyBefore (launchKey s part a.2.1) (launchKey s part b.2.1))
        ((contenders s part).filter fun x => !(victims s part x).isEmpty) with
    | none => .next s
    | some x =>
      match firstBy (victimBefore s) (victims s part x) with
      | none => .next s
      | some (core, slot, _) =>
        .next (modLaunch (requestJob (moveContender s part x core) core slot) x.2.1 fun l =>
          { l with asked := NatSet.add l.asked x.2.2 })

/-! ### The drain (R169, R368, R428) -/

/-- The job's attached operations that are still in flight. -/
def attachedInFlight (s : State) (core jobid : Nat) : List (Nat × TokenEntry) :=
  (heldBy s core jobid).filter fun e => !e.2.det && e.2.state.inFlight

/-- The streams of a slot block and stand no longer. -/
def stopStreams (s : State) (core slot : Nat) : State :=
  (hartsOf core slot).foldl (fun s h => modStream s h fun st => { st with wait := none, stand := none, arrived := none }) s

/-- R366, R368: PRELIM has expired; the streams stop and the drain begins. [DEDUCED, log 4] -/
def execForcedSave (core slot : Nat) (s : State) : Result :=
  .next (match Tab.get? s.jobs (slotKey core slot) with
    | none => s
    | some j =>
      match j.phase, j.reqAt with
      | .running, some t =>
        if t + (getPart s j.ids.part).prelim.toNat ≤ cycleOf s core && !stopped s j.ids.part then
          stopStreams (modJob (sampleJobWaits s core slot) (slotKey core slot) fun j => { j with phase := .draining (cycleOf s core), reqAt := none })
            core slot
        else s
      | _, _ => s)

/-- Whether the drain of a job is over: every attached operation has ended, or DRAINLIM is reached. -/
def drainOver (s : State) (core : Nat) (j : Job) (since : Nat) : Bool :=
  (attachedInFlight s core j.ids.jobid).isEmpty || since + (getPart s j.ids.part).drainlim.toNat ≤ cycleOf s core

/-- The attached operations still in flight are cancelled. -/
def cancelAttached (s : State) (core jobid : Nat) : State :=
  (attachedInFlight s core jobid).foldl (fun s x =>
    match Tab.get? (tokens s core) x.1 with
    | some e => if e.state.inFlight then cancelOp s core x.1 e else s
    | none => s) s

/-- Steps 2 and 3 of R368: the rest is cancelled, wet lines and buffered stores are discarded, dirty granules
written back, windows deregistered. [DEDUCED, log 36] -/
def endDrain (s : State) (core : Nat) (j : Job) : State :=
  let id := j.ids.jobid
  let s := cancelAttached s core id
  let s := modMs (discardWet s id) fun m => { m with wc := m.wc.filter fun w => w.job != id }
  stashDrop (stashWriteBack s core j) id

/-- The predicates of a stream with its stage predicates as at the region head. -/
def headPreds (st : Stream) : BitVec 16 :=
  st.head.loops.foldl (fun ps l =>
    if l.stages ≤ 1 && l.sp == 0 then ps
    else (List.range l.stages).foldl (fun ps k => setPredBit ps (l.sp + k) (st.head.preds.getLsbD (l.sp + k))) ps) st.preds

/-- The restart point of a stream (R437). -/
def restartStream (st : Stream) : Stream :=
  { st with
    arming := false
    pc := st.head.pc, loops := st.head.loops, preds := headPreds st
    trap := { TrapRegs.zero with vec := st.trap.vec }
    returnPoint := 0, stand := none, wait := none, arrived := none
    pos := st.head.pos, releases := st.head.releases, written := st.head.written }

/-- Steps 4 and 5 of R368. [DEDUCED, log 36] -/
def restartJob (s : State) (core slot : Nat) : State :=
  let s := (hartsOf core slot).foldl (fun s h => modStream s h restartStream) s
  let old := (getJob s (slotKey core slot)).queues
  let s := modJob s (slotKey core slot) fun j =>
    { j with queues := { Queues.empty with pushed := j.queues.headPushed, headPushed := j.queues.headPushed } }
  let s := sampleQueues s (getJob s (slotKey core slot)).ids.part old Queues.empty
  let j := getJob s (slotKey core slot)
  queueFault s j.ids.part (faultRecord Cause.preempt.code 1 0 0 (getStream s ⟨core, slot, .c⟩).pc 0 j.ids.jobid 0
    j.rgnid.toNat [] [])

/-- The last of a trap abort (R428 step 4): the detached entries move as the orphan list has room (R166), then the job
retires. -/
def finishAbort (s : State) (core slot : Nat) (j : Job) : State :=
  let s := orphanSome s core j
  if (handedOn s core j).isEmpty then retireJob s core slot else s

/-- Steps 2 to 4 of a trap abort (R428): the queues are emptied and the record goes to the sink, which may have to wait
for a host page. -/
def recordAbort (s : State) (core slot : Nat) (j : Job) (record : List Byte) : State :=
  match faultTo s (dispatcher j.ids.part j.ids.pasid j.ids.launch) j.ids.sink record with
  | .error s => s
  | .ok s =>
    let s := sampleQueues s j.ids.part j.queues Queues.empty
    let s := modJob s (slotKey core slot) fun j => { j with phase := .leaving, queues := Queues.empty }
    finishAbort s core slot j

/-- The end of a drain, of a forced save or of a trap abort. -/
def execDrainlimExpiry (core slot : Nat) (s : State) : Result :=
  .next (match Tab.get? s.jobs (slotKey core slot) with
    | none => s
    | some j =>
      match j.phase with
      | .draining t =>
        if drainOver s core j t then
          let s := restartJob (endDrain s core j) core slot
          modJob s (slotKey core slot) fun j => { j with phase := .flipping true }
        else s
      | .aborting t record => if drainOver s core j t then recordAbort (endDrain s core j) core slot j record else s
      | .leaving => finishAbort s core slot j
      | _ => s)

/-! ### The flip (R369, R371) -/

/-- A commit buffer and its token value are saved as a pending commit. -/
def Acc.suspend (a : Acc) (t : Nat) : Acc :=
  match a.buffer with
  | some v => { a with pending := a.pending ++ [(BitVec.ofNat 32 t, v)], buffer := none, owner := none }
  | none => a.disown

/-- The accumulators of an ended attached entry at the flip (R371). -/
def flipAccs (forced : Bool) (j : Job) (x : Nat × TokenEntry) : Job :=
  if x.2.state = .done && (x.2.beforeHead || !forced) then
    mapOwned j x.1 x.2.seq fun a => a.suspend (tokenValue x.1 x.2.seq)
  else mapOwned j x.1 x.2.seq Acc.disown

/-- The saved job: pending commits made, recipe rows dropped (R371, R449). -/
def flippedJob (forced : Bool) (held : List (Nat × TokenEntry)) (j : Job) : Job :=
  let j := (held.filter fun x => !x.2.det).foldl (flipAccs forced) j
  { j with
    rows := j.rows.map fun e => if e.2.mark && e.2.res then (e.1, dropRow e.2) else e
    prereq := j.prereq &&& ~~~1#64
    reqAt := none }

/-- At the flip the entries that are not detached are released (R371). [DEDUCED, log 86] -/
def flipTokens (s : State) (core : Nat) (held : List (Nat × TokenEntry)) : State :=
  held.foldl (fun s x => if x.2.det then s else releaseTok s core x.1) s

/-- The context moves into the shadow plane. [DEDUCED, log 86] -/
def flip (s : State) (core slot : Nat) (j : Job) (forced : Bool) : State :=
  let held := heldBy s core j.ids.jobid
  let st := fun t => getStream s ⟨core, slot, t⟩
  let saved : Saved := ⟨flippedJob forced held j, st .l, st .c, st .s, core, forced, false, s.time⟩
  let s := flipTokens s core held
  let s := modCluster s (clusterOf core) fun c => { c with idleSince := s.time }
  { modMs (stashDrop (stashWriteBack (leaveReads s core slot) core j) j.ids.jobid) (fun m =>
      { m with oldCode := m.oldCode.filter fun e => e.1 != j.ids.jobid }) with
    jobs := Tab.del s.jobs (slotKey core slot)
    strs := (hartsOf core slot).foldl (fun t h => Tab.del t (hartKey h)) s.strs
    saved := s.saved ++ [saved] }

/-- [DEDUCED, log 4, 86] -/
def execFlipDone (core slot : Nat) (s : State) : Result :=
  .next (match Tab.get? s.jobs (slotKey core slot) with
    | none => s
    | some j =>
      match j.phase with
      | .flipping forced => if planeRoom s core 1 (ordinaryRows j) then flip s core slot j forced else s
      | _ => s)

/-- Whether a flip on a core waits for room in the shadow plane. -/
def flipWaits (s : State) (core : Nat) : Bool :=
  (jobsOfCore s core).any fun e =>
    (match e.2.phase with | .flipping _ => true | _ => false) && !planeRoom s core 1 (ordinaryRows e.2)

/-- The oldest context of the shadow plane moves to the context area (R369). [DEDUCED, log 87] -/
def execContextSpill (core : Nat) (s : State) : Result :=
  .next (match inPlane s core with
    | x :: _ =>
      if flipWaits s core && inArea s x.job.ids.part < areaSlots s x.job.ids.part then
        moveSaved s x.job.ids.jobid true
      else s
    | [] => s)

/-! ### The resume (R370) -/

/-- A context becomes resident again. -/
def restore (s : State) (x : Saved) (slot : Nat) : State :=
  let job := { x.job with
    phase := .resuming x.forced
    prereq := setBits (setBits x.job.prereq 0 1 0) 1 1 (b2n x.forced) }
  { s with
    saved := s.saved.filter (· != x)
    jobs := Tab.set s.jobs (slotKey x.core slot) job
    strs := Tab.set (Tab.set (Tab.set s.strs (hartKey ⟨x.core, slot, .l⟩) x.l) (hartKey ⟨x.core, slot, .c⟩) x.c)
      (hartKey ⟨x.core, slot, .s⟩) x.s }

/-- The dispatcher deals a saved job to its core (R347, R370); a context in the area first returns to the
shadow plane. A gated cluster is asked to wake (R363). -/
def execJobResume (core : Nat) (s : State) : Result :=
  .next (match nextSaved s core, freeJobSlot s core with
    | some x, some slot =>
      let p := x.job.ids.part
      let first := match (getCore s core).localQueue with
        | (i, _, _) :: _ => !headFits s core i || savedFirst s p core i
        | [] => true
      if stopped s p || !first then s
      else if (getCluster s (clusterOf core)).gated then requestWake s (clusterOf core)
      else if x.inMemory then (bringIn s x).getD s
      else restore s x slot
    | _, _ => s)

/-- The context is restored: the job runs, protected after a forced save. -/
def execRestoreDone (core slot : Nat) (s : State) : Result :=
  .next (match Tab.get? s.jobs (slotKey core slot) with
    | none => s
    | some j =>
      match j.phase with
      | .resuming forced =>
        let s := modJob s (slotKey core slot) fun j =>
          { j with
            phase := .running
            protectedUntil := if forced then some (cycleOf s core + 16 * (getPart s j.ids.part).prelim.toNat) else none }
        if j.spoiled then spoil s core slot else s
      | _ => s)

def execProtectionExpiry (core slot : Nat) (s : State) : Result :=
  .next (match (getJob s (slotKey core slot)).protectedUntil with
    | some t =>
      if t ≤ cycleOf s core then modJob s (slotKey core slot) fun j => { j with protectedUntil := none } else s
    | none => s)

end Sys2Proof.Machine
end

