-- ==== Sys2Proof/Machine/Ctl.lean ====
section
/-! DEFINITION. The control operations of R403 and R411: their words, what each reads and writes, and the
instruction PCTL (R402). -/

namespace Sys2Proof.Machine

/-! ### Operation words (R402) -/

/-- A control operation: OP, WRT, INDEX, argument. -/
structure CtlOp where
  op : Nat
  wrt : Bool
  index : Nat
  arg : Word
  deriving DecidableEq, Repr

def ctlOf (w arg : Word) : CtlOp := ⟨bitsOf w 0 8, bitOf w 8, bitsOf w 16 16, arg⟩

/-- Whether the operation word keeps R402's own rules: zero bits, and PART zero unless OTHER names it. -/
def ctlWordOk (w : Word) : Bool :=
  bitsOf w 13 3 == 0 && bitsOf w 32 32 == 0 && (bitOf w 12 || bitsOf w 9 3 == 0)

/-- Statuses of a write. -/
def ctlDone : Nat := 0
def ctlRefused : Nat := 1
def ctlBusy : Nat := 2
def ctlSealed : Nat := 3
def ctlNone : Nat := 4

/-- Which directions an operation of R403 and R411 has: read, write. -/
def ctlDirs (op index : Nat) : Bool × Bool :=
  if [0x01, 0x0B, 0x16].contains op then (true, false)
  else if [0x0A, 0x12, 0x13, 0x14, 0x15].contains op then (false, true)
  else if op = 0x07 && index = 3 then (true, false)
  else (true, true)

/-- Whether INDEX is in range. -/
def ctlIndexOk (s : State) (p op i : Nat) : Bool :=
  match op with
  | 0x01 | 0x04 | 0x09 | 0x0A | 0x0C | 0x0D | 0x14 | 0x15 | 0x19 => i == 0
  | 0x02 | 0x03 => i < 16
  | 0x05 => i < Config.poolSize
  | 0x06 => i < 5
  | 0x07 => i < 4
  | 0x08 | 0x0E => i < 2
  | 0x0B => i < coreCount s p
  | 0x0F => i < Config.numUnits
  | 0x10 => i < Config.numClusters
  | 0x11 => i < 316
  | 0x12 => i < 3
  | 0x13 => 1 ≤ i
  | 0x16 => i < 64
  | 0x17 | 0x18 => i ≤ 64
  | 0x24 => i < 4 || (16 ≤ i && i < 80)
  | 0x25 => i < 8192
  | _ => false

/-- Whether the operation is one of R403 or R411, in a direction that it has, with an INDEX in range.
[DEDUCED, log 22] -/
def ctlLegal (s : State) (p : Nat) (c : CtlOp) : Bool :=
  ctlIndexOk s p c.op c.index && (if c.wrt then (ctlDirs c.op c.index).2 else (ctlDirs c.op c.index).1)

/-- What a job needs: nothing, a bit of PERMS, or it may not. -/
inductive CtlClass where
  | open | bit (n : Nat) | host
  deriving DecidableEq, Repr

def ctlClass (c : CtlOp) : CtlClass :=
  match c.op with
  | 0x01 | 0x16 => .open
  | 0x02 | 0x03 => .bit 0
  | 0x04 | 0x0C | 0x0F | 0x10 | 0x11 | 0x24 => if c.wrt then .host else .open
  | 0x05 => .bit 1
  | 0x06 | 0x07 => .bit 2
  | 0x0A => .bit 3
  | 0x0B => .bit 4
  | 0x14 | 0x15 => .bit 6
  | _ => .host

/-- The class is granted to the partition's jobs. -/
def ctlGranted (s : State) (p : Nat) (c : CtlOp) : Bool :=
  match ctlClass c with
  | .open => true
  | .bit n => bitOf (getPart s p).perms n
  | .host => false

/-! ### Reads (R403) -/

def ownerWord (t : Tab Nat) (i : Nat) : Word :=
  match Tab.get? t i with
  | some p => BitVec.ofNat 64 (1 + 2 * p)
  | none => 0

/-- A retired link of the router, at either of its ends (R461). -/
def linkRetired (s : State) (r : Nat) : Bool :=
  s.meshRetired.any fun k => k / 4 == r || Config.routerNext (k / 4) (k % 4) == some r

def netmapWord (s : State) (p l : Nat) : Word :=
  match physCore s p l with
  | none => 0
  | some core =>
    let r := Config.routerOf core
    BitVec.ofNat 64 (Config.routerColumn r % 256 + Config.routerRow r % 256 * 2 ^ 8
      + Config.routerStraight r % 4 * 2 ^ 16 + b2n (linkRetired s r) * 2 ^ 18)

def ownsQueue (s : State) (p q : Nat) : Bool := Tab.get? s.ownOwner (256 + q) == some p

/-- PCOUNT. -/
def partCount (s : State) (p i : Nat) : Word :=
  let x := getPart s p
  match i with
  | 0 => x.stale
  | 1 => x.lost
  | 2 => x.refused
  | 3 => x.discarded
  | _ =>
    if i < 48 then (if ownsQueue s p (i - 16) then (getFtq s (i - 16)).clamps else 0)
    else if ownsQueue s p (i - 48) then (getFtq s (i - 48)).stale
    else 0

/-- What an operation reads. -/
def ctlRead (s : State) (p : Nat) (c : CtlOp) : Word :=
  let x := getPart s p
  let i := c.index
  match c.op with
  | 0x01 => BitVec.ofNat 64 (p + b2n (isSealed s p) * 8 + (clustersOfPart s p).length * 2 ^ 8
      + (ownedBy s.unitOwner p).length * 2 ^ 16)
  | 0x02 => (x.llcrng.getD i (0, 0)).1
  | 0x03 => (x.llcrng.getD i (0, 0)).2
  | 0x04 => BitVec.ofNat 64 (x.shareFirst + x.shareCount * 2 ^ 16)
  | 0x05 => (getLaunch s i).pasid.setWidth 64
  | 0x06 => [x.agelim, x.gateidle, x.prelim, x.drainlim, x.orphtmo].getD i 0
  | 0x07 => [x.log.base, x.log.cap, x.log.rd, x.log.wr].getD i 0
  | 0x08 => if i = 0 then x.ctxBase else x.ctxSize
  | 0x09 => x.ctlTmpl
  | 0x0B => netmapWord s p i
  | 0x0C => x.perms
  | 0x0D => x.s2root
  | 0x0E => if i = 0 then x.pasidBase else x.pasidCount
  | 0x0F => ownerWord s.unitOwner i
  | 0x10 => ownerWord s.clusterOwner i
  | 0x11 => ownerWord s.ownOwner i
  | 0x16 => Config.identityWord i
  | 0x17 => if i = 0 then s.fabric.chips0 else Tab.getD s.fabric.chips i 0
  | 0x18 => if i = 0 then x.fabric else Tab.getD x.joined i 0
  | 0x19 => x.dirPool
  | 0x24 => partCount s p i
  | 0x25 => (getSdesc s (i / 32)).words.getD (i % 32) 0
  | _ => 0

/-! ### Writes: residency, share, scheduling (R100, R341, R355, R369, R388) -/

/-- The state a write leaves, and its status. -/
abbrev CtlWrite := State × Nat

def ctlSet (s : State) (p : Nat) (f : Part → Part) : CtlWrite := (modPart s p f, ctlDone)

/-- A write that its target's own rule may refuse. [DEDUCED, log 88] -/
def ctlRule (ok : Bool) (s : State) (w : CtlWrite) : CtlWrite := if ok then w else (s, ctlRefused)

def rangeWays (r : Word × Word) : Nat := if bitOf r.1 0 then bitsOf r.2 48 4 else 0

/-- WAYS of every enabled register of every partition but register `i` of partition `p`. -/
def waysElsewhere (s : State) (p i : Nat) : Nat :=
  (s.parts.map fun e => ((e.2.llcrng.toList.zipIdx.filter fun r => !(e.1 == p && r.2 == i)).map
    fun r => rangeWays r.1).sum).sum

/-- Whether a register may stand with these words (R100). [DEDUCED, log 94] -/
def rangeOk (s : State) (p i : Nat) (w0 w1 : Word) : Bool :=
  !bitOf w0 0 || (bitsOf w0 12 36 ≤ bitsOf w1 12 36 && 1 ≤ bitsOf w1 48 4
    && waysElsewhere s p i + bitsOf w1 48 4 ≤ 11)

/-- [DEDUCED, log 94] -/
def writeRange0 (s : State) (p i : Nat) (v : Word) : CtlWrite :=
  let r := (getPart s p).llcrng.getD i (0, 0)
  ctlRule (bitsOf v 1 11 == 0 && bitsOf v 48 16 == 0 && rangeOk s p i v r.2) s
    (ctlSet s p fun x => { x with llcrng := x.llcrng.setIfInBounds i (v, r.2) })

/-- [DEDUCED, log 94] -/
def writeRange1 (s : State) (p i : Nat) (v : Word) : CtlWrite :=
  let r := (getPart s p).llcrng.getD i (0, 0)
  ctlRule (bitsOf v 0 12 == 0 && bitsOf v 56 8 == 0 && 1 ≤ bitsOf v 48 4 && bitsOf v 48 4 ≤ 11
      && rangeOk s p i r.1 v) s
    (ctlSet s p fun x => { x with llcrng := x.llcrng.setIfInBounds i (r.1, v) })

/-- SHARE: no other share is met; launch PASIDs and go values start anew (R345, R388). -/
def writeShare (s : State) (p : Nat) (v : Word) : CtlWrite :=
  let first := bitsOf v 0 13
  let n := bitsOf v 16 14
  let apart := (s.parts.filter fun e => e.1 != p).all fun e =>
    n == 0 || e.2.shareCount == 0 || first + n ≤ e.2.shareFirst || e.2.shareFirst + e.2.shareCount ≤ first
  ctlRule (bitsOf v 13 3 == 0 && bitsOf v 30 34 == 0 && first + n ≤ Config.poolSize && apart) s
    (let s := modPart s p fun x => { x with shareFirst := first, shareCount := n }
     ({ s with pool := s.pool.map fun e =>
          if inShare s p e.1 then (e.1, { e.2 with pasid := 0, go := 1 }) else e }, ctlDone))

def writeSched (i : Nat) (v : Word) (x : Part) : Part :=
  match i with
  | 0 => { x with agelim := v }
  | 1 => { x with gateidle := v }
  | 2 => { x with prelim := v }
  | 3 => { x with drainlim := v }
  | _ => { x with orphtmo := v }

/-- EVLOG: the log is set anew, or the consumer moves RD and waiting events are written (R355).
[DEDUCED, log 92] -/
def writeEvlog (s : State) (p i : Nat) (v : Word) : CtlWrite :=
  let l := (getPart s p).log
  if i = 2 then
    ctlRule (l.rd.toNat ≤ v.toNat && v.toNat ≤ l.wr.toNat) s
      (settlePool (serveBoundaries (flushLog (modLog s p fun l => { l with rd := v }) p l.waiting.length) p), ctlDone)
  else
    ctlRule (i == 1 || v.toNat % 32 == 0) s
      (settlePool (serveBoundaries (flushLog (modLog s p fun l =>
        if i = 0 then { l with base := v, rd := 0, wr := 0 } else { l with cap := v, rd := 0, wr := 0 }) p
        l.waiting.length) p), ctlDone)

/-- CTXAREA (R369). -/
def writeCtx (s : State) (p i : Nat) (v : Word) : CtlWrite :=
  if i = 0 then ctlRule (v.toNat % 65536 == 0) s (ctlSet s p fun x => { x with ctxBase := v })
  else ctlRule (v.toNat % 655360 == 0) s (ctlSet s p fun x => { x with ctxSize := v })

/-- PREQ (R365): a running job that has not been asked is asked where its context finds room.
[DEDUCED, log 89] -/
def writePreq (s : State) (p : Nat) (v : Word) : CtlWrite :=
  match s.jobs.find? fun e => e.2.ids.part == p && e.2.ids.jobid == v.toNat with
  | some (k, j) =>
    if j.phase = .running && !requested j then
      (if canSave s (k / 4) j then (requestJob s (k / 4) (k % 4), ctlDone) else (s, ctlBusy))
    else (s, ctlDone)
  | none => (s, if (s.saved.any fun x => x.job.ids.part == p && x.job.ids.jobid == v.toNat) then ctlDone else ctlNone)

/-! ### Writes: ownership, the life of a partition (R399–R405) -/

/-- The owner an argument names: [0] owned, [3:1] owner. [DEDUCED, log 89] -/
def newOwner (v : Word) : Option Nat := if bitOf v 0 then some (bitsOf v 1 3) else none

/-- [DEDUCED, log 89] -/
def setOwner (t : Tab Nat) (i : Nat) (o : Option Nat) : Tab Nat :=
  match o with
  | some p => Tab.set t i p
  | none => Tab.del t i

def writeUnit (s : State) (i : Nat) (v : Word) : CtlWrite :=
  ctlRule (bitsOf v 4 60 == 0) s
    (if Tab.get? s.unitOwner i = newOwner v then (s, ctlDone)
     else
       let s := scrubUnit s i
       ({ s with unitOwner := setOwner s.unitOwner i (newOwner v) }, ctlDone))

def writeCluster (s : State) (i : Nat) (v : Word) : CtlWrite :=
  ctlRule (bitsOf v 4 60 == 0) s
    (if Tab.get? s.clusterOwner i = newOwner v then (s, ctlDone)
     else if clusterInUse s i then (s, ctlBusy)
     else
       let s := zeroCluster s i
       ({ s with clusterOwner := setOwner s.clusterOwner i (newOwner v) }, ctlDone))

/-- [DEDUCED, log 89] -/
def writeOwn (s : State) (i : Nat) (v : Word) : CtlWrite :=
  ctlRule (bitsOf v 4 60 == 0) s ({ s with ownOwner := setOwner s.ownOwner i (newOwner v) }, ctlDone)

/-- PCREATE, PDESTROY, SEAL. -/
def writeLife (s : State) (p i : Nat) (v : Word) : CtlWrite :=
  let st := (getPart s p).state
  ctlRule (v == 0) s
    (match i with
     | 0 => if st = .free then (createPart s p, ctlDone) else (s, ctlBusy)
     | 1 => if st = .free then (s, ctlBusy) else (destroyPart s p, ctlDone)
     | _ => if sealable s p then (sealPart s p, ctlDone) else (s, ctlBusy))

/-- MEASURE: a range of pages of partition physical memory. -/
def writeMeasure (s : State) (p pages : Nat) (v : Word) : CtlWrite :=
  if (getPart s p).state != .opened then (s, ctlBusy)
  else if v.toNat % 4096 != 0 then (s, ctlRefused)
  else
    match readSound s p v.toNat (4096 * pages) with
    | some bs => (extendMeasure s p 1 (sha512 bs), ctlDone)
    | none => (s, ctlRefused)

/-! ### Writes: chips, counters, stream descriptors (R356, R403, R411, R420) -/

def writeChips (s : State) (i : Nat) (v : Word) : CtlWrite :=
  if i = 0 then
    ctlRule (bitsOf v 8 7 ≤ 64 && bitsOf v 15 49 == 0) s
      ({ s with fabric := releaseUnlisted { s.fabric with chips0 := v } }, ctlDone)
  else
    ctlRule (bitsOf v 8 56 == 0) s
      ({ s with fabric := releaseUnlisted { s.fabric with chips := Tab.set s.fabric.chips i v } }, ctlDone)

def clearCount (s : State) (p i : Nat) : State :=
  if i < 4 then
    modPart s p fun x =>
      match i with
      | 0 => { x with stale := 0 }
      | 1 => { x with lost := 0 }
      | 2 => { x with refused := 0 }
      | _ => { x with discarded := 0 }
  else
    let q := if i < 48 then i - 16 else i - 48
    if ownsQueue s p q then modFtq s q fun f => if i < 48 then { f with clamps := 0 } else { f with stale := 0 }
    else s

/-- The conditions of R356 for enabling stream `st` with this descriptor. -/
def enableOk (s : State) (st : Nat) (d : StreamDesc) : Bool :=
  let ftq := d.get 0x58 1
  let owner := Tab.get? s.ownOwner st
  ((List.range 4).all fun r => d.get (0x26 + 8 * r) 2 == 0) && d.get 0x45 1 < 8 && d.get 0x46 2 == 0
  && d.get 0x5E 2 == 0 && ((List.range 17).all fun k => d.words.getD (15 + k) 0 == 0)
  && rungPresent d (d.get 0x40 1) && !(recordsLog d && playsLog d) && 1000 ≤ d.get 0 8
  && 1 ≤ d.get 0x50 4 && d.get 0x50 4 ≤ 65536 && d.get 0x54 4 != 0 && d.get 0x54 4 % 256 == 0
  && (frameDepth d == 8 || frameDepth d == 10)
  && frameWidth d != 0 && frameWidth d % 2 == 0 && frameWidth d ≤ 7680
  && frameHeight d != 0 && frameHeight d % 2 == 0 && frameHeight d ≤ 4320
  && owner.isSome && ftq < 32 && Tab.get? s.ownOwner (256 + ftq) == owner
  && (s.streams.all fun e => e.1 == st || !streamEnabled e.2 || e.2.get 0x58 1 != ftq)
  && (List.range 4).all fun r => !rungPresent d r || (rungSet d r).all fun i =>
      (match owner with | some p => inShare s p i | none => false) && (getLaunch s i).flags / 8 % 2 == 1

/-- The first boundary at or after now. -/
def firstBoundary (d : StreamDesc) (now : Nat) : Nat :=
  if now ≤ d.get 8 8 then d.get 8 8 else d.get 8 8 + ceilDiv (now - d.get 8 8) (d.get 0 8) * d.get 0 8

/-- [DEDUCED, log 93] -/
def enabled (s : State) (d : StreamDesc) : StreamDesc := { d with nextAt := firstBoundary d s.time, due := [], frames := [], current := none }

/-- A stream is enabled; the queue it is bound to has no newest frame (R227). [DEDUCED, log 93] -/
def enableStream (s : State) (st : Nat) (d : StreamDesc) : State :=
  modFtq (modSdesc s st fun _ => enabled s d) (d.get 0x58 1) fun f => { f with newest := none }

/-- [DEDUCED, log 93] -/
def writeStrdesc (s : State) (i : Nat) (v : Word) : CtlWrite :=
  let st := i / 32
  let d := getSdesc s st
  let new : StreamDesc := { d with words := d.words.setIfInBounds (i % 32) v }
  if streamEnabled d then
    if v = d.words.getD (i % 32) 0 then (s, ctlDone)
    else (if i % 32 = 8 && setBits v 40 1 1 == setBits (d.words.getD 8 0) 40 1 1 then
      (modSdesc s st fun _ => new, ctlDone) else (s, ctlBusy))
  else if streamEnabled new then ctlRule (enableOk s st new) s (enableStream s st new, ctlDone)
  else (modSdesc s st fun _ => new, ctlDone)

def writeJoin (s : State) (p i : Nat) (v : Word) : CtlWrite :=
  if i = 0 then ctlRule (bitsOf v 32 32 == 0) s (ctlSet s p fun x => { x with fabric := v })
  else ctlRule (bitsOf v 12 52 == 0) s (ctlSet s p fun x => { x with joined := Tab.set x.joined i v })

/-- What an operation writes; EXTEND and QUOTE, which reach memory, stand below. -/
def ctlWrite (s : State) (p : Nat) (c : CtlOp) : CtlWrite :=
  let i := c.index
  let v := c.arg
  match c.op with
  | 0x02 => writeRange0 s p i v
  | 0x03 => writeRange1 s p i v
  | 0x04 => writeShare s p v
  | 0x05 => ctlRule (bitsOf v 20 44 == 0) s (modLaunch s i fun l => { l with pasid := v.setWidth 20 }, ctlDone)
  | 0x06 => ctlSet s p (writeSched i v)
  | 0x07 => writeEvlog s p i v
  | 0x08 => writeCtx s p i v
  | 0x09 => ctlRule (bitsOf v 6 58 == 0 && bitsOf v 0 3 ≤ 4) s (ctlSet s p fun x => { x with ctlTmpl := v })
  | 0x0A => writePreq s p v
  | 0x0C => ctlRule (bitsOf v 7 57 == 0) s (ctlSet s p fun x => { x with perms := v })
  | 0x0D => ctlRule (bitsOf v 0 12 == 0 && bitsOf v 48 16 == 0) s (ctlSet s p fun x => { x with s2root := v })
  | 0x0E => ctlSet s p fun x => if i = 0 then { x with pasidBase := v } else { x with pasidCount := v }
  | 0x0F => writeUnit s i v
  | 0x10 => writeCluster s i v
  | 0x11 => writeOwn s i v
  | 0x12 => writeLife s p i v
  | 0x13 => writeMeasure s p i v
  | 0x17 => writeChips s i v
  | 0x18 => writeJoin s p i v
  | 0x19 => ctlSet s p fun x => { x with dirPool := v }
  | 0x24 => ctlRule (v == 0) s (clearCount s p i, ctlDone)
  | 0x25 => writeStrdesc s i v
  | _ => (s, ctlNone)

/-! ### EXTEND and QUOTE (R405, R406) -/

/-- EXTEND: the 64 bytes at an address, for an agent. -/
def ctlExtend (s : State) (p : Nat) (b : Bulk) (v : Word) : Except BulkFail CtlWrite :=
  if isSealed s p then (readRange s b v 64).map fun x => (extendMeasure x.1 p 3 x.2, ctlDone)
  else .ok (s, ctlRefused)

/-- QUOTE: the nonce is read and the buffer filled, for an agent. [DEDUCED, log 91] -/
def ctlQuote (s : State) (p : Nat) (b : Bulk) (v : Word) : Except BulkFail CtlWrite :=
  if v.toNat % 256 != 0 then .ok (s, ctlRefused)
  else
    match readRange s b (v + 16) 64 with
    | .error e => .error e
    | .ok x => (writeAll x.1 b v (quoteBytes x.1 p x.2)).map fun s => (s, ctlDone)

/-- A control operation on partition `p`, with the agent that an address argument is reached by. The result
is a value or a status. -/
def ctlPerform (s : State) (p : Nat) (b : Bulk) (c : CtlOp) : Except BulkFail (State × Word) :=
  if !c.wrt then .ok (s, ctlRead s p c)
  else
    let r := if c.op = 0x14 then ctlExtend s p b c.arg else if c.op = 0x15 then ctlQuote s p b c.arg
      else .ok (ctlWrite s p c)
    r.map fun w => (w.1, BitVec.ofNat 64 w.2)

/-! ### PCTL (R402) -/

/-- The executing job as the agent of an address argument. -/
def curBulk (s : State) : Bulk :=
  { ag := curAgent s, wet := true, own := (curJob s).ids.jobid, quota := (curJob s).ids.verQuota }

/-- A range access that fails, as a precise trap or a wait. -/
def bulkStop (e : BulkFail) : Stop := accStop e.2 e.1

/-- [DEDUCED, log 22] -/
def execPctl (g : Guard) (d a b : Reg) (s : State) : Result :=
  issue (.pctl g d a b) allStrms (some g) free (fun s => do
    let p := curPart s
    let w := rd s a
    let c := ctlOf w (rd s b)
    let hostOp := 0x18 ≤ c.op && c.op ≤ 0x23
    check (ctlWordOk w && (hostOp || ctlLegal s p c)) .illegal
    check (!bitOf w 12 && !hostOp && ctlGranted s p c) .priv
    check (c.op != 0x05 || inShare s p c.index) .launch (BitVec.ofNat 64 c.index)
    -- a buffer that it reads or writes is one of the stream's accesses, in program order
    let s := if c.op = 0x14 || c.op = 0x15 then orderReads (drainWc s s.cur) s.cur else s
    match ctlPerform s p (curBulk s) c with
    | .ok (s, v) => .ok (.next (wr s d v))
    | .error e => .error (bulkStop e)) s

end Sys2Proof.Machine
end

