-- ==== Sys2Proof/Machine/Debug.lean ====
section
/-! DEFINITION. The host's view of a partition (R464–R479): stops and their record, steps, breakpoints, trace
egress, stall counters, monitors, snapshot images, chalk-line results, replay. -/

namespace Sys2Proof.Machine

/-! ### Registers of the debug operations (R464) -/

def debugDirs (op i : Nat) : Bool × Bool :=
  match op with
  | 0x1B => if 1 ≤ i && i ≤ 3 then (false, true) else (true, true)
  | 0x1C => (true, i != 3)
  | 0x1E => (true, i % 32 == 0)
  | 0x20 => (true, i == 0)
  | 0x21 => (true, i != 3)
  | _ => (true, true)

def debugIndexOk (op i : Nat) : Bool :=
  match op with
  | 0x1B => i < 4 || (16 ≤ i && i < 48)
  | 0x1C => i < 4
  | 0x1D => i < 4 || (4096 ≤ i && i < 8192)
  | 0x1E => i < 512 && i % 32 < 20
  | 0x1F => i < 2
  | 0x20 => i < 5
  | 0x21 => i < 4
  | _ => false

/-- Whether a partition has passed an arming of the launch at a share offset: the launch has retired from it or been
armed again, or nothing of the partition is armed. [DEDUCED, log 41] -/
def pastArming (s : State) (p offset armseq : Nat) : Bool :=
  let l := getLaunch s ((getPart s p).shareFirst + offset)
  armseq < l.armseq || (l.armseq == armseq && l.state == 4)
    || !s.pool.any fun e => inShare s p e.1 && (e.2.state == 2 || e.2.state == 3)

/-- Whether an entry is a difference of the partitions `a` and `b` (R477). A key of one side alone is one once the other
side will not reach it: it has counted a later release of the stream, or has passed the arming.
[DEDUCED, log 41] -/
def chalkDiffers (s : State) (a b : Nat) (all : List ChalkEntry) (e : ChalkEntry) : Bool :=
  let sameStream (x : ChalkEntry) : Bool :=
    x.key.1 == e.key.1 && x.key.2.1 == e.key.2.1 && x.key.2.2.1 == e.key.2.2.1
      && x.key.2.2.2.1 == e.key.2.2.2.1 && e.key.2.2.2.2 < x.key.2.2.2.2
  match e.hashA, e.hashB with
  | some x, some y => x != y
  | some _, none => (all.any fun x => sameStream x && x.hashB.isSome) || pastArming s b e.key.1 e.key.2.1
  | none, some _ => (all.any fun x => sameStream x && x.hashA.isSome) || pastArming s a e.key.1 e.key.2.1
  | none, none => false

/-- The lowest differing release found so far. [DEDUCED, log 41] -/
def chalkFirst (s : State) (a b : Nat) (all : List ChalkEntry) : Option ChalkEntry :=
  (all.filter (chalkDiffers s a b all)).foldl (fun b e => match b with
    | none => some e
    | some x => if keyLe x.key e.key then some x else some e) none

/-- The lowest differing release of a chalk line, its word in this register (R407, R477). -/
def chalkWord (s : State) (p i : Nat) : Word :=
  let d := getDebug s p
  let e := chalkFirst s p (bitsOf d.chalk 1 3) d.chalkKeys
  let hidden := isSealed s p || isSealed s (bitsOf d.chalk 1 3)
  match i with
  | 0 => d.chalk
  | 1 => (e.map fun x => keyWord x.key).getD 0
  | 2 => if hidden then 0 else (e.bind (·.hashA)).getD 0
  | 3 => if hidden then 0 else (e.bind (·.hashB)).getD 0
  | _ => BitVec.ofNat 64 (d.chalkKeys.filter fun x => x.hashA.isSome && x.hashB.isSome).length

def monitorWord (m : Monitor) (f : Nat) : Word :=
  match f with
  | 0 => m.cfg
  | 1 => m.count
  | 2 => m.min
  | 3 => m.max
  | _ => m.bins.getD (f - 4) 0

def debugRead (s : State) (p op i : Nat) : Word :=
  let d := getDebug s p
  match op with
  | 0x1B => if i < 16 then d.buffer else if i < 32 then d.bps.getD (i - 16) 0 else d.bpRecords.getD (i - 32) 0
  | 0x1C => [d.traceCtl, d.traceBase, d.traceSize, d.traceLost].getD i 0
  | 0x1D => if i < 4 then d.stalls.getD i 0 else Tab.getD d.stallObjs (i - 4096) 0
  | 0x1E => monitorWord (d.monitors.getD (i / 32) .reset) (i % 32)
  | 0x1F => if i = 0 then d.snapMask else d.snapBuffer
  | 0x20 => chalkWord s p i
  | _ => [d.replayCtl, d.replayFirst, d.replayImages, BitVec.ofNat 64 d.replayIndex].getD i 0

/-! ### DBG (R466, R467) -/

def dbgSet (s : State) (p : Nat) (f : Debug → Debug) : CtlWrite := (modDebug s p f, ctlDone)

/-- Every stream of the partition goes on. [DEDUCED, log 95] -/
def resumePart (s : State) (p : Nat) : State :=
  let keys := (s.jobs.filter fun e => e.2.ids.part == p).map (·.1)
  modDebug { s with strs := s.strs.map fun e =>
      if keys.contains (e.1 / 3) then (e.1, { e.2 with stepping := false }) else e } p
    fun d => { d with stop := none, stopDone := false }

/-- INDEX 3: one stream may issue one instruction. [DEDUCED, log 95] -/
def stepStream (s : State) (p : Nat) (v : Word) : CtlWrite :=
  match s.jobs.find? fun e => e.2.ids.part == p && e.2.ids.jobid == bitsOf v 8 56 with
  | none => (s, ctlNone)
  | some (k, _) =>
    ctlRule (stopped s p && bitsOf v 0 2 < 3 && bitsOf v 2 6 == 0) s
      (modStream s (hartOfKey (3 * k + bitsOf v 0 2)) fun st => { st with stepping := true }, ctlDone)

/-- No reserved value and no reserved bit of a breakpoint register. -/
def breakpointOk (v : Word) : Bool := bitsOf v 1 2 != 3 && bitsOf v 3 5 < 17 && bitsOf v 25 7 == 0

def writeDbg (s : State) (p i : Nat) (v : Word) : CtlWrite :=
  if i = 0 then ctlRule (bitsOf v 1 7 == 0) s (dbgSet s p fun d => { d with buffer := v })
  else if i = 1 then (requestStop s p 0 0, ctlDone)
  else if i = 2 then (resumePart s p, ctlDone)
  else if i = 3 then stepStream s p v
  else if i < 32 then
    ctlRule (breakpointOk v) s (dbgSet s p fun d => { d with bps := d.bps.setIfInBounds (i - 16) v })
  else ctlRule (bitsOf v 32 32 == 0) s (dbgSet s p fun d => { d with bpRecords := d.bpRecords.setIfInBounds (i - 32) v })

/-! ### The stop record (R466) -/

/-- One entry of the stop record. -/
def stopEntry (j : Job) (l c t : Stream) (saved : Bool) : List Byte :=
  let q := j.queues.pushed.toList
  leBytes 4 j.ids.launch ++ leBytes 4 j.ids.record ++ leBytes 8 j.ids.jobid
    ++ leBytes 8 l.pos ++ leBytes 8 c.pos ++ leBytes 8 t.pos
    ++ leBytes 8 l.pc.toNat ++ leBytes 8 c.pc.toNat ++ leBytes 8 t.pc.toNat
    ++ q.flatMap (leBytes 4) ++ leBytes 4 j.rgnid.toNat ++ leBytes 4 (b2n saved)

/-- The jobs of a partition, resident and saved. -/
def stopEntries (s : State) (p : Nat) : List (List Byte) :=
  ((s.jobs.filter fun e => e.2.ids.part == p).map fun e =>
    let st := fun t => getStream s ⟨e.1 / 4, e.1 % 4, t⟩
    stopEntry e.2 (st .l) (st .c) (st .s) false)
  ++ (s.saved.filter fun x => x.job.ids.part == p).map fun x => stopEntry x.job x.l x.c x.s true

/-- [DEDUCED, log 95] -/
def stopRecord (s : State) (p reason tag : Nat) : List Byte :=
  let es := stopEntries s p
  leBytes 4 reason ++ leBytes 4 es.length ++ leBytes 8 s.time ++ leBytes 4 tag ++ List.replicate 12 0 ++ es.flatten

/-- Whether a stop has come to rest: no operation of the partition is in flight, no job leaves or returns, and
no stream still has its step to make. [DEDUCED, log 95] -/
def stopSettled (s : State) (p : Nat) : Bool :=
  (s.cores.all fun c => c.2.tokens.all fun t => t.2.ids.part != p || !t.2.state.inFlight)
  && (s.jobs.all fun e => e.2.ids.part != p || e.2.phase == .running)
  && (s.jobs.all fun e => e.2.ids.part != p || (hartsOf (e.1 / 4) (e.1 % 4)).all fun h => !(getStream s h).stepping)

/-- STOP_COMPLETE: the stop record is written, where the host has set a buffer. [DEDUCED, log 95] -/
def execStopComplete (part : Nat) (s : State) : Result :=
  .next (match (getDebug s part).stop with
    | none => s
    | some (reason, tag) =>
      if (getDebug s part).stopDone || !stopSettled s part then s
      else
        let base := (getDebug s part).buffer &&& ~~~0xFF#64
        let s' := if base = 0 then s else writeHost s 0 base (stopRecord s part reason tag)
        modDebug s' part fun d => { d with stopDone := true })

/-! ### Trace, stalls, monitors, snapshots, chalk line: writes -/

/-- TRCFG (R471): the first record after trace is enabled follows a job and a time marker (R470). -/
def writeTrcfg (s : State) (p i : Nat) (v : Word) : CtlWrite :=
  if i = 0 then
    ctlRule (bitsOf v 11 53 == 0) s
      (let s' := modDebug s p fun d => { d with traceCtl := v }
       if bitOf v 0 && !traceOn s p then
         ((coresOfPart s p).foldl (fun s c => modCore s c fun x => { x with tracePend := [], traceJob := none, traceCycle := x.cycle }) s', ctlDone)
       else (s', ctlDone))
  else if i = 1 then dbgSet s p fun d => { d with traceBase := v, tracePos := 0 }
  else dbgSet s p fun d => { d with traceSize := v, tracePos := 0 }

def writeStall (s : State) (p i : Nat) : CtlWrite :=
  dbgSet s p fun d =>
    if i < 4 then { d with stalls := d.stalls.setIfInBounds i 0 } else { d with stallObjs := Tab.del d.stallObjs (i - 4096) }

/-- The bits a monitor's configuration may have, by source. -/
def monitorOk (v : Word) : Bool :=
  match bitsOf v 1 7 with
  | 0 => bitsOf v 15 49 == 0
  | 1 => bitsOf v 13 51 == 0
  | n => n < 5 && bitsOf v 8 56 == 0

/-- [DEDUCED, log 96] -/
def writeMon (s : State) (p i : Nat) (v : Word) : CtlWrite :=
  ctlRule (monitorOk v) s
    (dbgSet s p fun d => { d with monitors := d.monitors.setIfInBounds (i / 32) { Monitor.reset with cfg := v } })

def writeSnapcfg (s : State) (p i : Nat) (v : Word) : CtlWrite :=
  if i = 0 then
    ctlRule (bitsOf v 32 32 == 0) s
      (let s := modDebug s p fun d => { d with snapMask := v &&& 0xFFFF }
       ((List.range 16).foldl (fun s t => if bitOf v (16 + t) then fireTrigger s p t 2 else s) s, ctlDone))
  else ctlRule (v.toNat % 4096 == 0) s (dbgSet s p fun d => { d with snapBuffer := v })

def writeChalk (s : State) (p : Nat) (v : Word) : CtlWrite :=
  ctlRule (bitsOf v 4 60 == 0) s (dbgSet s p fun d => { d with chalk := v, chalkKeys := [] })

/-- Whether a partition has neither a job nor an armed launch. -/
def partEmpty (s : State) (p : Nat) : Bool :=
  (jobsOfPart s p).isEmpty && s.pool.all fun e => !inShare s p e.1 || (e.2.state != 2 && e.2.state != 3)

/-- REPLAY (R479). [DEDUCED, log 97] -/
def writeReplay (s : State) (p i : Nat) (v : Word) : CtlWrite :=
  match i with
  | 0 =>
    if bitsOf v 1 63 != 0 then (s, ctlRefused)
    else if bitOf v 0 && !(stopped s p || partEmpty s p) then (s, ctlBusy)
    else dbgSet s p fun d =>
      if bitOf v 0 then { d with replayCtl := v, replayIndex := d.replayFirst.toNat, replayImage := 0 }
      else { d with replayCtl := v }
  | 1 => dbgSet s p fun d => { d with replayFirst := v }
  | _ => dbgSet s p fun d => { d with replayImages := v }

def debugWrite (s : State) (p op i : Nat) (v : Word) : CtlWrite :=
  match op with
  | 0x1B => writeDbg s p i v
  | 0x1C => writeTrcfg s p i v
  | 0x1D => writeStall s p i
  | 0x1E => writeMon s p i v
  | 0x1F => writeSnapcfg s p i v
  | 0x20 => writeChalk s p v
  | _ => writeReplay s p i v

/-! ### Snapshot images (R476) -/

/-- `n` bytes of a part of the image, whose layout the spec leaves open. [DEDUCED, log 96] -/
def imagePart (kind n : Nat) (l : List Nat) : List Byte := (Config.snapshotLayout kind l ++ List.replicate n 0).take n

/-- What the image holds of a core: for each resident job the streams' PCs and positions and the queue
occupancies, the token counts by state, and the engines' busy flags; in a sealed partition the occupancies alone, the rest zero
(R407). -/
def coreImage (s : State) (hide : Bool) (core : Nat) : List Nat :=
  let f := fun n : Nat => if hide then 0 else n
  (s.jobs.filter fun e => e.1 / 4 == core).flatMap (fun e =>
    (hartsOf core (e.1 % 4)).flatMap (fun h => [f (getStream s h).pc.toNat, f (getStream s h).pos]) ++ queueLengths e.2.queues)
  ++ [TokState.pending, .ready, .running, .done, .faulted, .cancelled].map (fun t =>
      f ((tokens s core).filter fun x => x.2.state == t).length)
  ++ [Engine.matrix, .copy, .kv, .collective, .media].map fun e =>
      f (b2n ((tokens s core).any fun x => x.2.state == .running && engineOf x.2.instr == some e))

/-- The armed launches of a partition with their levels and slack. -/
def schedulerImage (s : State) (p : Nat) : List Nat :=
  ((s.pool.map (·.1)).filter fun i => inShare s p i && ((getLaunch s i).state == 2 || (getLaunch s i).state == 3)).flatMap
    fun i => [i, (launchKey s p i).1, ((launchKey s p i).2.1 % 2 ^ 64).toNat]

/-- [DEDUCED, log 96] -/
def snapshotImage (s : State) (p t src time : Nat) : List Byte :=
  leBytes 8 time ++ leBytes 4 t ++ leBytes 4 src ++ List.replicate 48 0
    ++ (coresOfPart s p).flatMap (fun c => imagePart 0 256 (coreImage s (isSealed s p) c))
    ++ Config.snapshotLayout 1 (schedulerImage s p)
    ++ if isSealed s p then []
      else (s.jobs.filter fun e => e.2.ids.part == p).flatMap fun e =>
        (hartsOf (e.1 / 4) (e.1 % 4)).flatMap fun h =>
          Config.snapshotLayout 2 ((getStream s h).regs.toList.drop 1 |>.map BitVec.toNat)

/-- The image of a trigger that has fired is written. -/
def writeSnapshot (s : State) (p : Nat) : State :=
  match (getDebug s p).snapFired with
  | none => s
  | some (t, src, time) =>
    modDebug (writeHost s 0 (getDebug s p).snapBuffer (snapshotImage s p t src time)) p fun d => { d with snapFired := none }

/-- Every fired trigger's image is written: the cycle in which TIME first equals the trigger time ends.
[DEDUCED, log 96] -/
def writeSnapshots (s : State) : State := (s.parts.map (·.1)).foldl writeSnapshot s

/-! ### Trace egress (R471) -/

/-- Bytes into the host ring of a partition, one by one. [DEDUCED, log 96] -/
def egressWrite (s : State) (p : Nat) (bs : List Byte) : State :=
  let d := getDebug s p
  if d.traceSize = 0 then s
  else
    let s := bs.zipIdx.foldl (fun s e =>
      writeHost s 0 (d.traceBase + BitVec.ofNat 64 ((d.tracePos + e.2) % d.traceSize.toNat)) [e.1]) s
    modDebug s p fun d => { d with tracePos := d.tracePos + bs.length }

/-- How many records a frame takes: its length is 16 bits wide. -/
def frameRecords (n : Nat) : List (List Byte) → Nat
  | [] => 0
  | r :: rs => if n + r.length ≤ 65535 then frameRecords (n + r.length) rs + 1 else 0

/-- A frame of a cluster's records leaves through the Dripa port, or into the host ring.
[DEDUCED, log 96] -/
def execTraceEgress (cluster : Nat) (s : State) : Result :=
  let c := getCluster s cluster
  .next (match c.trace, Tab.get? s.clusterOwner cluster with
    | [], _ => s
    | _, none => s
    | rs, some p =>
      let n := frameRecords 0 rs
      let bs := (rs.take n).flatten
      let s := modCluster s cluster fun c => { c with trace := c.trace.drop n, traceSeq := c.traceSeq + 1 }
      if bitOf (getDebug s p).traceCtl 1 then
        egressWrite s p (leBytes 2 cluster ++ leBytes 2 bs.length ++ leBytes 4 c.traceSeq ++ bs)
      else { s with out := s.out ++ [.traceFrame cluster c.traceSeq bs] })

/-! ### Replay (R479) -/

/-- The rung of the frame whose boundary has fallen and is to be acted on. -/
def replayRung (s : State) (p st : Nat) : State × Nat :=
  match (getSdesc s st).due with
  | b :: _ => dueRung s p st b
  | [] => fixRung s p st

/-- A logged boundary: it falls. [DEDUCED, log 97] -/
def replayBoundary (s : State) (p st : Nat) : State := boundaryFalls s p st

/-- A logged periodic arming: the next launch of the frame's set has its attempt; those that follow are events of
their own. [DEDUCED, log 97] -/
def replayArm (s : State) (p st : Nat) : State :=
  match (getSdesc s st).due with
  | [] => replayNext s p
  | _ =>
    let x := replayRung s p st
    settlePool (endSet (armOne x.1 p st x.2) p st x.2)

def replaySkip (s : State) (p st : Nat) : State :=
  match (getSdesc s st).due with
  | [] => replayNext s p
  | b :: _ =>
    let x := replayRung s p st
    skipFrame x.1 p st b.number x.2

/-- A logged host arm: the next image is copied, then armed. [DEDUCED, log 97] -/
def replayHostArm (s : State) (p i : Nat) : State :=
  let d := getDebug s p
  let bs := readHost s 0 (d.replayImages + BitVec.ofNat 64 (128 * d.replayImage)) 128
  let s := modDebug s p fun d => { d with replayImage := d.replayImage + 1 }
  let s := modLaunch s i fun l => if l.state == 1 || l.state == 4 then copySlot l bs else l
  if armable s p i (getLaunch s i) then settlePool (replayNext (armRecord s i) p) else replayNext (failedArming s p i) p

/-- A logged rung change. -/
def replayRungChange (s : State) (p st r : Nat) : State := replayNext (takeRung s st r) p

/-- The oldest live request of a stream, whose logged place has come. -/
def dropRequest (st : Nat) : List (Nat × Nat × Nat) → List (Nat × Nat × Nat)
  | [] => []
  | x :: xs => if x.2.1 = st then xs else x :: dropRequest st xs

/-- A logged rung request: it sets the rung (R360), unless the stream's descriptor plays its rung log; the job's own
request is used up. [DEDUCED, log 97] -/
def replayRequest (s : State) (p st r : Nat) : State :=
  let d := getSdesc s st
  let s := modPart s p fun x => { x with rungReqs := dropRequest st x.rungReqs }
  replayNext (if playsLog d && streamEnabled d then s else takeRung s st r) p

/-- REPLAY_EVENT: the next logged event is applied. An ARM by a job and a retirement wait for theirs.
[DEDUCED, log 97] -/
def execReplayEvent (part : Nat) (s : State) : Result :=
  .next (if !replaying s part || stopped s part then s
    else
      match nextLogged s part with
      | none => s
      | some r =>
        let st := ofLe (slice r 0x12 2)
        let i := ofLe (slice r 0x14 4)
        let arg := ofLe (slice r 0x18 8)
        match ofLe (slice r 0x10 1) with
        | 2 => replayHostArm s part i
        | 3 => replayArm s part st
        | 5 => replayRungChange s part st (arg % 256)
        | 6 => replayRequest s part st (arg % 256)
        | 7 => replayNext s part
        | 8 => replayBoundary s part st
        | 9 => replaySkip s part st
        | 1 => s
        | 4 => settlePool s
        | _ => replayNext s part)

end Sys2Proof.Machine
end

