-- ==== Sys2Proof/Machine/Platform.lean ====
section
/-! DEFINITION. Errors and their counters (R456–R460), clock and temperature (R488, R489), reset and bring-up
(R490–R492), the platform operations (R493). -/

namespace Sys2Proof.Machine

/-! ### ERRCNT, PLAT, FWSTAGE (R457, R493) -/

def errCount (s : State) (i : Nat) : Word :=
  if i < 8 then s.errs.counts.getD i 0
  else if i < 12 then (getPort s (i - 8)).stray
  else (getPort s (i - 12)).dropped

/-- The rollback count: the one fused at first, advanced to the version of every image that has booted (R492). -/
def rollbackOf (p : Platform) : Word :=
  p.rollback.getD (if Config.rollbackCount.toNat ≤ (Config.imageVersion Config.flashImage).toNat then
    Config.imageVersion Config.flashImage else Config.rollbackCount)

/-- A PLAT read (R493). [DESIGN CHOICE, log 98] -/
def platRead (s : State) (i : Nat) : Word :=
  let p := s.platform
  match i with
  | 0 => p.supply
  | 1 => BitVec.ofNat 64 p.mhz
  | 2 => BitVec.ofNat 64 p.power
  | 3 => BitVec.ofInt 64 p.temp
  | 4 => p.throttles
  | 5 => Config.imageVersion (p.running.getD Config.flashImage)
  | 6 => p.boot
  | _ => rollbackOf p

/-- Whether an image passes step 2 of bring-up (R491). [DESIGN CHOICE, log 98] -/
def imageOk (p : Platform) (bs : List Byte) : Bool :=
  Config.imageVerifies bs && (rollbackOf p).toNat ≤ (Config.imageVersion bs).toNat

/-- The bytes of the image at a host address, whose format the spec leaves open. [DESIGN CHOICE, log 98] -/
def imageAt (s : State) (addr : Word) : List Byte := readHost s 0 addr (Config.imageLength (readHost s 0 addr 8))

/-- FWSTAGE: the image is checked, and staged in flash (R492, R493). [DESIGN CHOICE, log 98] -/
def stageImage (s : State) (addr : Word) : CtlWrite :=
  ctlRule (imageOk s.platform (imageAt s addr)) s
    ({ s with platform := { s.platform with staged := some (imageAt s addr) } }, ctlDone)

/-! ### Soft errors (R456, R458, R460) -/

/-- A granule in the LLC is poisoned: of the line as every agent reads it, or of a job's wet version (R459). -/
def poisonLlc (s : State) (job : Option Nat) (g : Nat) : State :=
  modMs s fun m =>
    match job with
    | none => { m with memPoison := NatSet.add m.memPoison g }
    | some j => { m with wet := m.wet.map fun w => if w.job = j && w.granule = g then { w with poison := true } else w }

/-- A row granule is poisoned. -/
def poisonRow (j : Job) (r g : Nat) : Job :=
  { j with rows := Tab.modify j.rows r fun x => { x with poison := x.poison ||| (1#32 <<< (g % 32)) } }

/-- An accumulator element is poisoned. -/
def poisonAcc (j : Job) (a e : Nat) : Job :=
  { j with accs := Vector.ofFn fun i : Fin 8 =>
      if i.val = a then { j.accs[i] with poison := NatSet.add j.accs[i].poison e } else j.accs[i] }

/-- The saved context of a job changes. -/
def modSaved (s : State) (jobid : Nat) (f : Job → Job) : State :=
  { s with saved := s.saved.map fun x => if x.job.ids.jobid = jobid then { x with job := f x.job } else x }

/-- An uncorrectable error: its granule or element is poisoned, or its job ends, at once or as soon as it runs
(R428, R456). [DEDUCED, log 100] -/
def poisonAt (s : State) : ErrLoc → State
  | .mem g => modMs s fun m => { m with memPoison := NatSet.add m.memPoison g }
  | .llc job g => poisonLlc s job g
  | .llcTag job line => (List.range 32).foldl (fun s g => poisonLlc s job (32 * line + g)) s
  | .spad core g =>
    modMs s fun m => { m with spadPoison := NatSet.add m.spadPoison (core * Config.spadSpan / 8 + g) }
  | .row core slot r g => modJob s (slotKey core slot) (poisonRow · r g)
  | .acc core slot a e => modJob s (slotKey core slot) (poisonAcc · a e)
  | .savedRow jobid r g => modSaved s jobid (poisonRow · r g)
  | .savedAcc jobid a e => modSaved s jobid (poisonAcc · a e)
  | .savedTable jobid => modSaved s jobid fun j => { j with spoiled := true }
  | .trace cluster n => loseRecord s cluster n
  | .table core slot =>
    if (getJob s (slotKey core slot)).phase = .running then spoil s core slot
    else modJob s (slotKey core slot) fun j => { j with spoiled := true }

/-- Whether a saved context lies in the context area, which is GDDR 7 (R369). [DEDUCED, log 100] -/
def savedInArea (s : State) (jobid : Nat) : Bool := s.saved.any fun x => x.job.ids.jobid == jobid && x.inMemory

/-- The first of the two counters of R457 for an error at this place: GDDR 7, or SRAM.
[DEDUCED, log 100] -/
def errBase (s : State) : ErrLoc → Nat
  | .mem _ => 0
  | .savedRow j _ _ | .savedAcc j _ _ | .savedTable j => if savedInArea s j then 0 else 2
  | _ => 2

/-- [DEDUCED, log 100] -/
def execPatrolScrub (loc : ErrLoc) (uncorrectable : Bool) (s : State) : Result :=
  .next (if !uncorrectable then bumpErr s (errBase s loc)
    else
      match loc with
      -- a dropped trace record is counted as such
      | .trace .. => poisonAt s loc
      | _ => poisonAt (bumpErr s (errBase s loc + 1)) loc)

/-- Whether a partition physical address is that of a line. -/
def isLineIpa (s : State) (p line ipa : Nat) : Bool :=
  ipa % 256 == 0 && match ipaToPa s p ipa .read with
    | .ok (pa, _) => pa == 256 * line
    | .error _ => false

/-- Whom the writes of a line are charged to, or those of a job's wet version of it (R460).
[DEDUCED, log 100] -/
def lineOwner (s : State) (line : Nat) : Option Nat → Option (Nat × Nat)
  | none => Tab.get? s.ms.writer line
  | some j => if NatSet.has (wetLines s j) line then some (partOfJob s j, j) else none

/-- R460: the eviction of a dirty line, or of a job's wet version of it, may find uncorrectable granules; its last writer
is charged, with one record. The line is clean from then on. `ipa` is its partition physical address.
[DEDUCED, log 100] -/
def evictError (s : State) (line : Nat) (bad : BitVec 32) (ipa : Nat) (job : Option Nat) : State :=
  match lineOwner s line job with
  | none => s
  | some (p, jobid) =>
    let s' := ((List.range 32).filter fun g => bad.getLsbD g).foldl
      (fun s g => poisonAt (bumpErr s 3) (.llc job (32 * line + g))) s
    let s' := if job.isNone then modMs s' fun m => { m with writer := Tab.del m.writer line } else s'
    if bad = 0 then s'
    else if isLineIpa s p line ipa then
      queueFault s' p (faultRecord Cause.poison.code 0 0 0 0 (BitVec.ofNat 64 ipa) jobid 0 0 [] [])
    else s

/-! ### Clock and temperature (R488, R489) -/

def modPlatform (s : State) (f : Platform → Platform) : State := { s with platform := f s.platform }

/-- The supply is lowered with the clock, down to 360 mV at least, or raised with it, up to 480 mV at most; by how much
is a free value. [DESIGN CHOICE, log 98] -/
def moveSupply (s : State) (up : Bool) : State :=
  modPlatform { s with fresh := s.fresh + 1 } fun p =>
    let by' (room : Nat) : Nat := (Config.freeWord s.fresh 0).toNat % (room + 1)
    let mv := p.supply.toNat
    { p with supply := BitVec.ofNat 64 (if up then mv + by' (480 - mv) else mv - by' (mv - 360)) }

/-- Degrees as the sensor gives them, in eighths. -/
def degrees (c : Int) : Int := 8 * c

/-- Above the throttle temperature or 1,800 W the controller lowers clock and voltage by a step (R488, R489). -/
def execThermalThrottle (s : State) : Result :=
  .next (if (degrees 95 ≤ s.platform.temp || 1800 < s.platform.power) && 700 < s.platform.mhz then
    modPlatform (moveSupply s false) fun p => { p with mhz := max 700 (p.mhz - 100), throttles := satInc p.throttles }
  else s)

/-- 5 °C under the throttle temperature and 100 W under TDP it raises them (R488). -/
def execThrottleRecover (s : State) : Result :=
  .next (if s.platform.hold || 1400 ≤ s.platform.mhz || degrees 90 < s.platform.temp || 1700 < s.platform.power then s
    else modPlatform (moveSupply s true) fun p => { p with mhz := min 1400 (p.mhz + 100) })

/-- Every partition's fault queue receives a thermal record (R489). [DEDUCED, log 100] -/
def thermalRecords (s : State) (addr : Word) : State :=
  (List.range Config.numParts).foldl
    (fun s p => queueFault s p (faultRecord Cause.thermal.code 0 0 0 0 addr 0 0 0 [] [])) s

/-- At 105 °C the clock is held at 700 MHz (R489). -/
def execThermalHold (s : State) : Result :=
  .next (if s.platform.hold || s.platform.temp < degrees 105 then s
    else thermalRecords (modPlatform (if 700 < s.platform.mhz then moveSupply s false else s)
      fun p => { p with hold := true, mhz := 700 }) 1)

/-- Below 100 °C the hold ends (R489). -/
def execThermalHoldEnd (s : State) : Result :=
  .next (if s.platform.hold && s.platform.temp < degrees 100 then
    thermalRecords (modPlatform s fun p => { p with hold := false }) 2 else s)

/-- At 110 °C the die stops; only a device reset helps (R489). -/
def execThermalShutdown (s : State) : Result :=
  .next (if degrees 110 ≤ s.platform.temp then { s with dead := true } else s)

/-- What the sensors read changes; the device holds the clock, ends the hold or stops as R489 says. -/
def sense (s : State) (temp : Int) (power : Nat) : Result :=
  let s := modPlatform s fun p => { p with temp := temp, power := power }
  if degrees 110 ≤ temp then execThermalShutdown s
  else if degrees 105 ≤ temp then execThermalHold s
  else execThermalHoldEnd s

/-! ### Reset and bring-up (R490, R491) -/

/-- A bring-up that has failed after a step, with its code, which is not 0 (R491, R493).
[DEDUCED, log 99] -/
def Platform.stuck (p : Platform) (step : Nat) (code : BitVec 8) : Platform :=
  { p with mode := .recovery, boot := BitVec.ofNat 64 (step + max 1 code.toNat * 256) }

/-- The platform after a reset: step 2 has checked the staged image, or else the image that ran, and step 3 has trained
the channels, or has failed. The image that flash held at first has passed before.
[DESIGN CHOICE, log 98] -/
def bootPlatform (s : State) : Platform :=
  let p := s.platform
  let image := p.staged.or p.running
  let q : Platform := { Platform.reset with
    temp := p.temp, staged := p.staged, running := p.running, rollback := p.rollback, defect := p.defect }
  if !(image.all (imageOk p)) then q.stuck 1 (Config.bootFailure s.fresh)
  else
    let q := { q with staged := none, running := image }
    match p.defect with
    | some (3, code) => q.stuck 2 code
    | _ => { q with mode := .starting, boot := 3 }

/-- Whether a port may train its link (R491): all do at step 5, in recovery mode port 0 alone.
[DEDUCED, log 99] -/
def BootMode.trains (m : BootMode) (n : Nat) : Bool :=
  match m with
  | .running => true
  | .starting => false
  | .recovery => n == 0

/-- A port after its link has been reset. [DEDUCED, log 99] -/
def retrain (m : BootMode) (n : Nat) (p : Port) : Port := { Port.reset with up := m.trains n, ide := p.ide, ats := p.ats }

/-- PERST# of a port leaves the counters that a device reset alone clears (R457, R490). -/
def resetPort (m : BootMode) (n : Nat) (p : Port) : Port :=
  { retrain m n p with stray := p.stray, dropped := p.dropped }

/-- A device reset: State.reset, but for the host's memory, what the flash and the fuses hold, and the model's
own fields; bring-up has come to step 4. [DEDUCED, log 99] -/
def resetDevice (s : State) : State :=
  let p := bootPlatform s
  { State.reset with
    agenda := s.agenda
    fresh := s.fresh + 1
    ms := { MemSys.reset with mem := s.ms.mem.filter fun e => isHostPa e.1, hostAbsent := s.ms.hostAbsent,
                               hostMap := s.ms.hostMap }
    ports := Vector.ofFn fun i : Fin 4 => retrain p.mode i.val s.ports[i]
    out := s.out
    platform := p }

/-- [DEDUCED, log 99] -/
def execDeviceReset (s : State) : Result := .next (resetDevice s)

/-- Steps 4 and 5 of bring-up end, 8,750 ns after the reset at the earliest: the clusters stand zeroed and gated, the
links train and the management window opens; or step 4 has failed (R491). [DEDUCED, log 99] -/
def bringUp (s : State) : State :=
  if s.platform.mode = .starting && 8750 ≤ s.time then
    let p := s.platform
    let version := Config.imageVersion (p.running.getD Config.flashImage)
    let p := match p.defect with
      | some (4, code) => p.stuck 3 code
      | _ => { p with mode := .running, boot := 5,
                      rollback := some (if (rollbackOf p).toNat < version.toNat then version else rollbackOf p) }
    { s with platform := p, ports := Vector.ofFn fun i : Fin 4 => { s.ports[i] with up := p.mode.trains i.val } }
  else s

/-- PERST# of ports 1 to 3: that port's link and its function's registers. -/
def execPortReset (port : Nat) (s : State) : Result :=
  .next (if 1 ≤ port && port ≤ 3 then
    modMs (modPort s port (resetPort s.platform.mode port)) fun m =>
      { m with ats := m.ats.filter fun e => namedPort e.page != port }
  else s)

end Sys2Proof.Machine
end

