-- ==== Sys2Proof/Machine/Host.lean ====
section
/-! DEFINITION. Control operations of the host (R403, R404, R411, R464, R493): one definition for each row of the
opcode table. -/

namespace Sys2Proof.Machine

/-! ### The host path (R402, R404, R411) -/

/-- Whether an operation is one of the host's own: ERRCNT, PLAT, FWSTAGE, or of R464. -/
def debugOp (op : Nat) : Bool := 0x1B ≤ op && op ≤ 0x21

/-- An operation that names no partition. -/
def deviceOp (op : Nat) : Bool := [0x0F, 0x10, 0x11, 0x16, 0x17, 0x1A, 0x22, 0x23, 0x25].contains op

/-- [DEDUCED, log 88] -/
def hostLegal (s : State) (p : Nat) (c : CtlOp) : Bool :=
  if c.op = 0x1A then !c.wrt && c.index < 16
  else if c.op = 0x22 then !c.wrt && c.index < 8
  else if c.op = 0x23 then c.wrt && c.index == 0
  else if debugOp c.op then
    debugIndexOk c.op c.index && (if c.wrt then (debugDirs c.op c.index).2 else (debugDirs c.op c.index).1)
  else ctlLegal s p c

/-- [DEDUCED, log 88] -/
def sealedOwner (s : State) (o : Option Nat) : Bool :=
  match o with
  | some p => isSealed s p
  | none => false

/-- Operations refused with status 3 on a sealed partition (R403, R404, R464). [DEDUCED, log 88] -/
def sealedStop (s : State) (p : Nat) (c : CtlOp) : Bool :=
  let owned := fun (t : Tab Nat) =>
    isSealed s p || (c.wrt && (sealedOwner s (Tab.get? t c.index) || sealedOwner s (newOwner c.arg)))
  match c.op with
  | 0x04 | 0x05 | 0x08 | 0x09 | 0x0C | 0x0D | 0x0E | 0x13 | 0x1B => isSealed s p
  | 0x0F => owned s.unitOwner
  | 0x10 => owned s.clusterOwner
  | 0x11 => owned s.ownOwner
  | 0x12 => c.index == 2 && isSealed s p
  | 0x25 => sealedOwner s (streamOwner s (c.index / 32))
  | _ => false

/-- A control operation of the host on partition `p`: the state it leaves, and MGRES. [DEDUCED, log 88] -/
def hostPerform (s : State) (p : Nat) (c : CtlOp) : State × Word :=
  let none4 : State × Word := (s, BitVec.ofNat 64 ctlNone)
  if s.platform.mode == .recovery && !(c.op == 0x22 || c.op == 0x23) then none4
  else if !hostLegal s p c || (c.op == 0x05 && !inShare s p c.index) then none4
  else if sealedStop s p c then (s, BitVec.ofNat 64 ctlSealed)
  else if c.op = 0x1A then (s, errCount s c.index)
  else if c.op = 0x22 then (s, platRead s c.index)
  else if c.op = 0x23 then ((stageImage s c.arg).1, BitVec.ofNat 64 (stageImage s c.arg).2)
  else if debugOp c.op then
    (if c.wrt then
      ((debugWrite s p c.op c.index c.arg).1, BitVec.ofNat 64 (debugWrite s p c.op c.index c.arg).2)
    else (s, debugRead s p c.op c.index))
  else
    match ctlPerform s p (dispatcher p 0) c with
    | .ok r => r
    | .error _ => (s, BitVec.ofNat 64 ctlRefused)

/-- The management window performs the operation in MGOP and MGARG. A word that breaks R402, or that names no
partition where one is needed, returns status 4. -/
def performMgmt (s : State) : State :=
  let w := s.mgmt.op
  let c := ctlOf w s.mgmt.arg
  let r := if ctlWordOk w && (bitOf w 12 || deviceOp c.op) then hostPerform s (bitsOf w 9 3) c
    else (s, BitVec.ofNat 64 ctlNone)
  { r.1 with mgmt := { r.1.mgmt with res := r.2, go := 0 } }

/-- The operation word of a host operation on a partition. -/
def mgmtWord (op part index : Nat) (wrt : Bool) : Word :=
  BitVec.ofNat 64 (op + b2n wrt * 2 ^ 8 + part % 8 * 2 ^ 9 + 2 ^ 12 + index * 2 ^ 16)

/-- The host performs an operation: it writes MGOP and MGARG, and starts it, once the window is open (R491). -/
def hostOp (op index : Nat) (wrt : Bool) (o : HostOp) (s : State) : Result :=
  .next (if s.platform.mode = .starting then s
    else performMgmt { s with mgmt := ⟨mgmtWord op o.part index wrt, o.arg, s.mgmt.res, 1⟩ })

/-! ### The operations -/

def execPinfo (o : HostOp) (s : State) : Result := hostOp 0x01 o.index.toNat o.wrt o s
def execLlcrngWord0 (o : HostOp) (s : State) : Result := hostOp 0x02 o.index.toNat o.wrt o s
def execLlcrngWord1 (o : HostOp) (s : State) : Result := hostOp 0x03 o.index.toNat o.wrt o s
def execShare (o : HostOp) (s : State) : Result := hostOp 0x04 o.index.toNat o.wrt o s
def execLpasid (o : HostOp) (s : State) : Result := hostOp 0x05 o.index.toNat o.wrt o s
def execSched (o : HostOp) (s : State) : Result := hostOp 0x06 o.index.toNat o.wrt o s
def execEvlog (o : HostOp) (s : State) : Result := hostOp 0x07 o.index.toNat o.wrt o s
def execCtxarea (o : HostOp) (s : State) : Result := hostOp 0x08 o.index.toNat o.wrt o s
def execCtltmpl (o : HostOp) (s : State) : Result := hostOp 0x09 o.index.toNat o.wrt o s
def execPreq (o : HostOp) (s : State) : Result := hostOp 0x0A o.index.toNat o.wrt o s
def execNetmap (o : HostOp) (s : State) : Result := hostOp 0x0B o.index.toNat o.wrt o s
def execPerms (o : HostOp) (s : State) : Result := hostOp 0x0C o.index.toNat o.wrt o s
def execS2root (o : HostOp) (s : State) : Result := hostOp 0x0D o.index.toNat o.wrt o s
def execPasidtbl (o : HostOp) (s : State) : Result := hostOp 0x0E o.index.toNat o.wrt o s
def execUnit (o : HostOp) (s : State) : Result := hostOp 0x0F o.index.toNat o.wrt o s
def execCluster (o : HostOp) (s : State) : Result := hostOp 0x10 o.index.toNat o.wrt o s
def execOwn (o : HostOp) (s : State) : Result := hostOp 0x11 o.index.toNat o.wrt o s

/-- PCREATE is the write of INDEX 0. -/
def execPcreate (o : HostOp) (s : State) : Result := hostOp 0x12 0 true o s

/-- PDESTROY is the write of INDEX 1. -/
def execPdestroy (o : HostOp) (s : State) : Result := hostOp 0x12 1 true o s

/-- SEAL is the write of INDEX 2. -/
def execSealPartition (o : HostOp) (s : State) : Result := hostOp 0x12 2 true o s

def execMeasure (o : HostOp) (s : State) : Result := hostOp 0x13 o.index.toNat o.wrt o s
def execExtend (o : HostOp) (s : State) : Result := hostOp 0x14 o.index.toNat o.wrt o s
def execQuote (o : HostOp) (s : State) : Result := hostOp 0x15 o.index.toNat o.wrt o s
def execIdpub (o : HostOp) (s : State) : Result := hostOp 0x16 o.index.toNat o.wrt o s
def execChips (o : HostOp) (s : State) : Result := hostOp 0x17 o.index.toNat o.wrt o s
def execPcount (o : HostOp) (s : State) : Result := hostOp 0x24 o.index.toNat o.wrt o s
def execStrdesc (o : HostOp) (s : State) : Result := hostOp 0x25 o.index.toNat o.wrt o s

/-- The write of word 8 of a descriptor with SCTL bit 0 set (R356). -/
def execStreamEnable (o : HostOp) (s : State) : Result :=
  hostOp 0x25 (o.index.toNat / 32 * 32 + 8) true { o with arg := o.arg ||| (1#64 <<< 40) } s

def execFabjoin (o : HostOp) (s : State) : Result := hostOp 0x18 o.index.toNat o.wrt o s
def execDirpool (o : HostOp) (s : State) : Result := hostOp 0x19 o.index.toNat o.wrt o s
def execErrcnt (o : HostOp) (s : State) : Result := hostOp 0x1A o.index.toNat o.wrt o s
def execDbgBuffer (o : HostOp) (s : State) : Result := hostOp 0x1B 0 o.wrt o s
def execDbgStop (o : HostOp) (s : State) : Result := hostOp 0x1B 1 true o s
def execDbgResume (o : HostOp) (s : State) : Result := hostOp 0x1B 2 true o s
def execDbgStep (o : HostOp) (s : State) : Result := hostOp 0x1B 3 true o s

/-- Breakpoint register and record word 0 to 15. -/
def execBreakpointSet (o : HostOp) (s : State) : Result := hostOp 0x1B (16 + o.index.toNat % 16) o.wrt o s
def execBreakpointRecord (o : HostOp) (s : State) : Result := hostOp 0x1B (32 + o.index.toNat % 16) o.wrt o s

def execTrcfg (o : HostOp) (s : State) : Result := hostOp 0x1C o.index.toNat o.wrt o s
def execStall (o : HostOp) (s : State) : Result := hostOp 0x1D o.index.toNat o.wrt o s
def execMon (o : HostOp) (s : State) : Result := hostOp 0x1E o.index.toNat o.wrt o s
def execSnapcfg (o : HostOp) (s : State) : Result := hostOp 0x1F o.index.toNat o.wrt o s
def execChalk (o : HostOp) (s : State) : Result := hostOp 0x20 o.index.toNat o.wrt o s
def execReplay (o : HostOp) (s : State) : Result := hostOp 0x21 o.index.toNat o.wrt o s
def execPlat (o : HostOp) (s : State) : Result := hostOp 0x22 o.index.toNat o.wrt o s
def execFwstage (o : HostOp) (s : State) : Result := hostOp 0x23 o.index.toNat o.wrt o s

end Sys2Proof.Machine
end

