-- ==== Sys2Proof/Machine/Ports.lean ====
section
/-! DEFINITION. The host interfaces (R395, R409–R419): the registers behind BAR0, queue interfaces, doorbells and
packets, interrupt remapping, the host's accesses to device memory, ATS and PRI, encoders and decoders. -/

namespace Sys2Proof.Machine

/-! ### Queue interfaces (R412) -/

def getIface (s : State) (fn i : Nat) : Iface := (getPort s fn).ifaces.getD i .reset

def modIface (s : State) (fn i : Nat) (f : Iface → Iface) : State :=
  modPort s fn fun p => { p with ifaces := p.ifaces.setIfInBounds i (f (p.ifaces.getD i .reset)) }

def getQueue (s : State) (fn i q : Nat) : HostQueue := (getIface s fn i).queues.getD q .reset

def modQueue (s : State) (fn i q : Nat) (f : HostQueue → HostQueue) : State :=
  modIface s fn i fun x => { x with queues := x.queues.setIfInBounds q (f (x.queues.getD q .reset)) }

def HostQueue.en (q : HostQueue) : Bool := q.ctl.getLsbD 0
def HostQueue.revoke (q : HostQueue) : Bool := q.ctl.getLsbD 1
def HostQueue.log2 (q : HostQueue) : Nat := q.ctl.toNat / 4 % 16
def HostQueue.pasid (q : HostQueue) : BitVec 20 := BitVec.ofNat 20 (q.ctl.toNat / 64)

def ifaceEn (x : Iface) : Bool := bitOf x.ctl 0
def ifacePart (x : Iface) : Nat := bitsOf x.ctl 1 3

/-- A write of QEN, REVOKE, LOG2 and PASID: the last two stand while QEN is 1; QEN 0 → 1 clears STOP, and the
queue begins at HEAD. -/
def HostQueue.writeCtl (q : HostQueue) (v : BitVec 32) : HostQueue :=
  let v := v &&& 0x03FFFFFF
  if q.en then { q with ctl := (q.ctl &&& ~~~3#32) ||| (v &&& 3) }
  else if v.getLsbD 0 then { q with ctl := v, stop := false, tail := q.head }
  else { q with ctl := v }

/-- The low or high half of a 64-bit register replaced. [DEDUCED, log 101] -/
def setHalf (w : Word) (hi : Bool) (v : BitVec 32) : Word := setBits w (if hi then 32 else 0) 32 v.toNat

/-- A 4-byte write to interface `i`, at an offset in its registers. [DEDUCED, log 101] -/
def writeIface (s : State) (fn i off : Nat) (v : BitVec 32) : State :=
  let x := getIface s fn i
  if off = 0 then
    (if x.queues.toList.any HostQueue.en then s else modIface s fn i fun x => { x with ctl := (v &&& 0xF).setWidth 64 })
  else if off = 8 || off = 12 then
    modIface s fn i fun x => { x with statBase := setHalf x.statBase (off == 12) v &&& ~~~0xFFF#64 }
  else if 0x10 ≤ off && off < 0x90 then
    modQueue s fn i ((off - 0x10) / 16) fun q =>
      match off % 16 with
      | 0 | 4 => if q.en then q else { q with base := setHalf q.base (off % 16 == 4) v &&& ~~~0xFFF#64 }
      | 8 => q.writeCtl v
      | _ => if q.en then q else { q with head := v.setWidth 16 }
  else s

/-! ### Interrupt remapping (R418) -/

/-- A write of V, MASK and PART: clearing MASK sends a pending message once. -/
def writeRemapCtl (s : State) (fn e : Nat) (v : BitVec 32) : State :=
  let r := Tab.getD (getPort s fn).remap e .reset
  let c := (v &&& 0x3B) ||| (r.ctl &&& 4)
  let part := ifacePart (getIface s fn (e / 32))
  let sends := c.getLsbD 2 && !c.getLsbD 1
  let valid := c.getLsbD 0 && c.toNat / 8 % 8 == part
  let s := modPort s fn fun p => { p with remap := Tab.set p.remap e { r with ctl := if sends then c &&& ~~~4#32 else c } }
  if sends && valid then interrupt s fn part r.addr r.data else s

def writeRemap (s : State) (fn e off : Nat) (v : BitVec 32) : State :=
  if off = 12 then writeRemapCtl s fn e v
  else modPort s fn fun p =>
    { p with remap := Tab.upd p.remap e .reset fun r =>
        if off = 8 then { r with data := v } else { r with addr := setHalf r.addr (off == 4) v &&& ~~~3#64 } }

/-! ### Encoders and decoders (R419) -/

/-- What of a codec's registers R419 asks at EN. [DESIGN CHOICE, log 103] -/
def codecOk (c : Codec) : Bool :=
  bitsOf c.ctl 1 2 != 3 && bitsOf c.ctl 16 2 != 3 && powerUpTo c.rsize.toNat (2 ^ 30) && 2 ^ 16 ≤ c.rsize.toNat

/-- The descriptor's frame has a supported size and depth for the codec. -/
def frameOk (c : Codec) (d : StreamDesc) : Bool :=
  frameWidth d ≤ 7680 && frameHeight d ≤ 4320 && !(frameDepth d == 10 && bitsOf c.ctl 1 2 == 1)

/-- An encoder, its stream and its frame-tile queue have one owner. -/
def encoderOk (s : State) (e : Nat) (c : Codec) : Bool :=
  let p := Tab.get? s.ownOwner (288 + e)
  p.isSome && Tab.get? s.ownOwner (bitsOf c.ctl 8 8) == p && Tab.get? s.ownOwner (256 + bitsOf c.ctl 3 5) == p
  && codecOk c && frameOk c (getSdesc s (bitsOf c.ctl 8 8))

/-- A decoder and its ring's stream, which FTQ names, have one owner. -/
def decoderOk (s : State) (e : Nat) (c : Codec) : Bool :=
  let p := Tab.get? s.ownOwner (304 + e)
  p.isSome && Tab.get? s.ownOwner (bitsOf c.ctl 3 5) == p && codecOk c && frameOk c (getSdesc s (bitsOf c.ctl 3 5))

def getCodec (s : State) (enc : Bool) (e : Nat) : Codec := Tab.getD (if enc then s.encoders else s.decoders) e .reset

def setCodec (s : State) (enc : Bool) (e : Nat) (c : Codec) : State :=
  if enc then { s with encoders := Tab.set s.encoders e c } else { s with decoders := Tab.set s.decoders e c }

/-- An encoder that has no closed frame to write takes the queue's tiles as they come (R227).
[DEDUCED, log 71] -/
def takeTiles (s : State) (q : Nat) : State :=
  if encoderFree s q then modFtq s q fun f => { f with tiles := f.tiles.map fun t => { t with taken := true } } else s

/-- A write of EN and the configuration: where a check fails, EN reads 0. -/
def writeCodecCtl (s : State) (enc : Bool) (e : Nat) (v : BitVec 32) : State :=
  let old := getCodec s enc e
  let c : Codec := { old with ctl := (v &&& 0x3FFFF).setWidth 64 }
  let ok := if enc then encoderOk s e c else decoderOk s e c
  let c : Codec := if bitOf c.ctl 0 && !ok then { c with ctl := c.ctl &&& ~~~1#64 } else c
  let c : Codec := if bitOf c.ctl 0 && !bitOf old.ctl 0 then { c with frames := 0, memory := 0 } else c
  let s := setCodec s enc e c
  if enc && bitOf c.ctl 0 then takeTiles s (bitsOf c.ctl 3 5) else s

/-- A 4-byte write to the registers of a codec; 0x04 and RTAIL take none. -/
def writeCodec (s : State) (enc : Bool) (e off : Nat) (v : BitVec 32) : State :=
  let c := getCodec s enc e
  match off with
  | 0x00 => writeCodecCtl s enc e v
  | 0x08 => setCodec s enc e { c with qp := (v &&& 0xFF).setWidth 64 }
  | 0x0C => setCodec s enc e { c with rate := v }
  | 0x10 => setCodec s enc e { c with gop := v }
  | 0x18 => setCodec s enc e { c with ring := setHalf c.ring false v &&& ~~~0xFFF#64 }
  | 0x1C => setCodec s enc e { c with ring := setHalf c.ring true v &&& ~~~0xFFF#64 }
  | 0x20 => setCodec s enc e { c with rsize := v }
  | 0x24 => setCodec s enc e { c with rhead := v }
  | 0x2C => setCodec s enc e { c with ifv := v &&& 0x1FF }
  | _ => s

/-! ### BAR0 (R410, R411) -/

/-- A 4-byte write to the management window. -/
def writeMgmt (s : State) (off : Nat) (v : BitVec 32) : State :=
  if s.mgmt.go != 0 then s
  else
    match off with
    | 0x00 | 0x04 => { s with mgmt := { s.mgmt with op := setHalf s.mgmt.op (off == 4) v } }
    | 0x08 | 0x0C => { s with mgmt := { s.mgmt with arg := setHalf s.mgmt.arg (off == 12) v } }
    | 0x18 => if v.getLsbD 0 then performMgmt { s with mgmt := { s.mgmt with go := 1 } } else s
    | _ => s

/-- A 4-byte write to BAR0. In recovery mode only PF0's management window answers (R491).
[DEDUCED, log 101] -/
def writeBar0 (s : State) (fn off : Nat) (v : BitVec 32) : State :=
  if s.platform.mode = .starting then s
  else if off < 0x1000 then (if fn = 0 then writeMgmt s off v else s)
  else if s.platform.mode = .recovery then s
  else if off < 0x1800 then writeIface s fn ((off - 0x1000) / 0x100) (off % 0x100) v
  else if 0x2000 ≤ off && off < 0x3000 then writeRemap s fn ((off - 0x2000) / 16) (off % 16) v
  else if fn = 0 && 0x3000 ≤ off && off < 0x3400 then writeCodec s true ((off - 0x3000) / 0x40) (off % 0x40) v
  else if fn = 0 && 0x3400 ≤ off && off < 0x3600 then writeCodec s false ((off - 0x3400) / 0x40) (off % 0x40) v
  else s

/-- A host write to a register of BAR0: an aligned write of 4 bytes, or of 8, the low half first. Others are
dropped. [DEDUCED, log 101] -/
def execRegisterWrite (w : RegWrite) (s : State) : Result :=
  let lo : BitVec 32 := w.value.setWidth 32
  .next (if 4 ≤ w.fn then s
    else if w.width = 4 && w.offset % 4 == 0 then writeBar0 s w.fn w.offset lo
    else if w.width = 8 && w.offset % 8 == 0 then
      writeBar0 (writeBar0 s w.fn w.offset lo) w.fn (w.offset + 4) ((w.value >>> 32).setWidth 32)
    else s)

/-- What the four bytes at an offset of interface `i` read (R412). -/
def readIface (s : State) (fn i off : Nat) : Nat :=
  let x := getIface s fn i
  if off < 8 then x.ctl.toNat / 2 ^ (8 * off)
  else if off < 16 then x.statBase.toNat / 2 ^ (8 * (off - 8))
  else if off < 0x90 then
    let q := x.queues.getD ((off - 0x10) / 16) .reset
    match off % 16 with
    | 0 => q.base.toNat
    | 4 => q.base.toNat / 2 ^ 32
    | 8 => q.ctl.toNat
    | _ => q.head.toNat + b2n q.stop * 2 ^ 16
  else 0

/-- The words of a codec's registers (R419). -/
def Codec.words (c : Codec) : List Nat :=
  [c.ctl.toNat, c.ctl.toNat / 2 ^ 32, c.qp.toNat, c.rate.toNat, c.gop.toNat, 0, c.ring.toNat, c.ring.toNat / 2 ^ 32,
   c.rsize.toNat, c.rhead.toNat, c.rtail.toNat, c.ifv.toNat]

/-- What the four bytes at an offset of BAR0 read: the management window on PF0 alone, reserved offsets zero (R410,
R411, R412, R418, R419). [DEDUCED, log 101] -/
def readBar0 (s : State) (fn off : Nat) : Nat :=
  if s.platform.mode = .starting then 0
  else if off < 0x1000 then
    if fn = 0 && off < 0x1C then
      ((match off / 8 with | 0 => s.mgmt.op | 1 => s.mgmt.arg | 2 => s.mgmt.res | _ => s.mgmt.go).toNat)
        / 2 ^ (8 * (off % 8))
    else 0
  else if s.platform.mode = .recovery then 0
  else if off < 0x1800 then readIface s fn ((off - 0x1000) / 0x100) (off % 0x100)
  else if 0x2000 ≤ off && off < 0x3000 then
    let r := Tab.getD (getPort s fn).remap ((off - 0x2000) / 16) .reset
    [r.addr.toNat, r.addr.toNat / 2 ^ 32, r.data.toNat, r.ctl.toNat].getD (off % 16 / 4) 0
  else if fn = 0 && 0x3000 ≤ off && off < 0x3600 then
    (getCodec s (off < 0x3400) ((off - 0x3000) % 0x400 / 0x40)).words.getD (off % 0x40 / 4) 0
  else 0

/-- A host read of BAR0, of 4 or 8 aligned bytes. [DEDUCED, log 101] -/
def barRead (s : State) (fn off width : Nat) : State :=
  let lo := readBar0 s fn off % 2 ^ 32
  let v := if width = 8 then lo + readBar0 s fn (off + 4) % 2 ^ 32 * 2 ^ 32 else lo
  if fn < 4 && (width = 4 || width = 8) && off % width == 0 && off + width ≤ 0x10000 then
    { s with out := s.out ++ [.barRead fn off width (BitVec.ofNat 64 v)] }
  else s

/-- The host reads the oldest record of a partition's fault queue (R407). [DESIGN CHOICE, log 106] -/
def takeFault (s : State) (p : Nat) : State :=
  match (getPart s p).faults with
  | [] => s
  | r :: rest =>
    { modPart s p fun x => { x with faults := rest } with out := s.out ++ [.faultRecord p (hostRecord s p r)] }

/-- A write of a queue's control word that sets QEN. -/
def execQueueEnable (fn iface q : Nat) (v : BitVec 32) (s : State) : Result :=
  .next (if fn < 4 && iface < 8 && q < 8 then writeBar0 s fn (0x1018 + 0x100 * iface + 16 * q) (v ||| 1) else s)

/-- A write that sets REVOKE and leaves the rest. -/
def execQueueRevoke (fn iface q : Nat) (s : State) : Result :=
  .next (if fn < 4 && iface < 8 && q < 8 then
    writeBar0 s fn (0x1018 + 0x100 * iface + 16 * q) ((getQueue s fn iface q).ctl ||| 2) else s)

/-- A write of a remapping entry's control word that clears MASK and leaves the rest. -/
def execRemapUnmask (fn entry : Nat) (s : State) : Result :=
  .next (if fn < 4 && entry < 256 then
    writeBar0 s fn (0x200C + 16 * entry) ((Tab.getD (getPort s fn).remap entry .reset).ctl &&& ~~~2#32) else s)

/-- A write of an encoder's control word that sets EN. -/
def execEncoderEnable (e : Nat) (v : Word) (s : State) : Result :=
  .next (if e < 16 then writeBar0 s 0 (0x3000 + 0x40 * e) ((v ||| 1).setWidth 32) else s)

def execRheadWrite (e : Nat) (v : BitVec 32) (s : State) : Result :=
  .next (if e < 16 then writeBar0 s 0 (0x3024 + 0x40 * e) v else s)

/-! ### Refusals (R417) -/

/-- A refusal record in the interface's status area, then vector 0; over a link that carries none of the
partition's traffic no record goes (R409). -/
def refuse (s : State) (fn i q reason tail : Nat) (pasid : Option (BitVec 20)) (index word0 : Nat) : State :=
  let x := getIface s fn i
  let c := x.count.toNat
  let bs := leBytes 1 q ++ leBytes 1 reason ++ leBytes 2 tail
    ++ leBytes 4 (match pasid with | some v => v.toNat | none => 0xFFFFFFFF)
    ++ leBytes 4 index ++ leBytes 4 word0 ++ leBytes 8 s.time ++ List.replicate 8 0
  let s := if linkCarries s (ifacePart x) fn then
      writeHost (writeHost s fn (x.statBase + BitVec.ofNat 64 (0x20 + 32 * (c % 127))) bs) fn x.statBase
        (leBytes 4 (c + 1))
    else s
  raiseVector (modIface s fn i fun x => { x with count := x.count + 1 }) fn i 0

/-! ### Doorbells (R413) -/

/-- A write in BAR1 that is no doorbell, or that no enabled queue takes. -/
def stray (s : State) (fn : Nat) : State := modPort s fn fun p => { p with stray := satInc p.stray }

/-- The reason for which checks 2 to 5 refuse a doorbell. -/
def doorbellReason (q : HostQueue) (value : BitVec 32) (pasid : Option (BitVec 20)) : Option Nat :=
  match pasid with
  | none => some 1
  | some v =>
    if v != q.pasid then some 2
    else if q.revoke then some 3
    else if value.toNat / 65536 != 0 || 2 ^ q.log2 < (value.setWidth 16 - q.head).toNat then some 4
    else none

/-- The packets that accepted doorbells have made due stay due: the tail farther from HEAD stands (R414).
[DEDUCED, log 101] -/
def HostQueue.farther (q : HostQueue) (tail : BitVec 16) : BitVec 16 :=
  if (q.tail - q.head).toNat ≤ (tail - q.head).toNat then tail else q.tail

/-- [DEDUCED, log 101] -/
def execDoorbell (fn iface q : Nat) (value : BitVec 32) (pasid : Option (BitVec 20)) (s : State) : Result :=
  let hq := getQueue s fn iface q
  .next (if 4 ≤ fn then s
    else if 8 ≤ iface || 8 ≤ q || !ifaceEn (getIface s fn iface) || !hq.en || hq.stop
        || !linkCarries s (ifacePart (getIface s fn iface)) fn then stray s fn
    else
      match doorbellReason hq value pasid with
      | some r =>
        refuse (modQueue s fn iface q fun x => { x with stop := true }) fn iface q r (value.toNat % 65536) pasid 0 0
      | none => modQueue s fn iface q fun x => { x with tail := x.farther (value.setWidth 16) })

/-- A write in BAR1 (R413): 4 bytes at 0x1000 i + 8 q are a doorbell; whatever else is dropped and counted.
[DEDUCED, log 101] -/
def notifyWrite (s : State) (fn offset size : Nat) (value : BitVec 32) (pasid : Option (BitVec 20)) : Result :=
  if size = 4 && offset < 0x8000 && offset % 0x1000 < 64 && offset % 8 == 0 then
    execDoorbell fn (offset / 0x1000) (offset % 0x1000 / 8) value pasid s
  else .next (if fn < 4 then stray s fn else s)

/-! ### Packets (R414, R415) -/

/-- A packet's fields. -/
structure Packet where
  opcode : Nat
  flags : BitVec 8
  length : Nat
  zero : Nat
  index : Nat
  args : Nat
  count : Nat
  vector : Nat
  cplva : Word
  patch : List Nat
  word0 : Nat
  deriving DecidableEq, Repr

def Packet.ofBytes (bs : List Byte) : Packet :=
  let u := fun o n => ofLe (slice bs o n)
  { opcode := u 0 1, flags := BitVec.ofNat 8 (u 1 1), length := u 2 2, zero := u 4 4 + u 0x0C 4, index := u 8 4,
    args := u 0x10 8, count := u 0x18 4, vector := u 0x1C 4, cplva := BitVec.ofNat 64 (u 0x20 8),
    patch := [u 0x28 8, u 0x30 8, u 0x38 8], word0 := u 0 4 }

/-- Why a packet is refused before it does anything: reason 5 or 8. -/
def Packet.reason (p : Packet) : Option Nat :=
  if !(p.opcode == 1 || p.opcode == 2) || p.flags.toNat / 8 != 0 || p.length != 64 || p.zero != 0 then some 5
  else if p.flags.getLsbD 1 && (p.vector < 1 || 31 < p.vector) then some 8
  else none

/-- What the fetch of the packet at HEAD of a queue meets (R414). -/
inductive HeadPacket where
  /-- no packet is due, or the link carries none of the partition's traffic (R409) -/
  | idle
  /-- the page is waited for (R395) -/
  | waits (page : Nat)
  /-- the page was refused: the host address of the packet -/
  | refused (addr : Word)
  | here (p : Packet)
  deriving DecidableEq, Repr

/-- The packet at HEAD of a queue that processes packets, fetched under the queue's PASID.
[DEDUCED, log 130] -/
def headPacket (s : State) (fn i q : Nat) : HeadPacket :=
  let hq := getQueue s fn i q
  let a := hq.base + BitVec.ofNat 64 (64 * (hq.head.toNat % 2 ^ hq.log2))
  let cl := clusterOf deviceTlb
  let pasid := some hq.pasid.toNat
  if ifaceEn (getIface s fn i) && hq.en && !hq.stop && hq.head != hq.tail
      && linkCarries s (ifacePart (getIface s fn i)) fn then
    match hostPage s (.queue fn i q) cl (hostPa fn a) pasid with
    | .ready => .here (.ofBytes (readPa s deviceView false (hostReach s cl (hostPa fn a) pasid) 64))
    | .waits => .waits (hostName (hostPa fn a) pasid)
    | .refused => .refused a
  else .idle

def packetReq (p : Packet) (fn i q : Nat) (pasid : BitVec 20) : PacketReq :=
  ⟨fn, i, q, p.flags, p.vector, p.cplva, pasid⟩

/-- The record as the packet would arm it. [DEDUCED, log 102] -/
def packetRecord (l : Launch) (p : Packet) (pasid : BitVec 20) : Launch :=
  let l := { p.patch.zipIdx.foldl (fun l x => l.put (0x50 + 8 * x.2) 8 x.1) l with pasid := pasid }
  if p.flags.getLsbD 2 then (l.put 0x10 8 p.args).put 0x18 4 p.count else l

/-- ARM of a packet whose index lies in the share of `part`. [DEDUCED, log 102] -/
def armPacket (s : State) (part fn i q : Nat) (p : Packet) : State :=
  let hq := getQueue s fn i q
  let fail := fun s => refuse s fn i q 7 hq.head.toNat (some hq.pasid) p.index p.word0
  let l := packetRecord (getLaunch s p.index) p hq.pasid
  if replaying s part then fail (failedArming s part p.index)
  else if armable s part p.index l then
    let s := armRecord (modLaunch s p.index fun _ => l) p.index
    let s := if p.flags.getLsbD 0 || p.flags.getLsbD 1 then
        modLaunch s p.index fun l => { l with packet := some (packetReq p fn i q hq.pasid) } else s
    settlePool (logEvent s part 2 0 l.streamId p.index 0)
  else fail (logEvent (failedArming s part p.index) part 2 0 l.streamId p.index (2 ^ 63))

/-- One packet is handled; HEAD advances. [DEDUCED, log 102] -/
def handlePacket (s : State) (fn i q : Nat) (p : Packet) : State :=
  let part := ifacePart (getIface s fn i)
  let hq := getQueue s fn i q
  let deny := fun r => refuse s fn i q r hq.head.toNat (some hq.pasid) p.index p.word0
  let s' :=
    match p.reason with
    | some r => deny r
    | none =>
      if p.opcode = 2 then
        (if p.flags.getLsbD 0 || p.flags.getLsbD 1 then
          completePacket s part p.index (packetReq p fn i q hq.pasid) false else s)
      else if inShare s part p.index then armPacket s part fn i q p
      else deny 6
  modQueue s' fn i q fun x => { x with head := x.head + 1 }

/-- The fetch of a packet whose page the host refused faults with XLATE (R395): HEAD passes the packet.
[DEDUCED, log 130] -/
def faultPacket (s : State) (fn i q : Nat) (a : Word) : State :=
  queueFault (usedRefusal (modQueue s fn i q fun x => { x with head := x.head + 1 }) (.queue fn i q))
    (ifacePart (getIface s fn i)) (faultRecord Cause.xlate.code 0 0 0 0 a 0 0 0 [] [])

/-- The packet at HEAD of a queue, where it is a NOP or not, once its page is reached.
[DEDUCED, log 130] -/
def takePacket (s : State) (fn i q : Nat) (nop : Bool) : State :=
  match headPacket s fn i q with
  | .here p =>
    if (p.opcode == 2) == nop && (nop || arbiterOpen s (ifacePart (getIface s fn i))) then
      handlePacket s fn i q p
    else s
  | .waits page => noteWaiting s (.queue fn i q) (some page)
  | .refused a => faultPacket s fn i q a
  | .idle => s

/-- PACKET_ARM: the packet at HEAD, unless it is a NOP. An arming waits for the arbiter. -/
def execPacketArm (fn iface q : Nat) (s : State) : Result := .next (takePacket s fn iface q false)

/-- PACKET_NOP: the packet at HEAD, where it is a NOP. -/
def execPacketNop (fn iface q : Nat) (s : State) : Result := .next (takePacket s fn iface q true)

/-! ### Device memory as the host reaches it (R404, R409, R410, R458) -/

/-- The partition whose unit a function may reach at an offset. -/
def hostUnit (s : State) (fn offset : Nat) (cxl : Bool) : Option Nat :=
  match Tab.get? s.unitOwner (offset / 2 ^ 30) with
  | some p =>
    if offset < gddrEnd && !isSealed s p && Tab.get? s.ownOwner (312 + fn) == some p && linkCarries s p fn
        && !(cxl && 2 ≤ fn) then some p
    else none
  | none => none

/-- The sealed partitions whose units an access of `n` bytes meets. -/
def sealedMet (s : State) (offset n : Nat) : List Nat :=
  ((List.range ((offset + max n 1 - 1) / 2 ^ 30 - offset / 2 ^ 30 + 1)).filterMap fun i =>
    match Tab.get? s.unitOwner (offset / 2 ^ 30 + i) with
    | some p => if offset / 2 ^ 30 + i < Config.numUnits && isSealed s p then some p else none
    | none => none).eraseDups

/-- An access to a sealed partition's units is counted (R404). -/
def countRefused (s : State) (offset n : Nat) : State :=
  (sealedMet s offset n).foldl (fun s p => modPart s p fun x => { x with refused := satInc x.refused }) s

/-- One piece of a host read. -/
def hostReadPiece (s : State) (fn : Nat) (cxl : Bool) (x : Nat × Nat) : List Byte :=
  match hostUnit s fn x.1 cxl with
  | some _ => hostBytes s x.1 x.2
  | none => List.replicate x.2 0xFF

/-- One piece of a host write; a poisoned write poisons its granules. -/
def hostWritePiece (s : State) (fn : Nat) (cxl poisoned : Bool) (pa : Nat) (bs : List Byte) : State :=
  match hostUnit s fn pa cxl with
  | none => s
  | some p =>
    let s := writePa s (p, 0) none false pa bs
    if poisoned then
      modMs s fun m => { m with memPoison := (granules pa bs.length).foldl NatSet.add m.memPoison }
    else s

/-- An access through BAR2 or CXL.mem. [DESIGN CHOICE, log 106] -/
def execHostMemoryAccess (fn offset : Nat) (cxl : Bool) (write : Option (List Byte)) (len : Nat) (poisoned : Bool)
    (s : State) : Result :=
  let s' := countRefused s offset (match write with | some bs => bs.length | none => len)
  .next (if 4 ≤ fn || s.platform.mode != .running then s
    else
      match write with
      | some bs =>
        (pieces offset bs.length).foldl (fun s x =>
          hostWritePiece s fn cxl poisoned x.1 (slice bs (x.1 - offset) x.2)) s'
      | none =>
        let bad := (pieces offset len).any fun x =>
          (hostUnit s fn x.1 cxl).isSome && (granules x.1 x.2).any (hostPoison s)
        let s' := useFresh s' offset len
        { s' with out := s'.out ++ [.hostRead fn ((pieces offset len).flatMap (hostReadPiece s fn cxl)) bad] })

/-! ### Launch windows (R345) -/

/-- The slots of launch windows in the lines of a range that the host writes (R345). -/
def noteWindows (s : State) (pa n : Nat) : State :=
  { s with parts := s.parts.map fun e =>
      match e.2.window with
      | none => e
      | some base =>
        let slots := (List.range e.2.shareCount).filter fun k =>
          pa / 256 ≤ (base + 128 * k) / 256 && (base + 128 * k) / 256 ≤ (pa + n - 1) / 256
        (e.1, { e.2 with windowWritten := slots.foldl (fun t k => NatSet.add t (e.2.shareFirst + k)) e.2.windowWritten }) }

/-! ### ATS and PRI (R395) -/

/-- A host invalidation removes a cached translation of a page of the partition's host windows. -/
def execAtsInvalidate (part page : Nat) (s : State) : Result :=
  .next (if Tab.get? s.ownOwner (312 + namedPort page) == some part then
    modMs s fun m => { m with ats := m.ats.filter fun e => e.page != page } else s)

/-- The host page that a stream waits for. -/
def Stream.awaitsPage (st : Stream) : Option Nat :=
  match st.wait with
  | some ⟨_, .host g⟩ => some g
  | some ⟨_, .fetch g⟩ => some g
  | _ => none

/-- Every host page that an access waits for. -/
def pagesAwaited (s : State) : List Nat :=
  (s.jobs.flatMap fun e => (hartsOf (e.1 / 4) (e.1 % 4)).filterMap fun h => (getStream s h).awaitsPage)
    ++ s.ms.priWaiting.map (·.2)

/-- The accesses that wait for a page: streams blocked at their instruction or its fetch, operations, the device.
[DEDUCED, log 30] -/
def waitersFor (s : State) (page : Nat) : List Waiter :=
  (s.jobs.flatMap fun e => (hartsOf (e.1 / 4) (e.1 % 4)).filterMap fun h =>
    let st := getStream s h
    if st.awaitsPage == some page then some (.stream h e.2.ids.jobid st.pos st.pc) else none)
  ++ (s.ms.priWaiting.filter fun e => e.2 == page).map (·.1)

/-- The reply to a page request: the waiting accesses go on, or fault. A later access makes a request of its own. -/
def execPriResponse (page : Nat) (granted : Bool) (s : State) : Result :=
  .next (if NatSet.has s.ms.priSent page then
    modMs s fun m =>
      { m with
        priSent := NatSet.del m.priSent page
        hostAbsent := if granted then NatSet.del m.hostAbsent page else m.hostAbsent
        priWaiting := m.priWaiting.filter fun e => e.2 != page
        priRefused := m.priRefused.filter (fun e => e.2 != page)
          ++ if granted then [] else (waitersFor s page).map fun w => (w, page) }
  else s)

/-! ### Frames through the codecs (R419) -/

/-- The bytes of a ring in host memory behind port 0, from a running count on. -/
def ringBytes (s : State) (c : Codec) (at_ n : Nat) : List Byte :=
  (List.range n).flatMap fun k => readHost s 0 (c.ring + BitVec.ofNat 64 ((at_ + k) % c.rsize.toNat)) 1

def ringPut (s : State) (c : Codec) (at_ : Nat) (bs : List Byte) : State :=
  bs.zipIdx.foldl (fun s e => writeHost s 0 (c.ring + BitVec.ofNat 64 ((at_ + e.2) % c.rsize.toNat)) [e.1]) s

/-- Whether port 0 carries the traffic of a codec's owner (R409). [DEDUCED, log 31] -/
def ringLinked (s : State) (enc : Bool) (e : Nat) : Bool :=
  match Tab.get? s.ownOwner ((if enc then 288 else 304) + e) with
  | some p => linkCarries s p 0
  | none => true

/-- The vector of a frame. -/
def frameVector (s : State) (c : Codec) : State :=
  if c.ifv.getLsbD 8 then raiseVector s 0 (c.ifv.toNat % 8) (c.ifv.toNat / 8 % 32) else s

/-- A key frame: the first since EN, and every GOP-th. -/
def keyFrame (c : Codec) : Bool := c.frames == 0 || (c.gop != 0 && c.frames % c.gop.toNat == 0)

/-- The record of a coded frame: header, then the unit, padded to a multiple of 16 bytes.
[DESIGN CHOICE, log 103] -/
def codedRecord (time : Nat) (frame : BitVec 16) (key : Bool) (unit : List Byte) : List Byte :=
  let bs := leBytes 4 unit.length ++ leBytes 2 frame.toNat ++ leBytes 2 (b2n key) ++ leBytes 8 time ++ unit
  bs ++ List.replicate ((16 - bs.length % 16) % 16) 0

/-- The frame leaves the queue with its tiles. -/
def dropFrame (frame : BitVec 16) (f : FrameTileQueue) : FrameTileQueue :=
  { f with closed := f.closed.drop 1, tiles := f.tiles.filter fun t => t.frame != frame }

/-- The registers of a codec, but for the counts of its ring. -/
def Codec.regs (c : Codec) : List Nat := [c.ctl.toNat, c.qp.toNat, c.rate.toNat, c.gop.toNat]

/-- What a codec computes from beside its tiles or record: its registers, and the size and depth that its stream's
descriptor gives (R419). [DESIGN CHOICE, log 103] -/
def codecInputs (s : State) (c : Codec) (stream : Nat) : List Nat :=
  let d := getSdesc s stream
  c.regs ++ [frameWidth d, frameHeight d, frameDepth d]

/-- The tiles of a frame, in the order of their positions: what the codec makes of them depends on no other
order. -/
def frameTiles (d : StreamDesc) (f : FrameTileQueue) (frame : BitVec 16) : List (Nat × Nat × List Byte) :=
  (List.range (tilePositions d)).filterMap fun k =>
    let w := ceilDiv (frameWidth d) 64
    (f.tiles.find? fun t => t.frame == frame && t.col == k % w && t.row == k / w).map fun t => (t.col, t.row, t.samples)

/-- [DESIGN CHOICE, log 103] -/
def execEncodeFrame (e : Nat) (s : State) : Result :=
  let c := getCodec s true e
  let q := bitsOf c.ctl 3 5
  .next (match (if bitOf c.ctl 0 then (getFtq s q).closed else []) with
    | [] => s
    | frame :: _ =>
      let tiles := frameTiles (getSdesc s (bitsOf c.ctl 8 8)) (getFtq s q) frame
      let r := codedRecord s.time frame (keyFrame c) (Config.codedFrame c.memory (codecInputs s c (bitsOf c.ctl 8 8)) tiles)
      if c.rsize.toNat < (c.rtail - c.rhead).toNat + r.length || !ringLinked s true e then s
      else
        let s := setCodec (ringPut s c c.rtail.toNat r) true e
          { c with rtail := c.rtail + BitVec.ofNat 32 r.length, frames := c.frames + 1,
                   memory := Config.codedKeep c.memory (codecInputs s c (bitsOf c.ctl 8 8)) tiles }
        takeTiles (frameVector (modFtq s q (dropFrame frame)) c) q)

/-- The frame number under which a decoder publishes. [DESIGN CHOICE, log 103] -/
def decodedNumber (r : Ring) (frame : Nat) : Word :=
  if r.last = 0xFFFFFFFFFFFFFFFF then BitVec.ofNat 64 frame else r.last + 1

/-- The entries of the frame that a decoder's publication takes out of a slot are retired (R229, step 2): under the
PASID and into the pool of the last FRADV that published in the ring. [DESIGN CHOICE, log 103] -/
def retireDecoded (s : State) (p st : Nat) (old : SlotHead) : Except BulkFail State :=
  match (getSdesc s st).published with
  | none => .ok s
  | some (pasid, pool) => do
    let b := dispatcher p pasid
    let gone ← slotEntries s b pool old
    retireAll s b pool gone

/-- The tiles of a decoded frame go into their slot, which is published (R228, R229).
[DESIGN CHOICE, log 103] -/
def publishDecoded (s : State) (p st frame : Nat) (samples : List Byte) : Except BulkFail State := do
  let r ← ringAt s p st
  let f := decodedNumber r frame
  let n := min (12288 * tilePositions (getSdesc s st)) (r.slotSize - 32)
  let old ← slotHead s p r (r.slotOf f)
  let s ← retireDecoded s p st old
  let s ← ringWrite s p (r.slotIpa (r.slotOf f) + 32) ((samples ++ List.replicate n 0).take n)
  ringPublish s p r ⟨f, 0, 0, 1⟩ none

/-- A decoder takes the record at RTAIL of its ring, of which the host has written up to RHEAD.
[DESIGN CHOICE, log 103] -/
def execDecodeRecord (d : Nat) (s : State) : Result :=
  let c := getCodec s false d
  let there := (c.rhead - c.rtail).toNat
  let head := ringBytes s c c.rtail.toNat 16
  let len := ofLe (head.take 4)
  let total := (16 + len + 15) / 16 * 16
  .next (match Tab.get? s.ownOwner (304 + d) with
    | some p =>
      if bitOf c.ctl 0 && 16 ≤ there && total ≤ there && ringLinked s false d then
        let record := ringBytes s c c.rtail.toNat total
        let samples := Config.decodedFrame c.memory (codecInputs s c (bitsOf c.ctl 3 5)) record
        let s := setCodec s false d
          { c with rtail := c.rtail + BitVec.ofNat 32 total, frames := c.frames + 1,
                   memory := Config.decodedKeep c.memory (codecInputs s c (bitsOf c.ctl 3 5)) record }
        let s := match publishDecoded s p (bitsOf c.ctl 3 5) (ofLe (slice head 4 2)) samples with
          | .ok s => s
          | .error _ => s
        frameVector s c
      else s
    | none => s)

end Sys2Proof.Machine
end

