-- ==== Sys2Proof/Machine/Fabric.lean ====
section
/-! DEFINITION. The peer fabric (R420–R422, R462): release flags, the requests that a home serves, replies, data
writes of peers, and the host's coherent writes (R98). -/

namespace Sys2Proof.Machine

/-! ### Who may send (R420) -/

/-- Whether the receiving partition is joined to the source, under the same fabric id.
[DEDUCED, log 104] -/
def srcJoined (s : State) (x : PeerSrc) : Bool :=
  x.target < Config.numParts && (fabricOf s x.target).toNat == x.fabric && (joinedPeers s x.target).contains (x.chip, x.part)

/-- A message is discarded and counted. [DEDUCED, log 104] -/
def discardMsg (s : State) (x : PeerSrc) : State :=
  if x.target < Config.numParts then modPart s x.target fun p => { p with discarded := satInc p.discarded } else s

/-- Act on a message of a joined source, over a link that carries the receiver's traffic (R409). -/
def fromPeer (s : State) (x : PeerSrc) (f : State → State) : Result :=
  .next (if srcJoined s x && anyLink s x.target then f s else discardMsg s x)

/-! ### Release flags (R421, R462) -/

/-- The update of a sync word at a physical address of the partition (R119); a poisoned word stays as it is
(R458). -/
def applySync (s : State) (p pa n : Nat) : State :=
  if (poisonIn s deviceView pa 16).isSome then s
  else
    let c : Cell := .glob ⟨pa, pa, 0, false⟩
    let s := cellNow s c 16
    let old := syncRead s deviceView c
    syncCount s (dispatcher p 0).ag c old (old.add n)

/-- The member of a peer chip is of a failed instance: the first of those with its key that it is not counted in.
[DEDUCED, log 70] -/
def meetFailed (k : CollKey) (member : Nat) : List FailedColl → Option (List FailedColl)
  | [] => none
  | f :: fs =>
    if f.key == k && !f.others.contains member then some ({ f with others := f.others ++ [member] } :: fs)
    else (meetFailed k member fs).map (f :: ·)

/-- A member of an instance has failed on a peer chip: those of this chip will (R225). Where it had sent its part,
and that is no longer here, its instance is over here, or is known to have failed. [DEDUCED, log 70] -/
def failHere (s : State) (p : Nat) (k : CollKey) (member : Nat) (sent : Bool) : State :=
  let others := (sentParts s p k).map (·.member)
  if sent && !others.contains member then s
  else
    match (if sent then none else meetFailed k member (getPart s p).failedColl) with
    | some l => modFailed s p fun _ => l
    | none =>
      modFailed (dropRemote s p k) p fun l =>
        ⟨k, none, 0, if sent then others else others ++ [member], none, s.nextJob⟩ :: l

/-- The part of a member of a peer chip is kept until its instance runs; that of a failed instance is not. -/
def takePart (s : State) (r : RemoteMember) : State :=
  match meetFailed (6, domainOf 0 6, r.cid, r.ordinal) r.member (getPart s r.part).failedColl with
  | some l => modFailed s r.part fun _ => l
  | none => { s with fabric := { s.fabric with remote := s.fabric.remote ++ [r] } }

/-- What a flag does once it is applied. -/
def applyFlag (s : State) (x : PeerSrc) (b : FlagBody) : State :=
  match b with
  | .syncWord pa n =>
    if pa % 16 = 0 && ownUnit s x.target pa then applySync s x.target pa n.toNat else discardMsg s x
  | .barrier number expected => (partArrive s x.target 6 0 number.toNat expected).1
  | .collective cid ordinal member fmt op count root data =>
    takePart s ⟨x.target, cid.toNat, ordinal, member, fmt.toNat, op.toNat, count, root, data⟩
  | .failed cid ordinal member sent => failHere s x.target (6, domainOf 0 6, cid.toNat, ordinal) member sent

def lastSeqOf (s : State) (k : Nat × Nat × Nat) : BitVec 32 :=
  ((s.fabric.lastSeq.find? fun e => e.1 == k).map (·.2)).getD 0

/-- Each sequence is applied once: (s − L) mod 2^32 in 1 to 2^31 − 1. [DEDUCED, log 79] -/
def execPeerReleaseFlag (src : PeerSrc) (seq : BitVec 32) (body : FlagBody) (s : State) : Result :=
  fromPeer s src fun s =>
    let k := (src.target, src.chip, src.part)
    let d := (seq - lastSeqOf s k).toNat
    if 1 ≤ d && d < 2 ^ 31 then
      applyFlag { s with fabric := { s.fabric with
        lastSeq := (k, seq) :: s.fabric.lastSeq.filter fun e => e.1 != k } } src body
    else bumpErr s 6

/-- [DEDUCED, log 79] -/
def execFlagResend (id : Nat) (s : State) : Result :=
  .next (match s.fabric.pending.find? fun f => f.id == id with
    | some f =>
      if headFlag s f && f.confirmed then
        let g := { f with path := f.path + 1 }
        bumpErr (emitFlag (modFlag s id fun _ => g) g) 5
      else s
    | none => s)

/-- The confirming read of a flag's data returns, and the flag goes out; or it fails, and the data are sent again
along another path (R462). [DEDUCED, log 79] -/
def flagConfirmed (s : State) (id : Nat) (ok : Bool) : State :=
  match s.fabric.pending.find? fun f => f.id == id with
  | none => s
  | some f =>
    if headFlag s f && !f.confirmed then
      let g := if ok then { f with confirmed := true } else { f with path := f.path + 1 }
      emitFlag (modFlag s id fun _ => g) g
    else s

/-- A request's completion returns (R462). -/
def requestDelivered (s : State) (tag : BitVec 32) : State :=
  { s with cores := s.cores.map fun c =>
    (c.1, { c.2 with tokens := c.2.tokens.map fun t =>
      (t.1, { t.2 with requests := t.2.requests.map fun r => if r.tag = tag then { r with delivered := true } else r }) }) }

/-- A flag's completion returns; the next one of its line goes out. [DEDUCED, log 79] -/
def flagDelivered (s : State) (id : Nat) : State :=
  match s.fabric.pending.find? fun f => f.id == id with
  | none => s
  | some f =>
    if !headFlag s f || !f.confirmed then s
    else
      let left := s.fabric.pending.filter fun g => g.id != id
      match left.find? (sameLine f) with
      | none => { s with fabric := { s.fabric with pending := left } }
      | some g =>
        let g' := { g with sentAt := s.time }
        emitFlag { s with fabric := { s.fabric with pending := left.map fun h => if h.id = g.id then g' else h } } g'

/-! ### The home side of the directory (R422) -/

def reply (s : State) (src : PeerSrc) (tag : BitVec 32) (b : ReplyBody) : State :=
  { s with out := s.out ++ [.reply src.chip tag b] }

/-- How this chip reaches a prefix record's page. -/
def recordBulk (d : PrefixRecord) : Bulk := dispatcher d.part (d.pasid.getD ipaSpace)

/-- A record as a readable entry. -/
def recordBits (d : PrefixRecord) : KvBits :=
  ⟨d.page, 0, 0, d.elem, d.hdim, d.bitmap.toNat, d.scale, d.version.toNat, d.readers, d.id⟩

/-- PUB: the page goes into one of the partition's directory pool. -/
def pubRemote (s : State) (src : PeerSrc) (entry page : List Byte) : Except BulkFail State := do
  let k := KvBits.ofBytes entry
  let fabric := fabricOf s src.target
  match findPrefix s fabric k.fid with
  | some _ => .ok s
  | none =>
    if !k.ok || k.fid == 0 then .error (.fault .format, 0)
    if 65536 ≤ s.fabric.directory.length then .error (.fault .version, 0)
    let b := dispatcher src.target ipaSpace
    let (s, p) ← takePage s b (getPart s src.target).dirPool
    let s ← writePage s b p 0 ((page ++ List.replicate (2 * k.half) 0).take (2 * k.half))
    addPrefix s (prefixRecord fabric k p src.target none)

def execDirPubRequest (src : PeerSrc) (tag : BitVec 32) (entry page : List Byte) (s : State) : Result :=
  fromPeer s src fun s =>
    match pubRemote s src entry page with
    | .ok s' => reply s' src tag .done
    | .error _ => reply s src tag .failed

def execDirLookupRequest (src : PeerSrc) (tag : BitVec 32) (id : Word) (s : State) : Result :=
  fromPeer s src fun s => reply s src tag (.entry (lookupEntry s (fabricOf s src.target) id false).bytes)

def setReaders (s : State) (d : PrefixRecord) (n : Nat) : State :=
  { s with fabric := { s.fabric with directory := s.fabric.directory.map fun x =>
      if x.fabric = d.fabric && x.id = d.id then { x with readers := n } else x } }

/-- A reader is counted for the requester (R213, R422). [DEDUCED, log 104] -/
def countReader (s : State) (src : PeerSrc) (d : PrefixRecord) : State :=
  let s := setReaders s d (d.readers + 1)
  { s with fabric := { s.fabric with
      remoteReaders := s.fabric.remoteReaders ++ [(src.chip, src.part, src.fabric, d.id)] } }

/-- A request that translates a record: it waits while READERS is 65,535; what fails counts no reader.
[DEDUCED, log 104, 104] -/
def serveRecord (s : State) (src : PeerSrc) (tag : BitVec 32) (id : Word)
    (f : State → PrefixRecord → Except BulkFail (State × ReplyBody)) : State :=
  match findPrefix s (fabricOf s src.target) id with
  | none => reply s src tag .failed
  | some d =>
    if 65535 ≤ d.readers then s
    else
      match f (countReader s src d) d with
      | .ok r => reply r.1 src tag r.2
      | .error _ => reply s src tag .failed

/-- [DEDUCED, log 104] -/
def execDirFetchRequest (src : PeerSrc) (tag : BitVec 32) (id : Word) (s : State) : Result :=
  fromPeer s src fun s => serveRecord s src tag id fun s d =>
    (readPage s (recordBulk d) d.page 0 (2 * (recordBits d).half)).map fun x => (x.1, .page x.2)

/-- The query rows of an ATTEND request: m rows of d BF16 elements. -/
def queryRows (d m : Nat) (query : List Byte) : List (List Byte) :=
  (List.range m).map fun i => slice query (2 * d * i) (2 * d)

def execDirAttendRequest (src : PeerSrc) (tag : BitVec 32) (id : Word) (d m : Nat) (sc block : BitVec 32)
    (causal : Option Word) (query : List Byte) (s : State) : Result :=
  fromPeer s src fun s => serveRecord s src tag id fun s r =>
    (blockPartials s (recordBulk r) (recordBits r) ⟨d, m, sc, block.toNat, causal⟩ (queryRows d m query)).map
      fun x => (x.1, .partials x.2)

/-- The readers held for a partition of a peer chip are released where it is destroyed (R422).
[DEDUCED, log 104] -/
def peerGone (s : State) (chip part : Nat) : State :=
  { s with fabric := releaseReaders s.fabric fun r => r.1 == chip && r.2.1 == part }

/-- RELEASE: one reader held for the requester is subtracted. [DEDUCED, log 104] -/
def execDirReleaseRequest (src : PeerSrc) (id : Word) (_version : BitVec 16) (s : State) : Result :=
  fromPeer s src fun s =>
    let r := (src.chip, src.part, src.fabric, id)
    if s.fabric.remoteReaders.contains r then
      { s with fabric := { s.fabric with
          remoteReaders := s.fabric.remoteReaders.erase r
          directory := s.fabric.directory.map (dropReader r) } }
    else s

/-- A reply goes to the request with its tag that its source was asked, or is discarded. The reader that it tells of is
released where the operation has ended (R422, R463). [DEDUCED, log 104] -/
def execPeerReply (tag : ReplyTag) (body : ReplyBody) (s : State) : Result :=
  let src := tag.src
  fromPeer s src fun s =>
    let s : State := { s with cores := s.cores.map fun c =>
      (c.1, { c.2 with tokens := c.2.tokens.map fun t =>
        (t.1, { t.2 with requests := t.2.requests.map fun r =>
          if r.tag = tag.number && r.reply.isNone && t.2.ids.part == src.target && (r.chip, r.part) = (src.chip, src.part) then
            { r with reply := some body }
          else r }) }) }
    let mine (e : EndedReader) : Bool :=
      e.tag == tag.number && !e.answered && e.part == src.target && (e.chip, e.peer) == (src.chip, src.part)
    let ended :=
      if countsReader body then s.fabric.ended.map fun e => (if mine e then { e with answered := true } else e)
      else s.fabric.ended.filter fun e => !mine e
    sendReleases { s with fabric := { s.fabric with ended := ended } }

/-! ### Data writes of peers and of the host (R98, R421) -/

/-- A peer's data, or its confirming read, which writes no byte. [DEDUCED, log 104] -/
def execPeerDataWrite (src : PeerSrc) (pa : Nat) (bytes : List Byte) (s : State) : Result :=
  fromPeer s src fun s =>
    if (granules pa bytes.length).all fun g => ownUnit s src.target (8 * g) then
      writePa s (src.target, 0) none false pa bytes
    else discardMsg s src

/-- The host writes a line of its memory that the device holds coherently over CXL (ports 0 and 1).
[DEDUCED, log 107] -/
def execHostCxlCacheWrite (pa : Nat) (bytes : List Byte) (s : State) : Result :=
  .next (if (granules pa bytes.length).all fun g => isHostPa (8 * g) && hostPort (8 * g) < 2 then
    noteWindows (writePa s (0, 0) none false pa bytes) pa bytes.length else s)

end Sys2Proof.Machine
end

