-- ==== Sys2Proof/Machine/Vector.lean ====
section
/-! DEFINITION. The V-class instructions in the C-stream (R284 to R308): check 7, queue waits, the rows a
read may have to replay, the body of the instruction, and what it writes, pops and pushes. -/

namespace Sys2Proof.Machine

/-- R79: the rotated index, from the innermost active LOOP. -/
def rotateIndex (st : Stream) (idx : Nat) : Option Nat :=
  match st.loops with
  | [] => none
  | l :: _ =>
    (l.rots.find? fun r =>
      (r.base != 0 || r.len != 0) && r.base.toNat ≤ idx && idx ≤ r.base.toNat + r.len.toNat).map fun r =>
      r.base.toNat + (idx - r.base.toNat + l.j) % (r.len.toNat + 1)

/-- What the C-stream's instruction reads at issue (R288). -/
def liveEnv (s : State) (v : VOp) : VEnv :=
  let j := curJob s
  let ctl := (viewedJob s).ctl
  { scal := (curStream s).regs, gains := j.gains, rowMask := rowMask j v.k, colMask := colMask j v.k,
    top := maskTop j, rnd := BitVec.ofNat 3 (bitsOf ctl 0 3), ftz := bitOf ctl 3,
    rotate := rotateIndex (curStream s) }

/-- Whether an instruction writes one row or push for all its steps (R302). -/
def writesOnce (i : Instr) (v : VOp) : Bool :=
  v.fn == 1 && match i with
    | .vrsum _ | .vrmax _ | .vrmin _ | .vamax _ | .vamin _ => true
    | _ => false

def isPack (i : Instr) : Bool := match i with | .vpack _ => true | _ => false
def isUnpk (i : Instr) : Bool := match i with | .vunpk _ => true | _ => false
def isVld (i : Instr) : Bool := match i with | .vld _ => true | _ => false
def isVst (i : Instr) : Bool := match i with | .vst _ => true | _ => false

/-- The width ratio of VPACK (from A's tag) or VUNPK, else 1. -/
def widthRatio (i : Instr) (v : VOp) (a : Tag) : Nat :=
  let wa := elemBytes a.fmt
  let wd := elemBytes v.fmt.toNat
  if isPack i then (ratio wa wd).getD 1 else if isUnpk i then (ratio wd wa).getD 1 else 1

/-- Steps at which D and A are used. [DESIGN CHOICE, log 118] -/
def stepsD (i : Instr) (v : VOp) (r : Nat) : Nat :=
  if writesOnce i v then 1 else (v.n.toNat + 1) * (if isUnpk i then r else 1)

def stepsA (i : Instr) (v : VOp) (r : Nat) : Nat := (v.n.toNat + 1) * (if isPack i then r else 1)

/-- The row indices of a descriptor over its steps. -/
def descRows (i : VIn) (d : Desc) (steps : Nat) : List Nat :=
  match d with
  | .row .. => (List.range steps).map (rowIndex i d)
  | _ => []

/-- The rows an instruction reads, its destination's old rows included, in the order of steps: at each step D,
then A, then B. -/
def rowsRead (n : Nat) (ds as bs : List Nat) : List Nat :=
  let part (l : List Nat) (j : Nat) : List Nat := slice l (j * (l.length / n)) (l.length / n)
  (List.range n).flatMap fun j =>
    (if ds.length < n then (if j = 0 then ds else []) else part ds j) ++ part as j ++ part bs j

/-- Pops per queue: entries that A and B take from queue `q`. -/
def popsFrom (v : VOp) (q na nb : Nat) : Nat :=
  (match v.A with | .queue x _ _ => if x.toNat = q then na else 0 | _ => 0)
    + (match v.B with | .queue x _ _ => if x.toNat = q then nb else 0 | _ => 0)

def pushesTo (v : VOp) (q nd : Nat) : Nat := match v.D with | .queue x _ _ => if x.toNat = q then nd else 0 | _ => 0

/-- Rows of room asked of a destination queue: n, whatever is pushed (R141), and n·r for VUNPK (R299).
[DESIGN CHOICE, log 118] -/
def roomD (i : Instr) (v : VOp) (r : Nat) : Nat := (v.n.toNat + 1) * (if isUnpk i then r else 1)

/-- The queues that are short of entries or room, lowest code first (R141, R142).
[DESIGN CHOICE, log 118] -/
def shortQueues (s : State) (v : VOp) (nd na nb : Nat) : List Nat :=
  (List.range 8).filter fun q =>
    let len := queueLength (curJob s).queues q
    decide (len < popsFrom v q na nb) || decide (8 < len + pushesTo v q nd)

/-- The tag A has at step 0 as it stands: of its row or of the entry at the head of its queue. -/
def tagOfA (s : State) (i : VIn) (v : VOp) : Option Tag :=
  match v.A with
  | .row .. => some (getRow (curJob s) (rowIndex i v.A 0)).low
  | .queue q _ _ => ((curJob s).queues.q.getD q.toNat []).head?.map (·.tag)
  | _ => some rawTag

/-- Write the bytes of a step of VST whose column bits are set (R307), granule by granule. -/
def storeRow (s : State) (a : Agent) (off : Nat) (d : RowBits) (cols : BitVec 64) : State :=
  match a.spad off 256 with
  | none => s
  | some sp =>
    let bs := leBytes 256 d.toNat
    (List.range 32).foldl (fun s g =>
      let lo := cols.getLsbD (2 * g)
      let hi := cols.getLsbD (2 * g + 1)
      let put (s : State) (o n : Nat) : State :=
        dirtyWin (ownStore s (sp + o) (slice bs o n)) a ((offWin a off).map fun w => (w.1, w.2 + o)) n
      if lo && hi then put s (8 * g) 8
      else if lo then put s (8 * g) 4
      else if hi then put s (8 * g + 4) 4
      else s) s

/-- Pops and pushes, rows, lane-mask entry and stores of an instruction whose checks have passed. -/
def vCommit (s : State) (v : VOp) (na nb : Nat) (prot offs : List Nat) (out : VOut) : State :=
  let s := (List.range 4).foldl (fun s q => if popsFrom v q na nb = 0 then s else popRows s q (popsFrom v q na nb)) s
  -- the checks found storage for every row
  let s := (writeRows s s.cur prot v.n.toNat out.rows out.order).getD s
  let s := match v.D with
    | .queue q _ _ => pushRows (drainWc s s.cur) q.toNat out.pushes
    | _ => s
  let s := match out.top with
    | some m => modCurJob s fun j => { j with maskStack := m :: j.maskStack }
    | none => s
  out.stores.foldl (fun s x => storeRow s (curAgent s) (offs.getD x.1 0) x.2.1 x.2.2) s

/-- A line of VLD or VST at its step, with the checks of R306 and R307 in order. [DEDUCED, log 45] -/
def vLine (store : Bool) (s : State) (o : Nat) : Exec (State × RowBits) := do
  let a := curAgent s
  let s ← openLine s a o
  orderChecks s (lineParts [o] store) 0 0
  if store then
    check (!inSealed a o 256) .sealedRange (BitVec.ofNat 64 o)
    .ok (s, 0)
  else
    let d ← readLine s a true o
    .ok (s, d)

/-- A V-class instruction of the C-stream (R288). [DESIGN CHOICE, log 118] -/
def vBody (i : Instr) (v : VOp) (prog : VProg) (s : State) : Exec Effect := do
  let env := liveEnv s v
  let h := s.cur
  let bare : VIn :=
    { env := env, row := fun n => .ok (getRow (curJob s) n), tagOf := fun n => (getRow (curJob s) n).low,
      queue := fun q => (curJob s).queues.q.getD q [], line := fun _ => .ok 0, sourceOf := fun _ => none,
      newOrdinary := fun _ => false, room := fun _ _ _ => true, depth := (curJob s).maskStack.length }
  let n := v.n.toNat + 1
  -- the width ratio of VPACK and VUNPK comes from A's tag; while A's queue is empty the wait below is on it
  let first := match v.A with | .row .. => [rowIndex bare v.A 0] | _ => []
  let r0 := if isPack i || isUnpk i then materialise s h first first else (s, none)
  let tA := tagOfA r0.1 bare v
  let ratio := match tA with
    | some t => widthRatio i v t
    | none => 1
  let nd := stepsD i v ratio
  let na := stepsA i v ratio
  check (indexOk bare v.D nd && indexOk bare v.A na && indexOk bare v.B n) .illegal
  check ((List.range 8).all fun q => popsFrom v q na n ≤ 8 && pushesTo v q nd ≤ 8) .illegal
  match shortQueues s v (roomD i v ratio) na n with
  | [q] => .error (.wait (.queue q))
  | q :: more => .error (.wait (.queues q more))
  | [] => do
    let prot := rowsRead n (descRows bare v.D nd) (descRows bare v.A na) (descRows bare v.B n)
    let (s1, failed) := materialise s h prot prot
    -- after a failed replay the tags of the other operands are those of their own replays
    let (sx, bad) := match failed with
      | some _ => materialiseAll s1 h prot prot
      | none => (s1, [])
    let j := curJob sx
    let offs := if isVld i then vLines bare v v.A else if isVst i then vLines bare v v.B else []
    let lines := overLines (vLine (isVst i)) s1 offs
    let input : VIn :=
      { bare with
        row := fun r => match failed with
          | some (_, e) => if NatSet.has bad r then .error e else .ok (getRow j r)
          | none => .ok (getRow j r)
        tagOf := fun r => (getRow j r).low
        line := stepLine lines
        sourceOf := fun r => (sourceRecipe j r).map fun k => recipeStop h r k 1 0 0
        newOrdinary := fun r => !(getRow j r).res || (getRow j r).mark
        room := fun k rows order =>
          ordinaryRows j + k ≤ j.ids.rowRes && (writeRows sx h prot v.n.toNat rows order).isSome }
    match prog input v with
    -- the rows replayed have been replayed, whatever the trap
    | .error (.trap c a t) => .error (.trapIn s1 c a t)
    | .error e => .error e
    | .ok out => do
      let s2 ← afterLines s1 lines
      let s2 := if isVld i then linesRead s2 (curAgent s2) offs else s2
      .ok (.next (vCommit s2 v na n prot offs out))

/-- Issue of a V-class instruction: only the C-stream, under its guard (R45, R49). -/
def vIssue (i : Instr) (v : VOp) (prog : VProg) (s : State) : Result :=
  issue i [.c] (some v.g) free (vBody i v prog) s

def execVadd (v : VOp) (s : State) : Result := vIssue (.vadd v) v (numProg opAdd) s
def execVsub (v : VOp) (s : State) : Result := vIssue (.vsub v) v (numProg opSub) s
def execVmul (v : VOp) (s : State) : Result := vIssue (.vmul v) v (numProg opMul) s
def execVfma (v : VOp) (s : State) : Result := vIssue (.vfma v) v (numProg opFma) s
def execVfms (v : VOp) (s : State) : Result := vIssue (.vfms v) v (numProg opFms) s
def execVmin (v : VOp) (s : State) : Result := vIssue (.vmin v) v (numProg opMin) s
def execVmax (v : VOp) (s : State) : Result := vIssue (.vmax v) v (numProg opMax) s
def execVabs (v : VOp) (s : State) : Result := vIssue (.vabs v) v (numProg opAbs) s
def execVand (v : VOp) (s : State) : Result := vIssue (.vand v) v (bitProg Nat.land) s
def execVor (v : VOp) (s : State) : Result := vIssue (.vor v) v (bitProg Nat.lor) s
def execVxor (v : VOp) (s : State) : Result := vIssue (.vxor v) v (bitProg Nat.xor) s
def execVshl (v : VOp) (s : State) : Result := vIssue (.vshl v) v (shiftProg shlBits) s
def execVshr (v : VOp) (s : State) : Result := vIssue (.vshr v) v (shiftProg shrBits) s
def execVsra (v : VOp) (s : State) : Result := vIssue (.vsra v) v (shiftProg sraBits) s
def execVcmp (v : VOp) (s : State) : Result := vIssue (.vcmp v) v progCmp s
def execVcmpPush (v : VOp) (s : State) : Result := vIssue (.vcmpPush v) v progCmpPush s
def execVsel (v : VOp) (s : State) : Result := vIssue (.vsel v) v progSel s
def execVclamp (v : VOp) (s : State) : Result := vIssue (.vclamp v) v (numProg opClamp) s
def execVlerp (v : VOp) (s : State) : Result := vIssue (.vlerp v) v (numProg opLerp) s
def execVcvt (v : VOp) (s : State) : Result := vIssue (.vcvt v) v progCvt s
def execVpack (v : VOp) (s : State) : Result := vIssue (.vpack v) v progPack s
def execVunpk (v : VOp) (s : State) : Result := vIssue (.vunpk v) v progUnpk s
def execVtag (v : VOp) (s : State) : Result := vIssue (.vtag v) v progTag s
def execVgain (v : VOp) (s : State) : Result := vIssue (.vgain v) v progGain s
def execVrnd (v : VOp) (s : State) : Result := vIssue (.vrnd v) v (numProg opRnd) s
def execVexp2 (v : VOp) (s : State) : Result := vIssue (.vexp2 v) v (numProg opExp2) s
def execVrcp (v : VOp) (s : State) : Result := vIssue (.vrcp v) v (numProg opRcp) s
def execVrsq (v : VOp) (s : State) : Result := vIssue (.vrsq v) v (numProg opRsq) s
def execVsqrt (v : VOp) (s : State) : Result := vIssue (.vsqrt v) v (numProg opSqrt) s
def execVdiv (v : VOp) (s : State) : Result := vIssue (.vdiv v) v (numProg opDiv) s
def execVmov (v : VOp) (s : State) : Result := vIssue (.vmov v) v progMov s
def execVext (v : VOp) (s : State) : Result := vIssue (.vext v) v (permProg extElems) s
def execVins (v : VOp) (s : State) : Result := vIssue (.vins v) v progIns s
def execVperm (v : VOp) (s : State) : Result := vIssue (.vperm v) v progPerm s
def execVrot (v : VOp) (s : State) : Result := vIssue (.vrot v) v (permProg rotElems) s
def execViota (v : VOp) (s : State) : Result := vIssue (.viota v) v progIota s
def execVrsum (v : VOp) (s : State) : Result := vIssue (.vrsum v) v (redProg .sum false) s
def execVrmax (v : VOp) (s : State) : Result := vIssue (.vrmax v) v (redProg .max false) s
def execVrmin (v : VOp) (s : State) : Result := vIssue (.vrmin v) v (redProg .min false) s
def execVamax (v : VOp) (s : State) : Result := vIssue (.vamax v) v (redProg .amax false) s
def execVamin (v : VOp) (s : State) : Result := vIssue (.vamin v) v (redProg .amin false) s
def execVscan (v : VOp) (s : State) : Result := vIssue (.vscan v) v (redProg .sum true) s
def execVpopc (v : VOp) (s : State) : Result := vIssue (.vpopc v) v progPopc s
def execVpfx (v : VOp) (s : State) : Result := vIssue (.vpfx v) v progPfx s
def execVld (v : VOp) (s : State) : Result := vIssue (.vld v) v progLd s
def execVst (v : VOp) (s : State) : Result := vIssue (.vst v) v progSt s

end Sys2Proof.Machine
end

