-- ==== Sys2Proof/Machine/Recipes.lean ====
section
/-! DEFINITION. FIX, UNFIX, DROP, RCPCLR, RCP, SEAL and UNSEAL (R441 to R453). -/

namespace Sys2Proof.Machine

/-- The rows of a range f to f + c − 1 named by imm13 (R445, R453). -/
def immRows (i : BitVec 13) : List Nat := (List.range (i.toNat / 1024 + 1)).map (i.toNat % 1024 + ·)

/-! ### Settling recipes (R452, R453) -/

/-- The live recipes that read one of these rows, and those that read their rows. -/
def readersOf (j : Job) (rows : List Nat) : List Nat :=
  let direct := (j.recipes.filter fun e => e.2.sources.any rows.contains).map (·.1)
  let indirect := (j.recipes.filter fun e => e.2.sources.any fun n =>
    let x := getRow j n
    x.mark && direct.contains x.recipe).map (·.1)
  indirect.foldl NatSet.add (direct.foldl NatSet.add [])

/-- The rows that carry the mark of one of these recipes, ascending. -/
def markedRows (j : Job) (ks : List Nat) : List Nat :=
  (j.rows.filter fun e => e.2.mark && ks.contains e.2.recipe).map (·.1)

/-- A recipe row becomes an ordinary row with its data unchanged. -/
def unmarkRow (s : State) (k i : Nat) : State :=
  let x := getRow (getJob s k) i
  if x.mark then putRow s k i { x with tag := rowTag x.low false x.fix x.res, recipe := 0 } else s

/-- ROWS of an instruction without a destination operand: WHERE the row, OPND 3 (R288).
[DEDUCED, log 43] -/
def rowsStop (i : Nat) : Stop := .trap .rows (BitVec.ofNat 64 (i % 1024 + 3 * 32768)) 0

/-- Whether `n` more ordinary rows fit the reservation (R16). -/
def rowsFit (j : Job) (n : Nat) : Bool := ordinaryRows j + n ≤ j.ids.rowRes

/-- Rows are replayed where dropped, then lose their marks (R452). -/
def makeOrdinary (s : State) (h : Hart) (rows : List Nat) : Exec State :=
  match materialise s h rows rows with
  | (_, some (_, e)) => .error e
  | (s, none) => .ok (rows.foldl (fun s i => unmarkRow s (jobKey h) i) s)

/-- Recipes are materialised (R452): ROWS where the rows would not fit. -/
def settleRecipes (s : State) (h : Hart) (ks : List Nat) (extra : Nat) : Exec State :=
  let rows := markedRows (getJob s (jobKey h)) ks
  if rows.isEmpty then .ok s
  else if rowsFit (getJob s (jobKey h)) (rows.length + extra) then makeOrdinary s h rows
  else .error (rowsStop (rows.headD 0))

/-- Where a replay fails, those before it have taken place, with their trace records (R446). -/
def keepReplays (s : State) (rows : List Nat) : Exec State → Exec State
  | .error (.trap .recipe a t) => .error (.trapIn (materialise s s.cur rows rows).1 .recipe a t)
  | r => r

/-- The rows that settling the recipes which read these rows replays. -/
def settledRows (j : Job) (rows : List Nat) : List Nat := markedRows j (readersOf j rows)

/-! ### FIX, UNFIX, DROP, RCPCLR (R453) -/

/-- One row of FIX. -/
def fixRow (s : State) (h : Hart) (prot : List Nat) (i : Nat) : Exec State := do
  let s ← makeOrdinary s h [i]
  let x := getRow (getJob s (jobKey h)) i
  let s ← if x.res then .ok s
    else match allocRow s h prot with
      | some s => .ok s
      | none => .error (rowsStop i)
  .ok (putRow s (jobKey h) i ⟨rowTag x.low false true true, x.data, x.poison, 0⟩)

def execFix (i : BitVec 13) (s : State) : Result :=
  issue (.fix i) [.c] none free (fun s => do
    let j := curJob s
    let rows := immRows i
    let added := (rows.filter fun r => !(getRow j r).res || (getRow j r).mark).length
    if rowsFit j added then
      let s' ← keepReplays s rows (rows.foldl (fun r n => r.bind fun s => fixRow s s.cur rows n) (.ok s))
      .ok (.next s')
    else .error (rowsStop (i.toNat % 1024))) s

def execUnfix (i : BitVec 13) (s : State) : Result :=
  issue (.unfix i) [.c] none free (fun s => do
    let rows := immRows i
    let s ← keepReplays s (settledRows (curJob s) rows) (settleRecipes s s.cur (readersOf (curJob s) rows) 0)
    .ok (.next ((rows.filter fun r => (getRow (curJob s) r).fix).foldl (fun s r =>
      let x := getRow (curJob s) r
      putRow s (jobKey s.cur) r { x with tag := rowTag x.low x.mark false x.res }) s))) s

def execDrop (i : BitVec 13) (s : State) : Result :=
  simple1 (.drop i) (fun s => (immRows i).foldl (fun s r =>
    let x := getRow (curJob s) r
    if x.res && x.mark then setRow s (jobKey s.cur) r (dropRow x) else s) s) s
where
  simple1 (i : Instr) (f : State → State) (s : State) : Result :=
    issue i [.c] none free (fun s => .ok (.next (f s))) s

/-- One row of RCPCLR: the recipes that read it are settled, then it is ordinary or unwritten. -/
def clearRow (s : State) (h : Hart) (i : Nat) : Exec State := do
  let k := jobKey h
  let s ← settleRecipes s h (readersOf (getJob s k) [i]) 0
  let x := getRow (getJob s k) i
  if !x.mark then .ok s
  else if !x.res then .ok (modJob s k fun j => releaseRecipes { j with rows := Tab.del j.rows i })
  else if rowsFit (getJob s k) 1 then .ok (unmarkRow s k i)
  else .error (rowsStop i)

/-- ROWS of a range names its first row. [DEDUCED, log 43] -/
def firstRowStop (first : Nat) : Stop → Stop
  | .trap .rows _ _ => rowsStop first
  | e => e

def execRcpclr (i : BitVec 13) (s : State) : Result :=
  issue (.rcpclr i) [.c] none free (fun s =>
    match keepReplays s (settledRows (curJob s) (immRows i))
        ((immRows i).foldl (fun (r : Exec State) n => r.bind fun s => clearRow s s.cur n) (.ok s)) with
    | .ok s' => .ok (.next s')
    | .error e => .error (firstRowStop (i.toNat % 1024) e)) s

/-! ### RCP (R443, R445) -/

/-- The static tag each body instruction writes, given the tag of a row (R443). -/
def tagWritten (i : Instr) (v : VOp) (scal : Vector Word 32) (tagAt : Nat → Tag) : Tag :=
  let whole (d : Desc) : Nat := match d with
    | .scalar r n => (if n then -(if r = 0 then 0 else scal[r.toNat]) else if r = 0 then 0 else scal[r.toNat]).toNat
    | .imm x => x.toNat
    | _ => 0
  let idx (d : Desc) : Option Nat := match d with | .row n _ _ _ _ => some n.toNat | _ => none
  let src : Tag := match idx v.A with
    | some n => tagAt n
    | none => match idx v.B with
      | some n => tagAt n
      | none => mkTag v.fmt.toNat 0
  match i with
  | .vcmp _ => rawTag
  | .vcvt _ | .vpack _ | .vunpk _ => mkTag v.fmt.toNat (whole v.B)
  | .vgain _ => mkTag src.fmt (whole v.B)
  | .vtag _ => mkTag (if v.fmt = 0 then src.fmt else v.fmt.toNat) (whole v.B)
  | .viota _ => mkTag v.fmt.toNat 0
  | .vpopc _ | .vpfx _ => mkTag 4 0
  | .vamax _ | .vamin _ => if v.fn = 1 && elemBytes src.fmt = 1 then mkTag 6 0 else mkTag 4 0
  | .vld _ => BitVec.ofNat 11 (whole v.B)
  | _ => src

/-- The plain row indices of a descriptor without rotation. -/
def plainRows (d : Desc) (steps : Nat) : List Nat :=
  match d with
  | .row n st _ _ _ => (List.range steps).map fun j => n.toNat + st.toNat * j
  | _ => []

/-- What the check of a body gathers: rows written so far, their tags, sources, named gains, lines. -/
structure BodyScan where
  ok : Bool
  written : List Nat
  tags : Tab Tag
  sources : NatSet
  gains : NatSet
  offs : List Nat

/-- Whether a V-class operation may stand in a body (R445). -/
def bodyForm (i : Instr) (v : VOp) : Bool :=
  let isQueue (d : Desc) : Bool := match d with | .queue .. => true | _ => false
  !isVst i && (match i with | .vcmpPush _ => false | _ => true)
    && v.g.p == 0 && !v.g.pn
    && !(v.D.rot || v.A.rot || v.B.rot)
    && !(isQueue v.D || isQueue v.A || isQueue v.B)

/-- Whether D's old value is read (R289, R290). -/
def readsOldD (i : Instr) : Bool :=
  match i with
  | .vfma _ | .vfms _ | .vclamp _ => true
  | _ => false

/-- The job offsets of a body VLD. -/
def bodyLines (v : VOp) (scal : Vector Word 32) : List Nat :=
  match v.A with
  | .scalar r _ =>
    (List.range (v.n.toNat + 1)).map fun j =>
      (if r = 0 then 0 else scal[r.toNat]).toNat + 256 * (v.fn.toNat + 1) * j
  | _ => []

/-- One body instruction (R443, R445): `outside` is the tag of a row outside the range. -/
def scanOne (range : List Nat) (scal : Vector Word 32) (outside : Nat → Tag) (b : BodyScan) (i : Instr) :
    BodyScan :=
  match vopOf i with
  | none => { b with ok := false }
  | some v =>
    let tagAt (n : Nat) : Tag := if range.contains n then Tab.getD b.tags n rawTag else outside n
    let a0 := match v.A with | .row n _ _ _ _ => tagAt n.toNat | _ => rawTag
    let r := widthRatio i v a0
    let n := v.n.toNat + 1
    let outs := plainRows v.D (stepsD i v r)
    let as := plainRows v.A (stepsA i v r)
    let bs := plainRows v.B n
    let olds := if readsOldD i then outs else []
    let per := as.length / n
    -- a row of the range must be written by an earlier instruction or an earlier step
    let seen (row step : Nat) : Bool :=
      b.written.contains row
        || (!writesOnce i v && (outs.take (step * (outs.length / n))).contains row)
    let good := (as.zipIdx.all fun e => !range.contains e.1 || seen e.1 (e.2 / max 1 per))
      && (bs.zipIdx.all fun e => !range.contains e.1 || seen e.1 e.2)
      && (olds.zipIdx.all fun e => seen e.1 e.2)
      && outs.all range.contains && !outs.isEmpty
      && (as ++ bs).all fun x => decide (x ≤ 1023)
    let t := tagWritten i v scal tagAt
    -- the tag a row has when a step reads it: one that an earlier step has written carries this instruction's
    let gainAt (row step : Nat) : Nat :=
      if !writesOnce i v && (outs.take (step * (outs.length / n))).contains row then t.gain else (tagAt row).gain
    { ok := b.ok && bodyForm i v && good
      written := b.written ++ outs
      tags := outs.foldl (fun m x => Tab.set m x t) b.tags
      sources := (as ++ bs).foldl (fun m x => if range.contains x then m else NatSet.add m x) b.sources
      gains := NatSet.add ((as.zipIdx.map (fun e => gainAt e.1 (e.2 / max 1 per))
        ++ bs.zipIdx.map (fun e => gainAt e.1 e.2)).foldl NatSet.add b.gains) t.gain
      offs := b.offs ++ (if isVld i then bodyLines v scal else []) }

def scanBody (range : List Nat) (scal : Vector Word 32) (outside : Nat → Tag) (body : List Instr) : BodyScan :=
  body.foldl (scanOne range scal outside) ⟨true, [], [], [], [], []⟩

/-- The tag a row has, or that its recipe gives it (R443); a recipe's sources are of depth less. -/
def givenTag (j : Job) : Nat → Nat → Tag
  | 0, i => (getRow j i).low
  | fuel + 1, i =>
    let x := getRow j i
    if x.mark then
      match Tab.get? j.recipes x.recipe with
      | some r => Tab.getD (scanBody r.range r.scalars (givenTag j fuel) r.body).tags i rawTag
      | none => x.low
    else x.low

/-- The recipes whose rows are among these sources. -/
def depsOf (j : Job) (sources : List Nat) : NatSet :=
  sources.foldl (fun m i => if (getRow j i).mark then NatSet.add m (getRow j i).recipe else m) []

/-- The depth of R443. -/
def recipeDepth (j : Job) (k : Nat) : Nat :=
  match Tab.get? j.recipes k with
  | some r => if (depsOf j r.sources).isEmpty then 1 else 2
  | none => 1

/-- Whether a line lies in one sealed range. -/
def lineSealed (j : Job) (off : Nat) : Bool := j.sealedSet.any fun r => r.1 ≤ off && off + 256 ≤ r.1 + r.2

/-- The parcels of up to `n` instructions from `pc` on, whether they decode or not. -/
def bodyParcels (s : State) (h : Hart) (pc : Word) : Nat → List Nat
  | 0 => []
  | n + 1 =>
    match fetchAt s h pc with
    | .ok i => encode i ++ bodyParcels s h (pc + BitVec.ofNat 64 i.size) n
    | .error (.illegal ws) => ws ++ bodyParcels s h (pc + BitVec.ofNat 64 (4 * ws.length)) n
    | .error _ => []

/-- The body of RCP as fetched: instructions, PCs, and all parcels; or the failure. [DEDUCED, log 16] -/
def fetchBody (s : State) (h : Hart) (pc : Word) : Nat → Except (FetchFail × List Nat) (List (Instr × Word) × List Nat)
  | 0 => .ok ([], [])
  | n + 1 =>
    match fetchAt s h pc with
    | .error e => .error (e, match e with
        | .illegal _ => bodyParcels s h pc (n + 1)
        | .fault _ _ ws => ws
        | .waits _ => [])
    | .ok i =>
      match fetchBody s h (pc + BitVec.ofNat 64 i.size) n with
      | .error (e, ws) => .error (e, encode i ++ ws)
      | .ok (l, ws) => .ok ((i, pc) :: l, encode i ++ ws)

/-- The lowest free position of a slot's group. -/
def freePosition (j : Job) : Nat := ((List.range 16).find? fun k => (Tab.get? j.recipes k).isNone).getD 0

/-- R445, step 3: a row of the range becomes dropped under the new recipe, RAW with gain 0 until its first
materialisation. -/
def recipeRow (k : Nat) (s : State) (key i : Nat) : State :=
  setRow s key i ⟨rowTag rawTag true (getRow (getJob s key) i).fix false, 0, 0, k⟩

/-- R445, steps 1 to 3. -/
def makeRecipe (s : State) (h : Hart) (first count : Nat) (body : List (Instr × Word)) (sources : List Nat) :
    State :=
  let key := jobKey h
  let range := (List.range count).map (first + ·)
  let s := range.foldl (fun s i => unmarkRow s key i) s
  let j := getJob s key
  let k := freePosition j
  let st := getStream s h
  let ctl := (seenJob s h j).ctl
  let r : Recipe :=
    { first := first, count := count, body := body.map (·.1), pcs := body.map (·.2), scalars := st.regs,
      rnd := BitVec.ofNat 3 (bitsOf ctl 0 3), ftz := bitOf ctl 3, gains := j.gains,
      rowMasks := j.rowMasks, colMasks := j.colMasks, top := maskTop j, sources := sources }
  let s := range.foldl (fun s i => recipeRow k s key i) s
  modJob s key fun j => { j with recipes := Tab.set j.recipes k r }

/-- The conditions of R443 and R445 on a body for the rows `first` to `first` + `count` − 1. -/
def rcpLegal (s : State) (first count : Nat) (body : List Instr) : Bool :=
  let j := curJob s
  let range := (List.range count).map (first + ·)
  let b := scanBody range (curStream s).regs (givenTag j 2) body
  first + count ≤ 1024 && b.ok && range.all b.written.contains
    && (range.all fun r => !(getRow j r).fix)
    && (b.sources.all fun r => (getRow j r).fix || (getRow j r).mark && recipeDepth j (getRow j r).recipe == 1)
    && (depsOf j b.sources).length ≤ 4 && b.gains.length ≤ 8 && b.offs.all (lineSealed j)

/-- The rows that a body reads outside the rows `first` to `first` + `count` − 1. -/
def rcpSources (s : State) (first count : Nat) (body : List Instr) : NatSet :=
  (scanBody ((List.range count).map (first + ·)) (curStream s).regs (givenTag (curJob s) 2) body).sources

/-- The live recipes that keep a mark outside a range. -/
def keptRecipes (j : Job) (range : List Nat) : Tab Recipe :=
  j.recipes.filter fun e => j.rows.any fun r => r.2.mark && r.2.recipe == e.1 && !range.contains r.1

/-- [DEDUCED, log 16] -/
def execRcp (d : BitVec 2) (i : BitVec 13) (s : State) : Result :=
  issue (.rcp d i) [.c] none free (fun s =>
    let first := i.toNat % 1024
    let count := i.toNat / 1024 + 1
    let range := (List.range count).map (first + ·)
    let pc := (curStream s).pc
    let ill (ws : List Nat) : Stop :=
      .trapAs { cause := .illegal, pc := pc, words := (encode (.rcp d i) ++ ws).take 6, addr := 0, token := 0 }
    match fetchBody s s.cur (pc + 4) (d.toNat + 1) with
    | .error (.waits page, _) => .error (.wait (.host page))
    | .error (.fault c a _, ws) =>
      .error (.trapAs { cause := c, pc := pc, words := (encode (.rcp d i) ++ ws).take 6, addr := a, token := 0 })
    | .error (.illegal _, ws) => .error (ill ws)
    | .ok (body, ws) =>
      if !rcpLegal s first count (body.map (·.1)) then .error (ill ws)
      else if 16 ≤ (keptRecipes (curJob s) range).length then .error (recipeStop s.cur first 0 2 0 0)
      else
        match range.find? fun r => (sourceRecipe (curJob s) r).isSome with
        | some r => .error (recipeStop s.cur r ((sourceRecipe (curJob s) r).getD 0) 1 0 0)
        | none =>
          let s' := makeRecipe s s.cur first count body (rcpSources s first count (body.map (·.1)))
          let last := body.getLastD (.nop ⟨0, false⟩, pc)
          -- the stream continues after the body
          .ok (.done (continueAt (record s' (.rcp d i) false) (last.2 + BitVec.ofNat 64 last.1.size)))) s

/-! ### SEAL and UNSEAL (R451, R452) -/

/-- The checks of R451 on an offset and a length. [DEDUCED, log 50] -/
def sealChecks (s : State) (off len : Word) : Exec Unit := do
  check (off.toNat % 256 == 0 && len.toNat % 256 == 0 && len != 0) .align off
  check (((curAgent s).spad off.toNat len.toNat).isSome) .perm
    (off + BitVec.ofNat 64 (firstOutside (curAgent s) off.toNat))

/-- Whether an operation of the job in flight writes a range of job offsets. -/
def writesRange (s : State) (h : Hart) (jobid off len : Nat) : Bool :=
  (getCore s h.core).tokens.any fun e =>
    e.2.holder == some jobid && e.2.state.inFlight
      && partsMeet e.2.foot [.spad (off / 256) ((off + len - 1) / 256) false]

/-- [DEDUCED, log 50] -/
def execSeal (g : Guard) (a b : Reg) (s : State) : Result :=
  issue (.seal g a b) allStrms (some g) free (fun s => do
    let off := rd s a
    let len := rd s b
    sealChecks s off len
    let j := curJob s
    let x := (off.toNat, len.toNat)
    -- a set holds a range once
    check (j.sealedSet.contains x || j.sealedSet.length < 8) .perm off
    waitFor (!writesRange s s.cur j.ids.jobid off.toNat len.toNat) (.other none)
    .ok (.next (modCurJob (finishStores s fun h => h.core == s.cur.core && h.slot == s.cur.slot) fun j =>
      { j with sealedSet := if j.sealedSet.contains x then j.sealedSet else j.sealedSet ++ [x] }))) s

/-- Remove the first element equal to `x`. -/
def removeOne (x : Nat × Nat) : List (Nat × Nat) → List (Nat × Nat)
  | [] => []
  | y :: ys => if x = y then ys else y :: removeOne x ys

/-- The job offsets that a recipe's VLDs read. -/
def recipeLines (r : Recipe) : List Nat :=
  r.body.flatMap fun i =>
    match i with
    | .vld v => bodyLines v r.scalars
    | _ => []

/-- [DEDUCED, log 50] -/
def execUnseal (g : Guard) (a b : Reg) (s : State) : Result :=
  issue (.unseal g a b) allStrms (some g) free (fun s => do
    let off := rd s a
    let len := rd s b
    sealChecks s off len
    let j := curJob s
    let x := (off.toNat, len.toNat)
    if j.sealedSet.contains x then
      let after := { j with sealedSet := removeOne x j.sealedSet }
      let open' := (j.recipes.filter fun e => (recipeLines e.2).any fun o => !lineSealed after o).map (·.1)
      let ks := (readersOf j (markedRows j open')).foldl NatSet.add (open'.foldl NatSet.add [])
      let s ← keepReplays s (markedRows j ks) (settleRecipes s s.cur ks 0)
      .ok (.next (modCurJob s fun j => { j with sealedSet := removeOne x j.sealedSet }))
    else .ok (.next s)) s

end Sys2Proof.Machine
end

