-- ==== Sys2Proof/Machine/System.lean ====
section
/-! DEFINITION. The CSRs (R86–R89, R425), mapping and unmapping stash windows (R96, R99), TLBI and XLAT (R396,
R397). -/

namespace Sys2Proof.Machine

/-! ### Reading CSRs (R87, R89) -/

def statusReg (s : State) : Word :=
  let st := curStream s
  let j := curJob s
  BitVec.ofNat 64 (strmIdx s.cur.strm + s.cur.slot % 4 * 4 + b2n (bitOf j.prereq 0) * 16
    + b2n (isSealed s j.ids.part) * 32 + st.loops.length % 8 * 64
    + (if s.cur.strm = .c then j.maskStack.length % 32 * 512 else 0))

/-- A CSR as it stands. [DESIGN CHOICE, log 21] -/
def csrNow (s : State) (n : Nat) : Word :=
  let j := curJob s
  let st := curStream s
  let p := getPart s j.ids.part
  match n with
  | 0x000 => j.ctl
  | 0x001 => statusReg s
  | 0x002 => BitVec.ofNat 64 j.ids.jobid
  | 0x003 => j.rgnid
  | 0x004 => BitVec.ofNat 64 s.time
  | 0x005 => BitVec.ofNat 64 (cycleOf s s.cur.core)
  | 0x008 => j.prereq
  | 0x009 => p.prelim
  | 0x00A => j.ids.dommem
  | 0x00B => BitVec.ofNat 64 j.ids.part
  | 0x00C => p.drainlim
  | 0x010 => st.trap.cause
  | 0x011 => st.trap.pc
  | 0x018 => st.trap.addr
  | 0x019 => st.trap.token
  | 0x01A => st.trap.vec
  | 0x020 => BitVec.ofNat 64 j.ids.rowRes
  | 0x021 => BitVec.ofNat 64 j.ids.verQuota
  | 0x030 => j.waittmo
  | 0x031 => p.orphtmo
  | 0x040 => j.ids.stream
  | 0x041 => j.ids.rung
  | n =>
    if 0x012 ≤ n && n ≤ 0x017 then st.trap.words.getD (n - 0x012) 0
    else if 0x050 ≤ n && n ≤ 0x057 then
      (if n % 2 = 0 then j.stashBase else j.stashSize).getD ((n - 0x050) / 2) 0
    else 0

/-- CSRs shared by the job's streams that a stream may write. [DESIGN CHOICE, log 21] -/
def csrShared (n : Nat) : Bool := n == 0x000 || n == 0x030 || (0x050 ≤ n && n ≤ 0x057)

/-- A CSR as the executing stream reads it: before an ordering edge, what it has read of a job CSR early.
[DESIGN CHOICE, log 21] -/
def csrRead (s : State) (n : Nat) : Word := csrSeen s s.cur n (csrNow s n)

/-! ### Stash windows (R96, R99) -/

/-- A window's dirty granules are written back and its lines deregistered (R99). [DEDUCED, log 23] -/
def clearWindow (s : State) (core : Nat) (j : Job) (w : Nat) : State :=
  let s := (s.ms.stash.filter fun l => l.job == j.ids.jobid && l.win == w).foldl (fun s l => writeBackLine s core j l)
    (finishStores s fun h => h.core == core)
  modMs s fun m => { m with stash := m.stash.filter fun l => !(l.job == j.ids.jobid && l.win == w) }

/-- Whether two ranges share a byte. -/
def rangesMeet (a n b m : Nat) : Bool := a < b + m && b < a + n

/-- Whether a window may be mapped with this size word (R96). [DEDUCED, log 23] -/
def mapOk (core : Nat) (j : Job) (w : Nat) (v : Word) : Bool :=
  let size := bitsOf v 0 20
  let off := bitsOf v 32 12 * 256
  let va := stashVbase j w
  (grantAddr core j.grant off size).isSome
  && ((List.range 4).all fun x => x == w || stashSizeOf j x == 0
      || (!rangesMeet off size (stashLineOf j x * 256) (stashSizeOf j x)
          && !rangesMeet va size (stashVbase j x) (stashSizeOf j x)))
  && va + size ≤ 0x800000000000

/-- Reserved bits and values of a size word. -/
def stashSizeOk (v : Word) : Bool :=
  bitsOf v 0 12 == 0 && bitsOf v 0 20 ≤ 0x80000 && bitsOf v 20 12 == 0 && bitsOf v 32 4 == 0 && bitsOf v 44 20 == 0

/-- A write of STASHn size: the old mapping ends, and a new one begins where SIZE is not 0.
[DEDUCED, log 23] -/
def writeStashSize (s : State) (w : Nat) (v : Word) : State :=
  modCurJob (clearWindow s s.cur.core (curJob s) w) fun j => { j with stashSize := j.stashSize.setIfInBounds w v }

/-- A non-zero size maps a window; a mapping that R96 refuses changes nothing. [DEDUCED, log 23] -/
def execStashMap (n : BitVec 2) (v : Word) (s : State) : Result :=
  .next (if stashSizeOk v && bitsOf v 0 20 != 0 && mapOk s.cur.core (curJob s) n.toNat v then
    writeStashSize s n.toNat v else s)

/-- SIZE = 0 unmaps a window. [DEDUCED, log 23] -/
def execStashUnmap (n : BitVec 2) (v : Word) (s : State) : Result :=
  .next (if stashSizeOk v && bitsOf v 0 20 == 0 then writeStashSize s n.toNat v else s)

/-! ### Writing CSRs (R86–R88, R96, R425) -/

/-- CSRs that jobs may write. [DEDUCED, log 20] -/
def csrWritable (n : Nat) : Bool :=
  n == 0x000 || (0x010 ≤ n && n ≤ 0x01A) || n == 0x030 || (0x050 ≤ n && n ≤ 0x057)

/-- [DEDUCED, log 20] -/
def setTrap (s : State) (f : TrapRegs → TrapRegs) : State := modCurStream s fun st => { st with trap := f st.trap }

/-- Write a CSR that jobs may write. [DEDUCED, log 20] -/
def csrStore (s : State) (n : Nat) (v : Word) : Exec State :=
  if n = 0x000 then do
    check (bitsOf v 5 59 == 0 && bitsOf v 0 3 ≤ 4) .illegal
    check (bitOf v 4 == detMode (curJob s)) .priv
    .ok (modCurJob s fun j => { j with ctl := v })
  else if n = 0x010 then do
    check (bitsOf v 11 53 == 0) .illegal
    .ok (setTrap s fun t => { t with cause := setBits v 9 1 (bitsOf t.cause 9 1) })
  else if n = 0x011 then do
    check (bitsOf v 0 2 == 0) .illegal
    .ok (setTrap s fun t => { t with pc := v })
  else if n = 0x018 then .ok (setTrap s fun t => { t with addr := v })
  else if n = 0x019 then .ok (setTrap s fun t => { t with token := v })
  else if n = 0x01A then do
    check (bitsOf v 0 2 == 0) .illegal
    .ok (setTrap s fun t => { t with vec := v })
  else if n = 0x030 then .ok (modCurJob s fun j => { j with waittmo := v })
  else if 0x012 ≤ n && n ≤ 0x017 then
    .ok (setTrap s fun t => { t with words := t.words.setIfInBounds (n - 0x012) v })
  else
    let w := (n - 0x050) / 2
    if n % 2 = 0 then do
      check (bitsOf v 0 12 == 0 && bitsOf v 48 16 == 0) .illegal
      check (stashSizeOf (curJob s) w == 0) .perm
      .ok (modCurJob s fun j => { j with stashBase := j.stashBase.setIfInBounds w v })
    else do
      check (stashSizeOk v) .illegal
      check (bitsOf v 0 20 == 0 || mapOk s.cur.core (curJob s) w v) .perm
      .ok (writeStashSize s w v)

/-- Write a CSR; what the stream has read of it early is used up. [DEDUCED, log 20, 21] -/
def csrWrite (s : State) (n : Nat) (v : Word) : Exec State := do
  let s ← csrStore s n v
  .ok (dropEarly s s.cur (· == .csr n))

/-- Read a CSR, as it stands, into S(d) and write `f` of it, as one access (R86).
[DESIGN CHOICE, log 21] -/
def csrUpdate (s : State) (d : Reg) (n : Nat) (f : Word → Word) : Exec Effect := do
  let old := csrNow s n
  let s ← csrWrite s n (f old)
  .ok (.next (wr s d old))

def execCsrr (d : Reg) (c : BitVec 12) (s : State) : Result :=
  simple (.csrr d c) none (fun s => wr s d (csrRead s c.toNat)) s

def execCsrw (c : BitVec 12) (a : Reg) (s : State) : Result :=
  issue (.csrw c a) allStrms none (fun _ => !csrWritable c.toNat)
    (fun s => csrUpdate s 0 c.toNat fun _ => rd s a) s

/-- CSRS and CSRC: with a = s0 they are reads. -/
def csrBits (i : Instr) (d a : Reg) (c : BitVec 12) (f : Word → Word → Word) (s : State) : Result :=
  issue i allStrms none (fun _ => a != 0 && !csrWritable c.toNat)
    (fun s => if a = 0 then .ok (.next (wr s d (csrRead s c.toNat)))
      else csrUpdate s d c.toNat fun old => f old (rd s a)) s

def execCsrs (d a : Reg) (c : BitVec 12) (s : State) : Result := csrBits (.csrs d a c) d a c (fun x y => x ||| y) s
def execCsrc (d a : Reg) (c : BitVec 12) (s : State) : Result := csrBits (.csrc d a c) d a c (fun x y => x &&& ~~~y) s

/-! ### TLBI (R396) -/

/-- The partition lacks the translation permission. -/
def lacksTranslation (s : State) : Bool := !bitOf (getPart s (curPart s)).perms 1

/-- Whether an operation has translated addresses of global memory: to hold entries (R213), or to read or write a
part of its footprint (R117). [DESIGN CHOICE, log 28] -/
def TokenEntry.translated (e : TokenEntry) : Bool :=
  !(e.held.getD []).isEmpty
    || (e.early.map (·.1) ++ e.performed.map (·.1)).any fun a => !inSpadWindow (BitVec.ofNat 64 a)

/-- A running operation of the partition that has translated addresses and has not completed (R396).
[DESIGN CHOICE, log 28] -/
def heldTranslations (s : State) (p : Nat) (covers : Nat → Bool) : Bool :=
  s.cores.any fun c => c.2.tokens.any fun t =>
    t.2.state == .running && t.2.ids.part == p && covers t.2.ids.pasid && t.2.translated

/-- The accesses of a partition that have been translated are performed (R396): the stores in the write-combining
buffers of every core, and for every agent that reads through the LLC the late writes.
[DESIGN CHOICE, log 28] -/
def performTranslated (s : State) (p : Nat) : State :=
  if s.ms.wc.isEmpty && s.ms.late.isEmpty then s
  else
    let own := fun (w : WcStore) => partOfJob s w.job == p
    let t := (s.ms.wc.filter own).foldl performWc (modMs s fun m => { m with wc := m.wc.filter fun w => !own w })
    publish t 5 fun e => e.part == p

/-- Whether a cached stage-1 translation is of the page that holds an address, whole or a piece of it (R396). -/
def TlbEntry.holds (e : TlbEntry) (a : Word) : Bool := e.page / e.leaf.pages == a.toNat / 4096 / e.leaf.pages

/-- The release-side FENCE at device scope, then the wait for covered accesses, then the invalidation. -/
def tlbi (i : Instr) (g : Guard) (covers : State → Nat → Bool) (f : State → MemSys → MemSys) (s : State) : Result :=
  issue i allStrms (some g) lacksTranslation (fun s =>
    if heldTranslations s (curPart s) (covers s) then .ok (.stay (releaseSide s 5) (.other none))
    else .ok (.next (modMs (performTranslated (fenceRelease s 5) (curPart s)) (f s)))) s

def execTlbiAll (g : Guard) (s : State) : Result :=
  tlbi (.tlbiAll g) g (fun _ _ => true) (fun s m =>
    { m with
      tlb := m.tlb.filter fun e => e.part != curPart s
      ats := m.ats.filter fun e => Tab.get? s.ownOwner (312 + namedPort e.page) != some (curPart s) }) s

def execTlbiPasid (g : Guard) (b : Reg) (s : State) : Result :=
  tlbi (.tlbiPasid g b) g (fun s x => x == (rd s b).toNat % 2 ^ 20) (fun s m =>
    { m with tlb := m.tlb.filter fun e =>
        !(e.part == curPart s && !e.stage2 && e.pasid == (rd s b).toNat % 2 ^ 20) }) s

def execTlbiVa (g : Guard) (a b : Reg) (s : State) : Result :=
  tlbi (.tlbiVa g a b) g (fun s x => x == (rd s b).toNat % 2 ^ 20) (fun s m =>
    { m with tlb := m.tlb.filter fun e =>
        !(e.part == curPart s && !e.stage2 && e.pasid == (rd s b).toNat % 2 ^ 20
          && (rd s a).toNat < 0x800000000000 && e.holds (rd s a)) }) s

/-! ### XLAT (R397) -/

/-- The result word of XLAT; its CAUSE is one of R397's two. [DEDUCED, log 29, 128] -/
def xlatWord (r : Except XlFault Xl) : Word :=
  match r with
  | .ok x => BitVec.ofNat 64 (x.typ.toNat * 2 + b2n x.cmp * 8 + x.ipa / 4096 % 2 ^ 36 * 4096)
  | .error e => BitVec.ofNat 64 (1 + (if e.cause = .perm then Cause.perm else .xlate).code * 16 + b2n e.stage2 * 2 ^ 12 + e.level % 4 * 2 ^ 13)

def xlat (i : Instr) (g : Guard) (d a : Reg) (k : AccKind) (s : State) : Result :=
  simple i (some g) (fun s => wr s d (xlatWord (translate s (curPart s) (curJob s).ids.pasid (rd s a) k s.cur.core))) s

def execXlatRd (g : Guard) (d a : Reg) (s : State) : Result := xlat (.xlatRd g d a) g d a .read s
def execXlatWr (g : Guard) (d a : Reg) (s : State) : Result := xlat (.xlatWr g d a) g d a .write s
def execXlatEx (g : Guard) (d a : Reg) (s : State) : Result := xlat (.xlatEx g d a) g d a .fetch s

end Sys2Proof.Machine
end

