-- ==== Sys2Proof/Machine/Dispatch.lean ====
section
/-! DEFINITION. The dispatch: one arm per constructor of `Instr`, each a direct call of its meaning. -/

namespace Sys2Proof.Machine

def exec (i : Instr) (s : State) : Host.Outcome State Fault Refusal :=
  match i with
  | .nop g => Sys2Proof.Machine.execNop g s
  | .add g d a b => Sys2Proof.Machine.execAdd g d a b s
  | .sub g d a b => Sys2Proof.Machine.execSub g d a b s
  | .and g d a b => Sys2Proof.Machine.execAnd g d a b s
  | .or g d a b => Sys2Proof.Machine.execOr g d a b s
  | .xor g d a b => Sys2Proof.Machine.execXor g d a b s
  | .shl g d a b => Sys2Proof.Machine.execShl g d a b s
  | .shr g d a b => Sys2Proof.Machine.execShr g d a b s
  | .sra g d a b => Sys2Proof.Machine.execSra g d a b s
  | .mul g d a b => Sys2Proof.Machine.execMul g d a b s
  | .mulh g d a b => Sys2Proof.Machine.execMulh g d a b s
  | .mulhu g d a b => Sys2Proof.Machine.execMulhu g d a b s
  | .div g d a b => Sys2Proof.Machine.execDiv g d a b s
  | .divu g d a b => Sys2Proof.Machine.execDivu g d a b s
  | .rem g d a b => Sys2Proof.Machine.execRem g d a b s
  | .remu g d a b => Sys2Proof.Machine.execRemu g d a b s
  | .min g d a b => Sys2Proof.Machine.execMin g d a b s
  | .minu g d a b => Sys2Proof.Machine.execMinu g d a b s
  | .max g d a b => Sys2Proof.Machine.execMax g d a b s
  | .maxu g d a b => Sys2Proof.Machine.execMaxu g d a b s
  | .clz g d a => Sys2Proof.Machine.execClz g d a s
  | .ctz g d a => Sys2Proof.Machine.execCtz g d a s
  | .popc g d a => Sys2Proof.Machine.execPopc g d a s
  | .brev g d a => Sys2Proof.Machine.execBrev g d a s
  | .sel g d a b => Sys2Proof.Machine.execSel g d a b s
  | .psetEq g d a b => Sys2Proof.Machine.execPsetEq g d a b s
  | .psetNe g d a b => Sys2Proof.Machine.execPsetNe g d a b s
  | .psetLt g d a b => Sys2Proof.Machine.execPsetLt g d a b s
  | .psetLtu g d a b => Sys2Proof.Machine.execPsetLtu g d a b s
  | .psetGe g d a b => Sys2Proof.Machine.execPsetGe g d a b s
  | .psetGeu g d a b => Sys2Proof.Machine.execPsetGeu g d a b s
  | .plogAnd g d a b => Sys2Proof.Machine.execPlogAnd g d a b s
  | .plogOr g d a b => Sys2Proof.Machine.execPlogOr g d a b s
  | .plogXor g d a b => Sys2Proof.Machine.execPlogXor g d a b s
  | .plogAndn g d a b => Sys2Proof.Machine.execPlogAndn g d a b s
  | .pmov g d a => Sys2Proof.Machine.execPmov g d a s
  | .pmovGet g d => Sys2Proof.Machine.execPmovGet g d s
  | .pmovPut g a => Sys2Proof.Machine.execPmovPut g a s
  | .ksetRow g d a => Sys2Proof.Machine.execKsetRow g d a s
  | .ksetCol g d a => Sys2Proof.Machine.execKsetCol g d a s
  | .ksetBoth g d a b => Sys2Proof.Machine.execKsetBoth g d a b s
  | .kgetRow g d a => Sys2Proof.Machine.execKgetRow g d a s
  | .kgetCol g d a => Sys2Proof.Machine.execKgetCol g d a s
  | .addi d a imm => Sys2Proof.Machine.execAddi d a imm s
  | .andi d a imm => Sys2Proof.Machine.execAndi d a imm s
  | .ori d a imm => Sys2Proof.Machine.execOri d a imm s
  | .xori d a imm => Sys2Proof.Machine.execXori d a imm s
  | .shli d a imm => Sys2Proof.Machine.execShli d a imm s
  | .shri d a imm => Sys2Proof.Machine.execShri d a imm s
  | .srai d a imm => Sys2Proof.Machine.execSrai d a imm s
  | .ldhi d imm => Sys2Proof.Machine.execLdhi d imm s
  | .addpc d imm => Sys2Proof.Machine.execAddpc d imm s
  | .ldb d a imm => Sys2Proof.Machine.execLdb d a imm s
  | .ldbu d a imm => Sys2Proof.Machine.execLdbu d a imm s
  | .ldh d a imm => Sys2Proof.Machine.execLdh d a imm s
  | .ldhu d a imm => Sys2Proof.Machine.execLdhu d a imm s
  | .ldw d a imm => Sys2Proof.Machine.execLdw d a imm s
  | .ldwu d a imm => Sys2Proof.Machine.execLdwu d a imm s
  | .ldd d a imm => Sys2Proof.Machine.execLdd d a imm s
  | .stb d a imm => Sys2Proof.Machine.execStb d a imm s
  | .sth d a imm => Sys2Proof.Machine.execSth d a imm s
  | .stw d a imm => Sys2Proof.Machine.execStw d a imm s
  | .std d a imm => Sys2Proof.Machine.execStd d a imm s
  | .ldpiB g d a b => Sys2Proof.Machine.execLdpiB g d a b s
  | .ldpiBu g d a b => Sys2Proof.Machine.execLdpiBu g d a b s
  | .ldpiH g d a b => Sys2Proof.Machine.execLdpiH g d a b s
  | .ldpiHu g d a b => Sys2Proof.Machine.execLdpiHu g d a b s
  | .ldpiW g d a b => Sys2Proof.Machine.execLdpiW g d a b s
  | .ldpiWu g d a b => Sys2Proof.Machine.execLdpiWu g d a b s
  | .ldpiD g d a b => Sys2Proof.Machine.execLdpiD g d a b s
  | .stpiB g d a b => Sys2Proof.Machine.execStpiB g d a b s
  | .stpiH g d a b => Sys2Proof.Machine.execStpiH g d a b s
  | .stpiW g d a b => Sys2Proof.Machine.execStpiW g d a b s
  | .stpiD g d a b => Sys2Proof.Machine.execStpiD g d a b s
  | .amoAdd q d a b => Sys2Proof.Machine.execAmoAdd q d a b s
  | .amoMin q d a b => Sys2Proof.Machine.execAmoMin q d a b s
  | .amoMax q d a b => Sys2Proof.Machine.execAmoMax q d a b s
  | .amoMinu q d a b => Sys2Proof.Machine.execAmoMinu q d a b s
  | .amoMaxu q d a b => Sys2Proof.Machine.execAmoMaxu q d a b s
  | .amoAnd q d a b => Sys2Proof.Machine.execAmoAnd q d a b s
  | .amoOr q d a b => Sys2Proof.Machine.execAmoOr q d a b s
  | .amoSwap q d a b => Sys2Proof.Machine.execAmoSwap q d a b s
  | .cas q d a b => Sys2Proof.Machine.execCas q d a b s
  | .amoq q d a b => Sys2Proof.Machine.execAmoq q d a b s
  | .acq sc a => Sys2Proof.Machine.execAcq sc a s
  | .rel sc a => Sys2Proof.Machine.execRel sc a s
  | .fenceFull sc => Sys2Proof.Machine.execFenceFull sc s
  | .fenceAcqside sc => Sys2Proof.Machine.execFenceAcqside sc s
  | .fenceRelside sc => Sys2Proof.Machine.execFenceRelside sc s
  | .waitaNe q d a b => Sys2Proof.Machine.execWaitaNe q d a b s
  | .waitaEq q d a b => Sys2Proof.Machine.execWaitaEq q d a b s
  | .waitaGeu q d a b => Sys2Proof.Machine.execWaitaGeu q d a b s
  | .bind d a b => Sys2Proof.Machine.execBind d a b s
  | .unbind d a b => Sys2Proof.Machine.execUnbind d a b s
  | .swset sc a b => Sys2Proof.Machine.execSwset sc a b s
  | .swwait q d a b => Sys2Proof.Machine.execSwwait q d a b s
  | .barArrive sc d a => Sys2Proof.Machine.execBarArrive sc d a s
  | .barWait sc d a b => Sys2Proof.Machine.execBarWait sc d a b s
  | .barArrivewait sc d a => Sys2Proof.Machine.execBarArrivewait sc d a s
  | .br g ht o => Sys2Proof.Machine.execBr g ht o s
  | .jmp imm => Sys2Proof.Machine.execJmp imm s
  | .jal d imm => Sys2Proof.Machine.execJal d imm s
  | .jalr d a imm => Sys2Proof.Machine.execJalr d a imm s
  | .brq q pn ht o => Sys2Proof.Machine.execBrq q pn ht o s
  | .pushb g a => Sys2Proof.Machine.execPushb g a s
  | .rdv => Sys2Proof.Machine.execRdv s
  | .end_ => Sys2Proof.Machine.execEnd s
  | .yield_ g => Sys2Proof.Machine.execYield g s
  | .rgn imm => Sys2Proof.Machine.execRgn imm s
  | .trapi imm => Sys2Proof.Machine.execTrapi imm s
  | .tret => Sys2Proof.Machine.execTret s
  | .brk imm => Sys2Proof.Machine.execBrk imm s
  | .snap imm => Sys2Proof.Machine.execSnap imm s
  | .trcm a imm => Sys2Proof.Machine.execTrcm a imm s
  | .mpush g a => Sys2Proof.Machine.execMpush g a s
  | .mpushPair g a => Sys2Proof.Machine.execMpushPair g a s
  | .minv g => Sys2Proof.Machine.execMinv g s
  | .mpop g => Sys2Proof.Machine.execMpop g s
  | .bmz ht o => Sys2Proof.Machine.execBmz ht o s
  | .sqpush g f a => Sys2Proof.Machine.execSqpush g f a s
  | .sqpop g f d => Sys2Proof.Machine.execSqpop g f d s
  | .rdq g f d a b => Sys2Proof.Machine.execRdq g f d a b s
  | .wrq g f d a => Sys2Proof.Machine.execWrq g f d a s
  | .twait g a => Sys2Proof.Machine.execTwait g a s
  | .ttest g d a => Sys2Proof.Machine.execTtest g d a s
  | .cncl g a => Sys2Proof.Machine.execCncl g a s
  | .dtch g a b => Sys2Proof.Machine.execDtch g a b s
  | .adopt g d a => Sys2Proof.Machine.execAdopt g d a s
  | .tstat g d a => Sys2Proof.Machine.execTstat g d a s
  | .tpri g a b => Sys2Proof.Machine.execTpri g a b s
  | .tfree g a => Sys2Proof.Machine.execTfree g a s
  | .fix imm => Sys2Proof.Machine.execFix imm s
  | .unfix imm => Sys2Proof.Machine.execUnfix imm s
  | .drop imm => Sys2Proof.Machine.execDrop imm s
  | .rcpclr imm => Sys2Proof.Machine.execRcpclr imm s
  | .seal g a b => Sys2Proof.Machine.execSeal g a b s
  | .unseal g a b => Sys2Proof.Machine.execUnseal g a b s
  | .rcp d imm => Sys2Proof.Machine.execRcp d imm s
  | .arm g a => Sys2Proof.Machine.execArm g a s
  | .lputDeadline g a b => Sys2Proof.Machine.execLputDeadline g a b s
  | .lputArgs g a b => Sys2Proof.Machine.execLputArgs g a b s
  | .lputCount g a b => Sys2Proof.Machine.execLputCount g a b s
  | .lputPatch g f a b => Sys2Proof.Machine.execLputPatch g f a b s
  | .lsuc g => Sys2Proof.Machine.execLsuc g s
  | .lprw g => Sys2Proof.Machine.execLprw g s
  | .rung g d a => Sys2Proof.Machine.execRung g d a s
  | .rungReq g d a b => Sys2Proof.Machine.execRungReq g d a b s
  | .migr g d a b => Sys2Proof.Machine.execMigr g d a b s
  | .csrr d c => Sys2Proof.Machine.execCsrr d c s
  | .csrw c a => Sys2Proof.Machine.execCsrw c a s
  | .csrs d a c => Sys2Proof.Machine.execCsrs d a c s
  | .csrc d a c => Sys2Proof.Machine.execCsrc d a c s
  | .tlbiAll g => Sys2Proof.Machine.execTlbiAll g s
  | .tlbiPasid g b => Sys2Proof.Machine.execTlbiPasid g b s
  | .tlbiVa g a b => Sys2Proof.Machine.execTlbiVa g a b s
  | .xlatRd g d a => Sys2Proof.Machine.execXlatRd g d a s
  | .xlatWr g d a => Sys2Proof.Machine.execXlatWr g d a s
  | .xlatEx g d a => Sys2Proof.Machine.execXlatEx g d a s
  | .pctl g d a b => Sys2Proof.Machine.execPctl g d a b s
  | .kvslot g d a b => Sys2Proof.Machine.execKvslot g d a b s
  | .vadd v => Sys2Proof.Machine.execVadd v s
  | .vsub v => Sys2Proof.Machine.execVsub v s
  | .vmul v => Sys2Proof.Machine.execVmul v s
  | .vfma v => Sys2Proof.Machine.execVfma v s
  | .vfms v => Sys2Proof.Machine.execVfms v s
  | .vmin v => Sys2Proof.Machine.execVmin v s
  | .vmax v => Sys2Proof.Machine.execVmax v s
  | .vabs v => Sys2Proof.Machine.execVabs v s
  | .vand v => Sys2Proof.Machine.execVand v s
  | .vor v => Sys2Proof.Machine.execVor v s
  | .vxor v => Sys2Proof.Machine.execVxor v s
  | .vshl v => Sys2Proof.Machine.execVshl v s
  | .vshr v => Sys2Proof.Machine.execVshr v s
  | .vsra v => Sys2Proof.Machine.execVsra v s
  | .vcmp v => Sys2Proof.Machine.execVcmp v s
  | .vcmpPush v => Sys2Proof.Machine.execVcmpPush v s
  | .vsel v => Sys2Proof.Machine.execVsel v s
  | .vclamp v => Sys2Proof.Machine.execVclamp v s
  | .vlerp v => Sys2Proof.Machine.execVlerp v s
  | .vcvt v => Sys2Proof.Machine.execVcvt v s
  | .vpack v => Sys2Proof.Machine.execVpack v s
  | .vunpk v => Sys2Proof.Machine.execVunpk v s
  | .vtag v => Sys2Proof.Machine.execVtag v s
  | .vgain v => Sys2Proof.Machine.execVgain v s
  | .vrnd v => Sys2Proof.Machine.execVrnd v s
  | .vexp2 v => Sys2Proof.Machine.execVexp2 v s
  | .vrcp v => Sys2Proof.Machine.execVrcp v s
  | .vrsq v => Sys2Proof.Machine.execVrsq v s
  | .vsqrt v => Sys2Proof.Machine.execVsqrt v s
  | .vdiv v => Sys2Proof.Machine.execVdiv v s
  | .vmov v => Sys2Proof.Machine.execVmov v s
  | .vext v => Sys2Proof.Machine.execVext v s
  | .vins v => Sys2Proof.Machine.execVins v s
  | .vperm v => Sys2Proof.Machine.execVperm v s
  | .vrot v => Sys2Proof.Machine.execVrot v s
  | .viota v => Sys2Proof.Machine.execViota v s
  | .vrsum v => Sys2Proof.Machine.execVrsum v s
  | .vrmax v => Sys2Proof.Machine.execVrmax v s
  | .vrmin v => Sys2Proof.Machine.execVrmin v s
  | .vamax v => Sys2Proof.Machine.execVamax v s
  | .vamin v => Sys2Proof.Machine.execVamin v s
  | .vscan v => Sys2Proof.Machine.execVscan v s
  | .vpopc v => Sys2Proof.Machine.execVpopc v s
  | .vpfx v => Sys2Proof.Machine.execVpfx v s
  | .vld v => Sys2Proof.Machine.execVld v s
  | .vst v => Sys2Proof.Machine.execVst v s
  | .mma m => Sys2Proof.Machine.execMma m s
  | .mmi m => Sys2Proof.Machine.execMmi m s
  | .attn m => Sys2Proof.Machine.execAttn m s
  | .accz m => Sys2Proof.Machine.execAccz m s
  | .accrd m => Sys2Proof.Machine.execAccrd m s
  | .accwr m => Sys2Proof.Machine.execAccwr m s
  | .drnq m => Sys2Proof.Machine.execDrnq m s
  | .mtrn m => Sys2Proof.Machine.execMtrn m s
  | .qnt m => Sys2Proof.Machine.execQnt m s
  | .dqnt m => Sys2Proof.Machine.execDqnt m s
  | .rqnt m => Sys2Proof.Machine.execRqnt m s
  | .cpy e => Sys2Proof.Machine.execCpy e s
  | .gath e => Sys2Proof.Machine.execGath e s
  | .scat e => Sys2Proof.Machine.execScat e s
  | .put e => Sys2Proof.Machine.execPut e s
  | .dcmp e => Sys2Proof.Machine.execDcmp e s
  | .pfch e => Sys2Proof.Machine.execPfch e s
  | .kvapp e => Sys2Proof.Machine.execKvapp e s
  | .kvget e => Sys2Proof.Machine.execKvget e s
  | .kvevt e => Sys2Proof.Machine.execKvevt e s
  | .dirlk e => Sys2Proof.Machine.execDirlk e s
  | .dirpub e => Sys2Proof.Machine.execDirpub e s
  | .kvfet e => Sys2Proof.Machine.execKvfet e s
  | .cred e => Sys2Proof.Machine.execCred e s
  | .cbc e => Sys2Proof.Machine.execCbc e s
  | .cgth e => Sys2Proof.Machine.execCgth e s
  | .crsc e => Sys2Proof.Machine.execCrsc e s
  | .enqf e => Sys2Proof.Machine.execEnqf e s
  | .fradvPub e => Sys2Proof.Machine.execFradvPub e s
  | .fradvPin e => Sys2Proof.Machine.execFradvPin e s
  | .fradvUnpin e => Sys2Proof.Machine.execFradvUnpin e s
  | .loop o => Sys2Proof.Machine.execLoop o s
  | .waittmoExpiry h => Sys2Proof.Machine.execWaittmoExpiry h s
  | .deadlockDetect core slot => Sys2Proof.Machine.execDeadlockDetect core slot s
  | .engineSelect core eng => Sys2Proof.Machine.execEngineSelect core eng s
  | .childOpDone core tok => Sys2Proof.Machine.execChildOpDone core tok s
  | .childOpFault core tok => Sys2Proof.Machine.execChildOpFault core tok s
  | .collectiveInstance part lvl dom cid ordinal => Sys2Proof.Machine.execCollectiveInstance part lvl dom cid ordinal s
  | .tokenRelease core tok => Sys2Proof.Machine.execTokenRelease core tok s
  | .orphanReap core tok => Sys2Proof.Machine.execOrphanReap core tok s
  | .launchAllot part => Sys2Proof.Machine.execLaunchAllot part s
  | .jobDeal core => Sys2Proof.Machine.execJobDeal core s
  | .launchWindowArm index => Sys2Proof.Machine.execLaunchWindowArm index s
  | .periodBoundary stream => Sys2Proof.Machine.execPeriodBoundary stream s
  | .rungRequestApply part => Sys2Proof.Machine.execRungRequestApply part s
  | .migrationApply part => Sys2Proof.Machine.execMigrationApply part s
  | .balancerTick => Sys2Proof.Machine.execBalancerTick s
  | .clusterGate cluster => Sys2Proof.Machine.execClusterGate cluster s
  | .clusterWakeDone cluster => Sys2Proof.Machine.execClusterWakeDone cluster s
  | .preemptRequest part => Sys2Proof.Machine.execPreemptRequest part s
  | .forcedSave core slot => Sys2Proof.Machine.execForcedSave core slot s
  | .drainlimExpiry core slot => Sys2Proof.Machine.execDrainlimExpiry core slot s
  | .flipDone core slot => Sys2Proof.Machine.execFlipDone core slot s
  | .contextSpill core => Sys2Proof.Machine.execContextSpill core s
  | .jobResume core => Sys2Proof.Machine.execJobResume core s
  | .restoreDone core slot => Sys2Proof.Machine.execRestoreDone core slot s
  | .protectionExpiry core slot => Sys2Proof.Machine.execProtectionExpiry core slot s
  | .stashMap n v => Sys2Proof.Machine.execStashMap n v s
  | .stashUnmap n v => Sys2Proof.Machine.execStashUnmap n v s
  | .pinfo o => Sys2Proof.Machine.execPinfo o s
  | .llcrngWord0 o => Sys2Proof.Machine.execLlcrngWord0 o s
  | .llcrngWord1 o => Sys2Proof.Machine.execLlcrngWord1 o s
  | .share o => Sys2Proof.Machine.execShare o s
  | .lpasid o => Sys2Proof.Machine.execLpasid o s
  | .sched o => Sys2Proof.Machine.execSched o s
  | .evlog o => Sys2Proof.Machine.execEvlog o s
  | .ctxarea o => Sys2Proof.Machine.execCtxarea o s
  | .ctltmpl o => Sys2Proof.Machine.execCtltmpl o s
  | .preq o => Sys2Proof.Machine.execPreq o s
  | .netmap o => Sys2Proof.Machine.execNetmap o s
  | .perms o => Sys2Proof.Machine.execPerms o s
  | .s2root o => Sys2Proof.Machine.execS2root o s
  | .pasidtbl o => Sys2Proof.Machine.execPasidtbl o s
  | .unit o => Sys2Proof.Machine.execUnit o s
  | .cluster o => Sys2Proof.Machine.execCluster o s
  | .own o => Sys2Proof.Machine.execOwn o s
  | .pcreate o => Sys2Proof.Machine.execPcreate o s
  | .pdestroy o => Sys2Proof.Machine.execPdestroy o s
  | .sealPartition o => Sys2Proof.Machine.execSealPartition o s
  | .measure o => Sys2Proof.Machine.execMeasure o s
  | .extend o => Sys2Proof.Machine.execExtend o s
  | .quote o => Sys2Proof.Machine.execQuote o s
  | .idpub o => Sys2Proof.Machine.execIdpub o s
  | .chips o => Sys2Proof.Machine.execChips o s
  | .pcount o => Sys2Proof.Machine.execPcount o s
  | .strdesc o => Sys2Proof.Machine.execStrdesc o s
  | .streamEnable o => Sys2Proof.Machine.execStreamEnable o s
  | .fabjoin o => Sys2Proof.Machine.execFabjoin o s
  | .dirpool o => Sys2Proof.Machine.execDirpool o s
  | .errcnt o => Sys2Proof.Machine.execErrcnt o s
  | .dbgBuffer o => Sys2Proof.Machine.execDbgBuffer o s
  | .dbgStop o => Sys2Proof.Machine.execDbgStop o s
  | .stopComplete part => Sys2Proof.Machine.execStopComplete part s
  | .dbgResume o => Sys2Proof.Machine.execDbgResume o s
  | .dbgStep o => Sys2Proof.Machine.execDbgStep o s
  | .breakpointSet o => Sys2Proof.Machine.execBreakpointSet o s
  | .breakpointRecord o => Sys2Proof.Machine.execBreakpointRecord o s
  | .trcfg o => Sys2Proof.Machine.execTrcfg o s
  | .stall o => Sys2Proof.Machine.execStall o s
  | .mon o => Sys2Proof.Machine.execMon o s
  | .snapcfg o => Sys2Proof.Machine.execSnapcfg o s
  | .chalk o => Sys2Proof.Machine.execChalk o s
  | .replay o => Sys2Proof.Machine.execReplay o s
  | .replayEvent part => Sys2Proof.Machine.execReplayEvent part s
  | .plat o => Sys2Proof.Machine.execPlat o s
  | .fwstage o => Sys2Proof.Machine.execFwstage o s
  | .registerWrite w => Sys2Proof.Machine.execRegisterWrite w s
  | .queueEnable fn iface q v => Sys2Proof.Machine.execQueueEnable fn iface q v s
  | .queueRevoke fn iface q => Sys2Proof.Machine.execQueueRevoke fn iface q s
  | .doorbell fn iface q value pasid => Sys2Proof.Machine.execDoorbell fn iface q value pasid s
  | .packetArm fn iface q => Sys2Proof.Machine.execPacketArm fn iface q s
  | .packetNop fn iface q => Sys2Proof.Machine.execPacketNop fn iface q s
  | .remapUnmask fn entry => Sys2Proof.Machine.execRemapUnmask fn entry s
  | .hostMemoryAccess fn offset cxl write len poisoned => Sys2Proof.Machine.execHostMemoryAccess fn offset cxl write len poisoned s
  | .atsInvalidate part page => Sys2Proof.Machine.execAtsInvalidate part page s
  | .priResponse page granted => Sys2Proof.Machine.execPriResponse page granted s
  | .encoderEnable e v => Sys2Proof.Machine.execEncoderEnable e v s
  | .encodeFrame e => Sys2Proof.Machine.execEncodeFrame e s
  | .rheadWrite e v => Sys2Proof.Machine.execRheadWrite e v s
  | .decodeRecord d => Sys2Proof.Machine.execDecodeRecord d s
  | .peerReleaseFlag src seq body => Sys2Proof.Machine.execPeerReleaseFlag src seq body s
  | .flagResend id => Sys2Proof.Machine.execFlagResend id s
  | .dirPubRequest src tag entry page => Sys2Proof.Machine.execDirPubRequest src tag entry page s
  | .dirLookupRequest src tag id => Sys2Proof.Machine.execDirLookupRequest src tag id s
  | .dirFetchRequest src tag id => Sys2Proof.Machine.execDirFetchRequest src tag id s
  | .dirAttendRequest src tag id d m sc block causal query => Sys2Proof.Machine.execDirAttendRequest src tag id d m sc block causal query s
  | .dirReleaseRequest src id version => Sys2Proof.Machine.execDirReleaseRequest src id version s
  | .peerReply tag body => Sys2Proof.Machine.execPeerReply tag body s
  | .linkTimeout core tok => Sys2Proof.Machine.execLinkTimeout core tok s
  | .patrolScrub loc uncorrectable => Sys2Proof.Machine.execPatrolScrub loc uncorrectable s
  | .deviceReset => Sys2Proof.Machine.execDeviceReset s
  | .portReset port => Sys2Proof.Machine.execPortReset port s
  | .thermalThrottle => Sys2Proof.Machine.execThermalThrottle s
  | .throttleRecover => Sys2Proof.Machine.execThrottleRecover s
  | .thermalHold => Sys2Proof.Machine.execThermalHold s
  | .thermalHoldEnd => Sys2Proof.Machine.execThermalHoldEnd s
  | .thermalShutdown => Sys2Proof.Machine.execThermalShutdown s
  | .hostCxlCacheWrite pa bytes => Sys2Proof.Machine.execHostCxlCacheWrite pa bytes s
  | .peerDataWrite src pa bytes => Sys2Proof.Machine.execPeerDataWrite src pa bytes s
  | .clusterWakeStart cluster => Sys2Proof.Machine.execClusterWakeStart cluster s
  | .traceEgress cluster => Sys2Proof.Machine.execTraceEgress cluster s

end Sys2Proof.Machine
end

