-- ==== Sys2Proof/Machine/Probe.lean ====
section
/-! DEFINITION. The state in which the next step issues one given instruction: what stands for the loading
of a program from outside the machine (a launch, R341 to R346), used by `State.withFetchWord`. -/

namespace Sys2Proof.Machine


/-- The address code is placed at, and its physical address. -/
def probeVa : Nat := 0x100000
def probePa : Nat := 0x100000

/-- Page tables of partition 0 in unit 0: stage 2 and stage 1 each map their first GiB onto itself by one
level-1 block (readable, writable, executable, WB), and PASID entry 0 names the stage-1 root.
[DESIGN CHOICE, log 5] -/
def probeTables : List (Nat × Nat) :=
  [ (0x10000, 0x11000 + 3), (0x11000, 0x1D),            -- stage 2: level 0 table, level 1 block
    (0x12000, 0x13000 + 3), (0x13000, 0x1D),            -- stage 1
    (0x14000, 0x12000 + 1) ]                            -- PASID table

/-- A job of partition 0 in slot 0 of core 0, its three streams at `probeVa`. [DESIGN CHOICE, log 5] -/
def probeJob : Job :=
  .start ⟨1, 0, 0, 0, 0, 1, 0, 0, 0, 1024, 0x10000, 0⟩ 0 ⟨0x8000, 0, 0x80000⟩

/-- The machine with a job whose streams stand at the bytes `code`; the next step issues one instruction
of the stream `t`. [DESIGN CHOICE, log 5] -/
def probe (s : State) (code : List Byte) (t : Strm) : State :=
  let mem := probeTables.foldl (fun m e => Memory.putBytes m e.1 (leBytes 8 e.2)) s.ms.mem
  { s with
    agenda := [.issue ⟨0, 0, t⟩]
    ms := { s.ms with mem := Memory.putBytes mem probePa code }
    jobs := [(0, probeJob)]
    strs := [(0, .start (BitVec.ofNat 64 probeVa)), (1, .start (BitVec.ofNat 64 probeVa)),
             (2, .start (BitVec.ofNat 64 probeVa))]
    unitOwner := [(0, 0)]
    clusterOwner := [(0, 0)]
    clusters := [(0, { Cluster.reset with gated := false })]
    nextJob := 2
    parts := [(0, { Part.reset with
      state := .opened, s2root := 0x10000, pasidBase := 0x14000, pasidCount := 1, shareCount := 64 })] }

/-- A stream that may issue an instruction (R44, R49, R52). -/
def probeStrm (i : Instr) : Strm :=
  match i with
  | .wrq .. => .s
  | .sqpush _ f _ => sqWriter f
  | .sqpop _ f _ => sqReader f
  | .brq q .. => if q then .s else .c
  | .ksetRow .. | .ksetCol .. | .ksetBoth .. | .kgetRow .. | .kgetCol .. => .c
  | .bmz .. | .mpush .. | .mpushPair .. | .minv .. | .mpop .. => .c
  | .fix .. | .unfix .. | .drop .. | .rcpclr .. | .rcp .. => .c
  | i => if i.vParts.isSome || i.mParts.isSome then .c else .l

end Sys2Proof.Machine
end

