-- ==== Sys2Proof/Machine/Agenda.lean ====
section
/-! DEFINITION. What one entry of the agenda does: a stream issues, an event takes place, time passes, a choice
that the spec leaves to the device or to its surroundings falls. Where the agenda is empty, the machine lays
out a round of its own. -/

namespace Sys2Proof.Machine

/-! ### Issue -/

/-- A stream that may issue fetches its next instruction and executes it, after what it has stored before (R11, R40,
R145). -/
def stepIssue (s : State) (h : Hart) : Result :=
  if canIssue s h then
    let s := finishStores s fun x => x == h
    match fetch s h with
    | .error e => .next (fetchFailed (afterFetch s) h e)
    | .ok i => exec i { afterFetch s with cur := h }
  else .next s

/-! ### Time (R86, R87, R473, R488) -/

/-- The cores whose clock runs: those of the clusters that are not gated (R87, R363). [DEDUCED, log 108] -/
def clockedCores (s : State) : List Nat :=
  (s.clusters.filter fun c => !c.2.gated).flatMap fun c => (List.range Config.coresPerCluster).map (8 * c.1 + ·)

/-- The streams of a resident job take `n` cycles in their stall classes (R473). -/
def countJob (s : State) (n : Nat) (e : Nat × Job) : State :=
  let p := e.2.ids.part
  (hartsOf (e.1 / 4) (e.1 % 4)).foldl (fun s h => stallCount s p (stopped s p || !live s h) (getStream s h) n) s

/-- PRELIM does not run while the partition is stopped (R466). -/
def freezeCounts (s : State) (n : Nat) : State :=
  { s with jobs := s.jobs.map fun e =>
      (e.1, if stopped s e.2.ids.part then { e.2 with reqAt := e.2.reqAt.map (· + n) } else e.2) }

/-- `n` arithmetic-clock cycles pass. [DEDUCED, log 3, 108] -/
def passCycles (s : State) (n : Nat) : State :=
  let cores := clockedCores s
  let s := (s.jobs.filter fun e => cores.contains (e.1 / 4)).foldl (fun s e => countJob s n e) s
  let s := freezeCounts s n
  cores.foldl (fun s c => modCore s c fun x => { x with cycle := x.cycle + n }) s

/-- A cluster with a job or an allotted record is not idle (R363). -/
def noteBusy (s : State) : State :=
  { s with clusters := s.clusters.map fun c =>
      (c.1, if clusterBusy s c.1 then { c.2 with idleSince := s.time } else c.2) }

/-- `ns` nanoseconds pass: device time advances, and the cores' cycles by the frequency of their clock; what is
left of a cycle is kept. Snapshots that have been triggered are written first (R476).
[DESIGN CHOICE, log 3] -/
def passTime (s : State) (ns : Nat) : State :=
  let s := writeSnapshots s
  let t := ns * s.platform.mhz + s.subCycle
  let s := if 1000 ≤ t then (clockedCores s).foldl flushTrace s else s
  noteBusy (passCycles { s with time := s.time + ns, subCycle := t % 1000 } (t / 1000))

/-! ### Choices of the device and of its surroundings -/

/-- A translation is cached as it now stands (R394). [DESIGN CHOICE, log 28] -/
def tlbFill (s : State) (core p : Nat) (st2 : Bool) (pasid page : Nat) : State :=
  if (tlbFind s core p st2 (if st2 then 0 else pasid) page).isSome then s
  else
    match if st2 then stage2 s p (4096 * page) core else stage1 s p pasid (4096 * page) core with
    | .ok l => modMs s fun m => { m with tlb := m.tlb ++ [⟨core, p, st2, if st2 then 0 else pasid, page, l⟩] }
    | .error _ => s

/-- [DESIGN CHOICE, log 28] -/
def tlbDrop (s : State) (core p : Nat) (st2 : Bool) (pasid page : Nat) : State :=
  modMs s fun m => { m with
    tlb := m.tlb.filter fun e => !(e.core == core && e.part == p && e.stage2 == st2 && e.pasid == pasid && e.page == page) }

/-- The next cured write of a granule is to be performed late (R92). [DESIGN CHOICE, log 119] -/
def holdWrite (s : State) (g : Nat) : State := modMs s fun m => { m with hold := NatSet.add m.hold g }

/-- What a place holds for a stream that reads it now; none where it may not read it ahead of its turn. -/
def placeValue (s : State) (h : Hart) (p : EarlyPlace) : Option (State × Granule) :=
  let a := agentOf s h
  match p with
  | .glob g =>
    if jobPoison s a.view g || (Tab.get? s.ms.comp (g / 32)).isSome then none
    else some (readSeen s a.view (8 * g) 8, jobGranule s a.view false g)
  | .spad g =>
    if NatSet.has s.ms.spadPoison g then none
    else some (s, BitVec.ofNat 64 (ofLe (Memory.bytes s.ms.spad (8 * g) 8)))
  | .csr n => if csrShared n then some (s, csrNow { s with cur := h } n) else none

/-- A stream reads a place ahead of program order: its later access finds what it has read (R87, R103, R110).
[DESIGN CHOICE, log 119] -/
def readEarly (s : State) (h : Hart) (p : EarlyPlace) : State :=
  if live s h then
    match placeValue s h p with
    | none => s
    | some (s, v) =>
      modMs s fun m => 
        { m with early := m.early.filter (fun e => !(e.hart == h && e.place == p)) ++ [⟨h, p, v, []⟩] }
  else s

/-- Whether an instruction's store is wider than a granule, so that its granules are written in any order
(R103). -/
def storesWide (i : Instr) : Bool :=
  match i with
  | .wrq .. | .vst .. => true
  | _ => false

/-- The wide store at which a stream stands issues: it writes these granules of the scratchpads ahead of the others
(R103). [DESIGN CHOICE, log 2, 119] -/
def beginStore (s : State) (h : Hart) (gs : List Nat) : Result :=
  match fetch s h with
  | .ok i =>
    if storesWide i then
      match stepIssue (modMs s fun m => { m with split := some gs }) h with
      | .next t => .next (modMs t fun m => { m with split := none })
      | x => x
    else .next s
  | .error _ => .next s

/-- The host reads its own memory (R131). -/
def hostLoad (s : State) (pa len : Nat) : State :=
  if isHostPa pa && isHostPa (pa + len - 1) then { s with out := s.out ++ [.hostLoad pa (hostBytes s pa len)] } else s

/-- The host makes a page absent, or present under a translation to a page behind the same port (R395).
[DEDUCED, log 30] -/
def hostPageAct (s : State) (page : Nat) (target : Option Nat) : State :=
  match target with
  | none => modMs s fun m => { m with hostAbsent := NatSet.add m.hostAbsent page }
  | some t =>
    if isHostPa (4096 * t) && hostPort (4096 * t) == namedPort page then
      modMs s fun m => { m with hostAbsent := NatSet.del m.hostAbsent page, hostMap := Tab.set m.hostMap page t }
    else s

/-- A cluster caches the translation of a present page, as it now stands (R395). [DEDUCED, log 30] -/
def atsFill (s : State) (cluster page : Nat) : State :=
  if NatSet.has s.ms.hostAbsent page || (atsFind s cluster page).isSome then s
  else modMs s fun m => { m with ats := m.ats ++ [⟨cluster, page, hostTarget s page⟩] }

/-- A page request leaves for an absent page that an access waits for (R395). [DEDUCED, log 30] -/
def pageRequest (s : State) (page : Nat) : State :=
  if NatSet.has s.ms.hostAbsent page && !NatSet.has s.ms.priSent page then
    { modMs s fun m => { m with priSent := NatSet.add m.priSent page } with out := s.out ++ [.pageRequest page] }
  else s

/-- A link of a port trains or drops (R409). -/
def linkTrain (s : State) (port : Nat) (up ide ats : Bool) : State :=
  let x := s.ports.getD port .reset
  sendReleases { s with ports := s.ports.setIfInBounds port { x with up := up && s.platform.mode.trains port, ide := ide, ats := ats } }

/-- System software builds a record of a share, or rewrites the built fields of one that is not armed; STATE and
ARMSEQ stay the dispatcher's (R341 to R343). [DESIGN CHOICE, log 105] -/
def buildRecord (s : State) (i : Nat) (w : Vector Word 16) : State :=
  let l := getLaunch s i
  if (partOfIndex s i).isNone || l.state == 2 || l.state == 3 then s
  else
    let st := if l.state == 0 then 1 else l.state
    modLaunch s i fun x => (({ x with words := w }).put 0 1 st).put 1 3 l.armseq

/-- System software frees a record that is built or retired (R343). [DESIGN CHOICE, log 105] -/
def freeRecord (s : State) (i : Nat) : State :=
  let l := getLaunch s i
  if (partOfIndex s i).isSome && (l.state == 1 || l.state == 4) then modLaunch s i fun x => x.put 0 1 0 else s

/-- System software sets DOMMEM for the jobs of a launch that is not armed (R185).
[DESIGN CHOICE, log 105] -/
def setDommem (s : State) (i : Nat) (v : Word) : State :=
  if (partOfIndex s i).isSome && (getLaunch s i).state ≠ 2 && (getLaunch s i).state ≠ 3 && !bitOf v 63 then
    modLaunch s i fun x => { x with dommem := v }
  else s

/-- System software gives a partition a launch window behind port 0 or 1 (R345).
[DESIGN CHOICE, log 105] -/
def setWindow (s : State) (p : Nat) (base : Option Nat) : State :=
  if base.all fun b => isHostPa b && hostPort b < 2 then
    modPart s p fun x => { x with window := base, windowWritten := [] }
  else s

/-- The bytes of a record as they stand, where its partition's share is mapped (R341).
[DESIGN CHOICE, log 122] -/
def showRecord (s : State) (i : Nat) : State :=
  match partOfIndex s i with
  | none => s
  | some p =>
    if (getPart s p).shareMap.isNone then s
    else
      modMs s fun m =>
        { m with mem := Memory.putBytes m.mem (sharePa p + 128 * (i - (getPart s p).shareFirst))
                          ((getLaunch s i).words.toList.flatMap fun w => leBytes 8 w.toNat) }

/-- System software maps a partition's share for reading at a page of its physical addresses, or unmaps it (R341).
[DESIGN CHOICE, log 105, 122] -/
def mapShare (s : State) (p : Nat) (base : Option Nat) : State :=
  if base.all fun b => b % 4096 == 0 then
    let x := getPart s p
    ((List.range x.shareCount).map (x.shareFirst + ·)).foldl showRecord (modPart s p fun x => { x with shareMap := base })
  else s

/-- The host stores to its own memory (R345, R410, R414). [DESIGN CHOICE, log 106] -/
def hostStore (s : State) (pa : Nat) (bs : List Byte) : State :=
  if isHostPa pa && isHostPa (pa + bs.length - 1) then noteWindows (writePa s (0, 0) none false pa bs) pa bs.length
  else s

/-- The ARM at which a stream stands makes its checks, and then its release, before it arms (R344).
[DEDUCED, log 84] -/
def armBegin (s : State) (h : Hart) : State :=
  let t := { s with cur := h }
  match fetch s h with
  | .ok (.arm g a) =>
    if canIssue s h && !crossesEnd (curStream t) 4 && guardOk t g && !(curStream t).arming
        && armAllowed t (rd t a).toNat then
      modStream (armRelease t) h fun st => { st with arming := true }
    else s
  | _ => s

/-- A link of the mesh is retired (R461). -/
def meshRetire (s : State) (router output : Nat) : State :=
  if output < 4 then { s with meshRetired := NatSet.add s.meshRetired (4 * router + output) } else s

/-! ### A round of the machine's own -/

/-- The events of one token-table entry. -/
def tokenEvents (core : Nat) (e : Nat × TokenEntry) : List Due :=
  [.childOpDone core e.1, .childOpFault core e.1, .linkTimeout core e.1, .orphanReap core e.1]
    ++ match collOp e.2.instr with
      | some x =>
        let k := collKey core e.2 x
        [.collectiveInstance e.2.ids.part k.1 k.2.1 k.2.2.1 k.2.2.2]
      | none => []

/-- The events of one core. -/
def coreEvents (s : State) (core : Nat) : List Due :=
  [.jobDeal core, .contextSpill core, .jobResume core]
    ++ [Engine.matrix, .copy, .kv, .collective, .media].map (.engineSelect core)
    ++ (tokens s core).flatMap (tokenEvents core)

/-- The events of one resident job. -/
def jobEvents (k : Nat) : List Due :=
  let core := k / 4
  let slot := k % 4
  [.forcedSave core slot, .drainlimExpiry core slot, .flipDone core slot, .restoreDone core slot,
   .protectionExpiry core slot, .deadlockDetect core slot] ++ (hartsOf core slot).map .waittmoExpiry

/-- The events of one partition. -/
def partEvents (s : State) (p : Nat) : List Due :=
  let x := getPart s p
  [.stopComplete p, .replayEvent p, .rungRequestApply p, .migrationApply p, .launchAllot p, .preemptRequest p]
    ++ [.settle p] ++ x.windowWritten.map .launchWindowArm

/-- The packets of the interfaces' queues, and the frames of the encoders and decoders. -/
def portEvents (s : State) : List Due :=
  (List.range 4).flatMap (fun fn => (List.range 8).flatMap fun iface => (List.range 8).flatMap fun q =>
    [.packetArm fn iface q, .packetNop fn iface q])
  ++ s.encoders.map (fun e => .encodeFrame e.1) ++ s.decoders.map fun d => .decodeRecord d.1

/-- Every event the device makes of itself and that may be due. One that is not due does nothing. -/
def dueEvents (s : State) : List Due :=
  s.streams.map (fun d => .periodBoundary d.1)
    ++ portEvents s
    ++ (s.parts.map (·.1)).flatMap (partEvents s) ++ [.balancerTick]
    ++ s.clusters.flatMap (fun c => [.clusterWakeDone c.1, .clusterWakeStart c.1, .clusterGate c.1, .traceEgress c.1])
    ++ (s.cores.map (·.1)).flatMap (coreEvents s)
    ++ (s.jobs.map (·.1)).flatMap jobEvents

/-- The streams that may issue. -/
def readyHarts (s : State) : List Hart :=
  (s.jobs.flatMap fun e => hartsOf (e.1 / 4) (e.1 % 4)).filter (canIssue s)

/-- The round that an empty agenda stands for: every stream that may issue does so once, a nanosecond passes,
and every event of the device's own that is due takes place. One order among those the spec allows. Writes that
are late are performed by its end, split stores end, page requests are sent and mapped launch records shown.
[DESIGN CHOICE, log 1] -/
def round (s : State) : List Act :=
  (readyHarts s).map .issue ++ .tick 1 :: (dueEvents s).map .due ++ (s.ms.late.map fun e => .arriveWrite e.granule)
    ++ (if s.platform.mode = .starting then [.bringUp] else []) ++ s.ms.begun.map (fun b => .endStore b.hart)
    ++ (pagesAwaited s).map .pageRequest ++ ((s.pool.map (·.1)).filter fun i =>
        (partOfIndex s i).any fun p => (getPart s p).shareMap.isSome).map .showRecord

/-! ### One entry -/

/-- An event of the device's own. -/
def runDue (s : State) : Due → Result
  | .childOpDone core tok => execChildOpDone core tok s
  | .childOpFault core tok => execChildOpFault core tok s
  | .linkTimeout core tok => execLinkTimeout core tok s
  | .orphanReap core tok => execOrphanReap core tok s
  | .collectiveInstance part lvl dom cid ordinal => execCollectiveInstance part lvl dom cid ordinal s
  | .jobDeal core => execJobDeal core s
  | .contextSpill core => execContextSpill core s
  | .jobResume core => execJobResume core s
  | .engineSelect core eng => execEngineSelect core eng s
  | .forcedSave core slot => execForcedSave core slot s
  | .drainlimExpiry core slot => execDrainlimExpiry core slot s
  | .flipDone core slot => execFlipDone core slot s
  | .restoreDone core slot => execRestoreDone core slot s
  | .protectionExpiry core slot => execProtectionExpiry core slot s
  | .deadlockDetect core slot => execDeadlockDetect core slot s
  | .waittmoExpiry h => execWaittmoExpiry h s
  | .stopComplete part => execStopComplete part s
  | .replayEvent part => execReplayEvent part s
  | .rungRequestApply part => execRungRequestApply part s
  | .migrationApply part => execMigrationApply part s
  | .launchAllot part => execLaunchAllot part s
  | .preemptRequest part => execPreemptRequest part s
  | .launchWindowArm index => execLaunchWindowArm index s
  | .packetArm fn iface q => execPacketArm fn iface q s
  | .packetNop fn iface q => execPacketNop fn iface q s
  | .encodeFrame e => execEncodeFrame e s
  | .decodeRecord d => execDecodeRecord d s
  | .periodBoundary stream => execPeriodBoundary stream s
  | .balancerTick => execBalancerTick s
  | .clusterWakeDone cluster => execClusterWakeDone cluster s
  | .clusterWakeStart cluster => execClusterWakeStart cluster s
  | .clusterGate cluster => execClusterGate cluster s
  | .traceEgress cluster => execTraceEgress cluster s
  | .settle part => .next (settlePool (retryCompletions (retryRetirements s part) part))

/-- What one entry of the agenda does. [DESIGN CHOICE, log 1] -/
def runAct (s : State) : Act → Result
  | .issue h => stepIssue s h
  | .event i => exec i s
  | .due d => runDue s d
  | .tick ns => .next (passTime s ns)
  | .tlbFill core p st2 pasid page => .next (tlbFill s core p st2 pasid page)
  | .tlbDrop core p st2 pasid page => .next (tlbDrop s core p st2 pasid page)
  | .wcEvict core => .next (evictWc s core)
  | .wcPerform core place => .next (performAt s core place)
  | .holdWrite g => .next (holdWrite s g)
  | .arriveWrite g => .next (arrive1 s g)
  | .readEarly h p => .next (readEarly s h p)
  | .beginStore h gs => beginStore s h gs
  | .endStore h => .next (finishStores s fun x => x == h)
  | .opRead core tok va len => .next (opReadPart s core tok va len)
  | .opWrite core tok va len => .next (opWritePart s core tok va len)
  | .opCount core tok bytes => .next (opCount s core tok bytes)
  | .hostLoad pa len => .next (hostLoad s pa len)
  | .meshRetire router output => .next (meshRetire s router output)
  | .hostPage page target => .next (hostPageAct s page target)
  | .atsFill cluster page => .next (atsFill s cluster page)
  | .pageRequest page => .next (pageRequest s page)
  | .flagDelivered id => .next (flagDelivered s id)
  | .requestDelivered tag => .next (requestDelivered s tag)
  | .flagConfirmed id ok => .next (flagConfirmed s id ok)
  | .peerGone chip part => .next (peerGone s chip part)
  | .linkRetry => .next (bumpErr s 4)
  | .evictError line bad ipa job => .next (evictError s line bad ipa job)
  | .sense temp power => sense s temp power
  | .defect d => .next (modPlatform s fun p => { p with defect := d })
  | .bringUp => .next (bringUp s)
  | .barRead fn off width => .next (barRead s fn off width)
  | .takeFault part => .next (takeFault s part)
  | .notifyWrite fn off size v pasid => notifyWrite s fn off size v pasid
  | .linkTrain port up ide ats => .next (linkTrain s port up ide ats)
  | .build i w => .next (buildRecord s i w)
  | .unbuild i => .next (freeRecord s i)
  | .setDommem i v => .next (setDommem s i v)
  | .setWindow p base => .next (setWindow s p base)
  | .mapShare p base => .next (mapShare s p base)
  | .showRecord i => .next (showRecord s i)
  | .armBegin h => .next (armBegin s h)
  | .hostStore pa bs => .next (hostStore s pa bs)

/-- Whether an entry may take place on a die that has stopped (R489): a device reset alone. -/
def survivesStop : Act → Bool
  | .event .deviceReset => true
  | _ => false

/-- The next entry of the agenda takes place; a stopped die does nothing (R489). -/
def runNext (s : State) (a : Act) (rest : List Act) : Result :=
  if s.dead && !survivesStop a then .fault .dieStopped else runAct { s with agenda := rest } a

/-- An empty agenda becomes a round. [DESIGN CHOICE, log 1] -/
def layRound (s : State) : Result := if s.dead then .fault .dieStopped else .next { s with agenda := round s }

/-- The machine with an instruction where the next step fetches it. -/
def placeWord (s : State) (nbits w : Nat) : State :=
  probe s (tableWordBytes nbits w)
    (match decodeTableWord nbits w with
      | some i => probeStrm i
      | none => .l)

end Sys2Proof.Machine
end

