-- ==== Sys2Proof/Machine/Step.lean ====
section
/-! DEFINITION. One step of the machine: the next entry of the agenda. -/

namespace Sys2Proof.Machine

/-- One step. [DEDUCED, log 1, 6] -/
def step (s : State) : Result :=
  match s.agenda with
  | a :: rest => runNext s a rest
  | [] => layRound s

/-- The machine with an instruction where the next step fetches it, in a stream that may issue it.
[DESIGN CHOICE, log 5] -/
def State.withFetchWord (s : State) (nbits w : Nat) : State := placeWord s nbits w

end Sys2Proof.Machine
end

