-- ==== Sys2Proof/Safety.lean ====
section
/-! DEFINITION. What counts as a safe run, and the terms in which statements about a step are made: a stream
that nothing observes, an instruction that no LOOP ends at, and the stream after an instruction that completes.
The machine stops with a fault only after a thermal shutdown (R489), and refuses no instruction that has its
meaning. -/

namespace Sys2Proof

/-- The outcome is a next state. -/
def Completes (o : Machine.Result) : Prop := ∃ t, o = .next t

/-- The outcome is no refusal. -/
def NotRefused (o : Machine.Result) : Prop := ∀ r, o ≠ .refused r

end Sys2Proof

namespace Sys2Proof.Machine

/-- The executing stream is a stream of a resident job, it is not being stepped (R466), and nothing observes its
partition: trace is off (R471), no breakpoint (R467) and no monitor (R475) is enabled, the chalk line does not
compare it (R477). -/
def quiet (s : State) : Bool :=
  let d := getDebug s (curPart s)
  (Tab.get? s.strs (hartKey s.cur)).isSome && (Tab.get? s.jobs (jobKey s.cur)).isSome
    && !traceOn s (curPart s) && (d.bps.toList.all fun w => !bitOf w 0)
    && (d.monitors.toList.all fun m => !bitOf m.cfg 0)
    && !(curStream s).stepping && !chalked s (curPart s)

/-- No active LOOP of the executing stream ends at or within the `n` bytes at its PC (R78, R80). LOOPs that are
suspended while the handler is active do not count (R429). -/
def plain (s : State) (n : Nat) : Bool :=
  (curStream s).loops.all fun l =>
    trapActive (curStream s) && !l.inHandler
      || (curStream s).pc + BitVec.ofNat 64 n != l.stop
        && !(decide ((curStream s).pc < l.stop) && decide (l.stop.toNat < (curStream s).pc.toNat + n))

/-- The executing stream has completed an instruction of `n` bytes: it waits on nothing, stands `n` bytes further,
and has issued one instruction more (R39, R465). -/
def retire (n : Nat) (s : State) : State :=
  modCurStream s fun st => { st with pc := st.pc + BitVec.ofNat 64 n, pos := st.pos + 1, wait := none }

/-- The executing stream has completed a branch to `t`: the LOOPs that `t` lies outside of are no longer active
(R80). -/
def retireTo (t : Word) (s : State) : State :=
  modCurStream s fun st =>
    { st with pc := t, loops := loopsAfterJump (trapActive st) st.loops t, pos := st.pos + 1, wait := none }

/-- An instruction of `n` bytes may have its effect: its stream is quiet, no LOOP ends at it, its guard holds. -/
def ready (s : State) (n : Nat) (g : Option Guard) : Bool := quiet s && plain s n && guardHolds s g

/-- Device memory and the scratchpads are in canonical form. -/
def memOk (s : State) : Bool := s.ms.mem.wf && s.ms.spad.wf

end Sys2Proof.Machine
end

