-- ==== Sys2Proof/Certificates/Slice0/Obligations.lean ====
section
/-! DEFINITION. The statements for the provers, and the words they are made in. -/

/-! ## Vocabulary -/

namespace Sys2Proof.Say

open Sys2Proof.Machine

/-- The state once the head of the agenda is taken. -/
def took (s : State) (rest : List Act) : State := { s with agenda := rest }

/-- The stream that executes may be any of a job's three. -/
def every : List Strm := [.l, .c, .s]

/-- A value shifted by S(b)[5:0] (R65). -/
def low6 (b : Word) : Nat := (b.extractLsb' 0 6).toNat

/-- DIV: all ones where S(b) = 0, else the quotient truncated towards zero, modulo 2^64 (R65, R66). -/
def quotient (a b : Word) : Word := if b = 0 then BitVec.allOnes 64 else BitVec.ofInt 64 (a.toInt.tdiv b.toInt)

/-- DIVU (R65, R66). -/
def quotientU (a b : Word) : Word := if b = 0 then BitVec.allOnes 64 else BitVec.ofNat 64 (a.toNat / b.toNat)

/-- How many elements at the head of a list of bits are zero. -/
def zeroRun (l : List Bool) : Nat := (l.takeWhile fun b => !b).length

/-- The bits of a word, bit 0 first. -/
def bitList (a : Word) : List Bool := (List.range 64).map fun i => a.getLsbD i

/-- The instructions whose whole effect is one scalar register: the streams that may issue them, the guard,
the destination and the value it receives (R65 to R71, R86, R218, R397). -/
def result (s : State) : Instr → Option (List Strm × Option Guard × Reg × Word)
  | .add g d a b => some (every, some g, d, rd s a + rd s b)
  | .sub g d a b => some (every, some g, d, rd s a - rd s b)
  | .and g d a b => some (every, some g, d, rd s a &&& rd s b)
  | .or g d a b => some (every, some g, d, rd s a ||| rd s b)
  | .xor g d a b => some (every, some g, d, rd s a ^^^ rd s b)
  | .shl g d a b => some (every, some g, d, rd s a <<< low6 (rd s b))
  | .shr g d a b => some (every, some g, d, rd s a >>> low6 (rd s b))
  | .sra g d a b => some (every, some g, d, (rd s a).sshiftRight (low6 (rd s b)))
  | .mul g d a b => some (every, some g, d, BitVec.ofInt 64 ((rd s a).toInt * (rd s b).toInt))
  | .mulh g d a b =>
    some (every, some g, d, ((rd s a).signExtend 128 * (rd s b).signExtend 128).extractLsb' 64 64)
  | .mulhu g d a b =>
    some (every, some g, d, ((rd s a).setWidth 128 * (rd s b).setWidth 128).extractLsb' 64 64)
  | .div g d a b => some (every, some g, d, quotient (rd s a) (rd s b))
  | .divu g d a b => some (every, some g, d, quotientU (rd s a) (rd s b))
  | .rem g d a b => some (every, some g, d, rd s a - quotient (rd s a) (rd s b) * rd s b)
  | .remu g d a b => some (every, some g, d, rd s a - quotientU (rd s a) (rd s b) * rd s b)
  | .min g d a b => some (every, some g, d, if (rd s b).slt (rd s a) then rd s b else rd s a)
  | .minu g d a b => some (every, some g, d, if rd s b < rd s a then rd s b else rd s a)
  | .max g d a b => some (every, some g, d, if (rd s a).slt (rd s b) then rd s b else rd s a)
  | .maxu g d a b => some (every, some g, d, if rd s a < rd s b then rd s b else rd s a)
  | .clz g d a => some (every, some g, d, BitVec.ofNat 64 (zeroRun (bitList (rd s a)).reverse))
  | .ctz g d a => some (every, some g, d, BitVec.ofNat 64 (zeroRun (bitList (rd s a))))
  | .popc g d a => some (every, some g, d, BitVec.ofNat 64 ((bitList (rd s a)).count true))
  | .brev g d a => some (every, some g, d, (rd s a).reverse)
  | .sel g d a b => some (every, none, d, if (rp s g.p ^^ g.pn) = true then rd s a else rd s b)
  | .addi d a i => some (every, none, d, rd s a + i.signExtend 64)
  | .andi d a i => some (every, none, d, rd s a &&& i.setWidth 64)
  | .ori d a i => some (every, none, d, rd s a ||| i.setWidth 64)
  | .xori d a i => some (every, none, d, rd s a ^^^ i.setWidth 64)
  | .shli d a i => some (every, none, d, rd s a <<< i.toNat)
  | .shri d a i => some (every, none, d, rd s a >>> i.toNat)
  | .srai d a i => some (every, none, d, (rd s a).sshiftRight i.toNat)
  | .ldhi d i => some (every, none, d, BitVec.ofInt 64 (i.toInt * 8192))
  | .addpc d i => some (every, none, d, (curStream s).pc + BitVec.ofInt 64 (i.toInt * 4))
  | .pmovGet g d => some (every, some g, d, BitVec.ofNat 64 ((curStream s).preds ||| 1).toNat)
  | .kgetRow g d a => some ([.c], some g, d, BitVec.ofNat 64 (if a = 0 then 0xFFFF else ((curJob s).rowMasks[a.toNat]).toNat))
  | .kgetCol g d a => some ([.c], some g, d, if a = 0 then BitVec.allOnes 64 else (curJob s).colMasks[a.toNat])
  | .csrr d c => some (every, none, d, csrRead s c.toNat)
  | .kvslot g d a b =>
    some (every, some g, d,
      if (rd s a).getLsbD (low6 (rd s b)) then BitVec.ofNat 64 (((bitList (rd s a)).take (low6 (rd s b))).count true)
      else BitVec.allOnes 64)
  | .xlatRd g d a => some (every, some g, d, xlatWord (translate s (curPart s) (curJob s).ids.pasid (rd s a) .read s.cur.core))
  | .xlatWr g d a => some (every, some g, d, xlatWord (translate s (curPart s) (curJob s).ids.pasid (rd s a) .write s.cur.core))
  | .xlatEx g d a => some (every, some g, d, xlatWord (translate s (curPart s) (curJob s).ids.pasid (rd s a) .fetch s.cur.core))
  | _ => none

/-- The instructions whose whole effect is one predicate: guard, predicate, value (R70). -/
def truth (s : State) : Instr → Option (Guard × BitVec 4 × Bool)
  | .psetEq g d a b => some (g, d, decide (rd s a = rd s b))
  | .psetNe g d a b => some (g, d, decide (rd s a ≠ rd s b))
  | .psetLt g d a b => some (g, d, (rd s a).slt (rd s b))
  | .psetLtu g d a b => some (g, d, (rd s a).ult (rd s b))
  | .psetGe g d a b => some (g, d, !(rd s a).slt (rd s b))
  | .psetGeu g d a b => some (g, d, !(rd s a).ult (rd s b))
  | .plogAnd g d a b => some (g, d, rp s a && rp s b)
  | .plogOr g d a b => some (g, d, rp s a || rp s b)
  | .plogXor g d a b => some (g, d, rp s a ^^ rp s b)
  | .plogAndn g d a b => some (g, d, rp s a && !rp s b)
  | .pmov g d a => some (g, d, decide (rd s a ≠ 0))
  | _ => none

/-- The instructions of layout SR and SB that a guard can make a false slot, and what they ask for beside it
(R61): the guard, the streams that may issue them, and whether they need a permission. -/
def guardOf : Instr → Option (Guard × List Strm × Option Nat)
  | .nop g | .add g .. | .sub g .. | .and g .. | .or g .. | .xor g .. | .shl g .. | .shr g .. | .sra g ..
  | .mul g .. | .mulh g .. | .mulhu g .. | .div g .. | .divu g .. | .rem g .. | .remu g .. | .min g ..
  | .minu g .. | .max g .. | .maxu g .. | .clz g .. | .ctz g .. | .popc g .. | .brev g ..
  | .psetEq g .. | .psetNe g .. | .psetLt g .. | .psetLtu g .. | .psetGe g .. | .psetGeu g ..
  | .plogAnd g .. | .plogOr g .. | .plogXor g .. | .plogAndn g .. | .pmov g .. | .pmovGet g .. | .pmovPut g ..
  | .ldpiB g .. | .ldpiBu g .. | .ldpiH g .. | .ldpiHu g .. | .ldpiW g .. | .ldpiWu g .. | .ldpiD g ..
  | .stpiB g .. | .stpiH g .. | .stpiW g .. | .stpiD g ..
  | .br g .. | .yield_ g
  | .twait g .. | .ttest g .. | .cncl g .. | .dtch g .. | .adopt g .. | .tstat g .. | .tpri g .. | .tfree g ..
  | .arm g .. | .lputDeadline g .. | .lputArgs g .. | .lputCount g .. | .lputPatch g ..
  | .lsuc g | .lprw g | .rung g .. | .rungReq g .. | .xlatRd g .. | .xlatWr g .. | .xlatEx g ..
  | .kvslot g .. | .pctl g .. | .seal g .. | .unseal g .. => some (g, every, none)
  | .migr g .. => some (g, every, some 5)
  | .tlbiAll g | .tlbiPasid g _ | .tlbiVa g _ _ => some (g, every, some 1)
  | .ksetRow g .. | .ksetCol g .. | .ksetBoth g .. | .kgetRow g .. | .kgetCol g ..
  | .mpush g .. | .mpushPair g .. | .minv g | .mpop g => some (g, [.c], none)
  | .pushb g _ => some (g, [.l, .c], none)
  | .sqpush g f _ => some (g, [if f = 0 then .l else if f = 3 then .s else .c], none)
  | .sqpop g f _ => some (g, [if f = 0 then .c else if f = 1 then .s else .l], none)
  | .rdq g .. => some (g, [.l], none)
  | .wrq g .. => some (g, [.s], none)
  | _ => none

/-- The permission at this bit of PERMS, where one is asked for. -/
def permitted (s : State) : Option Nat → Bool
  | some n => bitOf (getPart s (curPart s)).perms n
  | none => true

end Sys2Proof.Say

open Sys2Proof Sys2Proof.Machine

/-! ## The step and the words -/

/-- R11, R40, R145: a stream that may issue fetches the parcels at its PC; where they decode, the step is the
execution of the instruction. `afterFetch` uses up a free choice of R146 where code has been overwritten. That the
agenda holds the order of the acts is the model's choice (log 1). -/
def Sys2Proof.Say.StepRunsDecoded : Prop :=
  ∀ (s : State) (h : Hart) (rest : List Act) (ps : List Nat) (i : Instr),
    s.agenda = .issue h :: rest → s.dead = false →
    canIssue (Say.took s rest) h = true →
    fetchParcels (Say.took s rest) h (getStream s h).pc = .ok ps → decode ps = .ok i →
    i.wf = true ∧ step s = exec i { afterFetch (Say.took s rest) with cur := h }

/-- An event of the agenda is executed as it stands; the device's own events are the constructors of the same
name. The agenda is the model's own (log 1). -/
def Sys2Proof.Say.StepRunsEvent : Prop :=
  ∀ (s : State) (rest : List Act), s.dead = false →
    (∀ i, s.agenda = .event i :: rest → step s = exec i (Say.took s rest))
    ∧ (∀ core tok, s.agenda = .due (.childOpDone core tok) :: rest →
        step s = exec (.childOpDone core tok) (Say.took s rest))
    ∧ (∀ core, s.agenda = .due (.jobDeal core) :: rest → step s = exec (.jobDeal core) (Say.took s rest))
    ∧ (∀ p, s.agenda = .due (.launchAllot p) :: rest → step s = exec (.launchAllot p) (Say.took s rest))

/-- R489: after a thermal shutdown the die does nothing until a device reset. -/
def Sys2Proof.Say.StoppedDie : Prop :=
  ∀ (s : State) (a : Act) (rest : List Act), s.dead = true → s.agenda = a :: rest → a ≠ .event .deviceReset →
    step s = .fault .dieStopped

/-- R39 to R52: encoding a well-formed instruction and decoding the parcels gives it back, whatever follows it
in memory. -/
def Obligations.EncodeDecode : Prop :=
  ∀ (i : Instr) (rest : List Nat), i.wf = true → encode i ≠ [] → decode (encode i ++ rest) = .ok i

/-- R41: what decodes is a well-formed instruction, and its own parcels are the ones that were read. -/
def Sys2Proof.Say.DecodeSound : Prop :=
  ∀ (ps : List Nat) (i : Instr), decode ps = .ok i →
    i.wf = true ∧ ∃ rest, ps = encode i ++ rest

/-- R39 to R49: no word of class 11 is an instruction, and an S-class instruction is one parcel, a V-class one
three, an M-class one six. -/
def Sys2Proof.Say.ClassLengths : Prop :=
  ∀ (p : Nat) (rest : List Nat) (i : Instr), decode (p :: rest) = .ok i →
    p % 4 ≠ 3 ∧ i.size = (if p % 4 = 0 then 4 else if p % 4 = 1 then 12 else 24)

/-! ## Scalar instructions -/

/-- R65 to R71, R86, R218: the instruction writes its one destination register and nothing else; the stream goes
on at the next instruction. A write to s0 changes nothing (`wr`, R38). -/
def Obligations.ScalarResults : Prop :=
  ∀ (i : Instr) (s : State) (ts : List Strm) (g : Option Guard) (d : Reg) (v : Word),
    Say.result s i = some (ts, g, d, v) → s.cur.strm ∈ ts → ready s 4 g = true →
    exec i s = .next (retire 4 (wr s d v))

/-- R13, R38, and the frame of every instruction that writes one scalar register or one predicate and goes on: S(0)
is 0 and P(0) true whatever is written; any other register or predicate holds what was written last; every other
register and predicate, the trap registers, the LOOPs, the other streams, the jobs with their rows, masks, queues and
accumulators, the cores, the partitions, and every byte of memory are as before. -/
def Obligations.RegisterWrites : Prop :=
  ∀ (s : State) (d r : Reg) (v : Word) (p q : BitVec 4) (b : Bool), quiet s = true →
    let same := fun (t : State) => (curStream t).trap = (curStream s).trap ∧ (curStream t).loops = (curStream s).loops
      ∧ (curStream t).returnPoint = (curStream s).returnPoint
      ∧ (∀ h, hartKey h ≠ hartKey s.cur → getStream t h = getStream s h) ∧ t.jobs = s.jobs ∧ t.saved = s.saved
      ∧ t.cores = s.cores ∧ t.parts = s.parts ∧ t.pool = s.pool ∧ t.streams = s.streams ∧ t.ms = s.ms
      ∧ (∀ a, Memory.byte t.ms.mem a = Memory.byte s.ms.mem a) ∧ ∀ a, Memory.byte t.ms.spad a = Memory.byte s.ms.spad a
    (rd (retire 4 (wr s d v)) r = (if r = 0 then 0 else if r = d then v else rd s r)
      ∧ rp (retire 4 (wr s d v)) q = rp s q ∧ same (retire 4 (wr s d v)))
    ∧ (rp (retire 4 (wp s p b)) q = (if q = 0 then true else if q = p then b else rp s q)
      ∧ rd (retire 4 (wp s p b)) r = rd s r ∧ same (retire 4 (wp s p b)))

/-- R66: division by zero gives all ones and leaves the dividend as remainder; −2^63 / −1 is −2^63, remainder 0;
otherwise the remainder is S(a) − quotient × S(b). -/
def Obligations.Division : Prop :=
  ∀ (s : State) (g : Guard) (d a b : Reg), ready s 4 (some g) = true →
    (rd s b = 0 →
      exec (.div g d a b) s = .next (retire 4 (wr s d 0xFFFFFFFFFFFFFFFF))
      ∧ exec (.divu g d a b) s = .next (retire 4 (wr s d 0xFFFFFFFFFFFFFFFF))
      ∧ exec (.rem g d a b) s = .next (retire 4 (wr s d (rd s a)))
      ∧ exec (.remu g d a b) s = .next (retire 4 (wr s d (rd s a))))
    ∧ (rd s a = 0x8000000000000000 → rd s b = 0xFFFFFFFFFFFFFFFF →
      exec (.div g d a b) s = .next (retire 4 (wr s d 0x8000000000000000))
      ∧ exec (.rem g d a b) s = .next (retire 4 (wr s d 0)))
    ∧ (rd s b ≠ 0 → ¬(rd s a = 0x8000000000000000 ∧ rd s b = 0xFFFFFFFFFFFFFFFF) →
      ∃ q r : Word,
        exec (.div g d a b) s = .next (retire 4 (wr s d q)) ∧ exec (.rem g d a b) s = .next (retire 4 (wr s d r))
        ∧ q.toInt = (rd s a).toInt.tdiv (rd s b).toInt ∧ r = rd s a - q * rd s b)
    ∧ (rd s b ≠ 0 →
      ∃ q r : Word,
        exec (.divu g d a b) s = .next (retire 4 (wr s d q)) ∧ exec (.remu g d a b) s = .next (retire 4 (wr s d r))
        ∧ q.toNat = (rd s a).toNat / (rd s b).toNat ∧ r = rd s a - q * rd s b)

/-- R70: PSET, PLOG and PMOV write one predicate and nothing else; p0 keeps reading as true. -/
def Sys2Proof.Say.PredicateResults : Prop :=
  ∀ (i : Instr) (s : State) (g : Guard) (p : BitVec 4) (v : Bool),
    Say.truth s i = some (g, p, v) → ready s 4 (some g) = true →
    exec i s = .next (retire 4 (wp s p v))
    ∧ (∀ q, rp (wp s p v) q = (if q = 0 then true else if q = p then v else rp s q))

/-- R44, R70: PMOV.PUT writes p1 to p15 from S(a)[15:1], and nothing else. -/
def Sys2Proof.Say.PredicatesPut : Prop :=
  ∀ (s : State) (g : Guard) (a : Reg), ready s 4 (some g) = true →
    ∃ t, exec (.pmovPut g a) s = .next (retire 4 t)
      ∧ (∀ q, rp t q = (if q = 0 then true else (rd s a).getLsbD q.toNat))
      ∧ ∃ ps, t = modCurStream s fun st => { st with preds := ps }

/-- R71: KSET writes the row mask, the column mask, or both, of the pair it names; k0 is not written. -/
def Sys2Proof.Say.MaskPairs : Prop :=
  ∀ (s : State) (g : Guard) (k : BitVec 3) (a b : Reg), s.cur.strm = .c → ready s 4 (some g) = true →
    exec (.ksetRow g k a) s = .next (retire 4 (modCurJob s fun j =>
      if k = 0 then j else { j with rowMasks := j.rowMasks.set k.toNat ((rd s a).extractLsb' 0 16) }))
    ∧ exec (.ksetCol g k a) s = .next (retire 4 (modCurJob s fun j =>
      if k = 0 then j else { j with colMasks := j.colMasks.set k.toNat (rd s a) }))
    ∧ exec (.ksetBoth g k a b) s = .next (retire 4 (modCurJob s fun j =>
      if k = 0 then j else { j with rowMasks := j.rowMasks.set k.toNat ((rd s a).extractLsb' 0 16)
                                    colMasks := j.colMasks.set k.toNat (rd s b) }))

/-- R64: NOP, opcode 0x01 of layout SR, has no effect beyond occupying its slot, whether its guard is true or
false: the stream goes on at the next instruction and nothing else changes. Its unguarded word is 0x0000_0004. -/
def Obligations.NopHasNoEffect : Prop :=
  (∀ (s : State) (g : Guard), quiet s = true → plain s 4 = true → exec (.nop g) s = .next (retire 4 s))
    ∧ (∀ g : Guard, decode [2 ^ 2 * 0x01 + 2 ^ 24 * g.p.toNat + 2 ^ 28 * g.pn.toNat] = .ok (.nop g))
    ∧ decodeTableWord 32 0x00000004 = some (.nop ⟨0, false⟩)

/-- R68: SEL, opcode 0x0E of layout SR, has no guard. It sets S(d) := S(a) when P(p) XOR pn is true, and
S(d) := S(b) otherwise. -/
def Obligations.SelSelectsByPredicate : Prop :=
  ∀ (g : Guard) (d a b : Reg),
    decode [2 ^ 2 * 0x0E + 2 ^ 9 * d.toNat + 2 ^ 14 * a.toNat + 2 ^ 19 * b.toNat + 2 ^ 24 * g.p.toNat
      + 2 ^ 28 * g.pn.toNat] = .ok (.sel g d a b)
    ∧ ∀ s : State, quiet s = true → plain s 4 = true →
      ((rp s g.p ^^ g.pn) = true → exec (.sel g d a b) s = .next (retire 4 (wr s d (rd s a))))
      ∧ ((rp s g.p ^^ g.pn) = false → exec (.sel g d a b) s = .next (retire 4 (wr s d (rd s b))))

/-- R61: an instruction whose guard is false has no effect of any kind: it takes its slot, and the stream goes
on. Its encoding, its stream and its permission have been checked before. -/
def Sys2Proof.Say.FalseSlot : Prop :=
  ∀ (i : Instr) (s : State) (g : Guard) (ts : List Strm) (p : Option Nat),
    (Say.guardOf i = some (g, ts, p) ∨ ∃ op row v, i.vParts = some (op, row, v) ∧ g = v.g ∧ ts = [.c] ∧ p = none) →
    s.cur.strm ∈ ts → Say.permitted s p = true → quiet s = true → plain s i.size = true →
    (rp s g.p ^^ g.pn) = false →
    exec i s = .next (retire i.size s)

/-- R11, R27, R42, R44, R49, R52, R71, R85: an instruction issued in a stream that may not issue it takes ILLEGAL,
whatever its guard. Classes V and M but for the engine operations, and FIX, UNFIX, DROP, RCPCLR, RCP and BMZ, belong to
the C-stream; the engine operations to L and S. -/
def Sys2Proof.Say.WrongStream : Prop :=
  ∀ (i : Instr) (s : State) (ts : List Strm),
    ((∃ g p, Say.guardOf i = some (g, ts, p))
      ∨ ts = [.c] ∧ (i.vParts.isSome = true ∨ i.mParts.isSome = true ∨ (∃ x, i = .fix x ∨ i = .unfix x ∨ i = .drop x
          ∨ i = .rcpclr x ∨ ∃ d, i = .rcp d x) ∨ ∃ ht o, i = .bmz ht o)
      ∨ (∃ q pn ht o, i = .brq q pn ht o ∧ ts = [if q then .s else .c])
      ∨ ts = [.l, .s] ∧ i.eParts.isSome = true) →
    s.cur.strm ∉ ts → exec i s = .next (trapNow s i .illegal 0 0)

/-! ## The lane-mask stack, control flow -/

/-- R85: MPUSH pushes the top with S(a) or with a column mask, MINV turns the top into the rest of the entry
below it, MPOP removes it; at depth 16, or at depth 1, they take QUEUE with QCODE 19 and change nothing. -/
def Sys2Proof.Say.MaskStack : Prop :=
  ∀ (s : State) (g : Guard) (a : Reg) (k : BitVec 3) (top : BitVec 64) (below : List (BitVec 64)),
    s.cur.strm = .c → ready s 4 (some g) = true → (curJob s).maskStack = top :: below →
    let put := fun l => .next (retire 4 (modCurJob s fun j => { j with maskStack := l }))
    let full := fun i => .next (trapNow s i .queue 19 0)
    exec (.mpush g a) s = (if below.length < 15 then put ((top &&& rd s a) :: top :: below) else full (.mpush g a))
    ∧ exec (.mpushPair g k) s = (if below.length < 15 then put ((top &&& colMask (curJob s) k) :: top :: below)
        else full (.mpushPair g k))
    ∧ exec (.minv g) s = (match below with
        | u :: rest => put ((~~~top &&& u) :: u :: rest)
        | [] => full (.minv g))
    ∧ exec (.mpop g) s = (match below with
        | u :: rest => put (u :: rest)
        | [] => full (.mpop g))

/-- R72, R73, R80, R85: BR, JMP, JAL, JALR and BMZ that branch: the stream goes on at the target, and the LOOPs it
leaves are no longer active. -/
def Sys2Proof.Say.Jumps : Prop :=
  ∀ (s : State), quiet s = true → plain s 4 = true →
    (∀ g ht o, (rp s g.p ^^ g.pn) = true →
      exec (.br g ht o) s = .next (retireTo ((curStream s).pc + BitVec.ofInt 64 (o.toInt * 4)) s))
    ∧ (∀ o, exec (.jmp o) s = .next (retireTo ((curStream s).pc + BitVec.ofInt 64 (o.toInt * 4)) s))
    ∧ (∀ d o, exec (.jal d o) s =
        .next (retireTo ((curStream s).pc + BitVec.ofInt 64 (o.toInt * 4)) (wr s d ((curStream s).pc + 4))))
    ∧ (∀ d a i t, t = rd s a + BitVec.ofInt 64 (BitVec.toInt i * 4) →
      exec (.jalr d a i) s =
        (if t.toNat % 4 = 0 then .next (retireTo t (wr s d ((curStream s).pc + 4)))
         else .next (trapNow s (.jalr d a i) .align t 0)))
    ∧ (∀ ht o, s.cur.strm = .c →
      exec (.bmz ht o) s =
        (if maskTop (curJob s) = 0 then .next (retireTo ((curStream s).pc + BitVec.ofInt 64 (o.toInt * 4)) s)
         else .next (retire 4 s)))

/-- R80: after a branch the LOOPs that stay active are those whose body holds the target, outermost on; nothing
else of the stream changes but its PC and its count. -/
def Sys2Proof.Say.BranchLeavesLoops : Prop :=
  ∀ (s : State) (t : Word), quiet s = true → trapActive (curStream s) = false →
    ∃ left kept, (curStream s).loops = left ++ kept
      ∧ (∀ l ∈ left, ¬(l.start ≤ t ∧ t < l.stop)) ∧ (∀ l ∈ kept.head?, l.start ≤ t ∧ t < l.stop)
      ∧ curStream (retireTo t s) =
          { curStream s with pc := t, loops := kept, pos := (curStream s).pos + 1, wait := none }

/-! ## Queues, the rendezvous, LOOP, traps -/

namespace Sys2Proof.Say

/-- Where a stream stands at an instruction that is blocked since this cycle, or since an earlier one (R28). -/
def blocked (s : State) (k : WaitKind) : Result := .next (block s s.cur k)

/-- The queues of the executing job, and that nothing else of the job has changed. -/
def onlyQueues (s t : State) : Prop :=
  ∃ f, curJob t = { curJob s with queues := f } ∧ t.ms = s.ms ∧ t.parts = s.parts
    ∧ (curStream t).regs = (curStream s).regs ∧ (curStream t).preds = (curStream s).preds

end Sys2Proof.Say

/-- R75, R138: PUSHB appends P(a) to b0 from the L-stream and to b1 from the C-stream; with 32 entries there it blocks.
That it performs its stream's buffered WC stores is the model's choice (log 35). -/
def Sys2Proof.Say.PushOutcome : Prop :=
  ∀ (s : State) (g : Guard) (a : BitVec 4) (q : Fin 2), ready s 4 (some g) = true →
    (s.cur.strm = .l ∧ q = 0 ∨ s.cur.strm = .c ∧ q = 1) →
    ((curJob s).queues.b[q].length < 32 →
      ∃ t, exec (.pushb g a) s = .next (retire 4 t) ∧ Say.onlyQueues (drainWc s s.cur) t
        ∧ (curJob t).queues.b[q] = (curJob s).queues.b[q] ++ [rp s a]
        ∧ (curJob t).queues.b[1 - q] = (curJob s).queues.b[1 - q]
        ∧ (curJob t).queues.sq = (curJob s).queues.sq ∧ (curJob t).queues.q = (curJob s).queues.q)
    ∧ (¬(curJob s).queues.b[q].length < 32 → exec (.pushb g a) s = Say.blocked s (.queue (12 + q.val)))

/-- R75, R138: BRQ pops the head of b0 in the C-stream, of b1 in the S-stream, and branches where v XOR pn is 1; what
the stream reads later is read after it. On an empty queue it blocks. -/
def Sys2Proof.Say.BranchOutcome : Prop :=
  ∀ (s : State) (q pn ht : Bool) (o : BitVec 17), quiet s = true → plain s 4 = true →
    s.cur.strm = (if q then .s else .c) →
    let n : Fin 2 := if q then 1 else 0
    ((curJob s).queues.b[n] = [] → exec (.brq q pn ht o) s = Say.blocked s (.queue (12 + n.val)))
    ∧ (∀ v rest, (curJob s).queues.b[n] = v :: rest →
      ∃ t, Say.onlyQueues (orderReads s s.cur) t ∧ (curJob t).queues.b[n] = rest
        ∧ (curJob t).queues.b[1 - n] = (curJob s).queues.b[1 - n]
        ∧ (curJob t).queues.sq = (curJob s).queues.sq ∧ (curJob t).queues.q = (curJob s).queues.q
        ∧ exec (.brq q pn ht o) s =
            (if (v ^^ pn) = true then .next (retireTo ((curStream s).pc + BitVec.ofInt 64 (o.toInt * 4)) t)
             else .next (retire 4 t)))

/-- R27, R138, R189: SQPUSH appends S(a) to its queue, SQPOP moves the head into S(d); the writing and the reading
stream are those of R27. A full queue, or an empty one, blocks. That SQPUSH performs its stream's buffered WC stores is
the model's choice (log 35). -/
def Sys2Proof.Say.ScalarQueues : Prop :=
  ∀ (s : State) (g : Guard) (f : BitVec 2), ready s 4 (some g) = true →
    let q := (curJob s).queues.sq[f.toFin]
    (∀ a, s.cur.strm = (if f = 0 then .l else if f = 3 then .s else .c) →
      (q.length < 16 →
        ∃ t, exec (.sqpush g f a) s = .next (retire 4 t) ∧ Say.onlyQueues (drainWc s s.cur) t
          ∧ (curJob t).queues.sq = (curJob s).queues.sq.set f.toNat (q ++ [rd s a])
          ∧ (curJob t).queues.q = (curJob s).queues.q ∧ (curJob t).queues.b = (curJob s).queues.b)
      ∧ (¬q.length < 16 → exec (.sqpush g f a) s = Say.blocked s (.queue (8 + f.toNat))))
    ∧ (∀ d, s.cur.strm = (if f = 0 then .c else if f = 1 then .s else .l) →
      (q = [] → exec (.sqpop g f d) s = Say.blocked s (.queue (8 + f.toNat)))
      ∧ (∀ v rest, q = v :: rest →
        ∃ t, exec (.sqpop g f d) s = .next (retire 4 (wr t d v)) ∧ Say.onlyQueues (orderReads s s.cur) t
          ∧ (curJob t).queues.sq = (curJob s).queues.sq.set f.toNat rest
          ∧ (curJob t).queues.q = (curJob s).queues.q ∧ (curJob t).queues.b = (curJob s).queues.b))

namespace Sys2Proof.Say

/-- The rotating values that a LOOP uses: a field that is all zero is unused (R76). -/
def ringsOf (o : LoopOp) : List RotField :=
  [o.rot0, o.rot1, o.rot2, o.rot3, o.rot4, o.rot5, o.rot6, o.rot7].filter fun r => r.base != 0 || r.len != 0

/-- The rows of a rotating value (R76). -/
def RingRow (r : RotField) (row : Nat) : Prop := r.base.toNat ≤ row ∧ row ≤ r.base.toNat + r.len.toNat

/-- Where the body of a LOOP begins and ends (R77). -/
def bodyOf (s : State) (o : LoopOp) : Word × Word :=
  ((curStream s).pc + 24, (curStream s).pc + 24 + BitVec.ofNat 64 (4 * o.body.toNat))

/-- None of R77's cases, in its order. Within the handler, the LOOPs suspended meanwhile do not confine a body
(R429). -/
def LoopLegal (s : State) (o : LoopOp) : Prop :=
  o.body ≠ 0 ∧ (o.st = 0 ↔ o.sp = 0) ∧ o.sp.toNat + o.st.toNat ≤ 15
    ∧ (∀ r ∈ ringsOf o, r.base.toNat + r.len.toNat ≤ 1023)
    ∧ (ringsOf o).Pairwise (fun x y => ∀ row, ¬(RingRow x row ∧ RingRow y row))
    ∧ (ringsOf o ≠ [] → s.cur.strm = .c)
    ∧ (curStream s).loops.length < 4
    ∧ (∀ x ∈ (curStream s).loops, trapActive (curStream s) = false ∨ x.inHandler = true →
        x.start ≤ (bodyOf s o).1 ∧ (bodyOf s o).2 ≤ x.stop)
    ∧ ∀ x ∈ (curStream s).loops, o.sp ≠ 0 → x.sp ≠ 0 →
        ∀ k, ¬((o.sp.toNat ≤ k ∧ k ≤ o.sp.toNat + o.st.toNat) ∧ x.sp ≤ k ∧ k < x.sp + x.stages)

end Sys2Proof.Say

/-- R76 to R78: a LOOP that is none of R77's cases becomes the innermost active one, in kernel iteration 0 with its
stage predicates set and every other predicate as it was, and the stream goes on at its start; with a trip count of 0
the stream goes on at its end. In each of R77's cases LOOP is ILLEGAL. -/
def Sys2Proof.Say.LoopEntry : Prop :=
  ∀ (s : State) (o : LoopOp), quiet s = true → plain s 24 = true →
    (¬Say.LoopLegal s o → exec (.loop o) s = .next (trapNow s (.loop o) .illegal 0 0))
    ∧ (Say.LoopLegal s o → rd s o.trip ≠ 0 →
      ∃ st, exec (.loop o) s = .next (modCurStream s fun _ => st)
        ∧ st.loops = { start := (Say.bodyOf s o).1, stop := (Say.bodyOf s o).2,
                       stages := o.st.toNat + 1, sp := o.sp.toNat, rots := Say.ringsOf o, trips := (rd s o.trip).toNat,
                       j := 0, inHandler := trapActive (curStream s) } :: (curStream s).loops
        ∧ st.pc = (curStream s).pc + 24
        ∧ st = { curStream s with pc := st.pc, loops := st.loops, preds := st.preds, pos := (curStream s).pos + 1, wait := none }
        ∧ ∀ k < 16, st.preds.getLsbD k =
            (if o.st ≠ 0 ∧ o.sp.toNat ≤ k ∧ k ≤ o.sp.toNat + o.st.toNat then decide (k = o.sp.toNat)
             else (curStream s).preds.getLsbD k))
    ∧ (Say.LoopLegal s o → rd s o.trip = 0 → (∀ x ∈ (curStream s).loops, x.stop ≠ (Say.bodyOf s o).2) →
      exec (.loop o) s = .next (modCurStream s fun st =>
        { st with pc := (Say.bodyOf s o).2, pos := st.pos + 1, wait := none }))

/-- R78: where the end of the innermost LOOP is reached with kernel iterations to come, the stream goes on at its
start with the next j, and the stage predicate of stage k is true exactly when 0 ≤ j − k < n; after the last
iteration the LOOP is no longer active, its stage predicates are false, and the stream goes on at its end. -/
def Sys2Proof.Say.LoopEnd : Prop :=
  ∀ (s : State) (l : LoopState) (rest : List LoopState) (g : Guard),
    quiet s = true → trapActive (curStream s) = false → (curStream s).loops = l :: rest →
    (curStream s).pc + 4 = l.stop → l.start < l.stop → (curStream s).pc < l.stop →
    (l.sp = 0 ∧ l.stages = 1 ∨ 1 ≤ l.sp ∧ 1 ≤ l.stages ∧ l.sp + l.stages ≤ 16) → 1 ≤ l.trips →
    (∀ x ∈ rest, x.stop ≠ l.stop ∧ ((curStream s).pc < x.stop → l.stop ≤ x.stop)) →
    ∃ st, exec (.nop g) s = .next (modCurStream s fun _ => st)
      ∧ st = { curStream s with pc := st.pc, loops := st.loops, preds := st.preds, pos := (curStream s).pos + 1, wait := none }
      ∧ (l.j + 1 < l.trips + l.stages - 1 →
          st.pc = l.start ∧ st.loops = { l with j := l.j + 1 } :: rest
          ∧ ∀ k < l.stages, l.sp ≠ 0 → st.preds.getLsbD (l.sp + k) = decide (k ≤ l.j + 1 ∧ l.j + 1 - k < l.trips))
      ∧ (¬l.j + 1 < l.trips + l.stages - 1 →
          st.pc = l.stop ∧ st.loops = rest ∧ ∀ k < l.stages, l.sp ≠ 0 → st.preds.getLsbD (l.sp + k) = false)
      ∧ ∀ k < 16, (l.sp = 0 ∨ k < l.sp ∨ l.sp + l.stages ≤ k) → st.preds.getLsbD k = (curStream s).preds.getLsbD k

/-- R426, R427: outside its handler, with a handler address, a trap writes the trap registers of its stream, saves
the return point, and goes on at TRVEC; no register, predicate or LOOP changes. (A wait that ends so is a sample of
the monitors that are enabled, R475.) -/
def Sys2Proof.Say.TrapEntry : Prop :=
  ∀ (s : State) (h : Hart) (t : TrapInfo) (st : Stream), Tab.get? s.strs (hartKey h) = some st →
    trapActive st = false → st.trap.vec ≠ 0 → traceOn s (getJob s (jobKey h)).ids.part = false →
    ∃ st', takeTrap s h t = modStream (sampleWait s h) h (fun _ => st')
      ∧ st'.pc = st.trap.vec ∧ st'.returnPoint = st.pc
      ∧ st'.trap.pc = t.pc ∧ st'.trap.addr = t.addr ∧ st'.trap.token = t.token ∧ st'.trap.vec = st.trap.vec
      ∧ (∀ i : Fin 6, st'.trap.words[i] = BitVec.ofNat 64 (t.words.getD i 0))
      ∧ bitsOf st'.trap.cause 0 8 = t.cause.code ∧ bitOf st'.trap.cause 8 = t.defer
      ∧ bitOf st'.trap.cause 9 = true ∧ bitOf st'.trap.cause 10 = t.skip ∧ bitsOf st'.trap.cause 11 53 = 0
      ∧ st'.regs = st.regs ∧ st'.preds = st.preds ∧ st'.loops = st.loops

/-- R427, R428: a trap in the handler, or without a handler address, aborts the job: it stops, keeps the fault
record of its first cause, and no stream changes. (Waits that end so are samples, R475.) -/
def Sys2Proof.Say.TrapAbort : Prop :=
  ∀ (s : State) (h : Hart) (t : TrapInfo) (j : Job), Tab.get? s.jobs (jobKey h) = some j → j.phase = .running →
    trapActive (getStream s h) = true ∨ (getStream s h).trap.vec = 0 →
    ∃ r, takeTrap s h t = modJob (sampleJobWaits s h.core h.slot) (jobKey h) (fun _ => { j with phase := .aborting (cycleOf s h.core) r })
      ∧ r.length = 128 ∧ r.take 1 = [BitVec.ofNat 8 t.cause.code]

namespace Sys2Proof.Say

/-- The executing stream takes a precise trap that counts its instruction as issued, and goes on at its handler:
nothing else of the machine changes (R426, R427, R430). -/
def trapped (s : State) (i : Instr) (cause : Word) (addr : Word) : State :=
  modCurStream s fun st =>
    { st with
      pos := st.pos + 1, wait := none, stand := none, arrived := none, arming := false
      returnPoint := st.pc, pc := st.trap.vec
      trap := { st.trap with cause := cause, pc := st.pc, words := trapWords (encode i), addr := addr, token := 0 } }

/-- An instruction aborts its job in a handler, with this cause (R428). -/
def aborts (s : State) (i : Instr) (code : Byte) : Prop :=
  ∃ t r, exec i s = .next t ∧ (curJob t).phase = .aborting (cycleOf s s.cur.core) r ∧ r.take 1 = [code]

end Sys2Proof.Say

/-- R430: TRAPI (S-class 0x4B, SU, unguarded) takes SWTRAP precisely with TRADDR := imm18 and SKIP = 1; it counts as
issued. Its d field must be zero, or the instruction is ILLEGAL: the word decodes to nothing. In a handler it aborts
the job. The word of trapi #5 is 0x0001_412C. -/
def Obligations.SoftwareTrap : Prop :=
  (∀ (s : State) (imm : BitVec 18), quiet s = true → plain s 4 = true →
    (trapActive (curStream s) = false → (curStream s).trap.vec ≠ 0 →
      exec (.trapi imm) s = .next (Say.trapped s (.trapi imm) 0x611 (imm.setWidth 64)))
    ∧ (trapActive (curStream s) = true → (curJob s).phase = .running → Say.aborts s (.trapi imm) 0x11))
  ∧ (∀ (d : Reg) (imm : BitVec 18), let w := 2 ^ 2 * 0x4B + 2 ^ 9 * d.toNat + 2 ^ 14 * imm.toNat
      (d = 0 → decode [w] = .ok (.trapi imm)) ∧ (d ≠ 0 → ∀ i, decode [w] ≠ .ok i))
  ∧ decodeTableWord 32 0x0001412C = some (.trapi 5)

/-- R429, R431: TRET clears ACTIVE and resumes at the return point where DEFER is set, after the instruction at TRPC
where SKIP is set, and at TRPC otherwise; the handler's LOOPs are no longer active, and no other state changes.
Outside a handler it is ILLEGAL. Its word is 0x0000_0130, and with any other value in a field it decodes to nothing.
-/
def Obligations.TrapReturn : Prop :=
  decodeTableWord 32 0x00000130 = some .tret
  ∧ (∀ w, w < 2 ^ 32 → w % 512 = 0x130 → w ≠ 0x130 → ∀ i, decode [w] ≠ .ok i)
  ∧ ∀ (s : State), quiet s = true → plain s 4 = true →
    (trapActive (curStream s) = false → exec .tret s = .next (trapNow s .tret .illegal 0 0))
    ∧ (∀ t : Word, trapActive (curStream s) = true →
      t = (if bitOf (curStream s).trap.cause 8 then (curStream s).returnPoint
           else if bitOf (curStream s).trap.cause 10 then (curStream s).trap.pc +
             (if (curStream s).trap.words[0].toNat % 4 = 1 then 12
              else if (curStream s).trap.words[0].toNat % 4 = 2 then 24 else 4)
           else (curStream s).trap.pc) →
      (∀ l ∈ (curStream s).loops, l.inHandler = false → l.stop ≠ t) →
      exec .tret s = .next (modCurStream s fun st =>
        { st with
          pc := t, pos := st.pos + 1, wait := none
          trap := { st.trap with cause := st.trap.cause &&& 0xFFFFFFFFFFFFFDFF }
          loops := st.loops.filter fun l => !l.inHandler }))

/-- R468: BRK (S-class 0x4D, SU, unguarded) takes BREAK precisely with TRADDR = tag and SKIP = 1, unless debug control
bit 0 is set and the partition is not sealed: then the partition stops, for reason 2 with the tag recorded, and the
BRK counts as issued. In a handler BRK aborts the job. Its d field must be zero, or the word decodes to nothing. -/
def Obligations.Break : Prop :=
  (∀ (s : State) (imm : BitVec 18), quiet s = true → plain s 4 = true →
    (trapActive (curStream s) = false → bitOf (getDebug s (curPart s)).buffer 0 = false ∨ isSealed s (curPart s) = true →
      (curStream s).trap.vec ≠ 0 → exec (.brk imm) s = .next (Say.trapped s (.brk imm) 0x612 (imm.setWidth 64)))
    ∧ (trapActive (curStream s) = false → bitOf (getDebug s (curPart s)).buffer 0 = true →
      isSealed s (curPart s) = false →
      exec (.brk imm) s = .next (retire 4 (requestStop s (curPart s) 2 imm.toNat)))
    ∧ (trapActive (curStream s) = true → (curJob s).phase = .running → Say.aborts s (.brk imm) 0x12))
  ∧ (∀ p, bitOf (getDebug State.reset p).buffer 0 = false)
  ∧ ∀ (d : Reg) (imm : BitVec 18), let w := 2 ^ 2 * 0x4D + 2 ^ 9 * d.toNat + 2 ^ 14 * imm.toNat
      (d = 0 → decode [w] = .ok (.brk imm)) ∧ (d ≠ 0 → ∀ i, decode [w] ≠ .ok i)

/-- R472, R476: SNAP fires the trigger of its number and TRCM writes a value marker where the partition traces
values; to the program both are like NOP. -/
def Sys2Proof.Say.Observation : Prop :=
  ∀ (s : State), quiet s = true → plain s 4 = true →
    (∀ imm, exec (.snap imm) s = .next (retire 4 (fireTrigger s (curPart s) (BitVec.toNat imm) 0)))
    ∧ (∀ a imm, exec (.trcm a imm) s = .next (retire 4 s))

/-! ## Memory -/

namespace Sys2Proof.Say

/-- Where an access to global memory leads (R388, R395, R409): in device memory to the translated address; on a host
page, where the link carries the partition's traffic and the host's translation is at hand, to the host's address. -/
def Reaches (s : State) (k : AccKind) (va : Word) (x : Xl) : Prop :=
  ∃ y, translate s (curPart s) (curJob s).ids.pasid va k s.cur.core = .ok y
    ∧ (isHostPa y.pa = false ∧ x = y
      ∨ isHostPa y.pa = true ∧ linkCarries s (curPart s) (hostPort y.pa) = true
        ∧ hostPage s (curAgent s).who (clusterOf s.cur.core) y.pa = .ready
        ∧ x = { y with pa := hostReach s (clusterOf s.cur.core) y.pa })

/-- An access of `n` bytes at an aligned virtual address meets nothing that could stop it: its job holds no child
operation, no stash window is mapped as its stream sees them, and the cell lies in the grant, or in global memory where
it is reached, and is not poisoned. -/
def place (s : State) (k : AccKind) (va : Word) (n : Nat) (c : Cell) : Prop :=
  va.toNat % n = 0 ∧ (∀ e ∈ (curCore s).tokens, e.2.holder ≠ some (curJob s).ids.jobid) ∧ (∀ w < 4, stashSizeOf (viewedJob s) w = 0) ∧
  match c with
  | .spad sp win => win = none ∧ inSpadWindow va = true ∧ (curJob s).sealedSet = []
      ∧ grantAddr s.cur.core (curJob s).grant (va.toNat - Config.spadWindow) n = some sp
      ∧ spadPoisonIn s sp n = none
  | .glob x => inSpadWindow va = false ∧ Reaches s k va x ∧ poisonIn s (curAgent s).view x.pa n = none

/-- What the executing stream reads in a cell: in the scratchpad the bytes there; in memory the bytes its job sees,
with the stream's own buffered stores laid over them where the page is WC. Granules that the stream has read ahead of
program order it reads as it has read them (R103, log 119), but not on UC pages and through the compressed view. -/
def seen (s : State) (c : Cell) (n : Nat) : List Byte :=
  match c with
  | .spad sp _ => withEarly s s.cur .spad sp (Memory.bytes s.ms.spad sp n)
  | .glob x =>
    let bs := readPa s (curAgent s).view x.cmp x.pa n
    let bs := if effType x = 2 ∨ x.cmp = true then bs else withEarly s s.cur .glob x.pa bs
    if effType x = 1 then ownWc s s.cur x.pa bs else bs

/-- After a load its stream reads nothing older in the cell, and agents that read through the LLC no older value than
the one it has read (R104, R105). A load from a line that is stored compressed uses up a free choice of R102. -/
def afterLoad (s : State) (c : Cell) (n : Nat) : State :=
  match c with
  | .spad sp _ => dropEarly s s.cur (spadPlaces sp n)
  | .glob x => dropEarly (useFresh (readSeen s (curAgent s).view x.pa n) x.pa n) s.cur (globPlaces x.pa n)

/-- A store of the executing stream in a cell: into the scratchpad at once; into memory as R94 and R113 say. -/
def afterStore (s : State) (c : Cell) (bs : List Byte) : State :=
  match c with
  | .spad sp _ => ownStore s sp bs
  | .glob x => storeGlobal s (curAgent s) x bs

/-- A store's version fits the quota (R116, R436); an UC store needs none. -/
def fits (s : State) (c : Cell) (n : Nat) : Prop :=
  match c with
  | .spad .. => True
  | .glob x => effType x = 2 ∨ quotaOk s (curJob s).ids.jobid (curJob s).ids.verQuota x.pa n = true

/-- The number whose little-endian bytes these are, sign- or zero-extended from their width (R174). -/
def widened (signed : Bool) (bs : List Byte) : Word :=
  match signed, bs.length with
  | true, 1 => (BitVec.ofNat 8 (ofLe bs)).signExtend 64
  | true, 2 => (BitVec.ofNat 16 (ofLe bs)).signExtend 64
  | true, 4 => (BitVec.ofNat 32 (ofLe bs)).signExtend 64
  | _, _ => BitVec.ofNat 64 (ofLe bs)

/-- The loads: guard, destination, address, width, sign, and the post-incremented register with its new value
(R174, R175). -/
def loadForm (s : State) : Instr → Option (Option Guard × Reg × Word × Nat × Bool × Option (Reg × Word))
  | .ldb d a i => some (none, d, rd s a + i.signExtend 64, 1, true, none)
  | .ldbu d a i => some (none, d, rd s a + i.signExtend 64, 1, false, none)
  | .ldh d a i => some (none, d, rd s a + i.signExtend 64, 2, true, none)
  | .ldhu d a i => some (none, d, rd s a + i.signExtend 64, 2, false, none)
  | .ldw d a i => some (none, d, rd s a + i.signExtend 64, 4, true, none)
  | .ldwu d a i => some (none, d, rd s a + i.signExtend 64, 4, false, none)
  | .ldd d a i => some (none, d, rd s a + i.signExtend 64, 8, false, none)
  | .ldpiB g d a b => some (some g, d, rd s a, 1, true, some (a, rd s a + rd s b))
  | .ldpiBu g d a b => some (some g, d, rd s a, 1, false, some (a, rd s a + rd s b))
  | .ldpiH g d a b => some (some g, d, rd s a, 2, true, some (a, rd s a + rd s b))
  | .ldpiHu g d a b => some (some g, d, rd s a, 2, false, some (a, rd s a + rd s b))
  | .ldpiW g d a b => some (some g, d, rd s a, 4, true, some (a, rd s a + rd s b))
  | .ldpiWu g d a b => some (some g, d, rd s a, 4, false, some (a, rd s a + rd s b))
  | .ldpiD g d a b => some (some g, d, rd s a, 8, false, some (a, rd s a + rd s b))
  | _ => none

/-- The stores: guard, source, address, width, and the post-incremented register with its new value. -/
def storeForm (s : State) : Instr → Option (Option Guard × Reg × Word × Nat × Option (Reg × Word))
  | .stb d a i => some (none, d, rd s a + i.signExtend 64, 1, none)
  | .sth d a i => some (none, d, rd s a + i.signExtend 64, 2, none)
  | .stw d a i => some (none, d, rd s a + i.signExtend 64, 4, none)
  | .std d a i => some (none, d, rd s a + i.signExtend 64, 8, none)
  | .stpiB g d a b => some (some g, d, rd s a, 1, some (a, rd s a + rd s b))
  | .stpiH g d a b => some (some g, d, rd s a, 2, some (a, rd s a + rd s b))
  | .stpiW g d a b => some (some g, d, rd s a, 4, some (a, rd s a + rd s b))
  | .stpiD g d a b => some (some g, d, rd s a, 8, some (a, rd s a + rd s b))
  | _ => none

/-- The post-increment, where there is one. -/
def post (s : State) : Option (Reg × Word) → State
  | some (a, v) => wr s a v
  | none => s

/-- The read-modify-write instructions of a cell: scope and acquire bit, destination, address register, and what is
stored where the old value is `v` (R176, R177). -/
def atomicForm (s : State) : Instr → Option (ScopeAcq × Reg × Reg × (Word → Option Word))
  | .amoAdd q d a b => some (q, d, a, fun v => some (v + rd s b))
  | .amoMin q d a b => some (q, d, a, fun v => some (if (rd s b).slt v then rd s b else v))
  | .amoMax q d a b => some (q, d, a, fun v => some (if v.slt (rd s b) then rd s b else v))
  | .amoMinu q d a b => some (q, d, a, fun v => some (if rd s b < v then rd s b else v))
  | .amoMaxu q d a b => some (q, d, a, fun v => some (if v < rd s b then rd s b else v))
  | .amoAnd q d a b => some (q, d, a, fun v => some (v &&& rd s b))
  | .amoOr q d a b => some (q, d, a, fun v => some (v ||| rd s b))
  | .amoSwap q d a b => some (q, d, a, fun _ => some (rd s b))
  | .cas q d a b => some (q, d, a, fun v => if v = rd s d then some (rd s b) else none)
  | _ => none

/-- A synchronisation instruction has made the checks of its access: its stream reads nothing older in the cell from
then on (R104, R105). -/
def accessed (s : State) (c : Cell) (n : Nat) : State := cellSeen s (curAgent s) c n

/-- The word in a cell as the executing job reads it. -/
def wordAt (s : State) (c : Cell) (n : Nat) : Word := BitVec.ofNat 64 (ofLe (cellRead s (curAgent s).view c n))

/-- Where the cell of a synchronisation instruction may lie: in memory on a WB page. -/
def isWb (c : Cell) : Prop := match c with | .spad .. => True | .glob x => effType x = 0

def isGlobal (c : Cell) : Prop := match c with | .spad .. => False | .glob _ => True

/-- The acquire that an acquire bit asks for. -/
def acquired (s : State) (q : ScopeAcq) : State := if q.acq then acquireSide s q.scope.toNat else s

end Sys2Proof.Say

/-- R174, R175: a load moves the bytes at its address into S(d), extended from its width, and a post-increment form
adds S(b) to S(a) as it was; nothing else changes, memory least of all. -/
def Sys2Proof.Say.Loads : Prop :=
  ∀ (i : Instr) (s : State) (g : Option Guard) (d : Reg) (va : Word) (n : Nat) (sg : Bool) (p : Option (Reg × Word))
    (c : Cell), Say.loadForm s i = some (g, d, va, n, sg, p) → ready s 4 g = true → Say.place s .read va n c →
    exec i s = .next (retire 4 (Say.post (wr (Say.afterLoad s c n) d (Say.widened sg (Say.seen s c n))) p))

/-- R172, R174, R175: a store puts the low bytes of S(d) in the cell at its address, and a post-increment form adds
S(b) to S(a). -/
def Sys2Proof.Say.Stores : Prop :=
  ∀ (i : Instr) (s : State) (g : Option Guard) (d : Reg) (va : Word) (n : Nat) (p : Option (Reg × Word)) (c : Cell),
    Say.storeForm s i = some (g, d, va, n, p) → ready s 4 g = true → Say.place s .write va n c → Say.fits s c n →
    exec i s = .next (retire 4 (Say.post (Say.afterStore s c (leBytes n (rd s d).toNat)) p))

/-- R395, R409: a load or store on a host page waits while the host has not answered the request for the page, and takes
XLATE where the request is refused; where the link carries none of the partition's traffic it takes PERM. Which agents
wait for a page is the model's choice (log 30), and so is the cause at the link (log 31). -/
def Sys2Proof.Say.HostPages : Prop :=
  ∀ (i : Instr) (s : State) (g : Option Guard) (va : Word) (n : Nat) (k : AccKind) (y : Xl),
    ((∃ d sg p, Say.loadForm s i = some (g, d, va, n, sg, p)) ∧ k = .read
      ∨ (∃ d p, Say.storeForm s i = some (g, d, va, n, p)) ∧ k = .write) →
    ready s 4 g = true → va.toNat % n = 0 → inSpadWindow va = false → (∀ w < 4, stashSizeOf (viewedJob s) w = 0) →
    translate s (curPart s) (curJob s).ids.pasid va k s.cur.core = .ok y → isHostPa y.pa = true →
    let carries := linkCarries s (curPart s) (hostPort y.pa)
    let page := hostPage s (curAgent s).who (clusterOf s.cur.core) y.pa
    (carries = false → exec i s = .next (trapNow s i .perm va 0))
    ∧ (carries = true → page = .refused → exec i s = .next (trapNow s i .xlate va 0))
    ∧ (carries = true → page = .waits → exec i s = Say.blocked s (.host (y.pa / 4096)))

namespace Sys2Proof.Say

/-- An aligned virtual address in the one mapped stash window that holds it, as its stream sees the windows: the window,
the line of it, the place of the byte and of its line in the scratchpads, and where the line is filled from (R96, R97).
The access itself is translated too, and its job holds no child operation. -/
structure InWindow (s : State) (k : AccKind) (va : Word) (n w sp base : Nat) (y : Xl) : Prop where
  aligned : va.toNat % n = 0
  noOps : ∀ e ∈ (curCore s).tokens, e.2.holder ≠ some (curJob s).ids.jobid
  global : inSpadWindow va = false
  lt : w < 4
  mapped : stashSizeOf (viewedJob s) w ≠ 0
  holds : stashVbase (viewedJob s) w ≤ va.toNat ∧ va.toNat < stashVbase (viewedJob s) w + stashSizeOf (viewedJob s) w
  one : ∀ x < 4, x ≠ w → ¬(stashVbase (viewedJob s) x ≤ va.toNat
    ∧ va.toNat < stashVbase (viewedJob s) x + stashSizeOf (viewedJob s) x)
  line : grantAddr s.cur.core (curJob s).grant
    (stashLineOf (viewedJob s) w * 256 + (va.toNat - stashVbase (viewedJob s) w) / 256 * 256) 256 = some base
  byte : grantAddr s.cur.core (curJob s).grant
    (stashLineOf (viewedJob s) w * 256 + (va.toNat - stashVbase (viewedJob s) w)) n = some sp
  access : ∃ x, Reaches s k va x
  source : Reaches s .read (BitVec.ofNat 64 (va.toNat / 256 * 256)) y
  whole : y.pa % 256 = 0
  inOrder : s.ms.early = []
  memory : memOk s = true

/-- Whether the line that holds an address of a window has been filled. -/
def filled (s : State) (va : Word) (w : Nat) : Bool :=
  (stashFind s (viewedJob s) w ((va.toNat - stashVbase (viewedJob s) w) / 256)).isSome

/-- The line of a window that holds an address is registered. -/
def registered (s t : State) (va : Word) (w : Nat) (p : StashLine → Prop) : Prop :=
  ∃ l ∈ t.ms.stash, l.job = (curJob s).ids.jobid ∧ l.win = w
    ∧ l.line = (va.toNat - stashVbase (viewedJob s) w) / 256 ∧ p l

end Sys2Proof.Say

/-- R97, R98: a load at an address of a mapped stash window reads the scratchpad. Where the line has been filled, it
returns what the scratchpad holds, whatever memory holds by now; the first access to a line fills it with the 256 bytes
that the job reads in memory, and registers it clean. -/
def Sys2Proof.Say.StashLoads : Prop :=
  ∀ (i : Instr) (s : State) (g : Option Guard) (d : Reg) (va : Word) (n : Nat) (sg : Bool) (p : Option (Reg × Word))
    (w sp base : Nat) (y : Xl), Say.loadForm s i = some (g, d, va, n, sg, p) → ready s 4 g = true →
    Say.InWindow s .read va n w sp base y →
    (Say.filled s va w = true → spadPoisonIn s sp n = none →
      exec i s = .next (retire 4 (Say.post (wr s d (Say.widened sg (Memory.bytes s.ms.spad sp n))) p)))
    ∧ (Say.filled s va w = false → poisonIn s (curAgent s).view y.pa 256 = none →
      ∃ u, exec i s = .next (retire 4 (Say.post (wr u d (Say.widened sg (Memory.bytes u.ms.spad sp n))) p))
        ∧ Memory.bytes u.ms.spad base 256 = readPa s (curAgent s).view y.cmp y.pa 256
        ∧ Say.registered s u va w (fun l => l.pa = y.pa ∧ l.dirty = 0)
        ∧ u.ms.mem = s.ms.mem ∧ u.ms.wet = s.ms.wet ∧ ∀ r, rd u r = rd s r)

/-- R97: a store at an address of a mapped stash window fills its line on the first access, writes the scratchpad, and
makes the granules that it writes dirty; memory and the job's wet versions keep what they held. -/
def Sys2Proof.Say.StashStores : Prop :=
  ∀ (i : Instr) (s : State) (g : Option Guard) (d : Reg) (va : Word) (n : Nat) (p : Option (Reg × Word))
    (w sp base : Nat) (y : Xl), Say.storeForm s i = some (g, d, va, n, p) → ready s 4 g = true →
    Say.InWindow s .write va n w sp base y → (curJob s).sealedSet = [] → s.ms.split = none →
    let was := fun a => if Say.filled s va w then Memory.byte s.ms.spad a
      else (readPa s (curAgent s).view y.cmp y.pa 256).getD (a - base) 0
    ∃ u, exec i s = .next (retire 4 (Say.post u p))
      ∧ Memory.bytes u.ms.spad sp n = leBytes n (rd s d).toNat
      ∧ (∀ a, base ≤ a → a < base + 256 → (a < sp ∨ sp + n ≤ a) → Memory.byte u.ms.spad a = was a)
      ∧ Say.registered s u va w (fun l => l.dirty.getLsbD (va.toNat % 256 / 8) = true)
      ∧ u.ms.mem = s.ms.mem ∧ u.ms.wet = s.ms.wet ∧ ∀ r, rd u r = rd s r

/-- R172: a load or store whose address is not a multiple of its width takes ALIGN with the address in TRADDR,
before any other check of the access, and changes no register and no memory. -/
def Sys2Proof.Say.Misaligned : Prop :=
  ∀ (i : Instr) (s : State) (g : Option Guard) (va : Word) (n : Nat),
    ((∃ d sg p, Say.loadForm s i = some (g, d, va, n, sg, p)) ∨ ∃ d p, Say.storeForm s i = some (g, d, va, n, p)) →
    ready s 4 g = true → va.toNat % n ≠ 0 →
    exec i s = .next (trapNow s i .align va 0)

namespace Sys2Proof.Say

/-- The executing job is the one that its JOBID names, and no agent without a job. -/
def named (s : State) : Prop := (curJob s).ids.jobid ≠ 0 ∧ jobView s (curJob s).ids.jobid = (curAgent s).view

end Sys2Proof.Say

/-- R113, R115, and the frame of a store to scratchpad or WB memory: the stored bytes read back, every other byte that
any other job or agent reads is what it was. A WB store is wet: plain memory keeps what it held. (The store is not
one of those whose granules are written apart, R103.) -/
def Sys2Proof.Say.StoreFrame : Prop :=
  ∀ (s : State) (c : Cell) (va : Word) (n : Nat) (v : Nat), quiet s = true → memOk s = true → (n = 1 ∨ n = 2 ∨ n = 4 ∨ n = 8) →
    Say.place s .write va n c → s.ms.split = none → Say.named s →
    match c with
    | .spad sp _ =>
      let t := Say.afterStore s c (leBytes n v)
      Memory.bytes t.ms.spad sp n = leBytes n v
      ∧ (∀ a, a < sp ∨ sp + n ≤ a → Memory.byte t.ms.spad a = Memory.byte s.ms.spad a)
      ∧ t.ms.mem = s.ms.mem ∧ t.ms.wet = s.ms.wet
    | .glob x =>
      effType x = 0 → x.pa % n = 0 →
      let t := Say.afterStore s c (leBytes n v)
      readPa t (curAgent s).view x.cmp x.pa n = leBytes n v
      ∧ (∀ a, a < x.pa ∨ x.pa + n ≤ a →
          readPa t (curAgent s).view x.cmp a 1 = readPa s (curAgent s).view x.cmp a 1)
      ∧ (∀ (w : Viewer) a m, w.job ≠ (curJob s).ids.jobid → readPa t w x.cmp a m = readPa s w x.cmp a m)
      ∧ t.ms.mem = s.ms.mem ∧ t.ms.spad = s.ms.spad

/-- R115: a store to an UC page is never wet: memory itself holds the bytes, every other byte of it is what it
was, and no version is left behind. -/
def Sys2Proof.Say.UncachedStore : Prop :=
  ∀ (s : State) (x : Xl) (n v : Nat), quiet s = true → memOk s = true → (n = 1 ∨ n = 2 ∨ n = 4 ∨ n = 8) → effType x = 2 →
    x.cmp = false → x.pa % n = 0 →
    let t := storeGlobal s (curAgent s) x (leBytes n v)
    Memory.bytes t.ms.mem x.pa n = leBytes n v
    ∧ (∀ a, a < x.pa ∨ x.pa + n ≤ a → Memory.byte t.ms.mem a = Memory.byte s.ms.mem a)
    ∧ t.ms.spad = s.ms.spad ∧ t.ms.wc = s.ms.wc
    ∧ (t.ms.wet.map fun w => (w.job, w.granule)) = s.ms.wet.map fun w => (w.job, w.granule)

/-- R111, R176, R177: an AMO or CAS does the early cure and write-back of its scope, reads the cell, stores the new value where
there is one (CAS: where the old value is S(d)), does the acquire side where its acquire bit is set, and puts the old
value in S(d). -/
def Sys2Proof.Say.Atomics : Prop :=
  ∀ (i : Instr) (s : State) (q : ScopeAcq) (d a : Reg) (f : Word → Option Word) (c : Cell),
    Say.atomicForm s i = some (q, d, a, f) → ready s 4 none = true → Say.place s .atomic (rd s a) 8 c → Say.isWb c →
    let s0 := Say.accessed s c 8
    let s1 := cellNow (atomicSide s0 q.scope.toNat) c 8
    let old := Say.wordAt s1 c 8
    let s2 := match f old with
      | some v => cellWrite s1 (curAgent s1) c 0 (leBytes 8 v.toNat)
      | none => s1
    exec i s = .next (retire 4 (wr (Say.acquired s2 q) d old))

/-- R122, R178: an ordered update whose sequence number is NEXT adds its FP32 operand to VALUE, rounded once, and
advances NEXT; one ahead of NEXT is buffered; one behind it is dropped and counted as stale. (The cell has no
buffered update, so that nothing follows.) -/
def Sys2Proof.Say.OrderedAtomic : Prop :=
  ∀ (s : State) (q : ScopeAcq) (d a b : Reg) (x : Xl), ready s 4 none = true →
    Say.place s .atomic (rd s a) 16 (.glob x) → effType x = 0 → isHostPa x.pa = false → s.ms.amoq = [] →
    let c := Cell.glob x
    let s0 := Say.accessed s c 16
    let t := cellNow (atomicSide s0 q.scope.toNat) c 8
    let v := orderedCell t (curAgent t).view c
    let n : BitVec 32 := (rd s d).setWidth 32
    (n = v.2 →
      exec (.amoq q d a b) s = .next (retire 4 (Say.acquired (cellWrite t (curAgent t) c 0
        (leBytes 4 (fp32Add v.1 ((rd s b).setWidth 32)).toNat ++ leBytes 4 (v.2 + 1).toNat)) q)))
    ∧ (n ≠ v.2 → (n - v.2).toNat < 2 ^ 31 →
      exec (.amoq q d a b) s = .next (retire 4 (Say.acquired (modMs t fun m =>
        { m with amoq := [⟨Config.homeSlice (x.pa / 256) % Config.llcSlices, x.pa, n, (rd s b).setWidth 32⟩] }) q)))
    ∧ (2 ^ 31 ≤ (n - v.2).toNat →
      exec (.amoq q d a b) s = .next (retire 4 (Say.acquired (modPart t (curPart s) fun p =>
        { p with stale := satInc p.stale }) q)))

/-- R108 to R110, R179, R180: REL releases the writes to regions bound to its object and then adds one to RELCNT; ACQ
reads and then acquires on it; a FENCE does the sides that its form names. -/
def Sys2Proof.Say.ReleaseAcquire : Prop :=
  ∀ (s : State) (sc : BitVec 4), ready s 4 none = true →
    (∀ a c, Say.place s .atomic (rd s a) 16 c → Say.isWb c → Say.isGlobal c →
      let t := cellNow (countedRelease (releaseObject (Say.accessed s c 16) sc.toNat (rd s a))) c 8
      exec (.rel sc a) s = .next (retire 4 (cellWrite t (curAgent t) c 0
        (leBytes 8 (ofLe (cellRead t (curAgent t).view c 8) + 1)))))
    ∧ (∀ a c, Say.place s .read (rd s a) 16 c → Say.isWb c → Say.isGlobal c →
      exec (.acq sc a) s = .next (retire 4 (acquireObject (Say.accessed s c 16) sc.toNat (rd s a))))
    ∧ exec (.fenceAcqside sc) s = .next (retire 4 (acquireSide s sc.toNat))
    ∧ (let t := if sc = 0 then releaseSide s 0 else countedRelease (releaseSide s sc.toNat)
       exec (.fenceRelside sc) s = .next (retire 4 t)
       ∧ exec (.fenceFull sc) s = .next (retire 4 (acquireSide t sc.toNat)))

/-- R106, R114: a release performs the core's buffered WC stores and cures every wet version of the job: no wet
granule of the job is left. After a release at system scope no write of the stream, or of an operation it has waited
for, is late for any agent; after one on an object, no such write to a region bound to it. That the buffered stores of
the whole core, other jobs' among them, are performed is the model's choice (log 35), and so are what is late (log 119)
and that an object is named by its virtual address alone (log 127). -/
def Sys2Proof.Say.ReleaseCures : Prop :=
  ∀ (s : State) (sc : Nat) (o : Word),
    (∀ w ∈ (releaseSide s sc).ms.wet ++ (releaseObject s sc o).ms.wet, w.job ≠ (curJob s).ids.jobid)
    ∧ (∀ w ∈ (releaseSide s sc).ms.wc ++ (releaseObject s sc o).ms.wc, w.hart.core ≠ s.cur.core)
    ∧ (7 ≤ sc → (∀ e ∈ (releaseSide s sc).ms.late, e.byStream (curJob s).ids.jobid s.cur.strm = false)
      ∧ ∀ e ∈ (releaseObject s sc o).ms.late, e.byStream (curJob s).ids.jobid s.cur.strm = true →
          boundTo s o e.granule = false)

/-- R173, R182: WAITA waits until the granule compares with S(b) as its form says; then S(d) receives it. Of a WC page
it sees its stream's own buffered stores. -/
def Sys2Proof.Say.WaitOnWord : Prop :=
  ∀ (s : State) (q : ScopeAcq) (d a b : Reg) (c : Cell), ready s 4 none = true → Say.place s .read (rd s a) 8 c →
    let t := Say.accessed s c 8
    let v := polled t c
    let go := fun (cond : Prop) (i : Instr) =>
      (cond → exec i s = .next (retire 4 (wr (Say.acquired t q) d v)))
      ∧ (¬cond → exec i s = Say.blocked t (.value d v 2081))
    go (v ≠ rd s b) (.waitaNe q d a b) ∧ go (v = rd s b) (.waitaEq q d a b)
      ∧ go ((rd s b).toNat ≤ v.toNat) (.waitaGeu q d a b)

/-- R118, R119: an advance of a sync word takes place when a non-zero TARGET is reached: COUNT falls by TARGET and
GENERATION grows by one, modulo 2^32. The sum is exact when it is compared; COUNT holds it modulo 2^32. -/
def Sys2Proof.Say.SyncWordUpdate : Prop :=
  ∀ (w : SyncWord) (n : Nat),
    (w.target ≠ 0 → w.target ≤ w.count + n →
      w.add n = ⟨w.target, (w.count + n - w.target) % 2 ^ 32, (w.gen + 1) % 2 ^ 32⟩)
    ∧ (w.target = 0 ∨ w.count + n < w.target → w.add n = ⟨w.target, (w.count + n) % 2 ^ 32, w.gen⟩)

/-- R183, R184: SWSET writes TARGET from S(b)[31:0] and lets the word advance once, which writes COUNT and GENERATION;
without an advance they are not written. SWWAIT waits until GENERATION has
passed S(b), acquires, and puts GENERATION in S(d). -/
def Sys2Proof.Say.SyncWords : Prop :=
  ∀ (s : State) (q : ScopeAcq) (sc : BitVec 4) (d a b : Reg) (c : Cell), ready s 4 none = true → Say.isWb c →
    (Say.place s .atomic (rd s a) 16 c →
      let s0 := Say.accessed s c 16
      let t := cellNow (atomicSide s0 sc.toNat) c 16
      let w := syncRead t (curAgent t).view c
      let n := (rd s b).toNat % 2 ^ 32
      let set := cellWrite t (curAgent t) c 0 (leBytes 4 n)
      (n ≠ 0 → n ≤ w.count →
        exec (.swset sc a b) s = .next (retire 4 (cellWrite (cellWrite set (curAgent t) c 4 (leBytes 4 (w.count - n)))
          (curAgent t) c 8 (leBytes 4 ((w.gen + 1) % 2 ^ 32)))))
      ∧ (n = 0 ∨ w.count < n → exec (.swset sc a b) s = .next (retire 4 set)))
    ∧ (Say.place s .read (rd s a) 16 c →
      let t := Say.accessed s c 16
      let g := ofLe (slice (cellRead t (curAgent t).view c 16) 8 4)
      (passed g (rd s b).toNat = true →
        exec (.swwait q d a b) s = .next (retire 4 (wr (acquireSide t q.scope.toNat) d (BitVec.ofNat 64 g))))
      ∧ (passed g (rd s b).toNat = false →
        exec (.swwait q d a b) s = Say.blocked t (.value d (BitVec.ofNat 64 g) 2082)))

/-- R107, R181: BIND adds an entry where the object is aligned, the region is of whole lines below 2^47 and shares
none with an entry of the PASID, and an entry is free; UNBIND removes the first entry that is equal to its operands. -/
def Obligations.Bindings : Prop :=
  ∀ (s : State) (d a b : Reg), ready s 4 none = true →
    let j := (curJob s).ids
    ((rd s a).toNat % 16 = 0 → (rd s b).toNat % 256 = 0 → (rd s d).toNat % 256 = 0 → rd s d ≠ 0 →
      (rd s b).toNat + (rd s d).toNat ≤ 2 ^ 47 →
      (∀ x ∈ (getPart s j.part).bindings, x.pasid = j.pasid →
        x.base.toNat + x.length.toNat ≤ (rd s b).toNat ∨ (rd s b).toNat + (rd s d).toNat ≤ x.base.toNat) →
      (getPart s j.part).bindings.length < Config.bindEntries →
      exec (.bind d a b) s = .next (retire 4 (modPart s j.part fun p =>
        { p with bindings := p.bindings ++ [⟨rd s a, rd s b, rd s d, j.pasid⟩] })))
    ∧ (∀ l r, (getPart s j.part).bindings = l ++ ⟨rd s a, rd s b, rd s d, j.pasid⟩ :: r →
      ⟨rd s a, rd s b, rd s d, j.pasid⟩ ∉ l →
      exec (.unbind d a b) s = .next (retire 4 (modPart s j.part fun p => { p with bindings := l ++ r })))

/-- ARRIVED, PHASE and E of the barrier instance that the executing stream names (R185). -/
def Say.barrier (s : State) (level number : Nat) : Nat × Nat × Nat :=
  if level = 0 then Tab.getD (curJob s).barriers number (0, 0, 0)
  else findBarrier (getPart s (curPart s)).barriers level (domainOf s.cur.core level) number

/-- R186: an arrival takes E from DOMMEM where it is the first, and adds one to ARRIVED; the one that brings ARRIVED
to E sets it to 0 and advances PHASE modulo 2^32. -/
def Sys2Proof.Say.BarrierArrival : Prop :=
  ∀ (s : State) (level number : Nat), quiet s = true → level ≤ 6 → (Say.barrier s level number).2.1 < 2 ^ 32 →
    let b := Say.barrier s level number
    let e := if b.1 = 0 then domCount (curJob s).ids.dommem level else b.2.2
    (arrive s level number).2 = b.2.1
    ∧ Say.barrier (arrive s level number).1 level number =
        (if b.1 + 1 = e then (0, (b.2.1 + 1) % 2 ^ 32, e) else (b.1 + 1, b.2.1, e))

/-- R186: BAR.ARRIVE, BAR.WAIT and BAR.ARRIVEWAIT complete: BAR.ARRIVE at a number below 2,048 and a level at which
the stream takes part; BAR.WAIT where PHASE has passed S(b); BAR.ARRIVEWAIT where its arrival completes the instance,
or where PHASE has passed that of the arrival it has made. Each goes on at the next instruction with a phase in S(d):
that of the arrival, that read, and that after the arrival. -/
def Sys2Proof.Say.BarriersComplete : Prop :=
  ∀ (s : State) (sc : BitVec 4) (d a b : Reg), ready s 4 none = true → sc.toNat ≤ 6 → (rd s a).toNat < 2048 →
    let b0 := Say.barrier s sc.toNat (rd s a).toNat
    let e := if b0.1 = 0 then domCount (curJob s).ids.dommem sc.toNat else b0.2.2
    let goesOn := fun (t : State) (ph : Nat) =>
      (curStream t).pc = (curStream s).pc + 4 ∧ (curStream t).wait = none
        ∧ rd t d = if d = 0 then 0 else BitVec.ofNat 64 ph
    (mayArrive (curJob s).ids.dommem sc.toNat s.cur.strm = true →
      ∃ t, exec (.barArrive sc d a) s = .next t ∧ goesOn t b0.2.1)
    ∧ (passed b0.2.1 (rd s b).toNat = true → ∃ t, exec (.barWait sc d a b) s = .next t ∧ goesOn t b0.2.1)
    ∧ (mayArrive (curJob s).ids.dommem sc.toNat s.cur.strm = true → (curStream s).arrived = none →
      b0.1 + 1 = e → b0.2.1 < 2 ^ 32 →
      ∃ t, exec (.barArrivewait sc d a) s = .next t ∧ goesOn t ((b0.2.1 + 1) % 2 ^ 32))
    ∧ ∀ w, (curStream s).arrived = some w → passed b0.2.1 w.toNat = true →
      ∃ t, exec (.barArrivewait sc d a) s = .next t ∧ goesOn t b0.2.1

/-- R186: BAR.ARRIVE puts the PHASE of its arrival in S(d). BAR.WAIT ends when PHASE has passed S(b), acquires, and
puts PHASE in S(d). BAR.ARRIVEWAIT does both: it waits once it has arrived, and the arrival that completes the instance
goes on at once. A number above 2,047, and a level at which the stream takes no part, take PERM in each of the three
that arrives, or, of a number, waits; that the number is in TRADDR is the model's choice (log 124). -/
def Sys2Proof.Say.Barriers : Prop :=
  ∀ (s : State) (sc : BitVec 4) (d a b : Reg), ready s 4 none = true → sc.toNat ≤ 6 →
    let n := (rd s a).toNat
    let l := sc.toNat
    let ph := (Say.barrier s l n).2.1
    let mine := mayArrive (curJob s).ids.dommem l s.cur.strm
    (n < 2048 → mine = true →
      exec (.barArrive sc d a) s = .next (retire 4 (wr (arrive s l n).1 d (BitVec.ofNat 64 (arrive s l n).2))))
    ∧ (n < 2048 →
      (passed ph (rd s b).toNat = true →
        exec (.barWait sc d a b) s = .next (retire 4 (wr (acquireSide s l) d (BitVec.ofNat 64 ph))))
      ∧ (passed ph (rd s b).toNat = false →
        exec (.barWait sc d a b) s = Say.blocked s (.value d (BitVec.ofNat 64 (2 ^ 63 + ph)) n)))
    ∧ (n < 2048 → mine = true → (curStream s).arrived = none → ph < 2 ^ 32 →
      (Say.barrier (arrive s l n).1 l n).2.1 = (ph + 1) % 2 ^ 32 →
      ∃ t, exec (.barArrivewait sc d a) s = .next (retire 4 (wr t d (BitVec.ofNat 64 ((ph + 1) % 2 ^ 32))))
        ∧ (curStream t).arrived = none ∧ Say.barrier t l n = Say.barrier (arrive s l n).1 l n)
    ∧ (n < 2048 → mine = true → (curStream s).arrived = none → ph < 2 ^ 32 →
      (Say.barrier (arrive s l n).1 l n).2.1 = ph →
      exec (.barArrivewait sc d a) s = Say.blocked (modCurStream (arrive s l n).1 fun st =>
        { st with arrived := some (BitVec.ofNat 32 ph) }) (.value d (BitVec.ofNat 64 (2 ^ 63 + ph)) n))
    ∧ (∀ w, n < 2048 → (curStream s).arrived = some w →
      (passed ph w.toNat = true →
        exec (.barArrivewait sc d a) s = .next (retire 4 (wr (modCurStream (acquireSide s l) fun st =>
          { st with arrived := none }) d (BitVec.ofNat 64 ph))))
      ∧ (passed ph w.toNat = false →
        exec (.barArrivewait sc d a) s = Say.blocked s (.value d (BitVec.ofNat 64 (2 ^ 63 + ph)) n)))
    ∧ (2048 ≤ n → exec (.barArrive sc d a) s = .next (trapNow s (.barArrive sc d a) .perm (rd s a) 0)
      ∧ exec (.barWait sc d a b) s = .next (trapNow s (.barWait sc d a b) .perm (rd s a) 0))
    ∧ (n < 2048 → mine = false →
      exec (.barArrive sc d a) s = .next (trapNow s (.barArrive sc d a) .perm (rd s a) 0))
    ∧ ((curStream s).arrived = none → 2048 ≤ n ∨ mine = false →
      exec (.barArrivewait sc d a) s = .next (trapNow s (.barArrivewait sc d a) .perm (rd s a) 0))

/-! ## The rendezvous, tokens, recipes -/

namespace Sys2Proof.Say

/-- The state as another stream of the same job sees it. -/
def as (s : State) (t : Strm) : State := { s with cur := { s.cur with strm := t } }

/-- The executing stream is the last of its job's three to reach a rendezvous of this kind. -/
def meeting (s : State) (r : Rendezvous) : Prop :=
  ∀ t : Strm, quiet (as s t) = true ∧ plain (as s t) 4 = true
    ∧ (t ≠ s.cur.strm → ∃ r', (curStream (as s t)).stand = some r' ∧ r'.meets r = true)

/-- A stream that has passed a rendezvous. -/
def left (st : Stream) : Stream := { st with pc := st.pc + 4, pos := st.pos + 1, wait := none, stand := none }

/-- The three streams of the executing job have changed by `f`. -/
def streams (s t : State) (f : Stream → Stream) : Prop := ∀ x : Strm, curStream (as t x) = f (curStream (as s x))

/-- Nothing keeps the executing stream from arriving at RGN or END (R432). -/
def free (s : State) : Prop :=
  trapActive (curStream s) = false ∧ ownPending s = false ∧ undelivered s = none ∧ queuesEmpty (curJob s) = true

/-- A job whose region begins (R83, R435). -/
def regionJob (j : Job) (n : Word) : Job :=
  { j with rgnid := n, prereq := j.prereq &&& ~~~2#64, protectedUntil := none,
           queues := { j.queues with headPushed := j.queues.pushed } }

/-- Every stream of the job may trap into a handler, and stands, the executing one apart. -/
def standing (s : State) : Prop :=
  ∀ t : Strm, quiet (as s t) = true ∧ plain (as s t) 4 = true ∧ trapActive (curStream (as s t)) = false
    ∧ (curStream (as s t)).trap.vec ≠ 0 ∧ (t ≠ s.cur.strm → ∃ r, (curStream (as s t)).stand = some r)

/-- Every stream of the job has taken QUEUE with this QCODE at its rendezvous. -/
def queueTraps (s t : State) (q : Nat) : Prop :=
  ∀ x : Strm, let st := curStream (as t x)
    st.pc = (curStream (as s x)).trap.vec ∧ st.trap.pc = (curStream (as s x)).pc ∧ st.stand = none
      ∧ bitsOf st.trap.cause 0 8 = 0x14 ∧ st.trap.addr = BitVec.ofNat 64 q

end Sys2Proof.Say

/-- R81 to R84, R435: where the three streams meet, each goes on after its rendezvous instruction, and nothing that it
reads later has been read before. RGN cures the job's wet versions, sets RGNID, makes each stream's next instruction
its restart point, and ends FORCED and the protection; YIELD does the same but for RGNID, and deschedules a job that
PREREQ asks for. At END the region is cured and the job leaves its slot. That RDV, RGN and YIELD perform the core's
buffered WC stores, as END does by R94, is the model's choice (log 35). -/
def Sys2Proof.Say.Rendezvous : Prop :=
  ∀ (s : State), let j := curJob s
    let flushed := flushWc (orderJobReads s s.cur.core s.cur.slot) s.cur.core
    (Say.meeting s .rdv →
      ∃ t, exec .rdv s = .next t ∧ Say.streams s t Say.left ∧ curJob t = j ∧ t.ms = flushed.ms)
    ∧ (∀ n : BitVec 18, n ≠ 0 → Say.meeting s (.rgn n) → Say.free s →
      ∃ t, exec (.rgn n) s = .next t ∧ Say.streams s t (fun st => latchHead (Say.left st))
        ∧ curJob t = Say.regionJob j (n.setWidth 64)
        ∧ t.ms = (cure flushed j.ids.jobid).ms ∧ ∀ w ∈ t.ms.wet, w.job ≠ j.ids.jobid)
    ∧ (∀ g, guardOk s g = true → Say.meeting s (.yield g) → trapActive (curStream s) = false → ownPending s = false →
      queuesEmpty j = true →
      ∃ t, exec (.yield_ g) s = .next t ∧ Say.streams s t (fun st => latchHead (Say.left st))
        ∧ t.ms = (cure flushed j.ids.jobid).ms
        ∧ curJob t = (if bitOf j.prereq 0 then { Say.regionJob j j.rgnid with phase := .flipping false, reqAt := none }
            else Say.regionJob j j.rgnid))
    ∧ (Say.meeting s .ended → Say.free s → (∀ e ∈ (curCore s).tokens, e.2.holder ≠ some j.ids.jobid) →
      Tab.wf s.jobs = true → Tab.wf s.strs = true →
      ∃ u, exec .end_ s = .next (recordRetired u j.ids j.signalled)
        ∧ Tab.get? u.jobs (jobKey s.cur) = none ∧ (∀ x : Strm, Tab.get? u.strs (hartKey { s.cur with strm := x }) = none)
        ∧ ∀ w ∈ u.ms.wet, w.job ≠ j.ids.jobid)

/-- R81, R142, R144, R433: a stream that arrives first waits with QCODE 16; where the three rendezvous differ, every
stream takes QUEUE with QCODE 17 at its own; where a queue holds entries at YIELD, RGN or END, with QCODE 18. -/
def Sys2Proof.Say.RendezvousTraps : Prop :=
  ∀ (s : State),
    (ready s 4 none = true → (∃ t : Strm, t ≠ s.cur.strm ∧ (curStream (Say.as s t)).stand = none) →
      exec .rdv s = Say.blocked (modCurStream s fun st => { st with stand := some .rdv }) (.queue 16))
    ∧ (Say.standing s →
      (∃ t r, t ≠ s.cur.strm ∧ (curStream (Say.as s t)).stand = some r ∧ r.meets .rdv = false) →
      ∃ t, exec .rdv s = .next t ∧ Say.queueTraps s t 17)
    ∧ (∀ n : BitVec 18, n ≠ 0 → Say.standing s → trapActive (curStream s) = false → ownPending s = false →
      undelivered s = none →
      (∃ t r, t ≠ s.cur.strm ∧ (curStream (Say.as s t)).stand = some r ∧ r.meets (.rgn n) = false) →
      ∃ t, exec (.rgn n) s = .next t ∧ Say.queueTraps s t 17)
    ∧ (Say.standing s → trapActive (curStream s) = false → ownPending s = false → undelivered s = none →
      queuesEmpty (curJob s) = false → Say.meeting s .ended → ∃ t, exec .end_ s = .next t ∧ Say.queueTraps s t 18)

namespace Sys2Proof.Say

/-- The token instructions that judge S(a) (R190): guard and register. -/
def tokenOf : Instr → Option (Guard × Reg)
  | .twait g a | .ttest g _ a | .cncl g a | .dtch g a _ | .tstat g _ a | .tpri g a _ | .tfree g a => some (g, a)
  | _ => none

/-- The slot and the sequence number of a token. [DEDUCED, log 47] -/
def slotOf (v : Word) : Nat := (v.extractLsb' 24 8).toNat

def seqOf (v : Word) : Nat := (v.extractLsb' 0 24).toNat

/-- The token in S(a) is LIVE, and this is its entry (R151). -/
def liveTok (s : State) (a : Reg) (e : TokenEntry) : Prop :=
  seqOf (rd s a) ≠ 0 ∧ Tab.get? (curCore s).tokens (slotOf (rd s a)) = some e ∧ e.seq = seqOf (rd s a)
    ∧ e.holder = some (curJob s).ids.jobid

/-- The token in S(a) names no entry of the table: none has its slot and its sequence number. -/
def goneTok (s : State) (a : Reg) : Prop :=
  seqOf (rd s a) ≠ 0 ∧ ∀ e, Tab.get? (curCore s).tokens (slotOf (rd s a)) = some e → e.seq ≠ seqOf (rd s a)

/-- The age of a sequence number on the executing core (R149). -/
def age (s : State) (q : Nat) : Nat := ((curCore s).nextSeq + 0xFFFFFF - q) % 0xFFFFFF

/-- No accumulator of the job, found by its slot or by its JOBID, has a commit that a token could still pass (R371). -/
def noPending (s : State) : Prop :=
  ∀ x ∈ s.jobs, x.2.ids.jobid = (curJob s).ids.jobid → ∀ a ∈ x.2.accs.toList, a.pending = []

/-- The executing stream has waited for the operation that S(a) names: what that has written counts as the stream's
(R108, R110), and a later read of the stream is performed after what its job wrote before (R117). -/
def waited (s : State) (a : Reg) : State :=
  acquireSide (waitedWrites s (curJob s).ids.jobid s.cur.strm (slotOf (rd s a)) (seqOf (rd s a))) 0

/-- Change the entry of a slot of the executing core. -/
def setTok (s : State) (slot : Nat) (e : TokenEntry) : State :=
  modCurCore s fun c => { c with tokens := Tab.set c.tokens slot e }

end Sys2Proof.Say

/-- R151, R190: a FOREIGN token takes TOKSTALE and a FORWARD one FWDWAIT, with TRTOKEN = S(a). On token 0 and on a
RETIRED one TWAIT completes, TTEST sets its predicate, and both acquire; TSTAT gives 0, and CNCL, DTCH, TPRI and TFREE
do nothing. -/
def Obligations.TokenOperands : Prop :=
  ∀ (s : State) (i : Instr) (g : Guard) (a : Reg), Say.tokenOf i = some (g, a) → ready s 4 (some g) = true →
    let t : Nat := ((rd s a).extractLsb' 0 32).toNat
    let q := Say.seqOf (rd s a)
    let stale := .next (trapNow s i .tokStale 0 (rd s a))
    (t ≠ 0 → q = 0 → exec i s = stale)
    ∧ (∀ e, q ≠ 0 → Tab.get? (curCore s).tokens (Say.slotOf (rd s a)) = some e → e.seq = q →
      e.holder ≠ some (curJob s).ids.jobid → exec i s = stale)
    ∧ (Say.goneTok s a → (Say.age s q = 0 ∨ 2 ^ 23 < Say.age s q) →
      exec i s = .next (trapNow s i .fwdWait 0 (rd s a)))
    ∧ (t = 0 ∨ Say.goneTok s a ∧ Say.age s q ≠ 0 ∧ Say.age s q ≤ 2 ^ 23 → Say.noPending s →
      exec i s = .next (retire 4 (match i with
        | .twait _ _ => Say.waited s a
        | .ttest _ d _ => wp (Say.waited s a) d true
        | .tstat _ d _ => wr s d 0
        | _ => s)))

/-- R153, R191 to R196: what the token instructions do to a LIVE operation. -/
def Sys2Proof.Say.TokenEffects : Prop :=
  ∀ (s : State) (g : Guard) (d a b : Reg) (p : BitVec 4) (e : TokenEntry), ready s 4 (some g) = true →
    Tab.wf (curCore s).tokens = true → Say.liveTok s a e →
    let slot := Say.slotOf (rd s a)
    let k := strmIdx s.cur.strm
    let gone := modCurCore s fun c => { c with tokens := Tab.del c.tokens slot }
    -- an operation in flight
    (e.state.inFlight = true →
      exec (.twait g a) s = Say.blocked s (.other (some 2080))
      ∧ exec (.ttest g p a) s = .next (retire 4 (wp s p false))
      ∧ exec (.tfree g a) s = Say.blocked s (.other (some 2080))
      ∧ ∃ t, exec (.cncl g a) s = .next (retire 4 t)
        ∧ ∀ e', Tab.get? (curCore t).tokens slot = some e' → e'.state = .cancelled ∧ e'.reported = true)
    -- one that is DONE
    ∧ (e.state = .done → s.cur.strm ≠ .c →
      ∃ t, exec (.twait g a) s = .next (retire 4 t) ∧ exec (.ttest g p a) s = .next (retire 4 (wp t p true))
        ∧ t.ms = (Say.waited s a).ms ∧ t.strs = s.strs ∧ t.jobs = s.jobs
        ∧ ∀ e', Tab.get? (curCore t).tokens slot = some e' → e'.state = .done ∧ e'.seen.getLsbD k = true)
    ∧ (e.state = .done →
      exec (.cncl g a) s = .next (retire 4 (acquireSide s 0))
      ∧ (accsOwned (curJob s) slot e.seq = [] → exec (.tfree g a) s = .next (retire 4 gone))
      ∧ ∀ n l, accsOwned (curJob s) slot e.seq = n :: l →
          exec (.tfree g a) s = .next (trapNow s (.tfree g a) .accOwn (BitVec.ofNat 64 n) ((rd s a).setWidth 32 |>.setWidth 64)))
    -- one that failed
    ∧ (e.state = .faulted → e.det = false → e.strm = s.cur.strm →
      (e.reported = true → exec (.twait g a) s = .next (retire 4 (waitedWrites s (curJob s).ids.jobid s.cur.strm slot e.seq))
        ∧ exec (.tfree g a) s = .next (retire 4 gone))
      ∧ (e.reported = false →
        exec (.twait g a) s =
          .next (takeTrap (Say.setTok (waitedWrites s (curJob s).ids.jobid s.cur.strm slot e.seq) slot
            { e with reported := true }) s.cur (deferredTrap slot e))))
    ∧ (e.state = .faulted ∨ e.state = .cancelled → e.reported = false →
      exec (.tfree g a) s = .next (trapNow (Say.setTok s slot { e with reported := true }) (.tfree g a) .async 0
        ((rd s a).setWidth 32 |>.setWidth 64)))
    -- whatever its state
    ∧ (footAccs e.foot = [] →
      exec (.dtch g a b) s = .next (retire 4 (Say.setTok (cureLayer s e.ids.jobid slot e.seq) slot
        { e with det := true, name := (rd s b).setWidth 32 })))
    ∧ (footAccs e.foot ≠ [] → exec (.dtch g a b) s = .next (trapNow s (.dtch g a b) .illegal 0 0))
    ∧ exec (.tpri g a b) s = .next (retire 4
        (if e.state = .pending ∨ e.state = .ready then Say.setTok s slot { e with prio := (rd s b).setWidth 2 } else s))
    ∧ ∃ w, exec (.tstat g d a) s = .next (retire 4 (wr
          (if e.state = .faulted ∨ e.state = .cancelled then Say.setTok s slot { e with reported := true } else s) d w))
        ∧ bitsOf w 0 3 = e.state.code ∧ bitOf w 3 = e.det ∧ bitsOf w 4 2 = e.prio.toNat ∧ bitOf w 7 = false
        ∧ bitsOf w 16 3 = e.seen.toNat ∧ bitsOf w 19 45 = 0
        ∧ bitsOf w 8 8 = (if e.state = .faulted then (e.fault.map fun f => f.1.code).getD 0 else 0)

/-- R167, R194: ADOPT takes the oldest orphan of the name S(a)[31:0] on the core, under a fresh sequence number, and
puts its new token in S(d); where none bears the name, or the name is 0, S(d) := 0. -/
def Sys2Proof.Say.Adopt : Prop :=
  ∀ (s : State) (g : Guard) (d a : Reg), ready s 4 (some g) = true →
    let name := (rd s a).setWidth 32
    ((name = 0 ∨ ∀ e ∈ (curCore s).tokens, e.2.holder = none → e.2.name ≠ name) →
      exec (.adopt g d a) s = .next (retire 4 (wr s d 0)))
    ∧ (∀ slot e, name ≠ 0 → orphanNamed s s.cur.core name.toNat = some (slot, e) →
      Tab.get? (curCore s).tokens slot = some e →
      (heldBy s s.cur.core (curJob s).ids.jobid).length < Config.tokenShare → (freeSlot s s.cur.core).isSome = true →
      (curCore s).nextSeq < 2 ^ 24 →
      ∃ t e', exec (.adopt g d a) s = .next (retire 4 (wr t d (BitVec.ofNat 64 (slot * 2 ^ 24 + (curCore s).nextSeq))))
        ∧ Tab.get? (curCore t).tokens slot = some e' ∧ e'.seq = (curCore s).nextSeq
        ∧ e'.holder = some (curJob s).ids.jobid ∧ e'.strm = s.cur.strm ∧ e'.adopted = true ∧ e'.det = e.det
        ∧ e'.state = e.state ∧ e'.foot = e.foot
        ∧ (curCore t).nextSeq = (if (curCore s).nextSeq = 0xFFFFFF then 1 else (curCore s).nextSeq + 1)
        ∧ t.ms = s.ms ∧ t.jobs = s.jobs ∧ t.strs = s.strs)

namespace Sys2Proof.Say

/-- The rows of a range, as they stand after the instruction. -/
def rowsBecome (s t : State) (rows : List Nat) (f : Row → Row) : Prop :=
  (∀ r ∈ rows, getRow (curJob t) r = f (getRow (curJob s) r))
  ∧ (∀ r, r ∉ rows → getRow (curJob t) r = getRow (curJob s) r) ∧ t.ms = s.ms ∧ t.strs = s.strs

/-- No recipe of the job is live. -/
def noRecipes (s : State) : Prop := (curJob s).recipes = [] ∧ ∀ e ∈ (curJob s).rows, e.2.mark = false

end Sys2Proof.Say

/-- R453: on ordinary rows FIX sets FIX, and UNFIX clears it. DROP turns the resident recipe rows of its range into
dropped ones and leaves the others. A FIX whose rows would exceed the reservation takes ROWS; that TRADDR then holds the
first row of the range as operand 3 is the model's choice (log 43). -/
def Sys2Proof.Say.FixDrop : Prop :=
  ∀ (s : State) (i : BitVec 13), s.cur.strm = .c → ready s 4 none = true →
    let rows := immRows i
    (Say.noRecipes s → (∀ r ∈ rows, (getRow (curJob s) r).res = true) → ordinaryRows (curJob s) ≤ (curJob s).ids.rowRes →
      ∃ t, exec (.fix i) s = .next (retire 4 t)
        ∧ Say.rowsBecome s t rows fun x => { x with tag := rowTag x.low false true true, recipe := 0 })
    ∧ (Say.noRecipes s →
      ∃ t, exec (.unfix i) s = .next (retire 4 t)
        ∧ Say.rowsBecome s t rows fun x => if x.fix then { x with tag := rowTag x.low false false x.res } else x)
    ∧ (∃ t, exec (.drop i) s = .next (retire 4 t)
        ∧ Say.rowsBecome s t rows fun x =>
            if x.res && x.mark then ⟨rowTag x.low true x.fix false, 0, 0, x.recipe⟩ else x)
    ∧ ((curJob s).ids.rowRes < ordinaryRows (curJob s) +
        (rows.filter fun r => !(getRow (curJob s) r).res || (getRow (curJob s) r).mark).length →
      exec (.fix i) s = .next (trapNow s (.fix i) .rows (BitVec.ofNat 64 (i.toNat % 1024 + 3 * 2 ^ 15)) 0))

/-- R442, R453: RCPCLR makes the resident recipe rows of its range ordinary ones with their data unchanged and the
dropped ones unwritten, where no live recipe reads them. -/
def Sys2Proof.Say.RecipeClear : Prop :=
  ∀ (s : State) (i : BitVec 13), s.cur.strm = .c → ready s 4 none = true → Tab.wf (curJob s).rows = true →
    readersOf (curJob s) (immRows i) = [] →
    ordinaryRows (curJob s) + ((immRows i).filter fun r =>
      (getRow (curJob s) r).mark && (getRow (curJob s) r).res).length ≤ (curJob s).ids.rowRes →
    ∃ t, exec (.rcpclr i) s = .next (retire 4 t)
      ∧ Say.rowsBecome s t (immRows i) fun x =>
          if !x.mark then x
          else if x.res then { x with tag := rowTag x.low false x.fix true, recipe := 0 } else Row.unwritten

/-- R441, R445: an RCP that its checks accept executes nothing of the body: the rows of its range become dropped rows
of one recipe, RAW with gain 0 until they are first materialised; the recipe holds the body with its PCs and a
snapshot of the C-stream's registers, gains, mask pairs, stack top and rounding; the stream goes on after the body.
One that breaks a check is ILLEGAL. -/
def Sys2Proof.Say.RecipeMade : Prop :=
  ∀ (s : State) (d : BitVec 2) (i : BitVec 13) (body : List (Instr × Word)) (ws : List Nat),
    s.cur.strm = .c → quiet s = true → plain s 4 = true →
    fetchBody s s.cur ((curStream s).pc + 4) (d.toNat + 1) = .ok (body, ws) →
    let first := i.toNat % 1024
    let count := i.toNat / 1024 + 1
    let stop := (curStream s).pc + 4 + BitVec.ofNat 64 (12 * (d.toNat + 1))
    (rcpLegal s first count (body.map (·.1)) = false →
      exec (.rcp d i) s = .next (takeTrap s s.cur
        { cause := .illegal, pc := (curStream s).pc, words := (encode (.rcp d i) ++ ws).take 6, addr := 0, token := 0 }))
    ∧ (rcpLegal s first count (body.map (·.1)) = true → (keptRecipes (curJob s) (immRows i)).length < 16 →
      (∀ r ∈ immRows i, sourceRecipe (curJob s) r = none) → (∀ l ∈ (curStream s).loops, l.stop ≠ stop) →
      ∃ t k x, exec (.rcp d i) s = .next t
        ∧ curStream t = { curStream s with pc := stop, pos := (curStream s).pos + 1, wait := none }
        ∧ (∀ r ∈ immRows i, getRow (curJob t) r =
            ⟨rowTag rawTag true (getRow (curJob s) r).fix false, 0, 0, k⟩)
        ∧ (∀ r, r ∉ immRows i → getRow (curJob t) r = getRow (curJob s) r)
        ∧ Tab.get? (curJob t).recipes k = some x ∧ x.first = first ∧ x.count = count
        ∧ x.body = body.map (·.1) ∧ x.pcs = body.map (·.2) ∧ x.scalars = (curStream s).regs
        ∧ x.gains = (curJob s).gains ∧ x.rowMasks = (curJob s).rowMasks ∧ x.colMasks = (curJob s).colMasks
        ∧ x.top = maskTop (curJob s) ∧ x.rnd.toNat = bitsOf (viewedJob s).ctl 0 3 ∧ x.ftz = bitOf (viewedJob s).ctl 3
        ∧ t.ms = s.ms)

/-- R451: SEAL adds a range to the sealed set, which holds it once; UNSEAL removes one that matches it exactly and else
does nothing. An offset or length that is no multiple of 256, or a length of 0, takes ALIGN; a range outside the grant,
or a ninth one, takes PERM. R451 gives no fault address: that TRADDR holds S(a), and outside the grant the first offset
that lies outside it, is the model's choice (logs 50, 116); so is that stores which streams of the job have begun are
written before the range is sealed (log 119). -/
def Obligations.SealedSet : Prop :=
  ∀ (s : State) (g : Guard) (a b : Reg), ready s 4 (some g) = true →
    let off := rd s a
    let len := rd s b
    let ok := off.toNat % 256 = 0 ∧ len.toNat % 256 = 0 ∧ len ≠ 0
    let granted := (grantAddr s.cur.core (curJob s).grant off.toNat len.toNat).isSome = true
    let outside := off + BitVec.ofNat 64 (firstOutside (curAgent s) off.toNat)
    let stored := finishStores s fun h => h.core == s.cur.core && h.slot == s.cur.slot
    (¬ok → exec (.seal g a b) s = .next (trapNow s (.seal g a b) .align off 0)
      ∧ exec (.unseal g a b) s = .next (trapNow s (.unseal g a b) .align off 0))
    ∧ (ok → ¬granted → exec (.seal g a b) s = .next (trapNow s (.seal g a b) .perm outside 0)
      ∧ exec (.unseal g a b) s = .next (trapNow s (.unseal g a b) .perm outside 0))
    ∧ (ok → granted → (off.toNat, len.toNat) ∉ (curJob s).sealedSet → (curJob s).sealedSet.length < 8 →
      writesRange s s.cur (curJob s).ids.jobid off.toNat len.toNat = false →
      exec (.seal g a b) s = .next (retire 4 (modCurJob stored fun j =>
        { j with sealedSet := j.sealedSet ++ [(off.toNat, len.toNat)] })))
    ∧ (ok → granted → (off.toNat, len.toNat) ∈ (curJob s).sealedSet →
      writesRange s s.cur (curJob s).ids.jobid off.toNat len.toNat = false → exec (.seal g a b) s = .next (retire 4 stored))
    ∧ (ok → granted → (off.toNat, len.toNat) ∉ (curJob s).sealedSet → 8 ≤ (curJob s).sealedSet.length →
      exec (.seal g a b) s = .next (trapNow s (.seal g a b) .perm off 0))
    ∧ (ok → granted → (off.toNat, len.toNat) ∉ (curJob s).sealedSet → exec (.unseal g a b) s = .next (retire 4 s))
    ∧ (∀ l r, ok → granted → Say.noRecipes s → (curJob s).sealedSet = l ++ (off.toNat, len.toNat) :: r →
      (off.toNat, len.toNat) ∉ l →
      exec (.unseal g a b) s = .next (retire 4 (modCurJob s fun j => { j with sealedSet := l ++ r })))

/-! ## Launches -/

namespace Sys2Proof.Say

/-- An LPUT: guard, index register, value register, byte offset and width of the field, and whether the value is
accepted (R344). -/
def lputForm (s : State) : Instr → Option (Guard × Reg × Reg × Nat × Nat × Bool)
  | .lputDeadline g a b => some (g, a, b, 0x20, 8, true)
  | .lputArgs g a b => some (g, a, b, 0x10, 8, true)
  | .lputCount g a b => some (g, a, b, 0x18, 4, decide ((rd s b).toNat < 2 ^ 32))
  | .lputPatch g f a b => some (g, a, b, 0x50 + 8 * (f.toNat - 3), 8, decide (3 ≤ f.toNat))
  | _ => none

/-- The index lies in the share of the executing job's partition. -/
def owns (s : State) (n : Nat) : Prop :=
  (getPart s (curPart s)).shareFirst ≤ n ∧ n < (getPart s (curPart s)).shareFirst + (getPart s (curPart s)).shareCount

end Sys2Proof.Say

/-- R344: an LPUT writes its field of a record of the share that is BUILT or RETIRED, and no other byte of it; on any
other it takes LAUNCH and changes nothing. -/
def Sys2Proof.Say.LaunchParameters : Prop :=
  ∀ (i : Instr) (s : State) (g : Guard) (a b : Reg) (off n : Nat) (ok : Bool),
    Say.lputForm s i = some (g, a, b, off, n, ok) → ready s 4 (some g) = true →
    (∀ g f a b, i = .lputPatch g f a b → 3 ≤ f.toNat) →
    let k := (rd s a).toNat
    let l := getLaunch s k
    ((Say.owns s k ∧ (l.state = 1 ∨ l.state = 4) ∧ ok = true) →
      ∃ l', exec i s = .next (retire 4 (modLaunch s k fun _ => l'))
        ∧ l'.get off n = (rd s b).toNat
        ∧ (∀ o < 128, (o < off ∨ off + n ≤ o) → l'.get o 1 = l.get o 1)
        ∧ l' = { l with words := l'.words })
    ∧ (¬(Say.owns s k ∧ (l.state = 1 ∨ l.state = 4) ∧ ok = true) →
      exec i s = .next (trapNow s i .launch (rd s a) 0))

/-- R343, R344, R349: an ARM that its checks accept releases at partition scope, and then arms: the record is ARMED,
its ARMSEQ has grown by one, no record of it is allotted or retired, and the index, ARMSEQ and state of its
predecessors are latched. Any other takes LAUNCH with the index, before any release. Where another arming comes between
the checks and the arming of an ARM, that LAUNCH comes after its release, which stands. (A request of the job that has
not reached the arbiter goes first, R354.) -/
def Sys2Proof.Say.Arming : Prop :=
  ∀ (s : State) (g : Guard) (a : Reg), ready s 4 (some g) = true →
    let k := (rd s a).toNat
    let p := curPart s
    let l := getLaunch s k
    let ok := Say.owns s k ∧ (l.state = 1 ∨ l.state = 4) ∧ fieldsOk s p l = true ∧ l.flags / 8 % 2 = 0
    let begun := modCurStream s fun st => { st with arming := false }
    (¬ok → (curStream s).arming = false → exec (.arm g a) s = .next (trapNow s (.arm g a) .launch (rd s a) 0))
    ∧ (¬ok → (curStream s).arming = true → requestsOut s = false → eventTurn s p 1 k = .now →
      exec (.arm g a) s = .next (trapNow begun (.arm g a) .launch (rd s a) 0))
    ∧ (ok → (curStream s).arming = true → requestsOut s = false → eventTurn s p 1 k = .now →
      ∃ u, exec (.arm g a) s = .next (retire 4 (settlePool (logEvent u p 1 3 (getLaunch u k).streamId k 0)))
        ∧ (getLaunch u k).state = 2 ∧ (getLaunch u k).armseq = (l.armseq + 1) % 2 ^ 24 ∧ u.ms = s.ms
        ∧ (curStream u).arming = false)
    ∧ (ok → (curStream s).arming = false → requestsOut s = false → eventTurn s p 1 k = .now →
      ∃ u, exec (.arm g a) s = .next (retire 4 (settlePool (logEvent u p 1 3 (getLaunch u k).streamId k 0)))
        ∧ (getLaunch u k).state = 2 ∧ (getLaunch u k).armseq = (l.armseq + 1) % 2 ^ 24
        ∧ (getLaunch u k).next = 0 ∧ (getLaunch u k).retired = 0 ∧ (getLaunch u k).armedPasid = l.pasid
        ∧ (getLaunch u k).preds.map (fun x => x.1) = [l.get 0x30 4, l.get 0x34 4].filter (· != 0xFFFFFFFF)
        ∧ (∀ n, n ≠ k → getLaunch u n = getLaunch s n)
        ∧ (∀ w ∈ u.ms.wet, w.job ≠ (curJob s).ids.jobid))

/-- R350, R351, R360: the first LSUC of a job marks it as signalled, and its launch counts it; later ones do nothing.
LPRW waits until every latched predecessor has retired, and then acquires. RUNG gives CUR; RUNG.REQ also puts a
request to the arbiter. That TRADDR holds the operand that a trap turns on, S(b) for a rung, is the model's choice
(log 84). -/
def Sys2Proof.Say.LaunchQueries : Prop :=
  ∀ (s : State) (g : Guard) (d a b : Reg), ready s 4 (some g) = true →
    let st := getSdesc s (rd s a).toNat
    let cur := BitVec.ofNat 64 (st.get 0x40 1)
    let mine := (rd s a).toNat < 256 ∧ Tab.get? s.ownOwner (rd s a).toNat = some (curPart s)
    ((curJob s).signalled = true → exec (.lsuc g) s = .next (retire 4 s))
    ∧ ((curJob s).signalled = false →
      exec (.lsuc g) s = .next (retire 4 (settlePool (modLaunch (modCurJob s fun j => { j with signalled := true })
        (curJob s).ids.launch fun l => { l with opened := l.opened + 1 }))))
    ∧ ((∀ x ∈ (getLaunch s (curJob s).ids.launch).preds, x.2.2 = 4) →
      exec (.lprw g) s = .next (retire 4 (acquireSide s 5)))
    ∧ ((∃ x ∈ (getLaunch s (curJob s).ids.launch).preds, x.2.2 ≠ 4) →
      exec (.lprw g) s = Say.blocked s (.other (some 2083)))
    ∧ (mine → exec (.rung g d a) s = .next (retire 4 (wr s d cur)))
    ∧ (¬mine → exec (.rung g d a) s = .next (trapNow s (.rung g d a) .perm (rd s a) 0)
      ∧ exec (.rungReq g d a b) s = .next (trapNow s (.rungReq g d a b) .perm (rd s a) 0))
    ∧ (mine → (rd s b).toNat < 4 → rungCount st (rd s b).toNat ≠ 0 →
      exec (.rungReq g d a b) s = .next (retire 4 (wr (modPart s (curPart s) fun p =>
        { p with rungReqs := p.rungReqs ++ [((curJob s).ids.jobid, (rd s a).toNat, (rd s b).toNat)] }) d cur)))
    ∧ (mine → ¬((rd s b).toNat < 4 ∧ rungCount st (rd s b).toNat ≠ 0) →
      exec (.rungReq g d a b) s = .next (trapNow s (.rungReq g d a b) .launch (rd s b) 0))

/-- R361, R402 (TRADDR: log 84): MIGR without permission is PRIV; a core id that the partition does not have takes PERM; a count of
0, or source and destination equal, does nothing; else, where the arbiter accepts and no earlier request of the job is
on its way there (R354), the command is logged as TYPE 7
and waits to be carried out. -/
def Sys2Proof.Say.Migration : Prop :=
  ∀ (s : State) (g : Guard) (d a b : Reg), ready s 4 (some g) = true →
    let p := curPart s
    let src := (rd s a).toNat
    let dst := (rd s b).toNat
    let n := (rd s d).toNat
    let may := bitOf (getPart s p).perms 5 = true
    (¬may → exec (.migr g d a b) s = .next (trapNow s (.migr g d a b) .priv 0 0))
    ∧ (may → coreCount s p ≤ src → exec (.migr g d a b) s = .next (trapNow s (.migr g d a b) .perm (rd s a) 0))
    ∧ (may → src < coreCount s p → coreCount s p ≤ dst →
      exec (.migr g d a b) s = .next (trapNow s (.migr g d a b) .perm (rd s b) 0))
    ∧ (may → src < coreCount s p → dst < coreCount s p → n = 0 ∨ rd s a = rd s b →
      exec (.migr g d a b) s = .next (retire 4 s))
    ∧ (may → src < coreCount s p → dst < coreCount s p → n ≠ 0 → rd s a ≠ rd s b → replaying s p = false →
      arbiterOpen s p = true → requestsOut s = false →
      exec (.migr g d a b) s = .next (retire 4 (modPart (logEvent s p 7 3 0xFFFF src (dst * 2 ^ 32 + n)) p fun x =>
        { x with migrations := x.migrations ++ [(src, dst, n)] })))

/-! ## System instructions -/

namespace Sys2Proof.Say

/-- A size word of a stash window: its reserved bits are zero and SIZE and LINE are such as R96 admits. -/
def SizeWord (v : Word) : Prop :=
  bitsOf v 0 12 = 0 ∧ bitsOf v 0 20 ≤ 0x80000 ∧ bitsOf v 20 12 = 0 ∧ bitsOf v 32 4 = 0 ∧ bitsOf v 44 20 = 0

/-- SIZE, the job offset and VBASE of a stash window of the executing job (R96). -/
def window (s : State) (w : Fin 4) : Nat × Nat × Nat :=
  (bitsOf (curJob s).stashSize[w] 0 20, bitsOf (curJob s).stashSize[w] 32 12 * 256,
    bitsOf (curJob s).stashBase[w] 12 36 * 4096)

/-- None of R96's cases in which a write of this size word takes PERM: the scratchpad range lies in one half of the
grant, it and the virtual range meet no other mapped window's, and the virtual range ends below 2^47. -/
def Mappable (s : State) (w : Fin 4) (v : Word) : Prop :=
  let n := bitsOf v 0 20
  let off := bitsOf v 32 12 * 256
  let va := (window s w).2.2
  let half := (curJob s).grant.half
  (off + n ≤ half ∨ 0x80000 ≤ off ∧ off + n ≤ 0x80000 + half)
    ∧ (∀ x : Fin 4, x ≠ w → (window s x).1 ≠ 0 →
        (off + n ≤ (window s x).2.1 ∨ (window s x).2.1 + (window s x).1 ≤ off)
        ∧ (va + n ≤ (window s x).2.2 ∨ (window s x).2.2 + (window s x).1 ≤ va))
    ∧ va + n ≤ 2 ^ 47

/-- The lines of a job that `sel` selects have been written back (R96, R99): a granule of one that was dirty reads in
memory, through the view of its page, as the scratchpad holds it. (Two of the lines do not stand for one place of memory,
and a line read uncompressed is not stored compressed.) -/
def WrittenBack (s t : State) (core : Nat) (j : Job) (sel : StashLine → Prop) : Prop :=
  ∀ l ∈ s.ms.stash, l.job = j.ids.jobid → sel l → memOk s = true → (∀ x ∈ s.ms.stash, x.pa % 256 = 0) →
    (∀ x ∈ s.ms.stash, x.job = j.ids.jobid → sel x → x.pa = l.pa → x = l) →
    (l.cmp = true ∨ Tab.get? s.ms.comp (l.pa / 256) = none) →
    ∀ a g, grantAddr core j.grant (l.sline * 256) 256 = some a → g < 32 → l.dirty.getLsbD g = true →
      ∀ v : Viewer, v.job = 0 ∨ v.job = j.ids.jobid →
        jobGranule t v l.cmp (l.pa / 8 + g) = BitVec.ofNat 64 (ofLe (Memory.bytes t.ms.spad (a + 8 * g) 8))

/-- The mapping of a window has ended: its dirty granules are written back and its lines deregistered (R96, R99). -/
def Unmapped (s t : State) (w : Nat) : Prop :=
  (∀ l ∈ t.ms.stash, ¬(l.job = (curJob s).ids.jobid ∧ l.win = w)) ∧ (s.ms.begun = [] → t.ms.spad = s.ms.spad)
    ∧ WrittenBack s t s.cur.core (curJob s) fun l => l.win = w

/-- The size word of a window has been written, and the window that it maps, if any, is a new one. -/
def Remapped (s t : State) (w : Fin 4) (v : Word) : Prop :=
  curJob t = { curJob s with stashSize := (curJob s).stashSize.set w v } ∧ Unmapped s t w ∧ t.strs = s.strs

/-- What a write of `v` to a CSR that jobs may write leaves, where its rules accept it: every such CSR but for the
sizes of the stash windows (R87, R88, R96, R425). ACTIVE of TRCAUSE is not written. -/
def csrSet (s : State) (n : Nat) (v : Word) : Option State :=
  let trap := fun f => some (modCurStream s fun st => { st with trap := f st.trap })
  let job := fun f => some (modCurJob s f)
  match n with
  | 0x000 =>
    if bitsOf v 5 59 = 0 ∧ bitsOf v 0 3 ≤ 4 ∧ bitOf v 4 = bitOf (curJob s).ctl 4 then job fun j => { j with ctl := v }
    else none
  | 0x010 =>
    if bitsOf v 11 53 = 0 then trap fun t => { t with cause := (v &&& ~~~0x200) ||| (t.cause &&& 0x200) } else none
  | 0x011 => if v.toNat % 4 = 0 then trap fun t => { t with pc := v } else none
  | 0x012 => trap fun t => { t with words := t.words.set 0 v }
  | 0x013 => trap fun t => { t with words := t.words.set 1 v }
  | 0x014 => trap fun t => { t with words := t.words.set 2 v }
  | 0x015 => trap fun t => { t with words := t.words.set 3 v }
  | 0x016 => trap fun t => { t with words := t.words.set 4 v }
  | 0x017 => trap fun t => { t with words := t.words.set 5 v }
  | 0x018 => trap fun t => { t with addr := v }
  | 0x019 => trap fun t => { t with token := v }
  | 0x01A => if v.toNat % 4 = 0 then trap fun t => { t with vec := v } else none
  | 0x030 => job fun j => { j with waittmo := v }
  | 0x050 => base 0 job
  | 0x052 => base 1 job
  | 0x054 => base 2 job
  | 0x056 => base 3 job
  | _ => none
where
  base (w : Fin 4) (job : (Job → Job) → Option State) : Option State :=
    if bitsOf v 0 12 = 0 ∧ bitsOf v 48 16 = 0 ∧ (window s w).1 = 0 then
      job fun j => { j with stashBase := j.stashBase.set w v }
    else none

/-- The CSRs that jobs only read (R87). -/
def readOnlyCsrs : List Nat := [1, 2, 3, 4, 5, 8, 9, 0xA, 0xB, 0xC, 0x20, 0x21, 0x31, 0x40, 0x41]

/-- The cause that a write of `v` to a CSR takes (R86 to R88, R96, R425): a reserved bit or value is ILLEGAL, also
where the write would change DET (log 20). -/
inductive CsrRefuses (s : State) : Nat → Word → Cause → Prop
  | readOnly (n v) : n ∈ readOnlyCsrs → CsrRefuses s n v .priv
  | ctl (v) : bitsOf v 5 59 ≠ 0 ∨ 4 < bitsOf v 0 3 → CsrRefuses s 0 v .illegal
  | det (v) : bitsOf v 5 59 = 0 → bitsOf v 0 3 ≤ 4 → bitOf v 4 ≠ bitOf (curJob s).ctl 4 → CsrRefuses s 0 v .priv
  | trcause (v) : bitsOf v 11 53 ≠ 0 → CsrRefuses s 0x010 v .illegal
  | trpc (v) : v.toNat % 4 ≠ 0 → CsrRefuses s 0x011 v .illegal
  | trvec (v) : v.toNat % 4 ≠ 0 → CsrRefuses s 0x01A v .illegal
  | baseBits (w : Fin 4) (v) : bitsOf v 0 12 ≠ 0 ∨ bitsOf v 48 16 ≠ 0 → CsrRefuses s (0x050 + 2 * w) v .illegal
  | baseMapped (w : Fin 4) (v) : bitsOf v 0 12 = 0 → bitsOf v 48 16 = 0 → (window s w).1 ≠ 0 →
    CsrRefuses s (0x050 + 2 * w) v .perm
  | sizeBits (w : Fin 4) (v) : ¬SizeWord v → CsrRefuses s (0x051 + 2 * w) v .illegal
  | sizeMaps (w : Fin 4) (v) : SizeWord v → bitsOf v 0 20 ≠ 0 → ¬Mappable s w v → CsrRefuses s (0x051 + 2 * w) v .perm

end Sys2Proof.Say

/-- R86 to R88, R96, R425: CSRW, CSRS and CSRC write a CSR that jobs may write, CSRS and CSRC giving S(d) what it held;
a later read by the stream is never older than its write. A write that the CSR's rules refuse takes their cause and
changes nothing. CSRS and CSRC with a = s0 only read. The model's choices: where a write of CTL breaks two rules ILLEGAL
goes before PRIV, and TRCAUSE may be written in the handler too (log 20); TRADDR of the PERM of a stash window is 0, and
a write over a mapped window first ends its mapping (log 23); a read of a job's CSR may be an early one (log 21). -/
def Sys2Proof.Say.CsrWrites : Prop :=
  ∀ (s : State) (d a : Reg) (c : BitVec 12), ready s 4 none = true →
    let n := c.toNat
    let old := csrNow s n
    let put := fun (i : Instr) (d : Reg) (v : Word) =>
      (∀ t, Say.csrSet s n v = some t → exec i s = .next (retire 4 (wr (dropEarly t s.cur (· == .csr n)) d old)))
      ∧ (∀ e, Say.CsrRefuses s n v e → exec i s = .next (trapNow s i e 0 0))
      ∧ ∀ w : Fin 4, n = 0x051 + 2 * w → Say.SizeWord v → bitsOf v 0 20 = 0 ∨ Say.Mappable s w v →
        ∃ t, exec i s = .next (retire 4 (wr t d old)) ∧ Say.Remapped s t w v
    put (.csrw c a) 0 (rd s a)
      ∧ (a ≠ 0 → put (.csrs d a c) d (old ||| rd s a) ∧ put (.csrc d a c) d (old &&& ~~~rd s a))
      ∧ exec (.csrs d 0 c) s = .next (retire 4 (wr s d (csrRead s n)))
      ∧ exec (.csrc d 0 c) s = .next (retire 4 (wr s d (csrRead s n)))

/-- R96, R99: a non-zero size that none of R96's cases refuses maps the window; a size of 0 unmaps it. Either way the
old window's dirty granules are written back and its lines deregistered; that a new size over a mapped window does so
too is the model's choice (log 23). -/
def Sys2Proof.Say.StashWindows : Prop :=
  ∀ (s : State) (w : Fin 4) (v : Word), (Tab.get? s.jobs (jobKey s.cur)).isSome = true → Say.SizeWord v →
    let n := BitVec.ofNat 2 w
    (bitsOf v 0 20 ≠ 0 → Say.Mappable s w v → ∃ t, exec (.stashMap n v) s = .next t ∧ Say.Remapped s t w v)
    ∧ (bitsOf v 0 20 = 0 → ∃ t, exec (.stashUnmap n v) s = .next t ∧ Say.Remapped s t w v)
    ∧ (bitsOf v 0 20 ≠ 0 → ¬Say.Mappable s w v → exec (.stashMap n v) s = .next s)

/-- R396: a TLBI without the translation permission is PRIV; with it, it is a FENCE with release side at device
scope, waits for every access of the partition that is translated already, and then no translation of the partition
that it covers is cached: TLBI.VA covers the whole page that holds S(a), of whatever size. That the waiting shows as
the buffered and late writes of the partition performed is the model's choice (log 28). -/
def Sys2Proof.Say.Invalidation : Prop :=
  ∀ (s : State) (g : Guard) (a b : Reg), ready s 4 (some g) = true →
    let p := curPart s
    let pasid := (rd s b).toNat % 2 ^ 20
    let may := bitOf (getPart s p).perms 1 = true
    let tlbs := fun (i : Instr) (gone : TlbEntry → Prop) =>
      ∃ t m, exec i s = .next (retire 4 { t with ms := m })
        ∧ t = performTranslated (countedRelease (releaseSide s 5)) p
        ∧ (∀ w ∈ m.wc, partOfJob s w.job ≠ p) ∧ (∀ e ∈ m.late, e.part = p → 5 ≤ e.scope)
        ∧ (∀ e ∈ m.tlb, ¬gone e) ∧ (∀ e ∈ t.ms.tlb, ¬gone e → e ∈ m.tlb) ∧ m = { t.ms with tlb := m.tlb, ats := m.ats }
    (¬may → exec (.tlbiAll g) s = .next (trapNow s (.tlbiAll g) .priv 0 0)
      ∧ exec (.tlbiPasid g b) s = .next (trapNow s (.tlbiPasid g b) .priv 0 0)
      ∧ exec (.tlbiVa g a b) s = .next (trapNow s (.tlbiVa g a b) .priv 0 0))
    ∧ (may → (∀ c ∈ s.cores, ∀ e ∈ c.2.tokens, e.2.state ≠ .running) →
      tlbs (.tlbiAll g) (fun e => e.part = p)
      ∧ tlbs (.tlbiPasid g b) (fun e => e.part = p ∧ e.stage2 = false ∧ e.pasid = pasid)
      ∧ ((rd s a).toNat < 2 ^ 47 → tlbs (.tlbiVa g a b) (fun e =>
          e.part = p ∧ e.stage2 = false ∧ e.pasid = pasid ∧ e.holds (rd s a) = true)))

/-- R402, R403 (the order of ILLEGAL, PRIV and LAUNCH, where several apply, is the model's choice, log 22): PCTL that
reads gives S(d) the value of its operation, and that writes SCHED changes the register of
its index and gives status 0; an operation of the management window, or one that PERMS does not grant, is PRIV; a
word that R402 does not allow is ILLEGAL; LPASID of an index outside the share takes LAUNCH. -/
def Sys2Proof.Say.ControlOperation : Prop :=
  ∀ (s : State) (g : Guard) (d a b : Reg), ready s 4 (some g) = true →
    let p := curPart s
    let w := rd s a
    let c := ctlOf w (rd s b)
    let i := Instr.pctl g d a b
    let mgmt := 0x18 ≤ c.op ∧ c.op ≤ 0x23
    let legal := ctlWordOk w = true ∧ (mgmt ∨ ctlLegal s p c = true)
    let may := bitOf w 12 = false ∧ ¬mgmt ∧ ctlGranted s p c = true
    (¬legal → exec i s = .next (trapNow s i .illegal 0 0))
    ∧ (legal → ¬may → exec i s = .next (trapNow s i .priv 0 0))
    ∧ (legal → may → c.op = 5 → ¬Say.owns s c.index →
      exec i s = .next (trapNow s i .launch (BitVec.ofNat 64 c.index) 0))
    ∧ (legal → may → (c.op = 5 → Say.owns s c.index) → c.wrt = false →
      exec i s = .next (retire 4 (wr s d (ctlRead s p c))))
    ∧ (legal → may → c.op = 6 → c.wrt = true →
      exec i s = .next (retire 4 (wr (modPart s p (writeSched c.index c.arg)) d 0)))

/-! ## Vector instructions -/

namespace Sys2Proof.Say

/-- A V-class instruction of one step in the C-stream, under the mask pair k0; no recipe is live. -/
def oneStep (s : State) (v : VOp) : Prop :=
  s.cur.strm = .c ∧ ready s 12 (some v.g) = true ∧ noRecipes s ∧ v.n = 0 ∧ v.k = 0

/-- No column is masked by the lane-mask stack. -/
def unmasked (s : State) : Prop := maskTop (curJob s) = BitVec.allOnes 64

/-- The descriptor of one row as it stands. -/
def at_ (r : BitVec 10) : Desc := .row r 0 false false .straight

/-- An ordinary resident row, without poison. -/
def row (s : State) (r : BitVec 10) (x : Row) : Prop :=
  Tab.get? (curJob s).rows r.toNat = some x ∧ x.res = true ∧ x.mark = false ∧ x.poison = 0

/-- Row `d` has this tag and these bits, its FIX as before; nothing else has changed. -/
def put (s : State) (d : BitVec 10) (t : Tag) (img : RowBits) : State :=
  modCurJob s fun j => { j with rows := Tab.set j.rows d.toNat ⟨rowTag t false (getRow j d.toNat).fix true, img, 0, 0⟩ }

/-- The bits of an exact integer in a format: wrapped, or clamped where sat is set (R261). -/
def narrow (fmt : Nat) (sat : Bool) (i : Int) : Nat :=
  ((if sat then max (intRange fmt).1 (min (intRange fmt).2 i) else i) % 2 ^ elemBits fmt).toNat

/-- The integer operations: the word, whether B and D's old value are read, and the element written (R289, R290,
R262). -/
def vInt (sat : Bool) (fmt : Nat) : Instr → Option (VOp × Bool × Bool × (Int → Int → Int → Nat))
  | .vadd v => some (v, true, false, fun x y _ => narrow fmt sat (x + y))
  | .vsub v => some (v, true, false, fun x y _ => narrow fmt sat (x - y))
  | .vmul v => some (v, true, false, fun x y _ => narrow fmt sat (x * y))
  | .vfma v => some (v, true, true, fun x y z => narrow fmt sat (x * y + z))
  | .vfms v => some (v, true, true, fun x y z => narrow fmt sat (x * y - z))
  | .vmin v => some (v, true, false, fun x y _ => narrow fmt sat (if y < x then y else x))
  | .vmax v => some (v, true, false, fun x y _ => narrow fmt sat (if x < y then y else x))
  | .vabs v => some (v, false, false, fun x _ _ => narrow fmt sat (if x < 0 then -x else x))
  | .vdiv v => some (v, true, false, fun x y _ => if y = 0 then 2 ^ elemBits fmt - 1 else narrow fmt sat (x.tdiv y))
  | .vclamp v => some (v, true, true, fun x y z => narrow fmt sat (min (max x y) z))
  | _ => none

/-- The float operations: the word, whether B and D's old value are read, and the exact result (R289 to R292). -/
def vFloat (mode : Nat) : Instr → Option (VOp × Bool × Bool × (Ex → Ex → Ex → Ex))
  | .vadd v => some (v, true, false, fun x y _ => x.add (mode == 3) y)
  | .vsub v => some (v, true, false, fun x y _ => x.add (mode == 3) y.neg)
  | .vmul v => some (v, true, false, fun x y _ => x.mul y)
  | .vfma v => some (v, true, true, fun x y z => (x.mul y).add (mode == 3) z)
  | .vfms v => some (v, true, true, fun x y z => (x.mul y).add (mode == 3) z.neg)
  | .vmin v => some (v, true, false, fun x y _ => x.min y)
  | .vmax v => some (v, true, false, fun x y _ => x.max y)
  | .vabs v => some (v, false, false, fun x _ _ => x.abs)
  | .vdiv v => some (v, true, false, fun x y _ => x.div y)
  | .vclamp v => some (v, true, true, fun x y z => (x.max y).min z)
  | .vrcp v => some (v, false, false, fun x _ _ => x.recip)
  | .vrsq v => some (v, false, false, fun x _ _ => x.rsqrt)
  | .vsqrt v => some (v, false, false, fun x _ _ => x.sqrt)
  | .vexp2 v => some (v, false, false, fun x _ _ => exp2 (r32 x))
  | .vrnd v => some (v, false, false, fun x _ _ => roundIntegral mode x)
  | .vlerp v => some (v, true, false, fun x y _ =>
      if v.fn = 0 then x
      else (((Ex.ofInt (16 - v.fn.toNat : Nat)).mul x).add (mode == 3) ((Ex.ofInt v.fn.toNat).mul y)).div (Ex.ofInt 16))
  | _ => none

/-- The rounding mode of an instruction (R250). -/
def mode (s : State) (v : VOp) : Nat := if v.rnd = 7 then bitsOf (viewedJob s).ctl 0 3 else v.rnd.toNat

/-- No flushing is enabled (R254, R255). -/
def noFlush (s : State) (v : VOp) : Prop := v.ftz = false ∧ bitOf (viewedJob s).ctl 3 = false

/-- The value of the gain register that a tag names. -/
def gain (s : State) (t : Tag) : BitVec 32 := gainOf (curJob s).gains t.gain

end Sys2Proof.Say

/-- R249, R261, R262, R287, R289, R290: on integer rows of one tag, the arithmetic instructions compute exactly and
narrow each element once; they write their destination row and nothing else. A B row of another element width takes
FORMAT, with its row and OPND 2 in TRADDR, and nothing is written. An integer operation with rnd other than 7 or
ftz = 1 is ILLEGAL. -/
def Sys2Proof.Say.VectorInteger : Prop :=
  ∀ (i : Instr) (s : State) (v : VOp) (two old : Bool) (f : Int → Int → Int → Nat) (a b d : BitVec 10) (xa xb xd : Row),
    Say.vInt v.sat xa.low.fmt i = some (v, two, old, f) → Say.oneStep s v → Say.unmasked s → v.fmt = 0 →
    v.D = Say.at_ d → v.A = Say.at_ a → v.B = (if two then Say.at_ b else .none) →
    Say.row s a xa → (two = true → Say.row s b xb) → Say.row s d xd → isInt xa.low.fmt = true →
    ((two = true → xb.low = xa.low) → (old = true → xd.low = xa.low) → v.rnd = 7 → v.ftz = false →
      ∃ img, exec i s = .next (retire 12 (Say.put s d xa.low img))
        ∧ ∀ e < elemCount xa.low.fmt, elemOf xa.low.fmt img e =
            f (intValue xa.low.fmt (elemOf xa.low.fmt xa.data e)) (intValue xa.low.fmt (elemOf xa.low.fmt xb.data e))
              (intValue xa.low.fmt (elemOf xa.low.fmt xd.data e)))
    ∧ ((two = true → isInt xb.low.fmt = true) → (old = true → isInt xd.low.fmt = true) → v.rnd ≠ 7 ∨ v.ftz = true →
      exec i s = .next (trapNow s i .illegal 0 0))
    ∧ (two = true → old = false → v.rnd = 7 → v.ftz = false → gainUsable (Say.gain s xa.low) = true →
      elemBytes xb.low.fmt ≠ elemBytes xa.low.fmt →
      exec i s = .next (trapNow s i .format (BitVec.ofNat 64 (b.toNat + 2 * 2 ^ 15)) 0))

/-- R247, R248, R287, R289 to R292: on float rows of one tag, each element is the exact result of the elements'
exact values, encoded once under the instruction's rounding mode and sat. -/
def Sys2Proof.Say.VectorFloat : Prop :=
  ∀ (i : Instr) (s : State) (v : VOp) (two old : Bool) (f : Ex → Ex → Ex → Ex) (a b d : BitVec 10) (xa xb xd : Row),
    Say.vFloat (Say.mode s v) i = some (v, two, old, f) → Say.oneStep s v → Say.unmasked s → v.fmt = 0 →
    Say.noFlush s v →
    v.D = Say.at_ d → v.A = Say.at_ a → v.B = (if two then Say.at_ b else .none) →
    Say.row s a xa → (two = true → Say.row s b xb) → Say.row s d xd →
    xa.low.fmt ≠ 15 → isInt xa.low.fmt = false → gainUsable (Say.gain s xa.low) = true →
    (two = true → xb.low = xa.low) → (old = true → xd.low = xa.low) →
    let val := fun x e => decodeElem xa.low.fmt (Say.gain s xa.low) (elemOf xa.low.fmt x e)
    ∃ img, exec i s = .next (retire 12 (Say.put s d xa.low img))
      ∧ ∀ e < elemCount xa.low.fmt, elemOf xa.low.fmt img e =
          encodeElem xa.low.fmt (Say.gain s xa.low) (Say.mode s v) v.sat false
            (f (val xa.data e) (val xb.data e) (val xd.data e)) % 2 ^ elemBits xa.low.fmt

/-- R293: VAND, VOR and VXOR combine the bits of two rows of equal element width under any tags; the shifts move each
element of A, an integer or RAW row, by the unsigned element of B, a count of the width or more leaving zeros or, for
VSRA, copies of the top bit. -/
def Sys2Proof.Say.VectorBits : Prop :=
  ∀ (s : State) (v : VOp) (a b d : BitVec 10) (xa xb xd : Row),
    Say.oneStep s v → Say.unmasked s → v.fmt = 0 → v.D = Say.at_ d → v.A = Say.at_ a → v.B = Say.at_ b →
    Say.row s a xa → Say.row s b xb → Say.row s d xd → elemBytes xb.low.fmt = elemBytes xa.low.fmt →
    let fmt := xa.low.fmt
    let w := elemBits fmt
    let goes := fun img => .next (retire 12 (Say.put s d xa.low img))
    let each := fun (i : Instr) (f : Nat → Nat → Nat) => ∃ img, exec i s = goes img
      ∧ ∀ e < elemCount fmt, elemOf fmt img e = f (elemOf fmt xa.data e) (elemOf fmt xb.data e)
    exec (.vand v) s = goes (xa.data &&& xb.data) ∧ exec (.vor v) s = goes (xa.data ||| xb.data)
    ∧ exec (.vxor v) s = goes (xa.data ^^^ xb.data)
    ∧ (isInt fmt = true ∨ fmt = 15 →
      each (.vshl v) (fun x n => if n < w then x * 2 ^ n % 2 ^ w else 0)
      ∧ each (.vshr v) (fun x n => if n < w then x / 2 ^ n else 0)
      ∧ each (.vsra v) (fun x n =>
          ((BitVec.ofNat w x).sshiftRight (min n w)).toNat))

namespace Sys2Proof.Say

/-- The conditions of VCMP by code (R294). -/
def holds (cond : Nat) (x y : Int) : Bool :=
  match cond with
  | 0 => decide (x = y)
  | 1 => decide (x ≠ y)
  | 2 => decide (x < y)
  | 3 => decide (x ≤ y)
  | 4 => decide (y < x)
  | _ => decide (y ≤ x)

end Sys2Proof.Say

/-- R294: VCMP on integer rows of one tag writes a RAW row, all ones where the condition holds and zero elsewhere;
with push it pushes the 64 bits of the columns all of whose elements satisfy it, and at depth 16 takes QUEUE with
QCODE 19. -/
def Sys2Proof.Say.VectorCompare : Prop :=
  ∀ (s : State) (v : VOp) (a b d : BitVec 10) (xa xb xd : Row),
    Say.oneStep s v → Say.unmasked s → v.fmt = 0 → v.A = Say.at_ a → v.B = Say.at_ b →
    Say.row s a xa → Say.row s b xb → Say.row s d xd → isInt xa.low.fmt = true → xb.low = xa.low → v.fn.toNat % 8 < 6 →
    let fmt := xa.low.fmt
    let h := fun e => Say.holds (v.fn.toNat % 8) (intValue fmt (elemOf fmt xa.data e)) (intValue fmt (elemOf fmt xb.data e))
    (v.D = Say.at_ d →
      ∃ img, exec (.vcmp v) s = .next (retire 12 (Say.put s d 15 img))
        ∧ ∀ e < elemCount fmt, elemOf fmt img e = if h e then 2 ^ elemBits fmt - 1 else 0)
    ∧ (v.D = .none → (curJob s).maskStack.length < 16 →
      ∃ m : BitVec 64, exec (.vcmpPush v) s = .next (retire 12 (modCurJob s fun j => { j with maskStack := m :: j.maskStack }))
        ∧ ∀ c < 64, m.getLsbD c = (List.range (4 / elemBytes fmt)).all fun k => h (c * (4 / elemBytes fmt) + k))
    ∧ (v.D = .none → 16 ≤ (curJob s).maskStack.length →
      exec (.vcmpPush v) s = .next (trapNow s (.vcmpPush v) .queue 19 0))

/-- R295, R298, R300, R301: VMOV and VTAG copy a row's bits, VTAG under a new tag; VSEL chooses by the lane-mask stack
top, which does not mask its write; VEXT, VROT, VPERM and VINS move elements by an index taken modulo the element
count; VIOTA writes the integers from its base on. -/
def Obligations.VectorMoves : Prop :=
  ∀ (s : State) (v : VOp) (a b d : BitVec 10) (k : BitVec 14) (xa xb xd : Row),
    Say.oneStep s v → v.D = Say.at_ d → Say.row s a xa → Say.row s b xb → Say.row s d xd →
    let fmt := xa.low.fmt
    let n := elemCount fmt
    let el := elemOf fmt
    let each := fun (i : Instr) (f : Nat → Nat) => ∃ img, exec i s = .next (retire 12 (Say.put s d xa.low img))
      ∧ ∀ e < n, el img e = f e
    let j := (k.toInt % n).toNat
    (Say.unmasked s → v.fmt = 0 → v.A = Say.at_ a → v.B = .none →
      exec (.vmov v) s = .next (retire 12 (Say.put s d xa.low xa.data)))
    ∧ (Say.unmasked s → v.A = Say.at_ a → v.B = .imm k →
      let f := if v.fmt = 0 then fmt else v.fmt.toNat
      (k.getLsbD 6 = decide (f = 5) →
        exec (.vtag v) s = .next (retire 12 (Say.put s d (BitVec.ofNat 11 (f + k.toNat % 128 * 16)) xa.data)))
      ∧ (k.getLsbD 6 ≠ decide (f = 5) →
        exec (.vtag v) s = .next (trapNow s (.vtag v) .format (BitVec.ofNat 64 d.toNat) 0)))
    ∧ (v.fmt = 0 → v.A = Say.at_ a → v.B = Say.at_ b → xb.low = xa.low →
      each (.vsel v) fun e => if (maskTop (curJob s)).getLsbD (e * elemBytes fmt / 4) then el xa.data e else el xb.data e)
    ∧ (Say.unmasked s → v.fmt = 0 → v.A = Say.at_ a → v.B = .imm k →
      each (.vext v) (fun _ => el xa.data j) ∧ each (.vrot v) (fun e => el xa.data ((e + j) % n))
      ∧ (xd.low = xa.low → each (.vins v) (fun e => if e = j then el xa.data 0 else el xd.data e)))
    ∧ (Say.unmasked s → v.fmt = 0 → v.A = Say.at_ a → v.B = Say.at_ b →
      each (.vperm v) fun e => el xa.data (xb.data.toNat / 2 ^ (8 * (elemBytes fmt * e)) % 256 % n))
    ∧ (Say.unmasked s → v.fmt = 4 → v.A = .imm k → v.B = .none →
      ∃ img, exec (.viota v) s = .next (retire 12 (Say.put s d 4 img))
        ∧ ∀ e < 64, elemOf 4 img e = ((k.toInt + e) % 2 ^ 32).toNat)

/-- R302 to R305 with fn 0 on integer rows: VRSUM writes the exact sum to every element, VRMAX and VRMIN the greatest
and the least, VAMAX and VAMIN the lowest index at which it stands, VSCAN the sums up to each element. VAMAX and VAMIN
compare exact values, so that the gain must be usable; the others, being integer operations, are ILLEGAL with rnd other
than 7 or ftz = 1. VPOPC counts the bits of a row; VPFX numbers the set bits of a bitmap. -/
def Obligations.VectorReductions : Prop :=
  ∀ (s : State) (v : VOp) (a d : BitVec 10) (r : Reg) (xa xd : Row),
    Say.oneStep s v → Say.unmasked s → v.fmt = 0 → v.fn = 0 → v.D = Say.at_ d → v.B = .none →
    Say.row s a xa → Say.row s d xd →
    let fmt := xa.low.fmt
    let n := elemCount fmt
    let x := fun e => intValue fmt (elemOf fmt xa.data e)
    let sum := fun m => ((List.range m).map x).sum
    let same := fun (i : Instr) (t : Tag) (p : Nat → Prop) =>
      ∃ img y, exec i s = .next (retire 12 (Say.put s d t img)) ∧ p y ∧ ∀ e < elemCount t.fmt, elemOf t.fmt img e = y
    (v.A = Say.at_ a → isInt fmt = true → v.rnd = 7 → v.ftz = false →
      same (.vrsum v) xa.low (fun y => y = Say.narrow fmt v.sat (sum n))
      ∧ same (.vrmax v) xa.low (fun y => (∀ e < n, x e ≤ intValue fmt y) ∧ ∃ e < n, y = elemOf fmt xa.data e)
      ∧ same (.vrmin v) xa.low (fun y => (∀ e < n, intValue fmt y ≤ x e) ∧ ∃ e < n, y = elemOf fmt xa.data e)
      ∧ ∃ img, exec (.vscan v) s = .next (retire 12 (Say.put s d xa.low img))
        ∧ ∀ e < n, elemOf fmt img e = Say.narrow fmt v.sat (sum (e + 1)))
    ∧ (v.A = Say.at_ a → isInt fmt = true → v.rnd ≠ 7 ∨ v.ftz = true →
      ∀ i ∈ [Instr.vrsum v, .vrmax v, .vrmin v, .vscan v], exec i s = .next (trapNow s i .illegal 0 0))
    ∧ (v.A = Say.at_ a → isInt fmt = true → gainUsable (Say.gain s xa.low) = true →
      same (.vamax v) 4 (fun y => y < n ∧ (∀ e < n, x e ≤ x y) ∧ ∀ e < y, x e < x y)
      ∧ same (.vamin v) 4 (fun y => y < n ∧ (∀ e < n, x y ≤ x e) ∧ ∀ e < y, x y < x e))
    ∧ (v.A = Say.at_ a → same (.vpopc v) 4 (fun y => y = (List.range 2048).countP fun b => xa.data.getLsbD b))
    ∧ (v.A = .scalar r false →
      ∃ img, exec (.vpfx v) s = .next (retire 12 (Say.put s d 4 img))
        ∧ ∀ p < 64, elemOf 4 img p = if (rd s r).getLsbD p then ((Say.bitList (rd s r)).take p).count true else 2 ^ 32 - 1)

/-- R296, R297, R299: VCVT, VGAIN, VPACK and VUNPK encode the exact value of each element under a new format or gain,
VPACK the elements of two rows into one, VUNPK those of one row into two. -/
def Sys2Proof.Say.VectorConversions : Prop :=
  ∀ (s : State) (v : VOp) (a d : BitVec 10) (k : BitVec 14) (xa xb xd xe : Row),
    Say.oneStep s v → Say.unmasked s → Say.noFlush s v → v.B = .imm k → Say.row s a xa → Say.row s d xd →
    xa.low.fmt ≠ 15 → gainUsable (Say.gain s xa.low) = true →
    let fmt := xa.low.fmt
    let g := k.toNat % 64
    let val := fun (x : Row) e => decodeElem x.low.fmt (Say.gain s x.low) (elemOf x.low.fmt x.data e)
    let enc := fun (t : Tag) x => encodeElem t.fmt (Say.gain s t) (Say.mode s v) v.sat false x % 2 ^ elemBits t.fmt
    let t := mkTag v.fmt.toNat g
    let t' := mkTag fmt g
    (v.A = Say.at_ a → v.D = Say.at_ d → v.fmt = 0 → gainUsable (Say.gain s t') = true → 1 ≤ fmt → fmt < 8 →
      ∃ img, exec (.vgain v) s = .next (retire 12 (Say.put s d t' img))
        ∧ ∀ e < elemCount fmt, elemOf fmt img e = enc t' (val xa e))
    ∧ (v.fmt ≠ 0 → v.fmt.toNat < 8 → gainUsable (Say.gain s t) = true →
      (v.A = Say.at_ a → v.D = Say.at_ d → elemBytes t.fmt = elemBytes fmt →
        ∃ img, exec (.vcvt v) s = .next (retire 12 (Say.put s d t img))
          ∧ ∀ e < elemCount fmt, elemOf t.fmt img e = enc t (val xa e))
      ∧ (v.A = .row a 1 false false .straight → v.D = Say.at_ d → a.toNat < 1023 → Say.row s (a + 1) xb →
        elemBytes xb.low.fmt = elemBytes fmt → xb.low.fmt ≠ 15 → gainUsable (Say.gain s xb.low) = true →
        elemBytes fmt = 2 * elemBytes t.fmt →
        ∃ img, exec (.vpack v) s = .next (retire 12 (Say.put s d t img))
          ∧ ∀ e < elemCount t.fmt, elemOf t.fmt img e =
              enc t (if e < elemCount fmt then val xa e else val xb (e - elemCount fmt)))
      ∧ (v.A = Say.at_ a → v.D = .row d 1 false false .straight → d.toNat < 1023 → Say.row s (d + 1) xe →
        elemBytes t.fmt = 2 * elemBytes fmt →
        ∃ lo hi, exec (.vunpk v) s = .next (retire 12 (Say.put (Say.put s d t lo) (d + 1) t hi))
          ∧ ∀ e < elemCount t.fmt, elemOf t.fmt lo e = enc t (val xa e)
            ∧ elemOf t.fmt hi e = enc t (val xa (elemCount t.fmt + e))))

/-- R187, R306, R307: VLD writes the 256 bytes of a line of the grant to its row under the tag B names; VST writes a
row to a line, and no other byte of any scratchpad or of memory changes. Granules that the stream has read ahead of
program order VLD loads as they were read, and its stream reads nothing older later (R103, log 119); the store is none of
those whose granules are written apart. A line that is not aligned takes ALIGN, one outside the grant PERM, with the job
offset in TRADDR. -/
def Sys2Proof.Say.VectorMemory : Prop :=
  ∀ (s : State) (v : VOp) (a d : BitVec 10) (r : Reg) (k : BitVec 14) (xa xd : Row),
    Say.oneStep s v → Say.unmasked s → v.fmt = 0 → Say.row s a xa → Say.row s d xd →
    (∀ e ∈ (curCore s).tokens, e.2.holder ≠ some (curJob s).ids.jobid) → (∀ w < 4, stashSizeOf (viewedJob s) w = 0) →
    s.ms.split = none →
    let o := (rd s r).toNat
    let t : Tag := k.setWidth 11
    (v.D = Say.at_ d → v.A = .scalar r false → v.B = .imm k → loadTagOk t = true →
      (∀ sp, o % 256 = 0 → grantAddr s.cur.core (curJob s).grant o 256 = some sp → spadPoisonIn s sp 256 = none →
        exec (.vld v) s = .next (retire 12 (Say.put (dropEarly s s.cur (spadPlaces sp 256)) d t
          (BitVec.ofNat 2048 (ofLe (withEarly s s.cur .spad sp (Memory.bytes s.ms.spad sp 256)))))))
      ∧ (o % 256 ≠ 0 → exec (.vld v) s = .next (trapNow s (.vld v) .align (rd s r) 0))
      ∧ (o % 256 = 0 → grantAddr s.cur.core (curJob s).grant o 256 = none →
        exec (.vld v) s = .next (trapNow s (.vld v) .perm (rd s r) 0)))
    ∧ (v.D = .none → v.A = Say.at_ a → v.B = .scalar r false → (curJob s).sealedSet = [] → memOk s = true →
      ∀ sp, o % 256 = 0 → grantAddr s.cur.core (curJob s).grant o 256 = some sp →
        ∃ u, exec (.vst v) s = .next (retire 12 u) ∧ Memory.bytes u.ms.spad sp 256 = leBytes 256 xa.data.toNat
          ∧ (∀ x, x < sp ∨ sp + 256 ≤ x → Memory.byte u.ms.spad x = Memory.byte s.ms.spad x)
          ∧ u.ms.mem = s.ms.mem ∧ u.ms.wet = s.ms.wet ∧ u.jobs = s.jobs ∧ u.strs = s.strs)

namespace Sys2Proof.Say

/-- How the operands of an operation are read (R285, R287): the bits of an element, of a scalar, an immediate, an
operand that is absent, and the negation of the neg bit. -/
structure Reads (α : Type) where
  elem : Nat → α
  scalar : Nat → α
  imm : Int → α
  absent : α
  neg : α → α

/-- Integers: neg wraps, or clamps where sat is set (R261). -/
def ints (fmt : Nat) (sat : Bool) : Reads Int :=
  { elem := intValue fmt, scalar := intValue fmt, imm := id, absent := 0, neg := fun x => intValue fmt (narrow fmt sat (-x)) }

/-- Exact values; those of scalars at a gain of 1.0 (R247, R257, R285). -/
def exacts (fmt : Nat) (gain : BitVec 32) : Reads Ex :=
  { elem := decodeElem fmt gain, scalar := decodeElem fmt 0x3F800000, imm := Ex.ofInt, absent := .zero false, neg := Ex.neg }

/-- Bits; an immediate is sign-extended to the element, or, where it is the wider, gives its low bits (log 129). -/
def plainBits (fmt : Nat) : Reads Nat :=
  { elem := id, scalar := id, imm := fun x => (x % 2 ^ elemBits fmt).toNat, absent := 0, neg := id }

/-- The row that a row descriptor names at a step: its index, rotated by the innermost active LOOP where rot is set, and
then its stride (R38, R79). -/
def rowAt (s : State) (idx : BitVec 10) (st : BitVec 4) (rot : Bool) (j : Nat) : Option Nat :=
  let base : Option Nat :=
    if rot then
      match (curStream s).loops with
      | [] => none
      | l :: _ =>
        (l.rots.find? fun r => (r.base != 0 || r.len != 0)
          && decide (r.base.toNat ≤ idx.toNat ∧ idx.toNat ≤ r.base.toNat + r.len.toNat)).map fun r =>
            r.base.toNat + (idx.toNat - r.base.toNat + l.j) % (r.len.toNat + 1)
    else some idx.toNat
  base.map (· + st.toNat * j)

/-- The place in its queue of the entry that operand A (1) or B (2) pops at a step (R140). -/
def popAt (v : VOp) (o j : Nat) : Nat :=
  match v.A, v.B with
  | .queue a _ _, .queue b _ _ => if a = b then 2 * j + (o - 1) else j
  | _, _ => j

/-- The entry that it pops. -/
def popped (s : State) (v : VOp) (q : BitVec 3) (o j : Nat) : Option QRow :=
  ((curJob s).queues.q.getD q.toNat [])[popAt v o j]?

/-- The element that a lane mode puts at element `e` of `n` (R285). -/
def laneOf (l : Lane) (n e : Nat) : Nat :=
  match l with
  | .straight => e
  | .first => 0
  | .reversed => n - 1 - e

/-- Element `e` of operand A (1) or B (2) at a step, from the rows as they stand by then (R285, R288). -/
def operand {α : Type} (R : Reads α) (s : State) (v : VOp) (fmt : Nat) (rows : Nat → Row) (o j e : Nat) : α :=
  let sgn := fun (neg : Bool) x => if neg then R.neg x else x
  let lane := fun l (d : RowBits) => R.elem (elemOf fmt d (laneOf l (elemCount fmt) e))
  match if o = 1 then v.A else v.B with
  | .row idx st rot ng l => sgn ng (lane l (rows ((rowAt s idx st rot j).getD 0)).data)
  | .queue q ng l => sgn ng (lane l (((popped s v q o j).map (·.data)).getD 0))
  | .scalar r ng => sgn ng (R.scalar ((rd s r).toNat % 2 ^ elemBits fmt))
  | .imm k => R.imm k.toInt
  | .none => R.absent

/-- Whether an element of a step is written: its row-mask bit, its column-mask bit and its bit in the stack top (R24). -/
def written (s : State) (v : VOp) (fmt j e : Nat) : Bool :=
  let col := e * elemBytes fmt / 4
  (v.k == 0 || (curJob s).rowMasks[v.k.toNat].getLsbD j) && (v.k == 0 || (curJob s).colMasks[v.k.toNat].getLsbD col)
    && (maskTop (curJob s)).getLsbD col

/-- The row that a step writes over what stood there (R24, R288). -/
def image {α : Type} (R : Reads α) (f : α → α → α → Nat) (s : State) (v : VOp) (fmt : Nat) (rows : Nat → Row)
    (j : Nat) (old : RowBits) : RowBits :=
  rowOfElems fmt ((List.range (elemCount fmt)).map fun e =>
    if written s v fmt j e then
      f (operand R s v fmt rows 1 j e) (operand R s v fmt rows 2 j e) (R.elem (elemOf fmt old e))
    else elemOf fmt old e)

/-- The rows after so many steps: they run in order, and each reads before it writes (R135, R288). -/
def rowsAfter {α : Type} (R : Reads α) (f : α → α → α → Nat) (s : State) (v : VOp) (t : Tag) : Nat → Nat → Row
  | 0 => getRow (curJob s)
  | j + 1 =>
    let rows := rowsAfter R f s v t j
    match v.D with
    | .row idx st rot _ _ =>
      let d := (rowAt s idx st rot j).getD 0
      fun r => if r = d then ⟨rowTag t false (rows d).fix true, image R f s v t.fmt rows j (rows d).data, 0, 0⟩ else rows r
    | _ => rows

/-- How many entries an instruction pops from a queue, and the rows it pushes into one (R140). -/
def pops (v : VOp) (q : Nat) : Nat :=
  let one := fun d => match d with
    | Desc.queue x _ _ => if x.toNat = q then v.n.toNat + 1 else 0
    | _ => 0
  one v.A + one v.B

def pushedRows {α : Type} (R : Reads α) (f : α → α → α → Nat) (s : State) (v : VOp) (t : Tag) (q : Nat) : List QRow :=
  match v.D with
  | .queue x _ _ =>
    if x.toNat = q then
      (List.range (v.n.toNat + 1)).map fun j => ⟨t, image R f s v t.fmt (rowsAfter R f s v t j) j 0⟩
    else []
  | _ => []

/-- What an elementwise instruction needs before its queues decide: the C-stream, descriptors of the kinds that it takes,
row indices up to 1,023 at each step, and no more than 8 entries of a queue (R42, R79, R141). -/
structure Shaped (s : State) (v : VOp) (two : Bool) : Prop where
  strm : s.cur.strm = .c
  ready : ready s 12 (some v.g) = true
  dest : (∃ idx st rot, v.D = .row idx st rot false .straight) ∨ ∃ q : BitVec 3, 4 ≤ q.toNat ∧ v.D = .queue q false .straight
  sources : v.A ≠ .none ∧ (two = true ↔ v.B ≠ .none)
  tagged : v.A.tagged = true ∨ v.B.tagged = true
  fmt : v.fmt = 0
  indices : ∀ d ∈ [v.D, v.A, v.B], ∀ idx st rot ng l, d = .row idx st rot ng l →
    ∃ r, rowAt s idx st rot v.n.toNat = some r ∧ r ≤ 1023
  queues : ∀ d ∈ [v.A, v.B], ∀ q ng l, d = .queue q ng l → q.toNat < 4
  limits : (∀ q < 8, pops v q ≤ 8) ∧ ((∃ q ng l, v.D = .queue q ng l) → v.n.toNat + 1 ≤ 8)
  depths : ∀ q < 8, ((curJob s).queues.q.getD q []).length ≤ 8

/-- Whether a queue is short of entries to pop, or of room for a row at each step (R141). -/
def short (s : State) (v : VOp) (q : Nat) : Bool :=
  let len := ((curJob s).queues.q.getD q []).length
  let room := match v.D with
    | .queue x _ _ => if x.toNat = q then v.n.toNat + 1 else 0
    | _ => 0
  decide (len < pops v q ∨ 8 < len + room)

/-- The rows of an instruction, and the entries that it pops, are ordinary ones of one tag. -/
structure OneTag (s : State) (v : VOp) (t : Tag) : Prop where
  recipes : noRecipes s
  rows : ∀ d ∈ [v.D, v.A, v.B], ∀ idx st rot ng l, d = .row idx st rot ng l → ∀ j ≤ v.n.toNat, ∀ r,
    rowAt s idx st rot j = some r → ∃ x, row s (BitVec.ofNat 10 r) x ∧ x.low = t
  entries : ∀ o ∈ [1, 2], ∀ q ng l, (if o = 1 then v.A else v.B) = .queue q ng l → ∀ j ≤ v.n.toNat,
    ∃ x, popped s v q o j = some x ∧ x.tag = t

/-- The instruction completes: its rows and queues are as R140 and R288 say, and nothing else of what a program reads
has changed. -/
def formsDone {α : Type} (R : Reads α) (f : α → α → α → Nat) (s : State) (i : Instr) (v : VOp) (t : Tag) : Prop :=
  ∃ u, exec i s = .next (retire 12 u)
    ∧ (∀ r, getRow (curJob u) r = rowsAfter R f s v t (v.n.toNat + 1) r)
    ∧ (∀ q < 8, (curJob u).queues.q.getD q [] = ((curJob s).queues.q.getD q []).drop (pops v q) ++ pushedRows R f s v t q)
    ∧ (curStream u).regs = (curStream s).regs ∧ (curStream u).preds = (curStream s).preds
    ∧ (curJob u).maskStack = (curJob s).maskStack ∧ u.ms.mem = s.ms.mem ∧ u.ms.spad = s.ms.spad

/-- The bit operations and the move: whether B is read, and the bits of an element. -/
def vBits : Instr → Option (VOp × Bool × (Nat → Nat → Nat → Nat))
  | .vand v => some (v, true, fun x y _ => x &&& y)
  | .vor v => some (v, true, fun x y _ => x ||| y)
  | .vxor v => some (v, true, fun x y _ => x ^^^ y)
  | .vmov v => some (v, false, fun x _ _ => x)
  | _ => none

end Sys2Proof.Say

/-- R24, R79, R140, R141, R285, R287, R288: the operand forms of the elementwise instructions, over their row steps, for
rows and queue entries of one tag. Sources are rows, straight or rotated, with a stride, popped entries of q0 to q3,
scalars and immediates, negated where their neg bit is set, in each lane mode; each step writes the elements whose row
mask, column mask and stack-top bits are set over the old row, or pushes a row in which the others are zero. Integers are
computed exactly and narrowed once, float values exactly and encoded once, bits as they stand. An instruction one of
whose queues is short waits on it. That of several short queues each counts is the model's choice (log 118). -/
def Sys2Proof.Say.VectorForms : Prop :=
  ∀ (s : State) (v : VOp) (t : Tag) (two old : Bool) (i : Instr),
    (∀ f, Say.vInt v.sat t.fmt i = some (v, two, old, f) → Say.Shaped s v two → (∀ q < 8, Say.short s v q = false) →
      Say.OneTag s v t → (old = true → ∃ idx st rot ng l, v.D = .row idx st rot ng l) → isInt t.fmt = true →
      v.rnd = 7 → v.ftz = false → (v.A.tagged = false ∨ two = true ∧ v.B.tagged = false → Say.gain s t = 0x3F800000) →
      Say.formsDone (Say.ints t.fmt v.sat) f s i v t)
    ∧ (∀ f, Say.vFloat (Say.mode s v) i = some (v, two, old, f) → Say.Shaped s v two →
      (∀ q < 8, Say.short s v q = false) → Say.OneTag s v t →
      (old = true → ∃ idx st rot ng l, v.D = .row idx st rot ng l) → t.fmt ≠ 15 → isInt t.fmt = false →
      gainUsable (Say.gain s t) = true → Say.noFlush s v →
      Say.formsDone (Say.exacts t.fmt (Say.gain s t))
        (fun x y z => encodeElem t.fmt (Say.gain s t) (Say.mode s v) v.sat false (f x y z) % 2 ^ elemBits t.fmt) s i v t)
    ∧ (∀ f, Say.vBits i = some (v, two, f) → Say.Shaped s v two → (∀ q < 8, Say.short s v q = false) →
      Say.OneTag s v t → v.A.neg = false → v.B.neg = false → Say.formsDone (Say.plainBits t.fmt) f s i v t)
    ∧ (∀ f g h q more, Say.vInt v.sat t.fmt i = some (v, two, old, f) ∨ Say.vFloat (Say.mode s v) i = some (v, two, old, g)
        ∨ Say.vBits i = some (v, two, h) → Say.Shaped s v two → (List.range 8).filter (Say.short s v) = q :: more →
      exec i s = Say.blocked s (if more = [] then .queue q else .queues q more))

/-! ## Child operations -/

namespace Sys2Proof.Say

/-- Where the lines of an operand are asked to be, and are: every stride odd (R311), every line in its group (R312),
in the job's grant, and out of its sealed set where it is written (R315). -/
def inPlace (s : State) (xs : List Operand) : Prop :=
  ∀ x ∈ xs, x.stride % 2 = 1 ∧ ∀ l ∈ x.lines,
    x.placed l = true ∧ (grantAddr s.cur.core (curJob s).grant (256 * l) 256).isSome = true
      ∧ (x.write = true → ∀ r ∈ (curJob s).sealedSet, 256 * l + 256 ≤ r.1 ∨ r.1 + r.2 ≤ 256 * l)

/-- What a matrix instruction asks for at its push: its operands, the accumulators it names with whether it writes
them, the kind it asks ACC to have (true: integer), and what else S(RA) must be (R315, R319 to R335). -/
structure MatAsk where
  m : MatOp
  xs : List Operand
  accs : List (Nat × Bool) := []
  int : Option Bool := none
  also : Bool := true

/-- An operand of `n` rows of one line each, and one of consecutive lines. -/
def eachRow (l st : BitVec 12) (n : BitVec 7) (w : Bool) : Operand := ⟨l.toNat, st.toNat, n.toNat, 1, .oneGroup, w⟩
def block (l : BitVec 12) (n : Nat) (w : Bool) : Operand := ⟨l.toNat, 1, n, 1, .oneGroup, w⟩

/-- The two factors of a product of `w`-byte elements. -/
def factors (m : MatOp) (w : Nat) : List Operand :=
  let per := (m.kb.toNat * 32 * w + 255) / 256
  [⟨m.la.toNat, m.sa.toNat, m.m.toNat, per, .group0, false⟩, ⟨m.lb.toNat, m.sb.toNat, m.n.toNat, per, .group1, false⟩]

def side (m : MatOp) (w : Bool) : List Operand := if m.side then [block m.lc 2 w] else []

def matAsk (s : State) : Instr → Option MatAsk
  | .mma m => some
    { m := m, xs := factors m (elemBytes m.h.fmt.toNat), accs := [(m.acc.toNat, true)], int := some false
      also := m.h.fmt != 7 || gainUsable ((rd s m.ra).setWidth 32) && gainUsable ((rd s m.ra >>> 32).setWidth 32) }
  | .mmi m => some { m := m, xs := factors m 1, accs := [(m.acc.toNat, true)], int := some true }
  | .attn m => some
    { m := m, xs := [⟨m.la.toNat, m.sa.toNat, m.m.toNat, 1, .group0, false⟩], int := some false
      accs := (m.acc.toNat, true) :: if m.acc = 7 then [] else [(m.acc.toNat + 1, true)] }
  | .accz m => some { m := m, xs := [], accs := [(m.acc.toNat, true)] }
  | .accrd m => some
    { m := m, xs := eachRow m.la m.sa m.m true :: side m true, accs := [(m.acc.toNat, false)]
      int := if m.norm then some false else none }
  | .accwr m => some
    { m := m, xs := eachRow m.la m.sa m.m false :: side m false, accs := [(m.acc.toNat, true)]
      int := some (decide (4 ≤ m.h.fmt.toNat)) }
  | .drnq m => some
    { m := m, xs := [eachRow m.la m.sa m.m true, block m.lb 3 false], accs := [(m.acc.toNat, false)]
      int := some true, also := drainCtlOk m.h.fmt.toNat (rd s m.ra) }
  | .mtrn m => some { m := m, xs := [eachRow m.la m.sa m.m false, eachRow m.lb m.sb m.n true] }
  | .qnt m => some
    { m := m, xs := [eachRow m.la m.sa m.m false, eachRow m.lb m.sb m.m true, block m.lc 1 (!m.scsrc)] }
  | .dqnt m => some
    { m := m, xs := [eachRow m.la m.sa m.m false, eachRow m.lb m.sb m.m true, block m.lc 1 false] }
  | .rqnt m => some { m := m, xs := [] }
  | _ => none

/-- A push may place the first entry of an empty table: no token is named, and no accumulator has a pending commit. -/
def mayPush (s : State) (h : MHead) : Prop :=
  ready s 24 none = true ∧ (curCore s).tokens = [] ∧ (rd s h.ta).toNat % 2 ^ 32 = 0
    ∧ (rd s h.tb).toNat % 2 ^ 32 = 0 ∧ noPending s

/-- The entry a push places (R155, R163). -/
def pushed (s : State) (i : Instr) (h : MHead) (e : TokenEntry) : Prop :=
  let j := curJob s
  e.seq = (curCore s).nextSeq ∧ e.state = .ready ∧ e.preds = [] ∧ e.holder = some j.ids.jobid ∧ e.strm = s.cur.strm
    ∧ e.instr = i ∧ e.pc = (curStream s).pc ∧ e.det = h.det ∧ e.prio = h.prio ∧ e.ctl = (viewedJob s).ctl ∧ e.ids = j.ids
    ∧ e.region = j.rgnid ∧ e.reported = false
    ∧ e.regs = rd s h.ta :: rd s h.tb :: (usedFields i).map fun f => rd s f.2

/-- The table with its first entry, and the next sequence number. -/
def oneMore (s u : State) (e : TokenEntry) : Prop :=
  (curCore u).tokens = [(0, e)]
    ∧ (curCore u).nextSeq = (if (curCore s).nextSeq = 0xFFFFFF then 1 else (curCore s).nextSeq + 1)

/-- A collective: its fields. -/
def collective : Instr → Option EngOp
  | .cred x | .cbc x | .cgth x | .crsc x => some x
  | _ => none

end Sys2Proof.Say

/-- R154, R155, R163, R200, R223: the push of an engine operation places a READY entry that holds what the operation
needs and puts its token in S(td). It reaches no memory, but the buffered stores of its stream are performed: R94 lists no
push among what performs them, and that a push does, for the operation to observe them (R159), is the model's choice
(log 35).
The C-stream may not push one (R52). A collective whose domain has no member is ILLEGAL. -/
def Sys2Proof.Say.EnginePush : Prop :=
  ∀ (i : Instr) (s : State) (n : Nat) (r : ERow) (x : EngOp), i.eParts = some (n, r, x) → Say.mayPush s x.h → s.cur.strm ≠ .c →
    ((∀ y, Say.collective i = some y → collSize (curJob s).ids y ≠ 0) →
      ∃ u e, exec i s = .next (retire 24 (wr u x.h.td (BitVec.ofNat 64 (curCore s).nextSeq)))
        ∧ Say.pushed s i x.h e ∧ Say.oneMore s u e ∧ u.ms = (drainWc s s.cur).ms ∧ u.jobs = s.jobs ∧ u.strs = s.strs)
    ∧ (∀ y, Say.collective i = some y → collSize (curJob s).ids y = 0 → exec i s = .next (trapNow s i .illegal 0 0))

/-- R26, R154, R155, R311, R312, R315: the push of a matrix operation whose operands are in place also places a READY
entry and puts its token in S(td), and performs its stream's buffered stores (the model's choice, log 35); the accumulators it writes are its own from then on, and ACCZ sets the pushed kind.
An even stride takes BANKCONFLICT with the operand's offset, an accumulator of the wrong kind FORMAT with its number.
-/
def Obligations.MatrixPush : Prop :=
  ∀ (i : Instr) (s : State) (k : Say.MatAsk), Say.matAsk s i = some k → Say.mayPush s k.m.h → s.cur.strm = .c →
    let kind := (curJob s).accs[k.m.acc.toNat].pushedInt
    (Say.inPlace s k.xs → (∀ b, k.int = some b → kind = b) → k.also = true →
      ∃ u e, exec i s = .next (retire 24 (wr u k.m.h.td (BitVec.ofNat 64 (curCore s).nextSeq)))
        ∧ Say.pushed s i k.m.h e ∧ Say.oneMore s u e ∧ u.ms = (drainWc s s.cur).ms ∧ u.strs = s.strs
        ∧ footAccs e.foot = k.accs.map (·.1)
        ∧ curJob u = { curJob s with accs := Vector.ofFn fun a : Fin 8 =>
            let o := if (a.val, true) ∈ k.accs then
                { (curJob s).accs[a] with owner := some (0, (curCore s).nextSeq), buffer := none }
              else (curJob s).accs[a]
            match i with
            | .accz m => if a.val = m.acc.toNat then { o with pushedInt := m.h.fmt == 4 } else o
            | _ => o })
    ∧ (∀ x, k.xs.find? (fun x => x.stride % 2 == 0) = some x →
      exec i s = .next (trapNow s i .bankConflict (BitVec.ofNat 64 (256 * x.line)) 0))
    ∧ (∀ b, Say.inPlace s k.xs → k.int = some b → kind ≠ b →
      exec i s = .next (trapNow s i .format (BitVec.ofNat 64 k.m.acc.toNat) 0))

/-- R154, R155, R156, R161: a predecessor named in ta is an edge: the new entry is PENDING while it is in flight,
READY once it is DONE, and FAULTED with ASYNC where it failed; the buffered stores of its stream are performed, which is
the model's choice (log 35). In deterministic mode a footprint that meets that of
an operation of another stream, which the pushing stream has not seen and no edge orders, takes OVERLAP. -/
def Sys2Proof.Say.PushEdges : Prop :=
  ∀ (s : State) (x : EngOp) (slot : Nat) (p : TokenEntry),
    ready s 24 none = true → s.cur.strm ≠ .c → slot < 256 → (curCore s).tokens = [(slot, p)] →
    p.holder = some (curJob s).ids.jobid → (rd s x.h.tb).toNat % 2 ^ 32 = 0 → (curCore s).nextSeq ≠ p.seq →
    (∀ y ∈ s.saved, y.job.ids.jobid ≠ (curJob s).ids.jobid) →
    (Say.liveTok s x.h.ta p →
      ∃ u k e, exec (.pfch x) s =
          .next (retire 24 (wr u x.h.td (BitVec.ofNat 64 (k * 2 ^ 24 + (curCore s).nextSeq))))
        ∧ k ≠ slot ∧ Tab.get? (curCore u).tokens k = some e ∧ e.instr = .pfch x ∧ e.preds = [(slot, p.seq)]
        ∧ e.state = (match p.state with | .done => .ready | .faulted | .cancelled => .faulted | _ => .pending)
        ∧ (e.state = .faulted → e.fault = some (.async, 0) ∧ e.reported = false)
        ∧ u.ms = (drainWc s s.cur).ms ∧ u.strs = s.strs)
    ∧ (∀ l m, (rd s x.h.ta).toNat % 2 ^ 32 = 0 → detMode (curJob s) = true → p.strm ≠ s.cur.strm →
      p.state.inFlight = true → p.seen.getLsbD (strmIdx s.cur.strm) = false → p.foot = [.spad l m true] →
      l ≤ x.ln.toNat → x.ln.toNat ≤ m → x.cnt ≠ 0 →
      exec (.put x) s = .next (trapNow s (.put x) .overlap (BitVec.ofNat 64 (256 * x.ln.toNat))
        (BitVec.ofNat 64 (slot * 2 ^ 24 + p.seq))))

namespace Sys2Proof.Say

/-- The one operation of a core is RUNNING: it holds no translation, it has read and written nothing ahead of its
completion, its sync word has counted none of it, its job is not saved, and nothing observes its partition. -/
def runs (s : State) (core slot : Nat) (e : TokenEntry) : Prop :=
  tokens s core = [(slot, e)] ∧ e.state = .running ∧ e.held = none ∧ e.early = [] ∧ e.performed = []
    ∧ e.ran = false ∧ e.counted = 0 ∧ (∀ w ∈ s.ms.wet, w.ofLayer e.ids.jobid slot e.seq = false)
    ∧ (∀ x ∈ s.saved, some x.job.ids.jobid ≠ e.holder)
    ∧ (∀ m ∈ (getDebug s e.ids.part).monitors.toList, bitOf m.cfg 0 = false) ∧ chalked s e.ids.part = false

/-- An operation of deterministic mode that every stream has seen, and that owns no accumulator (R158). -/
def seenByAll (s : State) (slot : Nat) (e : TokenEntry) : Bool :=
  e.seen == 7 && match e.holder.bind (residentJob s) with
    | some j => detMode j && (accsOwned j slot e.seq).isEmpty
    | none => false

/-- The same core once that operation has ended (R154): its entry, which keeps the token and the stream of its fault
record (R163); a DONE one that every stream has seen is released (R158). -/
def ended (s t : State) (core slot : Nat) (e : TokenEntry) (st : TokState) (f : Option (Cause × Word)) : Prop :=
  tokens t core = if st = .done ∧ seenByAll s slot e = true then [] else
    [(slot, { e with state := st, fault := f, endedAt := cycleOf s core, requests := [], held := none,
                     faultName := f.map fun _ => (BitVec.ofNat 32 (tokenValue slot e.seq), e.strm) })]

/-- Memory is as before, but for what streams had read ahead. -/
def sameMemory (s t : State) : Prop := { t.ms with early := [] } = { s.ms with early := [] }

/-- A range of virtual addresses of a job lies in its part of the scratchpad, from byte `a` of it on, and holds no
poison. -/
def inSpad (s : State) (core : Nat) (j : Job) (va : Word) (n a : Nat) : Prop :=
  let off := va.toNat - Config.spadWindow
  Config.spadWindow ≤ va.toNat ∧ off + n ≤ Config.spadSpan ∧ j.grant.half ≤ Config.groupSplit ∧ j.sealedSet = []
    ∧ (∀ w < 4, stashSizeOf j w = 0) ∧ grantAddr core j.grant off n = some a ∧ spadPoisonIn s a n = none

/-- Word `i` of the scratchpad from byte `a` on. -/
def spadWord (s : State) (a i : Nat) : Nat := ofLe (Memory.bytes s.ms.spad (a + 4 * i) 4)

end Sys2Proof.Say

/-- R162: an engine takes, of its READY operations, the one of highest priority, and among those the oldest; the
matrix engine takes none while it runs one. That it does not is the model's choice (log 58): R162 gives the order alone.
-/
def Sys2Proof.Say.EngineSelect : Prop :=
  ∀ (s : State) (core slot : Nat) (e : TokenEntry) (eng : Engine), (slot, e) ∈ tokens s core →
    Tab.wf (tokens s core) = true → e.state = .ready → engineOf e.instr = some eng →
    (∀ m, e.instr ≠ .attn m) → eng = .matrix ∨ eng = .copy ∨ eng = .media →
    let age := fun q => ((getCore s core).nextSeq + 0xFFFFFF - q) % 0xFFFFFF
    (∀ x ∈ tokens s core, x.1 ≠ slot → x.2.state = .ready → engineOf x.2.instr = some eng →
      x.2.prio < e.prio ∨ x.2.prio = e.prio ∧ age x.2.seq < age e.seq) →
    ((eng ≠ .matrix ∨ ∀ x ∈ tokens s core, x.2.state = .running → engineOf x.2.instr ≠ some .matrix) →
      ∃ t, exec (.engineSelect core eng) s = .next t
        ∧ tokens t core = (tokens s core).map (fun x => if x.1 = slot then (slot, { e with state := .running }) else x)
        ∧ t.ms = s.ms ∧ t.jobs = s.jobs ∧ t.strs = s.strs)
    ∧ (eng = .matrix → (∃ x ∈ tokens s core, x.2.state = .running ∧ engineOf x.2.instr = some .matrix) →
      exec (.engineSelect core eng) s = .next s)

/-- R154, R201, R205, R209, R326, R463: a running CPY in scratchpad moves its bytes and nothing else, and is DONE; one
whose source address or length is no multiple of 16 is FAULTED with ALIGN and moves none. A PFCH changes nothing. ACCZ
leaves a zero tile of its kind in the commit buffer of the accumulator it owns. An operation whose message to a peer
has not been delivered for 2 ms is FAULTED with LINK, and not before. -/
def Obligations.OperationEnds : Prop :=
  ∀ (s : State) (core slot : Nat) (e : TokenEntry) (j : Job), Say.runs s core slot e → memOk s = true →
    residentJob s e.ids.jobid = some j →
    let va := opVal e .ra
    let n := (opVal e .rc).toNat % 2 ^ 32
    (∀ x a b, e.instr = .cpy x → x.rw = 0 → n ≠ 0 → n % 16 = 0 → va.toNat % 16 = 0 → (opVal e .rb).toNat % 16 = 0 →
      Say.inSpad s core j va n a → Say.inSpad s core j (opVal e .rb) n b →
      ∃ t, exec (.childOpDone core slot) s = .next t ∧ Say.ended s t core slot e .done none
        ∧ Memory.bytes t.ms.spad b n = Memory.bytes s.ms.spad a n
        ∧ (∀ c, c < b ∨ b + n ≤ c → Memory.byte t.ms.spad c = Memory.byte s.ms.spad c)
        ∧ t.ms.mem = s.ms.mem ∧ t.ms.wet = s.ms.wet)
    ∧ (∀ x, e.instr = .cpy x → n ≠ 0 → (va.toNat % 16 ≠ 0 ∨ n % 16 ≠ 0) →
      ∃ t, exec (.childOpFault core slot) s = .next t ∧ Say.ended s t core slot e .faulted (some (.align, va))
        ∧ t.ms = s.ms)
    ∧ (∀ x, e.instr = .pfch x →
      ∃ t, exec (.childOpDone core slot) s = .next t ∧ Say.ended s t core slot e .done none ∧ Say.sameMemory s t
        ∧ t.jobs = s.jobs)
    ∧ (∀ m, e.instr = .accz m → j.accs[m.acc.toNat].owner = some (slot, e.seq) →
      ∃ t j', exec (.childOpDone core slot) s = .next t ∧ Say.ended s t core slot e .done none
        ∧ residentJob t e.ids.jobid = some j'
        ∧ j'.accs[m.acc.toNat].buffer = some { AccVal.start with isInt := m.h.fmt == 4 }
        ∧ j'.accs[m.acc.toNat].val = j.accs[m.acc.toNat].val ∧ Say.sameMemory s t)
    ∧ (∀ q ∈ e.requests, q.delivered = false → q.reply = none → q.sentAt + 2000000 ≤ s.time →
      ∃ t, exec (.linkTimeout core slot) s = .next t ∧ Say.ended s t core slot e .faulted (some (.link, 0))
        ∧ t.ms = s.ms)
    ∧ (collOp e.instr = none → (∀ q ∈ e.requests, q.delivered = false → q.reply = none → s.time < q.sentAt + 2000000) →
      exec (.linkTimeout core slot) s = .next s)

namespace Sys2Proof.Say

/-- A member of a reduction of INT32 sums over two members: `i` is its index, `a` and `b` where its source and its
destination lie. -/
def sumMember (s : State) (k : CollKey) (core slot : Nat) (e : TokenEntry) (i count a b : Nat) : Prop :=
  ∃ x j, e.instr = .cred x ∧ x.h.fmt = 4 ∧ x.op = 0 ∧ x.rw = 0 ∧ collSize e.ids x = 2 ∧ x.lvl.toNat = k.1
    ∧ collKey core e x = k ∧ runs s core slot e ∧ residentJob s e.ids.jobid = some j
    ∧ (opVal e .rc).toNat % 2 ^ 32 = count ∧ bitsOf (opVal e .rd) 0 10 = i
    ∧ (opVal e .ra).toNat % 16 = 0 ∧ (opVal e .rb).toNat % 16 = 0
    ∧ inSpad s core j (opVal e .ra) (4 * count) a ∧ inSpad s core j (opVal e .rb) (4 * count) b

end Sys2Proof.Say

/-- R223, R224, R225: an instance runs when every member of its domain runs: a CRED of INT32 sums leaves the sum of the
two sources modulo 2^32 in both destinations. With a member still to come nothing happens; members that disagree
all fail with PERM, and where a member has failed the others fail with ASYNC. -/
def Obligations.Collective : Prop :=
  ∀ (s : State) (p c0 c1 n0 n1 : Nat) (k0 k1 : Core) (e0 e1 : TokenEntry) (k : CollKey) (count a0 a1 b0 b1 i1 : Nat),
    s.cores = [(c0, k0), (c1, k1)] → c0 < c1 → memOk s = true → s.fabric.remote = [] → s.fabric.pending = [] → count % 4 = 0 → 0 < count →
    e0.ids.part = p → e1.ids.part = p → e0.ids.jobid ≠ e1.ids.jobid →
    Say.sumMember s k c0 n0 e0 0 count a0 b0 → Say.sumMember s k c1 n1 e1 i1 count a1 b1 →
    (b0 + 4 * count ≤ b1 ∨ b1 + 4 * count ≤ b0) →
    let event := Instr.collectiveInstance p k.1 k.2.1 k.2.2.1 k.2.2.2
    (i1 = 1 → (getPart s p).failedColl = [] →
      ∃ t, exec event s = .next t ∧ Say.ended s t c0 n0 e0 .done none ∧ Say.ended s t c1 n1 e1 .done none
        ∧ (∀ i < count, Say.spadWord t b0 i = (Say.spadWord s a0 i + Say.spadWord s a1 i) % 2 ^ 32
          ∧ Say.spadWord t b1 i = (Say.spadWord s a0 i + Say.spadWord s a1 i) % 2 ^ 32)
        ∧ t.ms.mem = s.ms.mem)
    ∧ (i1 ≠ 1 → (getPart s p).failedColl = [] →
      ∃ t, exec event s = .next t ∧ t.ms = s.ms
        ∧ Say.ended s t c0 n0 e0 .faulted (some (.perm, 0)) ∧ Say.ended s t c1 n1 e1 .faulted (some (.perm, 0)))
    ∧ ((∃ f ∈ (getPart s p).failedColl, f.covers k e0.ids = true) → exec event s = .next s
      ∧ ∃ t, exec (.childOpFault c0 n0) s = .next t ∧ t.ms = s.ms
        ∧ Say.ended s t c0 n0 e0 .faulted (some (.async, 0)))
    ∧ ∀ q o, q ≠ p ∨ o ≠ k.2.2.2 → exec (.collectiveInstance q k.1 k.2.1 k.2.2.1 o) s = .next s

/-- R158, R165, R168: the device may release an entry that is DONE, that owns no accumulator and whose job is not in
deterministic mode. An orphan that has ended is reaped ORPHTMO cycles later, a failed one with its record; not
before. -/
def Sys2Proof.Say.TableEvents : Prop :=
  ∀ (s : State) (core slot : Nat) (e : TokenEntry), Tab.get? (tokens s core) slot = some e →
    let gone := modCore s core fun c => { c with tokens := Tab.del c.tokens slot }
    (∀ j id, e.holder = some id → residentJob s id = some j → e.state = .done → detMode j = false →
      accsOwned j slot e.seq = [] → exec (.tokenRelease core slot) s = .next gone)
    ∧ (∀ j id, e.holder = some id → residentJob s id = some j → (e.state ≠ .done ∨ detMode j = true) →
      exec (.tokenRelease core slot) s = .next s)
    ∧ (e.holder = none → e.state.inFlight = false →
      e.endedAt + (getPart s e.ids.part).orphtmo.toNat ≤ cycleOf s core →
      (¬(e.det = true ∧ e.state = .faulted) → exec (.orphanReap core slot) s = .next gone)
      ∧ (e.det = true ∧ e.state = .faulted → exec (.orphanReap core slot) s =
          .next (modCore (queueFault s e.ids.part (tokenRecord slot e)) core fun c =>
            { c with tokens := Tab.del c.tokens slot })))
    ∧ ((e.holder ≠ none ∨ e.state.inFlight = true ∨
        cycleOf s core < e.endedAt + (getPart s e.ids.part).orphtmo.toNat) →
      exec (.orphanReap core slot) s = .next s)

/-! ## The dispatcher, the scheduler, pre-emption -/

namespace Sys2Proof.Say

/-- The pool holds one launch that is not retired, and it is ready, of a deadline of none (R347). -/
def onlyLaunch (s : State) (i : Nat) (l : Launch) : Prop :=
  s.pool = [(i, l)] ∧ (l.state = 2 ∨ l.state = 3) ∧ l.since.isSome = true ∧ l.retired + 1 < l.count ∧ l.deadline = 0

/-- Nothing measures a partition (R475). -/
def unmeasured (s : State) (p : Nat) : Prop := ∀ m ∈ (getDebug s p).monitors.toList, bitOf m.cfg 0 = false

/-- A cluster runs and belongs to a partition that is not stopped. -/
def powered (s : State) (core p : Nat) : Prop :=
  Tab.get? s.clusterOwner (clusterOf core) = some p ∧ (getCluster s (clusterOf core)).gated = false
    ∧ stopped s p = false

/-- Register n at job start (R34). -/
def firstReg (s : State) (p i r core : Nat) (n : Nat) : Nat :=
  let l := getLaunch s i
  match n with
  | 1 => l.get 0x10 8 + r * l.get 0x1C 4
  | 2 => r
  | 3 => i
  | 4 => logicalCore s p core
  | 5 => l.strm
  | 24 => l.get 0x50 8
  | 25 => l.get 0x58 8
  | 26 => l.get 0x60 8
  | 27 => l.get 0x68 8
  | 28 => l.get 0x70 8
  | _ => 0

end Sys2Proof.Say

/-- R346: the chunk that is allotted to a core holds Min(remaining, Max(MINCHUNK, Ceil(remaining / (DIVISOR × W))))
records, the lowest not yet allotted; MINCHUNK 0 acts as 1 and DIVISOR 0 as 2. A partition that has no launch to
allot, or that is stopped, allots nothing. -/
def Sys2Proof.Say.Allotment : Prop :=
  ∀ (s : State) (p i : Nat) (l : Launch) (card : Card),
    Say.unmeasured s p →
    (stopped s p = true ∨ candidates s p = [] → exec (.launchAllot p) s = .next s)
    ∧ (Say.onlyLaunch s i l → inShare s p i = true → stopped s p = false → l.next < l.count → l.card = some card →
      Tab.wf s.cores = true → chunkCores s p i ≠ [] → (∀ c ∈ l.cores, c ∈ coresOfPart s p) →
      let left := l.count - l.next
      let w := if l.get 0x2C 4 = 0 then coreCount s p else min (l.get 0x2C 4) (coreCount s p)
      let least := if card.minChunk = 0 then 1 else card.minChunk
      let d := (if card.divisor = 0 then 2 else card.divisor) * max 1 w
      ∃ t core n, exec (.launchAllot p) s = .next t ∧ core ∈ coresOfPart s p
        ∧ n = min left (max least ((left + d - 1) / d))
        ∧ (getCore t core).localQueue = (getCore s core).localQueue ++ [(i, l.next, n)]
        ∧ (∀ k, k ≠ core → getCore t k = getCore s k)
        ∧ (getLaunch t i).next = l.next + n ∧ (getLaunch t i).state = 3 ∧ t.jobs = s.jobs ∧ t.ms = s.ms)

/-- R34, R17, R59, R494: dealing makes the record at the head of a core's queue a resident job in the lowest free
slot: its streams start at the entry words' targets with the registers of R34, under a fresh JOBID. A record whose
card is bad is retired and never runs, once its fault record is written. That the slot is the lowest free one (log 123)
and that JOBIDs count up (log 11) are the model's choices. -/
def Sys2Proof.Say.Dealing : Prop :=
  ∀ (s : State) (core p i r n : Nat) (rest : List (Nat × Nat × Nat)) (l : Launch) (card : Card),
    Say.powered s core p → (getCore s core).localQueue = (i, r, n) :: rest → Tab.wf s.cores = true →
    Tab.wf s.jobs = true → Tab.wf s.strs = true →
    Say.onlyLaunch s i l → l.card = some card → s.saved = [] → (∀ e ∈ s.jobs, e.1 / 4 ≠ core) →
    (card.bad = none → card.rows ≤ 1024 → card.grant ≤ 2 ^ 20 →
      ∀ s' bs, readRange s (dispatcher p l.armedPasid.toNat i) card.entry 12 = .ok (s', bs) →
      let pc := fun k : Nat => card.entry + BitVec.ofNat 64 (4 * k)
        + (BitVec.ofNat 32 (ofLe ((bs.drop (4 * k)).take 4))).signExtend 64
      (∀ k < 3, (pc k).toNat % 4 = 0) →
      ∃ t j, exec (.jobDeal core) s = .next t ∧ Tab.get? t.jobs (4 * core) = some j
        ∧ j.ids.jobid = s.nextJob ∧ t.nextJob = s.nextJob + 1 ∧ j.ids.part = p ∧ j.ids.launch = i ∧ j.ids.record = r
        ∧ j.ids.pasid = l.armedPasid.toNat ∧ j.grant.half = card.grant / 2 ∧ j.phase = .running ∧ j.rows = []
        ∧ (∀ x : Strm, (getStream t ⟨core, 0, x⟩).pc = pc (strmIdx x)
          ∧ ∀ m : Reg, (getStream t ⟨core, 0, x⟩).regs[m.toNat] =
              BitVec.ofNat 64 (Say.firstReg s p i r core m.toNat))
        ∧ (getCore t core).localQueue = (if n ≤ 1 then rest else (i, r + 1, n - 1) :: rest)
        ∧ (getLaunch t i).dealt = l.dealt + 1)
    ∧ (∀ c a, card.bad = some (c, a) →
      (∀ u, faultTo s (dispatcher p l.armedPasid.toNat i) l.sink (unstartedRecord c a i r) = .error u →
        exec (.jobDeal core) s = .next u)
      ∧ ∀ u, faultTo s (dispatcher p l.armedPasid.toNat i) l.sink (unstartedRecord c a i r) = .ok u →
      ∃ t, exec (.jobDeal core) s = .next t ∧ t.jobs = s.jobs ∧ t.nextJob = s.nextJob
        ∧ (getLaunch t i).retired = l.retired + 1 ∧ (getLaunch t i).dealt = l.dealt + 1
        ∧ (getCore t core).localQueue = (if n ≤ 1 then rest else (i, r + 1, n - 1) :: rest))

/-- R345: where the host has written a slot's line, the line monitor reads its go byte; it arms the record whose slot
shows the expected one, from the bytes of its slot, with no release; the next go byte is one more, and 1 after 255.
Until the host writes nothing happens, nor does another go byte arm anything. A record that fails its checks is not
armed, and the failure is logged. -/
def Sys2Proof.Say.WindowArming : Prop :=
  ∀ (s : State) (i p base : Nat), partOfIndex s i = some p → (getPart s p).window = some base →
    let bs := readPa s deviceView false (base + 128 * (i - (getPart s p).shareFirst)) 128
    let go := (bs.getD 127 0).toNat
    let l := getLaunch s i
    let seen := NatSet.has (getPart s p).windowWritten i
    (seen = false ∨ (go = l.go ∧ arbiterOpen s p = false) → exec (.launchWindowArm i) s = .next s)
    ∧ (seen = true → go ≠ l.go → exec (.launchWindowArm i) s =
      .next (modPart s p fun x => { x with windowWritten := NatSet.del x.windowWritten i }))
    ∧ (seen = true → go = l.go → arbiterOpen s p = true → replaying s p = false → l.state = 1 ∨ l.state = 4 →
      ∃ u l', exec (.launchWindowArm i) s =
          .next (if fieldsOk s p l' then settlePool (logEvent u p 2 0 (getLaunch u i).streamId i 0)
            else logEvent (queueFault u p (unstartedRecord .launch 0 i 0xFFFFFFFF)) p 2 0 l'.streamId i (2 ^ 63))
        ∧ (∀ o, 4 ≤ o → o < 0x78 → l'.get o 1 = (bs.getD o 0).toNat) ∧ l'.get 0 4 = l.get 0 4
        ∧ (getLaunch u i).go = (if l.go = 255 then 1 else l.go + 1)
        ∧ (∀ n, n ≠ i → getLaunch u n = getLaunch s n)
        ∧ (fieldsOk s p l' = true → (getLaunch u i).state = 2 ∧ (getLaunch u i).armseq = (l.armseq + 1) % 2 ^ 24
          ∧ ∀ o, 4 ≤ o → o < 0x78 → (getLaunch u i).get o 1 = l'.get o 1)
        ∧ (fieldsOk s p l' = false → (getLaunch u i).words = l'.words))

namespace Sys2Proof.Say

/-- A boundary of an enabled stream of a partition falls now, its first to be acted on; the stream neither records nor
plays a rung log. -/
def falls (s : State) (st p : Nat) (d : StreamDesc) : Prop :=
  st < 256 ∧ streamOwner s st = some p ∧ getSdesc s st = d ∧ d.get 0x45 1 = 1 ∧ d.due = [] ∧ d.nextAt ≤ s.time
    ∧ arbiterOpen s p = true ∧ replaying s p = false ∧ stopped s p = false ∧ (getPart s p).log.cap = 0
    ∧ detPart s p = false ∧ d.get 0x40 1 < 4

end Sys2Proof.Say

/-- R357: at a boundary the scheduler arms the launches of the current rung's set with the deadline, priority, stream
word and frame number of the frame; where one of them is still armed or running it skips the frame and counts it.
FRAME advances either way. R355: the boundary of a stream of lower id at the same time comes first. -/
def Sys2Proof.Say.Boundary : Prop :=
  ∀ (s : State) (st p : Nat) (d : StreamDesc), Say.falls s st p d →
    let r := d.get 0x40 1
    let i := rungBase d r
    let l := getLaunch s i
    let f := d.get 0x18 8
    let lower := lowerBoundary s p st d.nextAt
    (lower = true → exec (.periodBoundary st) s = .next s)
    ∧ (lower = false → rungCount d r = 1 → (l.state = 1 ∨ l.state = 4) → inShare s p i = true → l.flags = 8 → d.get 0x44 1 ≤ 23 →
      l.get 0x1C 4 % 8 = 0 → l.get 0x3C 4 = 0 → l.get 0x78 7 = 0 → l.get 0x30 4 = 0xFFFFFFFF →
      l.get 0x34 4 = 0xFFFFFFFF →
      ∃ u, exec (.periodBoundary st) s = .next (settlePool u)
        ∧ (getLaunch u i).state = 2 ∧ (getLaunch u i).armseq = (l.armseq + 1) % 2 ^ 24
        ∧ (getLaunch u i).deadline = (d.nextAt + d.get 0x10 8) % 2 ^ 64
        ∧ (getLaunch u i).prio = d.get 0x44 1 ∧ (getLaunch u i).strm = st + 256 * r + 2 ^ 31
        ∧ (getLaunch u i).get 0x70 8 = f ∧ (getSdesc u st).get 0x18 8 = (f + 1) % 2 ^ 64
        ∧ (getSdesc u st).nextAt = d.nextAt + d.get 0 8 ∧ (getSdesc u st).due = [])
    ∧ (lower = false → (∃ n < rungCount d r, (getLaunch s (i + n)).state = 2 ∨ (getLaunch s (i + n)).state = 3) →
      ∃ t, exec (.periodBoundary st) s = .next t ∧ t.pool = s.pool
        ∧ (getSdesc t st).get 0x74 4 = (d.get 0x74 4 + 1) % 2 ^ 32
        ∧ (getSdesc t st).get 0x70 4 = (d.get 0x70 4 + 1) % 2 ^ 32
        ∧ (getSdesc t st).get 0x18 8 = (f + 1) % 2 ^ 64 ∧ (getSdesc t st).due = [])

/-- R358, R360, R361, R362: the arbiter applies the oldest rung request, which sets CUR; a migration moves records from
the tail of one core's queue to that of another, the lowest indices staying, as far as the other's queue takes the
chunk and no more cores than W hold the launch (R346); the balancer asks for moves only at
multiples of 2 µs. Which moves it asks for is free (log 81). -/
def Sys2Proof.Say.ArbiterCommands : Prop :=
  ∀ (s : State) (p : Nat), p < Config.numParts → Tab.wf s.parts = true →
    (∀ id st r rest, (getPart s p).rungReqs = (id, st, r) :: rest → arbiterOpen s p = true → replaying s p = false →
      detPart s p = false → (getPart s p).log.cap = 0 →
      let d := getSdesc s st
      ∃ t, exec (.rungRequestApply p) s = .next t ∧ (getPart t p).rungReqs = rest
        ∧ (getSdesc t st).get 0x40 1 =
            (if playsLog d && streamEnabled d then d.get 0x40 1 else r % 256)
        ∧ t.pool = s.pool ∧ t.ms = s.ms)
    ∧ (∀ src dst a b i r k n rest, (getPart s p).migrations = (src, dst, n) :: rest → stopped s p = false →
      replaying s p = false → physCore s p src = some a → physCore s p dst = some b → a ≠ b → Tab.wf s.cores = true →
      (getCore s a).localQueue = [(i, r, k)] → (getLaunch s i).flags / 4 % 2 = 0 → 0 < n → n < k →
      let fits := (getCore s b).localQueue.length < 8
        ∧ (holdsLaunch s i b = true ∨ holders s p i < widthOf s p (getLaunch s i))
      ∃ t, exec (.migrationApply p) s = .next t ∧ (getPart t p).migrations = rest ∧ t.pool = s.pool
        ∧ (fits → (getCore t a).localQueue = [(i, r, k - n)]
          ∧ (getCore t b).localQueue = (getCore s b).localQueue ++ [(i, r + (k - n), n)])
        ∧ (¬fits → t.cores = s.cores))
    ∧ (s.time % 2000 ≠ 0 → exec .balancerTick s = .next s)
    ∧ (s.time % 2000 = 0 →
      ∃ t, exec .balancerTick s = .next t ∧ t.jobs = s.jobs ∧ t.cores = s.cores ∧ t.pool = s.pool
        ∧ ∀ q, (getPart t q).migrations = (getPart s q).migrations
          ∨ ∃ a b n, (getPart t q).migrations = (getPart s q).migrations ++ [(a, b, n)]
            ∧ a < coreCount s q ∧ b < coreCount s q ∧ a ≠ b ∧ n ≠ 0)

/-- R363: a cluster with nothing to do for GATEIDLE is gated; a wake request starts at least 250 ns after the last
one, in the order of the requests, and is done 2 µs later. -/
def Sys2Proof.Say.ClusterPower : Prop :=
  ∀ (s : State) (n : Nat), Tab.wf s.clusters = true →
    let c := getCluster s n
    let idle := match Tab.get? s.clusterOwner n with | some p => (getPart s p).gateidle.toNat | none => 20000
    let nothing := (∀ e ∈ s.jobs, clusterOf (e.1 / 4) ≠ n) ∧ ∀ k, clusterOf k = n → (getCore s k).localQueue = []
    (c.gated = false → nothing → c.idleSince + idle ≤ s.time →
      exec (.clusterGate n) s = .next (modCluster s n fun c => { c with gated := true, wakeAt := none }))
    ∧ (c.gated = true ∨ (∃ e ∈ s.jobs, clusterOf (e.1 / 4) = n) ∨ s.time < c.idleSince + idle →
      exec (.clusterGate n) s = .next s)
    ∧ (∀ rest, s.wakeQueue = n :: rest → (∀ t, s.lastWake = some t → t + 250 ≤ s.time) →
      exec (.clusterWakeStart n) s =
        .next (modCluster { s with wakeQueue := rest, lastWake := some s.time } n fun c =>
          { c with wakeAt := some (s.time + 2000) }))
    ∧ ((∃ t, s.lastWake = some t ∧ s.time < t + 250) ∨ s.wakeQueue.head? ≠ some n →
      exec (.clusterWakeStart n) s = .next s)
    ∧ (∀ t, c.wakeAt = some t → t ≤ s.time →
      exec (.clusterWakeDone n) s =
        .next (modCluster s n fun c => { c with gated := false, wakeAt := none, idleSince := s.time }))
    ∧ (∀ t, c.wakeAt = some t → s.time < t → exec (.clusterWakeDone n) s = .next s)

namespace Sys2Proof.Say

/-- Whether a predicate is a stage predicate of a LOOP: one of its STAGES, from SP on; p0 is none. -/
def staged (l : LoopState) (n : Nat) : Prop :=
  (1 < l.stages ∨ l.sp ≠ 0) ∧ n ≠ 0 ∧ l.sp ≤ n ∧ n < l.sp + l.stages

/-- A stream whose context a forced save takes (R368 step 4, R437): its PC, its active LOOPs and their stage predicates
are those of its region head, its registers and other predicates as at the save, its trap CSRs zero but for TRVEC. -/
def atHead (s t : Stream) : Prop :=
  t.pc = s.head.pc ∧ t.loops = s.head.loops ∧ t.regs = s.regs ∧ t.stand = none ∧ t.wait = none ∧ t.arming = false
    ∧ t.trap = { TrapRegs.zero with vec := s.trap.vec } ∧ t.pos = s.head.pos
    ∧ ∀ n < 16, ((∃ l ∈ s.head.loops, staged l n) → t.preds.getLsbD n = s.head.preds.getLsbD n)
      ∧ ((∀ l ∈ s.head.loops, ¬staged l n) → t.preds.getLsbD n = s.preds.getLsbD n)

end Sys2Proof.Say

/-- R365, R366, R368, R369, R370, R437: a contender's victim is asked to leave, and a record that has one has no
other; the record goes to the head of the victim's core's queue, with its chunk or, from another core, by a migration
of one record, which is the model's choice (log 85, 131). PRELIM cycles later the victim's streams stop and the drain
begins; when no attached operation runs any more, its wet lines are gone, its dirty stash granules are written back and
its windows deregistered, its streams stand at their region heads, its queues are empty, and a PREEMPT record is in the
fault queue; the flip moves the context out of the slot, and the resume moves it back; after
a forced save the job is protected for 16 × PRELIM cycles. -/
def Obligations.Preemption : Prop :=
  ∀ (s : State) (core slot : Nat) (j : Job), slot < 4 → Tab.wf s.jobs = true → Tab.wf s.strs = true →
    Tab.get? s.jobs (4 * core + slot) = some j →
    let id := j.ids.jobid
    let pt := getPart s j.ids.part
    let cyc := cycleOf s core
    let becomes := fun (i : Instr) (j' : Job) =>
      ∃ t, exec i s = .next t ∧ Tab.get? t.jobs (4 * core + slot) = some j' ∧ t.ms = s.ms ∧ t.cores = s.cores
        ∧ ∀ k, k ≠ 4 * core + slot → Tab.get? t.jobs k = Tab.get? s.jobs k
    let strm := fun (u : State) (x : Strm) => getStream u ⟨core, slot, x⟩
    -- R365
    (∀ k i r n rest, stopped s j.ids.part = false → arbiterOpen s j.ids.part = true → Tab.wf s.cores = true → Tab.wf s.pool = true →
      contenders s j.ids.part = [(k, i, r)] → victims s j.ids.part (k, i, r) = [(core, slot, j)] →
      (getCore s k).localQueue = (i, r, n) :: rest → 0 < n →
      ∃ t, exec (.preemptRequest j.ids.part) s = .next t
        ∧ Tab.get? t.jobs (4 * core + slot) = some { j with prereq := j.prereq ||| 1, reqAt := some cyc }
        ∧ (∀ x, x ≠ 4 * core + slot → Tab.get? t.jobs x = Tab.get? s.jobs x) ∧ hasVictim t i r = true
        ∧ (k = core → t.ms = s.ms ∧ (getCore t core).localQueue.head? = some (i, r, n))
        ∧ (k ≠ core → (getCore t core).localQueue = (i, r, 1) :: (getCore s core).localQueue
          ∧ (getCore t k).localQueue = if n = 1 then rest else (i, r + 1, n - 1) :: rest))
    ∧ (∀ x ∈ contenders s j.ids.part, hasVictim s x.2.1 x.2.2 = false)
    ∧ (∀ c, contenders s c = [] → exec (.preemptRequest c) s = .next s)
    -- R366
    ∧ (∀ a, j.phase = .running → j.reqAt = some a → a + pt.prelim.toNat ≤ cyc → stopped s j.ids.part = false →
      becomes (.forcedSave core slot) { j with phase := .draining cyc, reqAt := none })
    ∧ (∀ a, j.phase = .running → j.reqAt = some a → cyc < a + pt.prelim.toNat →
      exec (.forcedSave core slot) s = .next s)
    -- R368
    ∧ (∀ a, j.phase = .draining a → (∀ e ∈ tokens s core, e.2.holder ≠ some id) →
      (∀ x : Strm, (Tab.get? s.strs (hartKey ⟨core, slot, x⟩)).isSome = true) →
      ∃ t j', exec (.drainlimExpiry core slot) s = .next t ∧ Tab.get? t.jobs (4 * core + slot) = some j'
        ∧ j'.phase = .flipping true ∧ queuesEmpty j' = true ∧ j'.accs = j.accs ∧ j'.rows = j.rows
        ∧ (∀ x, Say.atHead (strm s x) (strm t x)) ∧ (∀ w ∈ t.ms.wet, w.job ≠ id) ∧ (∀ w ∈ t.ms.wc, w.job ≠ id)
        ∧ (getPart t j.ids.part).faults = pt.faults
          ++ [faultRecord 16 1 0 0 (strm s .c).head.pc 0 id 0 j.rgnid.toNat [] []]
        ∧ (∀ l ∈ t.ms.stash, l.job ≠ id) ∧ Say.WrittenBack s t core j fun _ => True)
    -- R369
    ∧ (∀ f, j.phase = .flipping f → planeRoom s core 1 (ordinaryRows j) = true →
      (∀ e ∈ tokens s core, e.2.holder ≠ some id) → (∀ e ∈ j.rows, e.2.mark = false) →
      ∃ t, exec (.flipDone core slot) s = .next t ∧ Tab.get? t.jobs (4 * core + slot) = none
        ∧ (∀ x, Tab.get? t.strs (hartKey ⟨core, slot, x⟩) = none)
        ∧ t.saved = s.saved ++ [⟨{ j with prereq := j.prereq &&& ~~~1#64, reqAt := none },
            strm s .l, strm s .c, strm s .s, core, f, false, s.time⟩])
    ∧ (∀ f, j.phase = .flipping f → planeRoom s core 1 (ordinaryRows j) = false →
      exec (.flipDone core slot) s = .next s)
    -- R370
    ∧ (∀ f, j.phase = .resuming f → j.spoiled = false →
      becomes (.restoreDone core slot)
        { j with phase := .running, protectedUntil := if f then some (cyc + 16 * pt.prelim.toNat) else none })
    ∧ (∀ a, j.protectedUntil = some a → a ≤ cyc →
      becomes (.protectionExpiry core slot) { j with protectedUntil := none })
    ∧ (∀ a, j.protectedUntil = some a → cyc < a → exec (.protectionExpiry core slot) s = .next s)

/-- R369, R370: where a flip waits for room, the oldest context of the shadow plane moves to the context area; the
context a core would restore next becomes resident in the lowest free slot with the streams it was saved with; from
the area it comes back to the shadow plane first, and a gated cluster is asked to wake (R363). That the slot is the lowest
free one is the model's choice (log 123). -/
def Sys2Proof.Say.SavedContexts : Prop :=
  ∀ (s : State) (core : Nat) (x : Saved) (rest : List Saved), s.saved = x :: rest → x.core = core →
    x.inMemory = false →
    (flipWaits s core = true → inArea s x.job.ids.part < areaSlots s x.job.ids.part →
      exec (.contextSpill core) s = .next { s with saved := { x with inMemory := true } :: rest })
    ∧ (flipWaits s core = false → exec (.contextSpill core) s = .next s)
    ∧ (rest = [] → (∀ e ∈ s.jobs, e.1 / 4 ≠ core) → (getCore s core).localQueue = [] → x.job.ids.rowRes ≤ 1024 →
      Say.powered s core x.job.ids.part → Tab.wf s.jobs = true → Tab.wf s.strs = true →
      ∃ t j, exec (.jobResume core) s = .next t ∧ t.saved = [] ∧ Tab.get? t.jobs (4 * core) = some j
        ∧ j = { x.job with phase := .resuming x.forced, prereq := j.prereq }
        ∧ bitOf j.prereq 0 = false ∧ bitOf j.prereq 1 = x.forced
        ∧ getStream t ⟨core, 0, .l⟩ = x.l ∧ getStream t ⟨core, 0, .c⟩ = x.c ∧ getStream t ⟨core, 0, .s⟩ = x.s
        ∧ t.ms = s.ms)
    ∧ (rest = [] → (∀ e ∈ s.jobs, e.1 / 4 ≠ core) → (getCore s core).localQueue = [] → x.job.ids.rowRes ≤ 1024 →
      Say.powered s core x.job.ids.part → residentRows x.job ≤ 1024 → (∀ e ∈ s.jobs, leaving e.2 = false) →
      exec (.jobResume core) { s with saved := [{ x with inMemory := true }] } = .next s)
    ∧ (rest = [] → (∀ e ∈ s.jobs, e.1 / 4 ≠ core) → (getCore s core).localQueue = [] → x.job.ids.rowRes ≤ 1024 →
      stopped s x.job.ids.part = false → (getCluster s (clusterOf core)).gated = true →
      (getCluster s (clusterOf core)).wakeAt = none → clusterOf core ∉ s.wakeQueue →
      exec (.jobResume core) s = .next { s with wakeQueue := s.wakeQueue ++ [clusterOf core] })

/-- R28, R142, R143, R182: a queue wait of WAITTMO cycles takes QUEUE with the queue's code; a wait on a word completes
as expired, with the value last read. Where two streams wait on each other's queues, both take QUEUE with DLK; which
streams wait on which, and that each of the two traps in turn, is the model's reading (log 77). -/
def Sys2Proof.Say.WaitLimits : Prop :=
  ∀ (s : State) (h : Hart) (w : Wait), (getStream s h).wait = some w → live s h = true →
    let j := seenJob s h (getJob s (jobKey h))
    stopped s j.ids.part = false →
    (∀ c i, w.kind = .queue c ∨ (∃ more, w.kind = .queues c more) → (getStream s h).stand = none → fetch s h = .ok i → j.waittmo ≠ 0 →
      w.since + j.waittmo.toNat ≤ cycleOf s h.core →
      exec (.waittmoExpiry h) s = .next (queueTrapAt s h i c))
    ∧ (j.waittmo = 0 ∨ cycleOf s h.core < w.since + j.waittmo.toNat → exec (.waittmoExpiry h) s = .next s)
    ∧ (∀ d v x i, w.kind = .value d v x → (getStream s h).stand = none → fetch s h = .ok i → j.waittmo ≠ 0 →
      w.since + j.waittmo.toNat ≤ cycleOf s h.core → quiet { s with cur := h } = true → plain { s with cur := h } i.size = true →
      exec (.waittmoExpiry h) s =
        .next (retire i.size (modCurStream (wr { s with cur := h } d v) fun st => { st with arrived := none })))
    ∧ (∀ i k u, h.strm = .l → w.kind = .queue 8 → (getStream s h).stand = none → fetch s h = .ok i →
      (getStream s h).trap.vec ≠ 0 → trapActive (getStream s h) = false →
      (getStream s { h with strm := .s }).wait = none → (getStream s { h with strm := .s }).stand = none →
      (getStream s { h with strm := .c }).wait = some u → u.kind = .queue 10 → (getStream s { h with strm := .c }).stand = none →
      fetch (queueTrapAt s h i (8 + 256)) { h with strm := .c } = .ok k →
      exec (.deadlockDetect h.core h.slot) s =
        .next (queueTrapAt (queueTrapAt s h i (8 + 256)) { h with strm := .c } k (10 + 256)))

/-! ## Control operations of the host -/

namespace Sys2Proof.Say

/-- The control operations of the host that read and write registers: operation code, index, direction (R403, R404,
R411, R464, R493). -/
def hostForm : Instr → Option (Nat × HostOp)
  | .pinfo o => some (0x01, o)
  | .llcrngWord0 o => some (0x02, o)
  | .llcrngWord1 o => some (0x03, o)
  | .share o => some (0x04, o)
  | .lpasid o => some (0x05, o)
  | .sched o => some (0x06, o)
  | .evlog o => some (0x07, o)
  | .ctxarea o => some (0x08, o)
  | .ctltmpl o => some (0x09, o)
  | .preq o => some (0x0A, o)
  | .netmap o => some (0x0B, o)
  | .perms o => some (0x0C, o)
  | .s2root o => some (0x0D, o)
  | .pasidtbl o => some (0x0E, o)
  | .unit o => some (0x0F, o)
  | .cluster o => some (0x10, o)
  | .own o => some (0x11, o)
  | .measure o => some (0x13, o)
  | .extend o => some (0x14, o)
  | .quote o => some (0x15, o)
  | .idpub o => some (0x16, o)
  | .chips o => some (0x17, o)
  | .fabjoin o => some (0x18, o)
  | .dirpool o => some (0x19, o)
  | .errcnt o => some (0x1A, o)
  | .trcfg o => some (0x1C, o)
  | .stall o => some (0x1D, o)
  | .mon o => some (0x1E, o)
  | .snapcfg o => some (0x1F, o)
  | .chalk o => some (0x20, o)
  | .replay o => some (0x21, o)
  | .plat o => some (0x22, o)
  | .fwstage o => some (0x23, o)
  | .pcount o => some (0x24, o)
  | .strdesc o => some (0x25, o)
  | .dbgBuffer o => some (0x1B, { o with index := 0 })
  | .breakpointSet o => some (0x1B, { o with index := 16 + o.index % 16 })
  | .breakpointRecord o => some (0x1B, { o with index := 32 + o.index % 16 })
  | .pcreate o => some (0x12, { o with index := 0, wrt := true })
  | .pdestroy o => some (0x12, { o with index := 1, wrt := true })
  | .sealPartition o => some (0x12, { o with index := 2, wrt := true })
  | .dbgStop o => some (0x1B, { o with index := 1, wrt := true })
  | .dbgResume o => some (0x1B, { o with index := 2, wrt := true })
  | .dbgStep o => some (0x1B, { o with index := 3, wrt := true })
  | .streamEnable o => some (0x25,
      { o with index := o.index / 32 * 32 + 8, wrt := true, arg := o.arg ||| 0x10000000000 })
  | _ => none

/-- The operation leaves `u`, with `r` in MGRES, and the management window idle. -/
def answers (i : Instr) (s u : State) (r : Word) : Prop :=
  ∃ w a, exec i s = .next { u with mgmt := ⟨w, a, r, 0⟩ }

/-- An owner word (R403). -/
def ownerIs (t : Tab Nat) (k : Nat) : Word := match Tab.get? t k with | some p => BitVec.ofNat 64 (2 * p + 1) | none => 0

/-- What reading register `x` of an operation gives for a partition. -/
def regValue (s : State) (p op x : Nat) : Option Word :=
  let t := getPart s p
  let d := t.dbgState
  let nat := fun n : Nat => BitVec.ofNat 64 n
  match op with
  | 0x01 => if x = 0 then some (nat (p + (if t.state = .sealed then 8 else 0)
      + 256 * (s.clusterOwner.filter fun e => e.2 == p).length + 65536 * (s.unitOwner.filter fun e => e.2 == p).length))
      else none
  | 0x02 => (t.llcrng.toList[x]?).map (·.1)
  | 0x03 => (t.llcrng.toList[x]?).map (·.2)
  | 0x04 => if x = 0 then some (nat (t.shareFirst + 65536 * t.shareCount)) else none
  | 0x05 => if t.shareFirst ≤ x ∧ x < t.shareFirst + t.shareCount ∧ x < 8192 then some ((getLaunch s x).pasid.setWidth 64)
      else none
  | 0x06 => [t.agelim, t.gateidle, t.prelim, t.drainlim, t.orphtmo][x]?
  | 0x07 => [t.log.base, t.log.cap, t.log.rd, t.log.wr][x]?
  | 0x08 => [t.ctxBase, t.ctxSize][x]?
  | 0x09 => if x = 0 then some t.ctlTmpl else none
  | 0x0B => if x < coreCount s p then some (netmapWord s p x) else none
  | 0x0C => if x = 0 then some t.perms else none
  | 0x0D => if x = 0 then some t.s2root else none
  | 0x0E => [t.pasidBase, t.pasidCount][x]?
  | 0x0F => if x < 384 then some (ownerIs s.unitOwner x) else none
  | 0x10 => if x < 28 then some (ownerIs s.clusterOwner x) else none
  | 0x11 => if x < 316 then some (ownerIs s.ownOwner x) else none
  | 0x16 => if x < 64 then some (Config.identityWord x) else none
  | 0x17 => if x = 0 then some s.fabric.chips0 else if x ≤ 64 then some (Tab.getD s.fabric.chips x 0) else none
  | 0x18 => if x = 0 then some t.fabric else if x ≤ 64 then some (Tab.getD t.joined x 0) else none
  | 0x19 => if x = 0 then some t.dirPool else none
  | 0x1A => if x < 8 then some s.errs.counts[x]! else if x < 12 then some (getPort s (x - 8)).stray
      else if x < 16 then some (getPort s (x - 12)).dropped else none
  | 0x1B => if x = 0 then some d.buffer else if 16 ≤ x ∧ x < 32 then d.bps.toList[x - 16]?
      else if 32 ≤ x ∧ x < 48 then d.bpRecords.toList[x - 32]? else none
  | 0x1C => [d.traceCtl, d.traceBase, d.traceSize, d.traceLost][x]?
  | 0x1D => if x < 4 then d.stalls.toList[x]? else if 4096 ≤ x ∧ x < 8192 then some (Tab.getD d.stallObjs (x - 4096) 0)
      else none
  | 0x1E => (d.monitors.toList[x / 32]?).bind fun m => ([m.cfg, m.count, m.min, m.max] ++ m.bins.toList)[x % 32]?
  | 0x1F => [d.snapMask, d.snapBuffer][x]?
  | 0x20 => if x = 0 then some d.chalk else none
  | 0x21 => [d.replayCtl, d.replayFirst, d.replayImages, nat d.replayIndex][x]?
  | 0x22 => match x with
    | 0 => some s.platform.supply
    | 1 => some (nat s.platform.mhz)
    | 2 => some (nat s.platform.power)
    | 3 => some (BitVec.ofInt 64 s.platform.temp)
    | 4 => some s.platform.throttles
    | 6 => some s.platform.boot
    | _ => none
  | 0x24 => match x with
    | 0 => some t.stale
    | 1 => some t.lost
    | 2 => some t.refused
    | 3 => some t.discarded
    | _ => none
  | 0x25 => if x < 8192 then (getSdesc s (x / 32)).words.toList[x % 32]? else none
  | _ => none

/-- What an accepted write of register `x` leaves; where EVLOG is written, and no event or boundary waits, retirements
that waited at the arbiter go on (R355). -/
def regWritten (s : State) (p op x : Nat) (v : Word) : Option State :=
  let t := getPart s p
  let d := t.dbgState
  let set := fun (ok : Prop) [Decidable ok] (t' : Part) => if ok then some (modPart s p fun _ => t') else none
  let still := t.log.waiting = [] ∧ ∀ e ∈ s.streams, e.2.due = []
  let dbg := fun (ok : Prop) [Decidable ok] (d' : Debug) => if ok then some (modPart s p fun _ => { t with dbgState := d' }) else none
  match op, x with
  | 0x02, _ => set (x < 16 ∧ v = 0) { t with llcrng := t.llcrng.setIfInBounds x (v, (t.llcrng.getD x (0, 0)).2) }
  | 0x03, _ => set (x < 16 ∧ bitOf (t.llcrng.getD x (0, 0)).1 0 = false ∧ bitsOf v 0 12 = 0 ∧ bitsOf v 56 8 = 0
      ∧ 1 ≤ bitsOf v 48 4 ∧ bitsOf v 48 4 ≤ 11)
      { t with llcrng := t.llcrng.setIfInBounds x ((t.llcrng.getD x (0, 0)).1, v) }
  | 0x06, 0 => set True { t with agelim := v }
  | 0x06, 1 => set True { t with gateidle := v }
  | 0x06, 2 => set True { t with prelim := v }
  | 0x06, 3 => set True { t with drainlim := v }
  | 0x06, 4 => set True { t with orphtmo := v }
  | 0x07, 0 => Option.map settlePool <| set (v.toNat % 32 = 0 ∧ still) { t with log := { t.log with base := v, rd := 0, wr := 0 } }
  | 0x07, 1 => Option.map settlePool <| set still { t with log := { t.log with cap := v, rd := 0, wr := 0 } }
  | 0x07, 2 => Option.map settlePool <| set (t.log.rd ≤ v ∧ v ≤ t.log.wr ∧ still) { t with log := { t.log with rd := v } }
  | 0x08, 0 => set (v.toNat % 65536 = 0) { t with ctxBase := v }
  | 0x08, 1 => set (v.toNat % 655360 = 0) { t with ctxSize := v }
  | 0x09, 0 => set (bitsOf v 6 58 = 0 ∧ bitsOf v 0 3 ≤ 4) { t with ctlTmpl := v }
  | 0x0C, 0 => set (v.toNat < 128) { t with perms := v }
  | 0x0D, 0 => set (bitsOf v 0 12 = 0 ∧ bitsOf v 48 16 = 0) { t with s2root := v }
  | 0x0E, 0 => set True { t with pasidBase := v }
  | 0x0E, 1 => set True { t with pasidCount := v }
  | 0x18, 0 => set (v.toNat < 2 ^ 32) { t with fabric := v }
  | 0x18, _ => set (x ≤ 64 ∧ v.toNat < 4096) { t with joined := Tab.set t.joined x v }
  | 0x19, 0 => set True { t with dirPool := v }
  | 0x1B, 0 => dbg (bitsOf v 1 7 = 0) { d with buffer := v }
  | 0x1B, _ =>
    if x < 32 then dbg (16 ≤ x ∧ bitsOf v 1 2 ≠ 3 ∧ bitsOf v 3 5 < 17 ∧ bitsOf v 25 7 = 0)
      { d with bps := d.bps.setIfInBounds (x - 16) v }
    else dbg (x < 48 ∧ v.toNat < 2 ^ 32) { d with bpRecords := d.bpRecords.setIfInBounds (x - 32) v }
  | 0x1C, 0 => dbg (bitsOf v 11 53 = 0 ∧ (bitOf v 0 = false ∨ bitOf d.traceCtl 0 = true)) { d with traceCtl := v }
  | 0x1C, 1 => dbg True { d with traceBase := v, tracePos := 0 }
  | 0x1C, 2 => dbg True { d with traceSize := v, tracePos := 0 }
  | 0x1D, _ =>
    if x < 4 then dbg True { d with stalls := d.stalls.setIfInBounds x 0 }
    else dbg (4096 ≤ x ∧ x < 8192) { d with stallObjs := Tab.del d.stallObjs (x - 4096) }
  | 0x1E, _ => dbg (x < 512 ∧ x % 32 = 0 ∧ bitsOf v 8 56 = 0 ∧ 2 ≤ bitsOf v 1 7 ∧ bitsOf v 1 7 < 5)
      { d with monitors := d.monitors.setIfInBounds (x / 32)
                 { cfg := v, count := 0, min := 0xFFFFFFFFFFFFFFFF, max := 0, bins := .replicate 16 0 } }
  | 0x1F, 0 => dbg (v.toNat < 2 ^ 16) { d with snapMask := v }
  | 0x1F, 1 => dbg (v.toNat % 4096 = 0) { d with snapBuffer := v }
  | 0x20, 0 => dbg (v.toNat < 16) { d with chalk := v, chalkKeys := [] }
  | 0x21, 0 => dbg (v = 0) { d with replayCtl := v }
  | 0x21, 1 => dbg True { d with replayFirst := v }
  | 0x21, 2 => dbg True { d with replayImages := v }
  | 0x24, 0 => set (v = 0) { t with stale := 0 }
  | 0x24, 1 => set (v = 0) { t with lost := 0 }
  | 0x24, 2 => set (v = 0) { t with refused := 0 }
  | 0x24, 3 => set (v = 0) { t with discarded := 0 }
  | 0x04, 0 =>
    let first := bitsOf v 0 13
    let n := bitsOf v 16 14
    if bitsOf v 13 3 = 0 ∧ bitsOf v 30 34 = 0 ∧ first + n ≤ 8192 ∧ (∀ e ∈ s.parts, e.1 = p ∨ e.2.shareCount = 0) then
      let s := modPart s p fun t => { t with shareFirst := first, shareCount := n }
      some { s with pool := s.pool.map fun e =>
        if first ≤ e.1 ∧ e.1 < first + n then (e.1, { e.2 with pasid := 0, go := 1 }) else e }
    else none
  | 0x05, _ =>
    if t.shareFirst ≤ x ∧ x < t.shareFirst + t.shareCount ∧ x < 8192 ∧ v.toNat < 2 ^ 20 then
      some (modLaunch s x fun l => { l with pasid := v.setWidth 20 })
    else none
  | 0x11, _ =>
    if x < 316 ∧ v.toNat < 16 then
      some { s with ownOwner := if bitOf v 0 then Tab.set s.ownOwner x (bitsOf v 1 3) else Tab.del s.ownOwner x }
    else none
  | 0x17, _ =>
    if 1 ≤ x ∧ x ≤ 64 ∧ v.toNat < 256 ∧ s.fabric.remoteReaders = [] then
      some { s with fabric := { s.fabric with chips := Tab.set s.fabric.chips x v } }
    else none
  | 0x25, _ =>
    let e := getSdesc s (x / 32)
    if x < 8192 ∧ e.get 0x45 1 % 2 = 1 ∧ e.words.toList[x % 32]? = some v then some s
    else if x < 8192 ∧ (x % 32 = 8 → bitOf v 40 = false) ∧ e.get 0x45 1 % 2 = 0 then
      some (modSdesc s (x / 32) fun e => { e with words := e.words.setIfInBounds (x % 32) v })
    else none
  | _, _ => none

/-- The host finds the device in service, and no partition sealed. -/
def served (s : State) : Prop := s.platform.mode = .running ∧ ∀ q, (getPart s q).state ≠ .sealed

end Sys2Proof.Say

/-- R403, R404, R411, R457, R464, R493: a control operation of the host reads the register that its operation and index
name, or writes it: status 0 and that register, and nothing else, has changed. An index that no register has, and any
operation but PLAT and FWSTAGE while the device is in recovery, gives 4. The model's own readings: which indices,
directions and values of an argument each operation has, and the statuses beside R404's (log 88); what a write of EVLOG
lets go on (log 92); the words of a stream descriptor (log 93); the bits of the LLC range words (log 94); those of a
monitor (log 96); the forms in which PLAT reads (log 98). -/
def Sys2Proof.Say.HostRegisters : Prop :=
  ∀ (i : Instr) (s : State) (op : Nat) (o : HostOp), Say.hostForm i = some (op, o) → o.part < 8 →
    let x := o.index.toNat
    (Say.served s → o.wrt = false → ∀ v, Say.regValue s o.part op x = some v → Say.answers i s s v)
    ∧ (Say.served s → o.wrt = true → ∀ u, Say.regWritten s o.part op x o.arg = some u → Say.answers i s u 0)
    ∧ (s.platform.mode = .recovery → op ≠ 0x22 → op ≠ 0x23 → Say.answers i s s 4)
    ∧ (s.platform.mode ≠ .starting → 8192 ≤ x → op ≠ 0x13 → Say.answers i s s 4)

/-- R33, R185, R399 to R406: what the host does to a partition. PCREATE opens a free one; PDESTROY leaves a free one
with no job, no owned object, and zero in the memory it owned; SEAL measures the configuration; MEASURE and EXTEND add
one entry to the measurement; QUOTE writes 1,024 bytes, the last 512 of them the RSA signature of the first; a unit or
a cluster that changes owner is zeroed first; PREQ asks a job to leave. The model's choices: status 1 for an argument
that must be zero (log 88), status 2 for a cluster in use and for a job without room (log 89), that a barrier entry goes
with the last cluster of its domain (log 90), and the layout of the configuration record and of the quote (log 91). -/
def Obligations.PartitionLife : Prop :=
  ∀ (s : State) (o : HostOp), Say.served s → o.part < 8 →
    let p := o.part
    let t := getPart s p
    let v := o.arg
    let measured := fun (u : State) (type : Nat) (d : List Byte) =>
      (getPart u p).measCount = t.measCount + 1
        ∧ (getPart u p).measurement = BitVec.ofNat 512 (ofLe (sha512 (leBytes 64 t.measurement.toNat ++ leBytes 8 type ++ d)))
    -- PCREATE, PDESTROY, SEAL
    (v = 0 → t.state = .free → Say.answers (.pcreate o) s (modPart s p fun t =>
      { t with state := .opened, measurement := 0, measCount := 0, cfgDigest := 0, barriers := [] }) 0)
    ∧ (v = 0 → t.state ≠ .free → Say.answers (.pcreate o) s s 2)
    ∧ (v = 0 → t.state = .free → Say.answers (.pdestroy o) s s 2)
    ∧ (v = 0 → t.state = .opened → ∃ u, Say.answers (.pdestroy o) s u 0 ∧ getPart u p = Part.reset
        ∧ (∀ e ∈ u.jobs, e.2.ids.part ≠ p) ∧ (∀ x ∈ u.saved, x.job.ids.part ≠ p)
        ∧ (∀ e ∈ u.unitOwner ++ u.clusterOwner ++ u.ownOwner, e.2 ≠ p)
        ∧ (∀ k a, (k, p) ∈ s.unitOwner → k * 2 ^ 30 ≤ a → a < (k + 1) * 2 ^ 30 → Memory.byte u.ms.mem a = 0))
    ∧ (v ≠ 0 → Say.answers (.pcreate o) s s 1 ∧ Say.answers (.pdestroy o) s s 1 ∧ Say.answers (.sealPartition o) s s 1)
    ∧ (v = 0 → sealable s p = true → ∃ u, Say.answers (.sealPartition o) s u 0 ∧ (getPart u p).state = .sealed
        ∧ measured u 2 (sha512 (configRecord s p)) ∧ u.ms = s.ms)
    ∧ (v = 0 → sealable s p = false → Say.answers (.sealPartition o) s s 2)
    -- MEASURE, EXTEND, QUOTE
    ∧ (∀ bs, o.wrt = true → t.state = .opened → 1 ≤ o.index.toNat → v.toNat % 4096 = 0 →
      readSound s p v.toNat (4096 * o.index.toNat) = some bs →
      ∃ u, Say.answers (.measure o) s u 0 ∧ measured u 1 (sha512 bs) ∧ u.ms = s.ms)
    ∧ (o.wrt = true → o.index = 0 → Say.answers (.extend o) s s 1)
    ∧ (∀ s' bs u, o.wrt = true → o.index = 0 → v.toNat % 256 = 0 → bs.length = 64 →
      readRange s (dispatcher p 0) (v + 16) 64 = .ok (s', bs) →
      writeAll s' (dispatcher p 0) v (quoteBytes s' p bs) = .ok u →
      Say.answers (.quote o) s u 0 ∧ (quoteBytes s' p bs).length = 1024
        ∧ (Config.identityExponent < 2 ^ 4096 → 0 < identityModulus →
          ofLe ((quoteBytes s' p bs).drop 512).reverse =
            ofLe (encodedMessage ((quoteBytes s' p bs).take 512)).reverse ^ Config.identityExponent % identityModulus))
    -- UNIT, CLUSTER, PREQ
    ∧ (o.wrt = true → v.toNat < 16 → o.index.toNat < 384 → Say.ownerIs s.unitOwner o.index.toNat = v →
      (∀ q, Tab.get? s.unitOwner o.index.toNat = some q → q < 8) →
      Say.answers (.unit o) s s 0)
    ∧ (o.wrt = true → v.toNat < 16 → bitOf v 0 = true → o.index.toNat < 384 →
      Tab.get? s.unitOwner o.index.toNat ≠ some (bitsOf v 1 3) →
      ∃ u, Say.answers (.unit o) s u 0 ∧ Tab.get? u.unitOwner o.index.toNat = some (bitsOf v 1 3)
        ∧ ∀ a, o.index.toNat * 2 ^ 30 ≤ a → a < (o.index.toNat + 1) * 2 ^ 30 → Memory.byte u.ms.mem a = 0)
    ∧ (o.wrt = true → v.toNat < 16 → bitOf v 0 = true → o.index.toNat < 28 →
      Tab.get? s.clusterOwner o.index.toNat ≠ some (bitsOf v 1 3) →
      (clusterInUse s o.index.toNat = true → Say.answers (.cluster o) s s 2)
      ∧ (clusterInUse s o.index.toNat = false →
        ∃ u, Say.answers (.cluster o) s u 0 ∧ Tab.get? u.clusterOwner o.index.toNat = some (bitsOf v 1 3)
          ∧ ((∀ k, clusterOf k = o.index.toNat → ∀ e ∈ tokens s k, e.2.state.inFlight = false) →
            ∀ k a, clusterOf k = o.index.toNat → k * Config.spadSpan ≤ a →
              a < (k + 1) * Config.spadSpan → Memory.byte u.ms.spad a = 0)
          ∧ (∀ k, clusterOf k = o.index.toNat → tokens u k = [])
          ∧ ∀ q, ∀ b ∈ (getPart u q).barriers, inDomain b o.index.toNat = true →
              ∃ c, c ≠ o.index.toNat ∧ (c, q) ∈ s.clusterOwner ∧ inDomain b c = true))
    ∧ (∀ k j, o.wrt = true → o.index = 0 → s.jobs = [(k, j)] → j.ids.part = p → j.ids.jobid = v.toNat → j.phase = .running →
      bitOf j.prereq 0 = false →
      (canSave s (k / 4) j = true → Say.answers (.preq o) s
        { s with jobs := [(k, { j with prereq := j.prereq ||| 1, reqAt := some (cycleOf s (k / 4)) })] } 0)
      ∧ (canSave s (k / 4) j = false → Say.answers (.preq o) s s 2))
    ∧ (o.wrt = true → o.index = 0 → s.jobs = [] → s.saved = [] → Say.answers (.preq o) s s 4)

/-- R404: while a partition is sealed the host may neither read nor write what the seal covers: status 3, and nothing
changes. EXTEND is for sealed partitions alone. -/
def Sys2Proof.Say.SealedPartition : Prop :=
  ∀ (i : Instr) (s : State) (op : Nat) (o : HostOp), Say.hostForm i = some (op, o) → o.part < 8 →
    (getPart s o.part).state = .sealed → s.platform.mode = .running →
    (op ∈ [0x04, 0x08, 0x09, 0x0C, 0x0D, 0x0E] → o.index = 0 → Say.answers i s s 3)
    ∧ (∀ s' bs, op = 0x14 → o.index = 0 → o.wrt = true → 
      readRange s (dispatcher o.part 0) o.arg 64 = .ok (s', bs) →
      getPart s' o.part = getPart s o.part →
      ∃ u, Say.answers i s u 0 ∧ (getPart u o.part).measCount = (getPart s o.part).measCount + 1
        ∧ (getPart u o.part).measurement = BitVec.ofNat 512
            (ofLe (sha512 (leBytes 64 (getPart s o.part).measurement.toNat ++ leBytes 8 3 ++ bs))))

/-- R356, R491 to R493: a stream is enabled where its descriptor keeps every rule, and then its next boundary is the
first at PHASE plus a multiple of PERIOD that does not lie in the past; else status 1 and nothing changes. FWSTAGE
holds an image that verifies, and whose version is not below the rollback count, for the next device reset, and refuses
another with status 1. That a boundary at PHASE or later is the first (log 93) and what a host address and an image's
bytes say of its version and its verifying (log 98) are the model's choices. -/
def Sys2Proof.Say.StreamsAndPlatform : Prop :=
  ∀ (s : State) (o : HostOp), Say.served s → o.part < 8 →
    let st := o.index.toNat / 32
    let d := getSdesc s st
    let new := { d with words := d.words.set 8 (o.arg ||| 0x10000000000) }
    (st < 256 → d.get 0x45 1 % 2 = 0 →
      (enableOk s st new = false → Say.answers (.streamEnable o) s s 1)
      ∧ (enableOk s st new = true → ∃ u n, Say.answers (.streamEnable o) s u 0
        ∧ getSdesc u st = { new with nextAt := n, due := [], frames := [], current := none }
        ∧ (∃ k, n = d.get 8 8 + k * d.get 0 8 ∧ (k = 0 ∨ n < s.time + d.get 0 8)) ∧ s.time ≤ n
        ∧ u.pool = s.pool ∧ u.ms = s.ms))
    ∧ (o.wrt = true → o.index = 0 →
      let image := imageAt s o.arg
      let good := Config.imageVerifies image = true ∧ rollbackOf s.platform ≤ Config.imageVersion image
      (good → Say.answers (.fwstage o) s { s with platform := { s.platform with staged := some image } } 0)
      ∧ (¬good → Say.answers (.fwstage o) s s 1))
    ∧ (o.wrt = false → o.index = 7 → Say.answers (.plat o) s s (rollbackOf s.platform))

/-- R464, R466, R471, R479: a stop takes effect when the partition has come to rest, and its record is then written;
a step lets one stream of a stopped partition issue once; a resume lets every stream go on. A frame of trace leaves by
the port with its sequence number, whole records of at most 65,535 bytes. In replay mode the next logged event is
applied: a rung change or a rung request sets the rung. The model's choices: status 1 for a step of a partition that is
not stopped, and no record where the buffer is 0 (log 95); a trace frame ends with a whole record (log 96); a replayed
request sets the rung as one that is applied (log 97). -/
def Obligations.HostDebug : Prop :=
  ∀ (s : State) (o : HostOp), Say.served s → o.part < 8 →
    let p := o.part
    let d := getDebug s p
    (d.stop = none → Say.answers (.dbgStop o) s (modDebug s p fun d => { d with stop := some (0, 0), stopDone := false }) 0)
    ∧ (d.stop ≠ none → Say.answers (.dbgStop o) s (modDebug s p fun d => d) 0)
    ∧ (∃ u, Say.answers (.dbgResume o) s u 0 ∧ (getDebug u p).stop = none ∧ (getDebug u p).stopDone = false
      ∧ (∀ e ∈ u.strs, (∃ j, (e.1 / 3, j) ∈ s.jobs ∧ j.ids.part = p) → e.2.stepping = false) ∧ u.ms = s.ms ∧ u.jobs = s.jobs)
    ∧ (∀ k j, s.jobs = [(k, j)] → j.ids.part = p → j.ids.jobid = bitsOf o.arg 8 56 → bitsOf o.arg 2 6 = 0 →
      bitsOf o.arg 0 2 < 3 →
      (d.stop = none → Say.answers (.dbgStep o) s s 1)
      ∧ (d.stop ≠ none → Say.answers (.dbgStep o) s
          { s with strs := Tab.modify s.strs (3 * k + bitsOf o.arg 0 2) fun st => { st with stepping := true } } 0))
    ∧ (∀ r n, d.stop = some (r, n) → d.stopDone = false → d.buffer = 0 → stopSettled s p = true →
      exec (.stopComplete p) s = .next (modDebug s p fun d => { d with stopDone := true }))
    ∧ (d.stop = none ∨ stopSettled s p = false → exec (.stopComplete p) s = .next s)
    ∧ (∀ n, Tab.get? s.clusterOwner n = some p → bitOf d.traceCtl 1 = false → (getCluster s n).trace ≠ [] →
      ∃ t k, exec (.traceEgress n) s = .next t
        ∧ t.out = s.out ++ [.traceFrame n (getCluster s n).traceSeq ((getCluster s n).trace.take k).flatten]
        ∧ ((getCluster s n).trace.take k).flatten.length ≤ 65535
        ∧ ((getCluster s n).trace.flatten.length ≤ 65535 → k = (getCluster s n).trace.length)
        ∧ (getCluster t n).trace = (getCluster s n).trace.drop k ∧ (getCluster t n).traceSeq = (getCluster s n).traceSeq + 1 ∧ t.ms = s.ms)
    ∧ (bitOf d.replayCtl 0 = false → exec (.replayEvent p) s = .next s)
    ∧ (∀ bs, bitOf d.replayCtl 0 = true → d.stop = none → nextLogged s p = some bs →
      (bs.getD 0x10 0).toNat = 5 ∨ (bs.getD 0x10 0).toNat = 6 ∧ playsLog (getSdesc s (ofLe ((bs.drop 0x12).take 2))) = false →
      ∃ t, exec (.replayEvent p) s = .next t ∧ (getDebug t p).replayIndex = d.replayIndex + 1
        ∧ (getSdesc t (ofLe ((bs.drop 0x12).take 2))).get 0x40 1 = ofLe ((bs.drop 0x18).take 8) % 256
        ∧ (getSdesc t (ofLe ((bs.drop 0x12).take 2))).get 0x42 2 = 0 ∧ t.pool = s.pool ∧ t.ms = s.ms)

/-! ## The host interfaces -/

namespace Sys2Proof.Say

/-- A queue that takes doorbells (R413), over a link that carries its partition's traffic (R409). -/
def open_ (s : State) (fn i q : Nat) : Prop :=
  fn < 4 ∧ i < 8 ∧ q < 8 ∧ ifaceEn (getIface s fn i) = true ∧ (getQueue s fn i q).en = true
    ∧ (getQueue s fn i q).stop = false ∧ linkCarries s (ifacePart (getIface s fn i)) fn = true

/-- How far a tail lies beyond HEAD. -/
def ahead (x : HostQueue) (v : BitVec 32) : Nat := (v.setWidth 16 - x.head).toNat

end Sys2Proof.Say

/-- R410, R411, R412, R418: the registers behind BAR0. A queue's BASE and HEAD take a write while QEN is 0; QEN 0 to 1
clears STOP; REVOKE may be set at any time; an interface's register 0 takes one while no queue of it is enabled.
Clearing MASK sends a pending message once, over a link that carries the partition's traffic (R409). A start of the
management window performs its operation. In recovery mode nothing else answers, and no other function has that window.
That QEN takes HEAD as the tail, and which register accesses are taken, of 4 and of 8 bytes, are the model's choices
(log 101); so is that a down link drops a message (log 31). -/
def Sys2Proof.Say.Registers : Prop :=
  ∀ (s : State) (fn i q : Nat) (v : BitVec 32), fn < 4 → i < 8 → q < 8 → s.platform.mode = .running →
    let x := getQueue s fn i q
    let at_ := fun (o : Nat) (v : BitVec 32) => exec (.registerWrite ⟨fn, 0x1000 + 0x100 * i + o, 4, v.setWidth 64⟩) s
    let sets := fun (r : Result) (f : HostQueue → HostQueue) => r = .next (modQueue s fn i q f)
    (x.en = false →
      sets (at_ (0x10 + 16 * q) v) (fun x => { x with base := setBits x.base 0 32 v.toNat &&& ~~~0xFFF#64 })
      ∧ sets (at_ (0x14 + 16 * q) v) (fun x => { x with base := setBits x.base 32 32 v.toNat &&& ~~~0xFFF#64 })
      ∧ sets (at_ (0x1C + 16 * q) v) (fun x => { x with head := v.setWidth 16 })
      ∧ sets (exec (.queueEnable fn i q v) s) (fun x =>
          { x with ctl := (v ||| 1) &&& 0x3FFFFFF, stop := false, tail := x.head }))
    ∧ (x.en = true →
      at_ (0x10 + 16 * q) v = .next (modQueue s fn i q fun x => x)
      ∧ sets (exec (.queueRevoke fn i q) s) (fun x => { x with ctl := x.ctl ||| 2 })
      ∧ sets (at_ (0x18 + 16 * q) 0) (fun x => { x with ctl := x.ctl &&& ~~~3#32 })
      ∧ at_ 0 v = .next s)
    ∧ ((∀ k < 8, (getQueue s fn i k).en = false) →
      at_ 0 v = .next (modIface s fn i fun x => { x with ctl := (v &&& 0xF).setWidth 64 }))
    ∧ (∀ e r, e < 256 → Tab.get? (getPort s fn).remap e = some r →
      r.ctl.getLsbD 2 = true →
      ∃ t, exec (.remapUnmask fn e) s = .next t ∧ Tab.get? (getPort t fn).remap e = some { r with ctl := (r.ctl &&& 0x39) }
        ∧ t.out = (if r.ctl.getLsbD 0 && r.ctl.toNat / 8 % 8 == bitsOf (getIface s fn (e / 32)).ctl 1 3
              && linkCarries s (bitsOf (getIface s fn (e / 32)).ctl 1 3) fn
            then s.out ++ [.interrupt fn r.addr r.data] else s.out)
        ∧ t.ms = s.ms)
    ∧ (s.mgmt.go = 0 →
      exec (.registerWrite ⟨0, 0x18, 4, 1⟩) s = .next (performMgmt { s with mgmt := { s.mgmt with go := 1 } })
      ∧ exec (.registerWrite ⟨0, 0x8, 8, v.setWidth 64⟩) s = .next { s with mgmt := { s.mgmt with arg := v.setWidth 64 } })
    ∧ (∀ o w, fn ≠ 0 → o < 0x1000 → exec (.registerWrite ⟨fn, o, 4, w⟩) s = .next s)
    ∧ (∀ o w, 0x1000 ≤ o → exec (.registerWrite ⟨fn, o, 4, w⟩) { s with platform := { s.platform with mode := .recovery } }
        = .next { s with platform := { s.platform with mode := .recovery } })

/-- R413, R414, R417: a doorbell with the queue's PASID whose tail lies at most one queue beyond HEAD is accepted: the
tail is the new one, where that is not nearer to HEAD than the tail of an earlier doorbell, and nothing else changes.
Without a PASID, or with another, or on a revoked queue, or with a tail too far, it is refused, and STOP is set. One
that no enabled queue takes is counted as stray, as is one over a link that carries no traffic of the queue's partition.
That the tail of an earlier doorbell stands where it is farther is the model's choice (log 101). -/
def Sys2Proof.Say.Doorbells : Prop :=
  ∀ (s : State) (fn i q : Nat) (v : BitVec 32) (pasid : Option (BitVec 20)),
    let x := getQueue s fn i q
    let fits := v.toNat < 65536 ∧ Say.ahead x v ≤ 2 ^ x.log2
    let bell := exec (.doorbell fn i q v pasid) s
    let refused := fun r => bell =
      .next (refuse (modQueue s fn i q fun x => { x with stop := true }) fn i q r (v.toNat % 65536) pasid 0 0)
    (Say.open_ s fn i q → pasid = some x.pasid → x.revoke = false → fits →
      bell = .next (modQueue s fn i q fun x =>
        { x with tail := if (x.tail - x.head).toNat ≤ Say.ahead x v then v.setWidth 16 else x.tail }))
    ∧ (Say.open_ s fn i q → pasid = none → refused 1)
    ∧ (∀ n, Say.open_ s fn i q → pasid = some n → n ≠ x.pasid → refused 2)
    ∧ (Say.open_ s fn i q → pasid = some x.pasid → x.revoke = true → refused 3)
    ∧ (Say.open_ s fn i q → pasid = some x.pasid → x.revoke = false → ¬fits → refused 4)
    ∧ (fn < 4 → (8 ≤ i ∨ 8 ≤ q ∨ ifaceEn (getIface s fn i) = false ∨ x.en = false ∨ x.stop = true
        ∨ linkCarries s (ifacePart (getIface s fn i)) fn = false) →
      bell = .next (modPort s fn fun p => { p with stray := satInc p.stray }))

/-- R414 to R416: the packet at HEAD. An ARM whose index lies in the share, on a record that may be armed, arms it with
the packet's patch words and the queue's PASID. A NOP that asks for nothing only passes. HEAD advances by one, whatever
becomes of the packet; with no packet nothing happens. The model's choices: what the arming takes from the packet and
the order of its checks (log 102); a packet whose page the host refuses leaves an XLATE record and HEAD passes it (log
130). -/
def Sys2Proof.Say.Packets : Prop :=
  ∀ (s : State) (fn i q : Nat) (p : Packet), Say.open_ s fn i q →
    let x := getQueue s fn i q
    let part := bitsOf (getIface s fn i).ctl 1 3
    let l := getLaunch s p.index
    let next := fun u => modQueue u fn i q fun x => { x with head := x.head + 1 }
    (headPacket s fn i q = .here p → p.opcode = 2 → p.flags = 0 → p.length = 64 → p.zero = 0 →
      exec (.packetNop fn i q) s = .next (next s) ∧ exec (.packetArm fn i q) s = .next s)
    ∧ (headPacket s fn i q = .here p → p.opcode = 1 → p.flags = 0 → p.length = 64 → p.zero = 0 →
      inShare s part p.index = true → arbiterOpen s part = true → replaying s part = false → (l.state = 1 ∨ l.state = 4) →
      p.patch.length = 3 →
      let l' := { ((l.put 0x50 8 (p.patch.getD 0 0)).put 0x58 8 (p.patch.getD 1 0)).put 0x60 8 (p.patch.getD 2 0) with
        pasid := x.pasid }
      fieldsOk s part l' = true →
      exec (.packetNop fn i q) s = .next s
      ∧ ∃ u, exec (.packetArm fn i q) s = .next (next (settlePool (logEvent u part 2 0 l.streamId p.index 0)))
        ∧ (getLaunch u p.index).state = 2 ∧ (getLaunch u p.index).armseq = (l.armseq + 1) % 2 ^ 24
        ∧ (getLaunch u p.index).armedPasid = x.pasid ∧ (getLaunch u p.index).packet = none
        ∧ (∀ o, 4 ≤ o → o < 128 → (getLaunch u p.index).get o 1 = l'.get o 1)
        ∧ ∀ n, n ≠ p.index → getLaunch u n = getLaunch s n)
    ∧ (headPacket s fn i q = .here p → (p.opcode ≠ 1 ∧ p.opcode ≠ 2 ∨ p.length ≠ 64 ∨ p.zero ≠ 0) → p.opcode ≠ 2 →
      arbiterOpen s part = true →
      exec (.packetArm fn i q) s =
        .next (next (refuse s fn i q 5 x.head.toNat (some x.pasid) p.index p.word0)))
    ∧ (x.head = x.tail → exec (.packetNop fn i q) s = .next s ∧ exec (.packetArm fn i q) s = .next s)
    ∧ (∀ g, headPacket s fn i q = .waits g →
      exec (.packetArm fn i q) s = .next (noteWaiting s (.queue fn i q) (some g)))
    ∧ (∀ a, headPacket s fn i q = .refused a → ∃ t, exec (.packetArm fn i q) s = .next t
      ∧ (getQueue t fn i q).head = x.head + 1 ∧ t.pool = s.pool
      ∧ (getPart t part).faults = (getPart s part).faults ++ [faultRecord Cause.xlate.code 0 0 0 0 a 0 0 0 [] []])

/-- R395, R404, R409, R410: the host reads (what every write performed at system scope has left, R92) and writes a
unit of a partition that owns its port and is not sealed; of any other it reads all ones, its writes are dropped, and
an access to a sealed partition is counted. ATS and PRI replies change the caches of host translations alone; a page
that the host does not grant is refused to the accesses that wait for it. How a host page is named, with the PASID of
its request, is the model's choice (log 30); when a late write is performed for the host, too (log 119). -/
def Sys2Proof.Say.HostMemory : Prop :=
  ∀ (s : State) (fn a n : Nat), fn < 4 → s.platform.mode = .running → 0 < n → a % 256 + n ≤ 256 → memOk s = true →
    s.ms.priSent.Pairwise (· < ·) → s.ms.hostAbsent.Pairwise (· < ·) →
    (∀ p, hostUnit s fn a false = some p → (∀ g ∈ granules a n, hostPoison s g = false) →
      (∃ t, exec (.hostMemoryAccess fn a false none n false) s = .next t
        ∧ t.out = s.out ++ [.hostRead fn (hostBytes s a n) false] ∧ t.ms = s.ms
        ∧ (s.ms.late = [] → hostBytes s a n = readPa s deviceView false a n))
      ∧ ∀ bs : List Byte, bs.length = n → (∀ l ∈ s.ms.comp, l.1 ≠ a / 256) →
        ∃ t, exec (.hostMemoryAccess fn a false (some bs) 0 false) s = .next t
          ∧ readPa t deviceView false a n = bs ∧ hostBytes t a n = bs
          ∧ (∀ b, b < a ∨ a + n ≤ b → Memory.byte t.ms.mem b = Memory.byte s.ms.mem b) ∧ t.out = s.out)
    ∧ (hostUnit s fn a false = none → (∀ p, Tab.get? s.unitOwner (a / 2 ^ 30) = some p → isSealed s p = false) →
      (∃ t, exec (.hostMemoryAccess fn a false none n false) s = .next t
        ∧ t.out = s.out ++ [.hostRead fn (List.replicate n 0xFF) false] ∧ t.ms = s.ms ∧ t.parts = s.parts)
      ∧ ∀ bs : List Byte, bs.length = n → exec (.hostMemoryAccess fn a false (some bs) 0 false) s = .next s)
    ∧ (∀ p, ∀ bs : List Byte, bs.length = n → Tab.get? s.unitOwner (a / 2 ^ 30) = some p → isSealed s p = true → a < gddrEnd →
      ∃ t, exec (.hostMemoryAccess fn a false (some bs) 0 false) s = .next t ∧ t.ms = s.ms
        ∧ (getPart t p).refused = satInc (getPart s p).refused)
    ∧ (∀ p g, Tab.get? s.ownOwner (312 + namedPort g) = some p →
      ∃ t, exec (.atsInvalidate p g) s = .next t ∧ (∀ e ∈ t.ms.ats, e.page ≠ g)
        ∧ (∀ e, e.page ≠ g → (e ∈ t.ms.ats ↔ e ∈ s.ms.ats)) ∧ t = { s with ms := { s.ms with ats := t.ms.ats } })
    ∧ (∀ g, NatSet.has s.ms.priSent g = true →
      (∃ t, exec (.priResponse g true) s = .next t ∧ NatSet.has t.ms.priSent g = false
        ∧ NatSet.has t.ms.hostAbsent g = false ∧ t.ms.mem = s.ms.mem)
      ∧ ∃ t, exec (.priResponse g false) s = .next t ∧ NatSet.has t.ms.priSent g = false
        ∧ (∀ w ∈ waitersFor s g, (w, g) ∈ t.ms.priRefused) ∧ t.ms.hostAbsent = s.ms.hostAbsent
        ∧ t.ms.mem = s.ms.mem)
    ∧ ∀ g r, NatSet.has s.ms.priSent g = false → exec (.priResponse g r) s = .next s

/-- R227, R228, R419: EN is 1 only where the codec, its stream and its queue have one owner and the registers keep
R419's bounds; else it reads 0. A coded frame appends a record to the ring and leaves the queue, where the ring has
room; a decoder consumes the record at RTAIL, once RHEAD says it is there. The model's choices: the counts and header
fields of the records, and what a coded or decoded frame is a function of (log 103); that a port whose link is down, or
does not carry the owner's traffic, stops its codec (logs 30, 31). -/
def Sys2Proof.Say.Codecs : Prop :=
  ∀ (s : State) (e : Nat) (v : Word), e < 8 → s.platform.mode = .running →
    let c := getCodec s true e
    let d := getCodec s false e
    let new := { c with ctl := ((v ||| 1).setWidth 32 &&& 0x3FFFF : BitVec 32).setWidth 64 }
    (encoderOk s e new = false →
      exec (.encoderEnable e v) s = .next (setCodec s true e { new with ctl := new.ctl &&& ~~~1#64 }))
    ∧ (encoderOk s e new = true →
      ∃ t, exec (.encoderEnable e v) s = .next t
        ∧ getCodec t true e = (if bitOf c.ctl 0 then new else { new with frames := 0, memory := 0 })
        ∧ t.ms = s.ms ∧ t.ownOwner = s.ownOwner)
    ∧ (∀ w : BitVec 32, exec (.rheadWrite e w) s = .next (setCodec s true e { c with rhead := w }))
    ∧ (∀ f fs, bitOf c.ctl 0 = true → (getFtq s (bitsOf c.ctl 3 5)).closed = f :: fs → c.ifv.getLsbD 8 = false →
      let d := getSdesc s (bitsOf c.ctl 8 8)
      let ins := [c.ctl.toNat, c.qp.toNat, c.rate.toNat, c.gop.toNat, frameWidth d, frameHeight d, frameDepth d]
      let tiles := frameTiles (getSdesc s (bitsOf c.ctl 8 8)) (getFtq s (bitsOf c.ctl 3 5)) f
      let r := codedRecord s.time f (c.frames == 0 || (c.gop != 0 && c.frames % c.gop.toNat == 0))
        (Config.codedFrame c.memory ins tiles)
      (c.rsize.toNat < (c.rtail - c.rhead).toNat + r.length ∨ ringLinked s true e = false → exec (.encodeFrame e) s = .next s)
      ∧ ((c.rtail - c.rhead).toNat + r.length ≤ c.rsize.toNat → ringLinked s true e = true →
        ∃ t, exec (.encodeFrame e) s = .next t
          ∧ getCodec t true e = { c with
              rtail := c.rtail + BitVec.ofNat 32 r.length, frames := c.frames + 1
              memory := Config.codedKeep c.memory ins tiles }
          ∧ (getFtq t (bitsOf c.ctl 3 5)).closed = fs
          ∧ ∀ x ∈ (getFtq t (bitsOf c.ctl 3 5)).tiles, x.frame ≠ f))
    ∧ (bitOf c.ctl 0 = false → exec (.encodeFrame e) s = .next s)
    ∧ (∀ p, Tab.get? s.ownOwner (304 + e) = some p → bitOf d.ctl 0 = true → d.ifv.getLsbD 8 = false →
      let r := getSdesc s (bitsOf d.ctl 3 5)
      let ins := [d.ctl.toNat, d.qp.toNat, d.rate.toNat, d.gop.toNat, frameWidth r, frameHeight r, frameDepth r]
      let len := ofLe ((ringBytes s d d.rtail.toNat 16).take 4)
      let total := (len + 31) / 16 * 16
      (total ≤ (d.rhead - d.rtail).toNat → ringLinked s false e = true →
        ∃ t, exec (.decodeRecord e) s = .next t
          ∧ getCodec t false e = { d with
              rtail := d.rtail + BitVec.ofNat 32 total, frames := d.frames + 1
              memory := Config.decodedKeep d.memory ins (ringBytes s d d.rtail.toNat total) })
      ∧ ((d.rhead - d.rtail).toNat < total ∨ ringLinked s false e = false → exec (.decodeRecord e) s = .next s))

/-! ## The peer fabric -/

/-- R409, R420, R421, R462: a message from a chip that is not joined, or where no link carries the receiver's traffic, is
discarded and counted. A release flag is applied
once, in the order of its line: a sequence that is not ahead of the last one applied does nothing but count. A flag
that has no completion is sent again with its sequence, along another path. Data of a peer reaches the receiving
partition's own units alone. That a chip's messages need one of the four links (log 31), how flags and their confirming
reads follow one another (log 79), and which messages are discarded (log 104) are the model's readings. -/
def Sys2Proof.Say.PeerMessages : Prop :=
  ∀ (s : State) (x : PeerSrc) (seq : BitVec 32) (a : Nat) (n : BitVec 32) (bs : List Byte), x.target < 8 →
    let k := (x.target, x.chip, x.part)
    let flag := Instr.peerReleaseFlag x seq (.syncWord a n)
    let d := (seq - lastSeqOf s k).toNat
    let dropped := modPart s x.target fun p => { p with discarded := satInc p.discarded }
    let heard := srcJoined s x = true ∧ anyLink s x.target = true
    (¬heard → exec flag s = .next dropped ∧ exec (.peerDataWrite x a bs) s = .next dropped
      ∧ ∀ tag id body, exec (.dirLookupRequest x tag id) s = .next dropped ∧ exec (.dirFetchRequest x tag id) s = .next dropped
        ∧ exec (.peerReply ⟨x, tag⟩ body) s = .next dropped)
    ∧ (heard → (d = 0 ∨ 2 ^ 31 ≤ d) → exec flag s = .next (bumpErr s 6))
    ∧ (heard → 1 ≤ d → d < 2 ^ 31 → a % 16 = 0 → ownUnit s x.target a = true → memOk s = true →
      s.ms.late = [] → (∀ l ∈ s.ms.comp, l.1 ≠ a / 256) →
      let old := Memory.bytes s.ms.mem a 16
      let w := SyncWord.add ⟨ofLe (old.take 4), ofLe ((old.drop 4).take 4), ofLe ((old.drop 8).take 4)⟩ n.toNat
      ∃ t, exec flag s = .next t ∧ lastSeqOf t k = seq
        ∧ (poisonIn s deviceView a 16 = none → readPa t deviceView false a 16 =
          leBytes 4 w.target ++ leBytes 4 w.count ++ leBytes 4 w.gen ++ old.drop 12)
        ∧ (poisonIn s deviceView a 16 ≠ none → t.ms = s.ms)
        ∧ ∀ b, b < a ∨ a + 16 ≤ b → Memory.byte t.ms.mem b = Memory.byte s.ms.mem b)
    ∧ (heard → ((granules a bs.length).all fun g => ownUnit s x.target (8 * g)) = false →
      exec (.peerDataWrite x a bs) s = .next dropped)
    ∧ (heard → ((granules a bs.length).all fun g => ownUnit s x.target (8 * g)) = true → memOk s = true →
      (∀ l ∈ s.ms.comp, ∀ b, a ≤ b → b < a + bs.length → l.1 ≠ b / 256) → bs ≠ [] → bs.length ≤ 256 →
      ∃ t, exec (.peerDataWrite x a bs) s = .next t ∧ readPa t deviceView false a bs.length = bs
        ∧ ∀ b, b < a ∨ a + bs.length ≤ b → Memory.byte t.ms.mem b = Memory.byte s.ms.mem b)
    ∧ (∀ f, s.fabric.pending = [f] →
      let again := { f with path := f.path + 1 }
      exec (.flagResend f.id) s = .next (if f.confirmed then
        bumpErr { s with out := s.out ++ (if anyLink s f.part then [.flag again] else []), fabric := { s.fabric with pending := [again] } } 5 else s))

/-- R219, R422: the home side of the directory. A lookup is answered with the record's entry; a fetch of a record counts
a reader and sends the page, an attend counts one and sends the partials; a release takes one back, and only one that
was counted; a publication of an id that is known is answered at once. A reply goes to the request with its tag that its
source was asked; where the operation has ended, the reader that the reply tells of is released. The model's choices:
which partition of a chip is asked and that a reply carries its request's tag (log 69); that a fetch waits at the full
count, what a release and a reply must name, and that a late reply is answered by a release (log 104). -/
def Sys2Proof.Say.Directory : Prop :=
  ∀ (s : State) (x : PeerSrc) (tag : BitVec 32) (id : Word) (d : PrefixRecord) (rest : List PrefixRecord),
    srcJoined s x = true → anyLink s x.target = true → s.fabric.directory = d :: rest → d.fabric = fabricOf s x.target → d.id = id → id ≠ 0 →
    (∀ r ∈ rest, r.fabric ≠ d.fabric ∨ r.id ≠ id) →
    let counted := { s with fabric := { s.fabric with
      directory := { d with readers := d.readers + 1 } :: rest
      remoteReaders := s.fabric.remoteReaders ++ [(x.chip, x.part, x.fabric, id)] } }
    let send := fun (u : State) (b : ReplyBody) => { u with out := u.out ++ [.reply x.chip tag b] }
    (exec (.dirLookupRequest x tag id) s =
      .next (send s (.entry (lookupEntry s (fabricOf s x.target) id false).bytes)))
    ∧ (∀ u bs, d.readers < 65535 → readPage counted (recordBulk d) d.page 0 (2 * (recordBits d).half) = .ok (u, bs) →
      exec (.dirFetchRequest x tag id) s = .next (send u (.page bs)))
    ∧ (∀ u ps n m sc b c q, d.readers < 65535 →
      blockPartials counted (recordBulk d) (recordBits d) ⟨n, m, sc, b.toNat, c⟩ (queryRows n m q) = .ok (u, ps) →
      exec (.dirAttendRequest x tag id n m sc b c q) s = .next (send u (.partials ps)))
    ∧ (65535 ≤ d.readers → exec (.dirFetchRequest x tag id) s = .next s)
    ∧ (∀ ver, s.fabric.remoteReaders = [(x.chip, x.part, x.fabric, id)] → d.fabric.toNat = x.fabric →
      exec (.dirReleaseRequest x id ver) s = .next { s with fabric := { s.fabric with
        remoteReaders := []
        directory := { d with readers := d.readers - 1 } :: rest } })
    ∧ (∀ ver, s.fabric.remoteReaders = [] → exec (.dirReleaseRequest x id ver) s = .next s)
    ∧ (∀ e page, (KvBits.ofBytes e).fid = id → exec (.dirPubRequest x tag e page) s = .next (send s .done))
    ∧ (∀ body c slot e r, s.cores = [(c, { (getCore s c) with tokens := [(slot, e)] })] → e.requests = [r] → r.tag = tag →
      r.reply = none → s.fabric.ended = [] →
      ∃ t, exec (.peerReply ⟨x, tag⟩ body) s = .next t ∧ t.ms = s.ms ∧ t.jobs = s.jobs ∧ t.out = s.out
        ∧ tokens t c = [(slot, { e with requests := [
            if e.ids.part = x.target ∧ r.chip = x.chip ∧ r.part = x.part then { r with reply := some body } else r] })])
    ∧ (∀ e : EndedReader, s.fabric.ended = [e] → e.tag = tag → e.answered = false → e.part = x.target →
      e.chip = x.chip → e.peer = x.part →
      (∃ t, exec (.peerReply ⟨x, tag⟩ .failed) s = .next t ∧ t.fabric.ended = [] ∧ t.out = s.out)
      ∧ ∀ bs, ∃ t, exec (.peerReply ⟨x, tag⟩ (.page bs)) s = .next t ∧ t.fabric.ended = [] ∧ t.ms = s.ms
        ∧ t.out = s.out ++ [.request e.chip e.peer (fabricOf s e.part) 0 4 e.id (leBytes 2 e.version)])

/-! ## Errors, temperature, resets -/

/-- R98, R456 to R458, R488 to R492: a corrected error only counts, with GDDR 7 or with SRAM; an uncorrectable one poisons
its granule or element, in a job's wet version too. At 95 °C or above 1,800 W a step lowers the clock by 100 MHz down to
700; 5 °C under that and at 1,700 W one raises it up to 1,400 outside a hold. At 105 °C the clock is held at 700 MHz until
it is below 100 °C, and both are told to every partition; at 110 °C the die stops. A device reset leaves the device as at
reset; a staged image that verifies runs, and one that does not leaves the device in recovery. A port reset retrains one
port and leaves its two counters. A coherent write of the host changes its own memory alone. The model's choices: by how
much a step moves the supply voltage and what an image is (log 98); that a device reset leaves device memory zero and the
host's memory as it was (log 99); in what places a soft error lies and what each is counted as (log 100). -/
def Obligations.ErrorsAndResets : Prop :=
  ∀ (s : State) (g : Nat),
    let p := s.platform
    let good := fun im => Config.imageVerifies im = true ∧ rollbackOf p ≤ Config.imageVersion im
    (∀ loc, exec (.patrolScrub loc false) s = .next (bumpErr s (match loc with
      | .mem _ => 0
      | .savedRow j _ _ | .savedAcc j _ _ | .savedTable j =>
        if ∃ x ∈ s.saved, x.job.ids.jobid = j ∧ x.inMemory = true then 0 else 2
      | _ => 2)))
    ∧ (∃ t, exec (.patrolScrub (.mem g) true) s = .next t ∧ NatSet.has t.ms.memPoison g = true
      ∧ t.ms = { s.ms with memPoison := t.ms.memPoison } ∧ t.jobs = s.jobs)
    ∧ (∀ j, ∃ t, exec (.patrolScrub (.llc (some j) g) true) s = .next t ∧ t.jobs = s.jobs
      ∧ ∀ w ∈ t.ms.wet, w.job = j → w.granule = g → w.poison = true)
    ∧ ((8 * 95 ≤ p.temp ∨ 1800 < p.power) ∧ 700 < p.mhz →
      ∃ t, exec .thermalThrottle s = .next t ∧ t.platform.mhz = max 700 (p.mhz - 100)
        ∧ t.platform.throttles = satInc p.throttles ∧ t.ms = s.ms ∧ t.jobs = s.jobs
        ∧ t.platform.supply ≤ p.supply ∧ (360 ≤ p.supply → 360 ≤ t.platform.supply))
    ∧ (¬((8 * 95 ≤ p.temp ∨ 1800 < p.power) ∧ 700 < p.mhz) → exec .thermalThrottle s = .next s)
    ∧ (p.hold = false ∧ p.mhz < 1400 ∧ p.temp ≤ 8 * 90 ∧ p.power ≤ 1700 →
      ∃ t, exec .throttleRecover s = .next t ∧ t.platform.mhz = min 1400 (p.mhz + 100) ∧ t.ms = s.ms
        ∧ p.supply ≤ t.platform.supply ∧ (p.supply ≤ 480 → t.platform.supply ≤ 480))
    ∧ (¬(p.hold = false ∧ p.mhz < 1400 ∧ p.temp ≤ 8 * 90 ∧ p.power ≤ 1700) → exec .throttleRecover s = .next s)
    ∧ (p.hold = false → 8 * 105 ≤ p.temp → Tab.wf s.parts = true →
      ∃ t, exec .thermalHold s = .next t ∧ t.platform.hold = true ∧ t.platform.mhz = 700
        ∧ ∀ q < 8, (getPart t q).faults = (getPart s q).faults ++ [faultRecord Cause.thermal.code 0 0 0 0 1 0 0 0 [] []])
    ∧ (p.hold = true ∨ p.temp < 8 * 105 → exec .thermalHold s = .next s)
    ∧ (p.hold = true → p.temp < 8 * 100 → Tab.wf s.parts = true →
      ∃ t, exec .thermalHoldEnd s = .next t ∧ t.platform.hold = false
        ∧ ∀ q < 8, (getPart t q).faults = (getPart s q).faults ++ [faultRecord Cause.thermal.code 0 0 0 0 2 0 0 0 [] []])
    ∧ (p.hold = false ∨ 8 * 100 ≤ p.temp → exec .thermalHoldEnd s = .next s)
    ∧ exec .thermalShutdown s = .next (if 8 * 110 ≤ p.temp then { s with dead := true } else s)
    ∧ (∃ t, exec .deviceReset s = .next t ∧ t.dead = false ∧ t.jobs = [] ∧ t.parts = State.reset.parts
      ∧ t.cores = State.reset.cores ∧ t.unitOwner = [] ∧ t.pool = [] ∧ t.time = 0
      ∧ (∀ a, isHostPa a = false → Memory.byte t.ms.mem a = 0)
      ∧ (∀ im, p.staged = some im → good im → p.defect = none →
        t.platform.running = some im ∧ t.platform.staged = none ∧ t.platform.mode = .starting)
      ∧ ∀ im, p.staged = some im → ¬good im →
        t.platform.running = p.running ∧ t.platform.mode = .recovery ∧ bitsOf t.platform.boot 0 8 = 1)
    ∧ (∀ k (h : k < 4), 1 ≤ k →
      ∃ t, exec (.portReset k) s = .next t ∧ t.ms.mem = s.ms.mem ∧ t.jobs = s.jobs
        ∧ t.ports[k] = { Port.reset with
            up := decide (p.mode = .running), ide := s.ports[k].ide, ats := s.ports[k].ats
            stray := s.ports[k].stray, dropped := s.ports[k].dropped }
        ∧ ∀ n (h : n < 4), n ≠ k → t.ports[n] = s.ports[n])
    ∧ exec (.portReset 0) s = .next s
    ∧ (∀ a bs, ((granules a bs.length).all fun g => isHostPa (8 * g) && hostPort (8 * g) < 2) = true → memOk s = true →
      (∀ l ∈ s.ms.comp, ∀ b, a ≤ b → b < a + bs.length → l.1 ≠ b / 256) → bs ≠ [] → bs.length ≤ 256 →
      ∃ t, exec (.hostCxlCacheWrite a bs) s = .next t ∧ readPa t deviceView false a bs.length = bs
        ∧ ∀ b, b < a ∨ a + bs.length ≤ b → Memory.byte t.ms.mem b = Memory.byte s.ms.mem b)

/-! ## Row queues; the machine as a whole -/

/-- R187, R188: RDQ appends fn + 1 scratchpad lines to its row queue with the tag of S(b)[10:0] (granules that its
stream has read ahead of program order, R103, as they were read); WRQ moves as many rows from the head of its queue to
scratchpad. Each blocks until there is room, or are rows, for all. RDQ also performs its stream's buffered WC stores: R138
orders them before what the reader of the queue does, R94 lists no RDQ among what performs them, and that it does is the
model's choice (log 35). -/
def Obligations.RowQueues : Prop :=
  ∀ (s : State) (g : Guard) (f : BitVec 3) (d : BitVec 2) (a b : Reg) (sp : Nat), ready s 4 (some g) = true →
    let n := f.toNat + 1
    let tag : BitVec 11 := (rd s b).setWidth 11
    let reachable := (∀ e ∈ (curCore s).tokens, e.2.holder ≠ some (curJob s).ids.jobid)
      ∧ (∀ w < 4, stashSizeOf (viewedJob s) w = 0) ∧ (curJob s).sealedSet = []
      ∧ grantAddr s.cur.core (curJob s).grant (rd s a).toNat (256 * n) = some sp ∧ spadPoisonIn s sp (256 * n) = none
    (∀ k : Fin 8, k.val = d.toNat → s.cur.strm = .l →
      let q := (curJob s).queues.q[k]
      let bs := withEarly s s.cur .spad sp (Memory.bytes s.ms.spad sp (256 * n))
      let used := dropEarly s s.cur (spadPlaces sp (256 * n))
      ((∀ e ∈ s.ms.early, e.hart ≠ s.cur) → bs = Memory.bytes s.ms.spad sp (256 * n))
      ∧ (q.length + n ≤ 8 → rdqTagOk tag = true → (rd s a).toNat % 256 = 0 → reachable →
        ∃ t, exec (.rdq g f d a b) s = .next (retire 4 t) ∧ Say.onlyQueues (drainWc used s.cur) t
          ∧ (curJob t).queues.q = (curJob s).queues.q.set k.val (q ++ (List.range n).map fun i =>
              ⟨tag, BitVec.ofNat 2048 (ofLe ((bs.drop (256 * i)).take 256))⟩))
      ∧ (8 < q.length + n → exec (.rdq g f d a b) s = Say.blocked s (.queue k.val))
      ∧ (q.length + n ≤ 8 → rdqTagOk tag = false → exec (.rdq g f d a b) s = .next (trapNow s (.rdq g f d a b) .format 0 0))
      ∧ (q.length + n ≤ 8 → rdqTagOk tag = true → (rd s a).toNat % 256 ≠ 0 →
        exec (.rdq g f d a b) s = .next (trapNow s (.rdq g f d a b) .align (rd s a) 0)))
    ∧ (∀ k : Fin 8, k.val = 4 + d.toNat → s.cur.strm = .s →
      let q := (curJob s).queues.q[k]
      (n ≤ q.length → (rd s a).toNat % 256 = 0 → reachable → memOk s = true → s.ms.split = none →
        ∃ t, exec (.wrq g f d a) s = .next (retire 4 t)
          ∧ (curJob t).queues.q = (curJob s).queues.q.set k.val (q.drop n)
          ∧ (∀ i < n, Memory.bytes t.ms.spad (sp + 256 * i) 256 = leBytes 256 ((q.map fun r : QRow => r.data).getD i 0).toNat)
          ∧ (∀ c, c < sp ∨ sp + 256 * n ≤ c → Memory.byte t.ms.spad c = Memory.byte s.ms.spad c)
          ∧ t.ms.mem = s.ms.mem)
      ∧ (q.length < n → exec (.wrq g f d a) s = Say.blocked s (.queue k.val))
      ∧ (n ≤ q.length → (rd s a).toNat % 256 ≠ 0 →
        exec (.wrq g f d a) s = .next (trapNow s (.wrq g f d a) .align (rd s a) 0)))

/-- The device memory and the scratchpads keep their canonical form: equal contents are equal data. -/
def Sys2Proof.Say.StepKeepsMemory : Prop :=
  ∀ (s t : State), memOk s = true → step s = .next t → memOk t = true

/-- No instruction and no event stops the machine: each leaves a next state from every state (the stop of R489 is the
step's). That an event whose conditions do not hold leaves the state as it is is the model's reading (log 4). -/
def Sys2Proof.Say.NothingStops : Prop :=
  ∀ (i : Instr) (s : State), ∃ t, exec i s = .next t

/-- R490: after reset every partition is FREE and nothing is assigned to it, TIME is 0 and NextSeq 1 on every core, no
launch record or stream descriptor holds anything, no line is valid, and memory is in canonical form. -/
def Obligations.ResetState : Prop :=
  (∀ p, (getPart State.reset p).state = .free ∧ (getPart State.reset p).shareCount = 0)
    ∧ State.reset.unitOwner = [] ∧ State.reset.clusterOwner = [] ∧ State.reset.ownOwner = []
    ∧ State.reset.time = 0 ∧ (∀ c, (getCore State.reset c).nextSeq = 1 ∧ tokens State.reset c = [])
    ∧ State.reset.pool = [] ∧ State.reset.streams = [] ∧ State.reset.jobs = [] ∧ State.reset.dead = false
    ∧ State.reset.ms.wet = [] ∧ State.reset.ms.stash = [] ∧ State.reset.ms.wc = [] ∧ State.reset.ms.tlb = []
    ∧ memOk State.reset = true

/-! ## Words that the spec writes out -/

/-- The words that the spec gives for an instruction decode to it (R64, R218, R430, R431, R433, R435, R445, R451,
R453): rows t4.0 and t10.0 are 64 and 160, and the CPY of R433 is all zero after its second parcel. -/
def Obligations.DecodedWords : Prop :=
  decodeTableWord 32 0x00000004 = some (.nop ⟨0, false⟩)
    ∧ decodeTableWord 32 0x0001412C = some (.trapi 5) ∧ decodeTableWord 32 0x00000130 = some .tret
    ∧ decodeTableWord 32 0x0001C128 = some (.rgn 7)
    ∧ decodeTableWord 32 0x00290FDC = some (.kvslot ⟨0, false⟩ 7 4 5)
    ∧ decodeTableWord 32 0x0029018C = some (.seal ⟨0, false⟩ 4 5)
    ∧ decodeTableWord 32 0x00290190 = some (.unseal ⟨0, false⟩ 4 5)
    ∧ decodeTableWord 32 0x62000180 = some (.fix (64 + 1024 * 3))
    ∧ decodeTableWord 32 0x62000184 = some (.unfix (64 + 1024 * 3))
    ∧ decodeTableWord 32 0x25000188 = some (.drop (160 + 1024 * 1))
    ∧ decodeTableWord 32 0x25000194 = some (.rcpclr (160 + 1024 * 1))
    ∧ decodeTableWord 32 0x25000598 = some (.rcp 2 (160 + 1024 * 1))
    ∧ ∃ x : EngOp, decodeTableWord 192 0x0E0018A400014042 = some (.cpy x)
      ∧ x.h = ⟨0, 10, 0, 0, 0, false⟩ ∧ x.ra = 4 ∧ x.rb = 5 ∧ x.rc = 6 ∧ x.rw = 7

/-! ## Statements of several parts -/

/-- R11, R40, R145, R489: the bytes at the PC of the stream that may issue, where they decode, are executed; an event of the
agenda is executed as it stands; a die that has stopped does nothing. -/
def Obligations.StepRunsDecoded : Prop := Say.StepRunsDecoded ∧ Say.StepRunsEvent ∧ Say.StoppedDie

/-- R39 to R49: what decodes is well formed, has the length of its class, and is the word that was read. -/
def Obligations.DecodeSound : Prop := Say.DecodeSound ∧ Say.ClassLengths

/-- R44, R70: the instructions that write predicates. -/
def Obligations.Predicates : Prop := Say.PredicateResults ∧ Say.PredicatesPut

/-- R71, R85: the mask pairs and the lane-mask stack. -/
def Obligations.Masks : Prop := Say.MaskPairs ∧ Say.MaskStack

/-- R11, R27, R42, R44, R49, R52, R61: false guards, and streams that may not issue an instruction. -/
def Obligations.FalseSlot : Prop := Say.FalseSlot ∧ Say.WrongStream

/-- R72, R73, R80, R85: branches, and the LOOPs that they leave. -/
def Obligations.Jumps : Prop := Say.Jumps ∧ Say.BranchLeavesLoops

/-- R27, R75, R189: the outcome queues b0 and b1 and the scalar queues. -/
def Obligations.SmallQueues : Prop := Say.PushOutcome ∧ Say.BranchOutcome ∧ Say.ScalarQueues

/-- R76 to R78: LOOP, at its entry and at its end. -/
def Obligations.Loops : Prop := Say.LoopEntry ∧ Say.LoopEnd

/-- R426 to R428: trap entry and trap abort. -/
def Obligations.Traps : Prop := Say.TrapEntry ∧ Say.TrapAbort

/-- R172, R174, R175: loads. -/
def Obligations.Loads : Prop := Say.Loads ∧ Say.StashLoads ∧ Say.HostPages ∧ Say.Misaligned

/-- R113, R115, R172, R174, R175: stores, and what of memory they leave alone. -/
def Obligations.Stores : Prop := Say.Stores ∧ Say.StashStores ∧ Say.StoreFrame ∧ Say.UncachedStore

/-- R111, R122, R176 to R178: the atomic updates of a cell. -/
def Obligations.Atomics : Prop := Say.Atomics ∧ Say.OrderedAtomic

/-- R106, R108 to R110, R114, R179, R180: REL, ACQ, FENCE. -/
def Obligations.ReleaseAcquire : Prop := Say.ReleaseAcquire ∧ Say.ReleaseCures

/-- R118, R119, R182 to R184: WAITA and the sync words. -/
def Obligations.SyncWords : Prop := Say.WaitOnWord ∧ Say.SyncWordUpdate ∧ Say.SyncWords

/-- R29, R185, R186: BAR arrive, wait and arrive-wait COMPLETE with a next state; arrivals, phases, waits, refusals. -/
def Obligations.Barriers : Prop := Say.BarriersComplete ∧ Say.BarrierArrival ∧ Say.Barriers

/-- R81 to R84, R142, R144, R433, R435: the rendezvous of a job's three streams. -/
def Obligations.Rendezvous : Prop := Say.Rendezvous ∧ Say.RendezvousTraps

/-- R153, R167, R191 to R196: the token instructions on a live operation, and ADOPT. -/
def Obligations.TokenEffects : Prop := Say.TokenEffects ∧ Say.Adopt

/-- R441, R442, R445, R453: recipes and the rows they stand in. -/
def Obligations.Recipes : Prop := Say.FixDrop ∧ Say.RecipeClear ∧ Say.RecipeMade

/-- R343, R344, R349: LPUT and ARM. -/
def Obligations.Launches : Prop := Say.LaunchParameters ∧ Say.Arming

/-- R350, R351, R360, R361, R402: LSUC, LPRW, RUNG and MIGR. -/
def Obligations.LaunchQueries : Prop := Say.LaunchQueries ∧ Say.Migration

/-- R86 to R88, R96, R99: writes of CSRs, the stash windows among them. -/
def Obligations.ControlRegisters : Prop := Say.CsrWrites ∧ Say.StashWindows

/-- R396, R402, R403, R472, R476: TLBI, PCTL, SNAP and TRCM. -/
def Obligations.SystemControl : Prop := Say.Invalidation ∧ Say.ControlOperation ∧ Say.Observation

/-- R24, R79, R140, R141, R247 to R249, R261, R262, R285, R287 to R292: the arithmetic of rows, and the
operand forms of the elementwise instructions. -/
def Obligations.VectorNumbers : Prop := Say.VectorInteger ∧ Say.VectorFloat ∧ Say.VectorForms

/-- R293, R294: bitwise operations, shifts and comparisons of rows. -/
def Obligations.VectorBits : Prop := Say.VectorBits ∧ Say.VectorCompare

/-- R296, R297, R299, R306, R307: conversions of rows, and rows in scratchpad. -/
def Obligations.VectorConversions : Prop := Say.VectorConversions ∧ Say.VectorMemory

/-- R154 to R156, R161, R163, R200, R223: the push of an engine operation, and the order that it asks for. -/
def Obligations.EnginePush : Prop := Say.EnginePush ∧ Say.PushEdges

/-- R158, R162, R165, R168: which operation an engine takes, and when an entry leaves the table. -/
def Obligations.EngineEvents : Prop := Say.EngineSelect ∧ Say.TableEvents

/-- R17, R34, R59, R346, R494: allotting records to cores and dealing them as jobs. -/
def Obligations.Dispatcher : Prop := Say.Allotment ∧ Say.Dealing

/-- R345, R357: the launch window and the boundaries of a stream. -/
def Obligations.Scheduler : Prop := Say.WindowArming ∧ Say.Boundary

/-- R358, R360 to R363: the commands of the arbiter and the power of clusters. -/
def Obligations.Arbiter : Prop := Say.ArbiterCommands ∧ Say.ClusterPower

/-- R28, R142, R369, R370, R439: contexts outside the slots, and the limits of waits. -/
def Obligations.SavedContexts : Prop := Say.SavedContexts ∧ Say.WaitLimits

/-- R356, R403, R404, R411, R457, R464, R491 to R493: the control operations of the host. -/
def Obligations.HostControl : Prop := Say.HostRegisters ∧ Say.SealedPartition ∧ Say.StreamsAndPlatform

/-- R410 to R418: the registers, doorbells and packets of the host queues. -/
def Obligations.HostQueues : Prop := Say.Registers ∧ Say.Doorbells ∧ Say.Packets

/-- R227, R228, R395, R404, R409, R410, R419: the memory traffic of the host, and the codecs. -/
def Obligations.HostMemory : Prop := Say.HostMemory ∧ Say.Codecs

/-- R219, R420 to R422, R462: the messages of peer chips. -/
def Obligations.PeerFabric : Prop := Say.PeerMessages ∧ Say.Directory

/-- The invariant of the machine as a whole: whatever the step does, device memory and the scratchpads keep their
canonical form, so that equal contents are equal data; and no instruction and no event stops the machine. -/
def Obligations.StepKeepsMemory : Prop := Say.StepKeepsMemory ∧ Say.NothingStops
end

