-- ==== Sys2Proof/Laws/Tab.lean ====
section
/-! SUPPORT. The laws of the two sparse containers: reading after writing, and the canonical form that every
memory operation keeps. -/

namespace Sys2Proof.Machine

/-! ### Tables -/

@[simp] theorem Tab.get?_set_self {α : Type} (t : Tab α) (k : Nat) (v : α) : Tab.get? (Tab.set t k v) k = some v := by
  induction t with
  | nil => simp [Tab.set, Tab.get?]
  | cons x t ih =>
    obtain ⟨i, y⟩ := x
    simp only [Tab.set]
    split
    · simp [Tab.get?]
    · split
      · simp [Tab.get?]
      · simp_all [Tab.get?]

theorem Tab.get?_set_ne {α : Type} (t : Tab α) (k l : Nat) (v : α) (h : l ≠ k) :
    Tab.get? (Tab.set t k v) l = Tab.get? t l := by
  induction t with
  | nil => simp [Tab.set, Tab.get?]; omega
  | cons x t ih =>
    obtain ⟨i, y⟩ := x
    simp only [Tab.set]
    split
    · subst_vars; simp [Tab.get?, Ne.symm h]
    · split
      · simp only [Tab.get?, Ne.symm h, if_false]
        split
        · split
          · omega
          · split
            · rfl
            · omega
        · rfl
      · simp only [Tab.get?, ih]

/-- An entry that is there is changed as `set` would change it. -/
theorem Tab.modify_eq_set {α : Type} (t : Tab α) (k : Nat) (f : α → α) (x : α) (h : Tab.get? t k = some x) :
    Tab.modify t k f = Tab.set t k (f x) := by
  induction t with
  | nil => simp [Tab.get?] at h
  | cons y t ih =>
    obtain ⟨i, y⟩ := y
    simp only [Tab.get?] at h
    simp only [Tab.modify, Tab.set]
    split
    · rename_i e; subst e; simp at h; subst h; simp
    · rename_i e
      simp only [e, if_false] at h
      split
      · rename_i g; simp [g] at h
      · rename_i g; simp only [g, if_false] at h; rw [ih h]

theorem Tab.get?_modify_self {α : Type} (t : Tab α) (k : Nat) (f : α → α) :
    Tab.get? (Tab.modify t k f) k = (Tab.get? t k).map f := by
  induction t with
  | nil => rfl
  | cons y t ih =>
    obtain ⟨i, y⟩ := y
    simp only [Tab.modify]
    split
    · rename_i e; subst e; simp [Tab.get?]
    · rename_i e
      split
      · rename_i g; simp [Tab.get?, e, g]
      · rename_i g; simp [Tab.get?, e, g, ih]

theorem Tab.get?_modify_ne {α : Type} (t : Tab α) (k l : Nat) (f : α → α) (h : l ≠ k) :
    Tab.get? (Tab.modify t k f) l = Tab.get? t l := by
  induction t with
  | nil => rfl
  | cons y t ih =>
    obtain ⟨i, y⟩ := y
    simp only [Tab.modify]
    split
    · subst_vars; simp [Tab.get?, Ne.symm h]
    · split
      · rfl
      · simp only [Tab.get?, ih]

@[simp] theorem Tab.getD_set_self {α : Type} (t : Tab α) (k : Nat) (v d : α) : Tab.getD (Tab.set t k v) k d = v := by
  simp [Tab.getD]

theorem Tab.getD_set_ne {α : Type} (t : Tab α) (k l : Nat) (v d : α) (h : l ≠ k) :
    Tab.getD (Tab.set t k v) l d = Tab.getD t l d := by
  simp [Tab.getD, Tab.get?_set_ne t k l v h]

@[simp] theorem Tab.getD_upd_self {α : Type} (t : Tab α) (k : Nat) (d : α) (f : α → α) :
    Tab.getD (Tab.upd t k d f) k d = f (Tab.getD t k d) := by simp [Tab.upd]

theorem Tab.getD_upd_ne {α : Type} (t : Tab α) (k l : Nat) (d d' : α) (f : α → α) (h : l ≠ k) :
    Tab.getD (Tab.upd t k d f) l d' = Tab.getD t l d' := by simp [Tab.upd, Tab.getD_set_ne t k l _ d' h]

theorem Tab.get?_wfFrom_lt {α : Type} (t : Tab α) (lo k : Nat) (h : Tab.wfFrom lo t = true) (hk : k < lo) :
    Tab.get? t k = none := by
  cases t with
  | nil => rfl
  | cons x t =>
    obtain ⟨i, y⟩ := x
    simp only [Tab.wfFrom, Bool.and_eq_true, decide_eq_true_eq] at h
    simp only [Tab.get?]
    split
    · omega
    · split
      · rfl
      · omega

/-- In a table with rising keys a deleted entry is gone. -/
theorem Tab.get?_del_self {α : Type} (t : Tab α) (lo k : Nat) (h : Tab.wfFrom lo t = true) :
    Tab.get? (Tab.del t k) k = none := by
  induction t generalizing lo with
  | nil => rfl
  | cons x t ih =>
    obtain ⟨i, y⟩ := x
    simp only [Tab.wfFrom, Bool.and_eq_true, decide_eq_true_eq] at h
    simp only [Tab.del]
    split
    · rename_i e; subst e; exact Tab.get?_wfFrom_lt t (i + 1) i h.2 (Nat.lt_succ_self i)
    · rename_i e
      split
      · rename_i g; simp [Tab.get?, e, g]
      · rename_i g; simp [Tab.get?, e, g, ih _ h.2]

/-! ### Memory -/

theorem Memory.wfFrom_mono (m : Memory) (a b : Nat) (h : Memory.wfFrom b m = true) (hab : a ≤ b) :
    Memory.wfFrom a m = true := by
  cases m with
  | nil => rfl
  | cons x t =>
    obtain ⟨i, y⟩ := x
    simp only [Memory.wfFrom, Bool.and_eq_true, decide_eq_true_eq] at *
    exact ⟨⟨by omega, h.1.2⟩, h.2⟩

theorem Memory.put_wfFrom (m : Memory) (lo a : Nat) (b : Byte) (h : Memory.wfFrom lo m = true) (hlo : lo ≤ a) :
    Memory.wfFrom lo (Memory.put m a b) = true := by
  induction m generalizing lo with
  | nil =>
    simp only [Memory.put]
    split <;> simp_all [Memory.wfFrom]
  | cons x t ih =>
    obtain ⟨i, y⟩ := x
    simp only [Memory.wfFrom, Bool.and_eq_true, decide_eq_true_eq, bne_iff_ne] at h
    simp only [Memory.put]
    split
    · rename_i e
      subst e
      split
      · exact Memory.wfFrom_mono t lo (i + 1) h.2 (by omega)
      · simp_all [Memory.wfFrom]
    · split
      · split
        · simp_all [Memory.wfFrom]
        · simp_all [Memory.wfFrom]
      · simp only [Memory.wfFrom, Bool.and_eq_true, decide_eq_true_eq, bne_iff_ne]
        exact ⟨⟨h.1.1, h.1.2⟩, ih (i + 1) h.2 (by omega)⟩

/-- Writing a byte keeps the canonical form. -/
theorem Memory.put_wf (m : Memory) (a : Nat) (b : Byte) (h : m.wf = true) : (Memory.put m a b).wf = true :=
  Memory.put_wfFrom m 0 a b h (Nat.zero_le a)

/-- Writing bytes keeps the canonical form. -/
theorem Memory.putBytes_wf (m : Memory) (a : Nat) (bs : List Byte) (h : m.wf = true) :
    (Memory.putBytes m a bs).wf = true := by
  induction bs generalizing m a with
  | nil => exact h
  | cons b bs ih => exact ih _ _ (Memory.put_wf m a b h)

theorem Memory.byte_wfFrom_lt (m : Memory) (lo a : Nat) (h : Memory.wfFrom lo m = true) (ha : a < lo) :
    Memory.byte m a = Memory.unlisted := by
  cases m with
  | nil => rfl
  | cons x t =>
    obtain ⟨i, y⟩ := x
    simp only [Memory.wfFrom, Bool.and_eq_true, decide_eq_true_eq] at h
    simp only [Memory.byte]
    split
    · omega
    · split
      · rfl
      · omega

theorem Memory.byte_put_self_from (m : Memory) (lo a : Nat) (b : Byte) (h : Memory.wfFrom lo m = true) :
    Memory.byte (Memory.put m a b) a = b := by
  induction m generalizing lo with
  | nil =>
    simp only [Memory.put]
    split <;> simp_all [Memory.byte]
  | cons x t ih =>
    obtain ⟨i, y⟩ := x
    simp only [Memory.wfFrom, Bool.and_eq_true, decide_eq_true_eq] at h
    simp only [Memory.put]
    split
    · rename_i e
      subst e
      split
      · rename_i e
        rw [Memory.byte_wfFrom_lt t (i + 1) i h.2 (Nat.lt_succ_self i), e]
      · simp [Memory.byte]
    · split
      · split
        · rename_i g e; rw [e]; simp [Memory.byte, *]
        · simp [Memory.byte]
      · rename_i g; simp [Memory.byte, *, ih _ h.2]

/-- A byte that was written reads as written. -/
theorem Memory.byte_put_self (m : Memory) (a : Nat) (b : Byte) (h : m.wf = true) :
    Memory.byte (Memory.put m a b) a = b := Memory.byte_put_self_from m 0 a b h

/-- Every other byte reads as before. -/
theorem Memory.byte_put_ne_from (m : Memory) (lo a c : Nat) (b : Byte) (h : Memory.wfFrom lo m = true) (hc : c ≠ a) :
    Memory.byte (Memory.put m a b) c = Memory.byte m c := by
  induction m generalizing lo with
  | nil =>
    simp only [Memory.put]
    split
    · rfl
    · simp [Memory.byte, Ne.symm hc]
  | cons x t ih =>
    obtain ⟨i, y⟩ := x
    simp only [Memory.wfFrom, Bool.and_eq_true, decide_eq_true_eq] at h
    simp only [Memory.put]
    split
    · rename_i e
      subst e
      split
      · by_cases hl : c < i
        · rw [Memory.byte_wfFrom_lt t (i + 1) c h.2 (by omega)]
          simp [Memory.byte, Ne.symm hc, hl]
        · simp [Memory.byte, Ne.symm hc, hl]
      · simp [Memory.byte, Ne.symm hc]
    · split
      · split
        · rfl
        · simp only [Memory.byte, Ne.symm hc, if_false]
          split
          · have : ¬ i = c := by omega
            have : c < i := by omega
            simp [*]
          · rfl
      · simp only [Memory.byte, ih _ h.2]

/-- Every other byte reads as before. -/
theorem Memory.byte_put_ne (m : Memory) (a c : Nat) (b : Byte) (h : m.wf = true) (hc : c ≠ a) :
    Memory.byte (Memory.put m a b) c = Memory.byte m c := Memory.byte_put_ne_from m 0 a c b h hc

/-- Bytes outside a written range read as before. -/
theorem Memory.byte_putBytes_outside (m : Memory) (a c : Nat) (bs : List Byte) (h : m.wf = true)
    (hc : c < a ∨ a + bs.length ≤ c) : Memory.byte (Memory.putBytes m a bs) c = Memory.byte m c := by
  induction bs generalizing m a with
  | nil => rfl
  | cons b bs ih =>
    simp only [List.length_cons] at hc
    rw [Memory.putBytes, ih _ _ (Memory.put_wf m a b h) (by omega), Memory.byte_put_ne m a c b h (by omega)]

/-- A written range reads as written. -/
theorem Memory.byte_putBytes_inside (m : Memory) (a i : Nat) (bs : List Byte) (h : m.wf = true) (hi : i < bs.length) :
    Memory.byte (Memory.putBytes m a bs) (a + i) = bs[i] := by
  induction bs generalizing m a i with
  | nil => simp at hi
  | cons b bs ih =>
    cases i with
    | zero =>
      rw [Memory.putBytes, Memory.byte_putBytes_outside _ _ _ _ (Memory.put_wf m a b h) (by omega)]
      exact Memory.byte_put_self m a b h
    | succ i =>
      rw [Memory.putBytes]
      have := ih (Memory.put m a b) (a + 1) i (Memory.put_wf m a b h) (by simpa using hi)
      rw [show a + (i + 1) = a + 1 + i by omega, this]
      rfl

/-- Reading back the whole of a written range. -/
theorem Memory.bytes_putBytes (m : Memory) (a : Nat) (bs : List Byte) (h : m.wf = true) :
    Memory.bytes (Memory.putBytes m a bs) a bs.length = bs := by
  have go : ∀ (m : Memory) (a n : Nat), Memory.bytes m a n = (List.range n).map fun i => Memory.byte m (a + i) := by
    intro m a n
    induction n generalizing a with
    | zero => rfl
    | succ n ih =>
      rw [Memory.bytes, ih, List.range_succ_eq_map]
      simp [Function.comp_def, Nat.add_assoc, Nat.add_comm 1]
  rw [go]
  apply List.ext_getElem
  · simp
  · intro i h1 h2
    simp [Memory.byte_putBytes_inside m a i bs h h2]

/-! ### Sets of numbers -/

@[simp] theorem NatSet.has_add_self (t : NatSet) (k : Nat) : NatSet.has (NatSet.add t k) k = true := by
  induction t with
  | nil => simp [NatSet.add, NatSet.has]
  | cons i t ih =>
    simp only [NatSet.add]
    split
    · simp_all [NatSet.has]
    · split
      · simp [NatSet.has]
      · simp_all [NatSet.has]

theorem NatSet.has_add_ne (t : NatSet) (k l : Nat) (h : l ≠ k) : NatSet.has (NatSet.add t k) l = NatSet.has t l := by
  induction t with
  | nil => simp [NatSet.add, NatSet.has, Ne.symm h]
  | cons i t ih =>
    simp only [NatSet.add]
    split
    · rfl
    · split
      · simp only [NatSet.has, Ne.symm h, if_false]
        split
        · split
          · omega
          · split
            · rfl
            · omega
        · rfl
      · simp only [NatSet.has, ih]

end Sys2Proof.Machine
end

