-- ==== Sys2Proof/Laws/State.lean ====
section
/-! SUPPORT. One lemma per field of the state and update of it: no later proof unfolds a record update. -/

namespace Sys2Proof.Machine

/-! ### `modStream` -/

@[simp] theorem modStream_agenda (s : State) (h : Hart) (f : Stream → Stream) : (modStream s h f).agenda = s.agenda := rfl
@[simp] theorem modStream_cur (s : State) (h : Hart) (f : Stream → Stream) : (modStream s h f).cur = s.cur := rfl
@[simp] theorem modStream_fresh (s : State) (h : Hart) (f : Stream → Stream) : (modStream s h f).fresh = s.fresh := rfl
@[simp] theorem modStream_time (s : State) (h : Hart) (f : Stream → Stream) : (modStream s h f).time = s.time := rfl
@[simp] theorem modStream_subCycle (s : State) (h : Hart) (f : Stream → Stream) : (modStream s h f).subCycle = s.subCycle := rfl
@[simp] theorem modStream_dead (s : State) (h : Hart) (f : Stream → Stream) : (modStream s h f).dead = s.dead := rfl
@[simp] theorem modStream_ms (s : State) (h : Hart) (f : Stream → Stream) : (modStream s h f).ms = s.ms := rfl
@[simp] theorem modStream_strs (s : State) (h : Hart) (f : Stream → Stream) : (modStream s h f).strs = Tab.modify s.strs (hartKey h) f := rfl
@[simp] theorem modStream_jobs (s : State) (h : Hart) (f : Stream → Stream) : (modStream s h f).jobs = s.jobs := rfl
@[simp] theorem modStream_saved (s : State) (h : Hart) (f : Stream → Stream) : (modStream s h f).saved = s.saved := rfl
@[simp] theorem modStream_cores (s : State) (h : Hart) (f : Stream → Stream) : (modStream s h f).cores = s.cores := rfl
@[simp] theorem modStream_clusters (s : State) (h : Hart) (f : Stream → Stream) : (modStream s h f).clusters = s.clusters := rfl
@[simp] theorem modStream_nextJob (s : State) (h : Hart) (f : Stream → Stream) : (modStream s h f).nextJob = s.nextJob := rfl
@[simp] theorem modStream_parts (s : State) (h : Hart) (f : Stream → Stream) : (modStream s h f).parts = s.parts := rfl
@[simp] theorem modStream_pool (s : State) (h : Hart) (f : Stream → Stream) : (modStream s h f).pool = s.pool := rfl
@[simp] theorem modStream_streams (s : State) (h : Hart) (f : Stream → Stream) : (modStream s h f).streams = s.streams := rfl
@[simp] theorem modStream_ftqs (s : State) (h : Hart) (f : Stream → Stream) : (modStream s h f).ftqs = s.ftqs := rfl
@[simp] theorem modStream_unitOwner (s : State) (h : Hart) (f : Stream → Stream) : (modStream s h f).unitOwner = s.unitOwner := rfl
@[simp] theorem modStream_clusterOwner (s : State) (h : Hart) (f : Stream → Stream) : (modStream s h f).clusterOwner = s.clusterOwner := rfl
@[simp] theorem modStream_ownOwner (s : State) (h : Hart) (f : Stream → Stream) : (modStream s h f).ownOwner = s.ownOwner := rfl
@[simp] theorem modStream_meshRetired (s : State) (h : Hart) (f : Stream → Stream) : (modStream s h f).meshRetired = s.meshRetired := rfl
@[simp] theorem modStream_wakeQueue (s : State) (h : Hart) (f : Stream → Stream) : (modStream s h f).wakeQueue = s.wakeQueue := rfl
@[simp] theorem modStream_lastWake (s : State) (h : Hart) (f : Stream → Stream) : (modStream s h f).lastWake = s.lastWake := rfl
@[simp] theorem modStream_ports (s : State) (h : Hart) (f : Stream → Stream) : (modStream s h f).ports = s.ports := rfl
@[simp] theorem modStream_encoders (s : State) (h : Hart) (f : Stream → Stream) : (modStream s h f).encoders = s.encoders := rfl
@[simp] theorem modStream_decoders (s : State) (h : Hart) (f : Stream → Stream) : (modStream s h f).decoders = s.decoders := rfl
@[simp] theorem modStream_mgmt (s : State) (h : Hart) (f : Stream → Stream) : (modStream s h f).mgmt = s.mgmt := rfl
@[simp] theorem modStream_fabric (s : State) (h : Hart) (f : Stream → Stream) : (modStream s h f).fabric = s.fabric := rfl
@[simp] theorem modStream_out (s : State) (h : Hart) (f : Stream → Stream) : (modStream s h f).out = s.out := rfl
@[simp] theorem modStream_errs (s : State) (h : Hart) (f : Stream → Stream) : (modStream s h f).errs = s.errs := rfl
@[simp] theorem modStream_platform (s : State) (h : Hart) (f : Stream → Stream) : (modStream s h f).platform = s.platform := rfl

/-! ### `putStream` -/

@[simp] theorem putStream_agenda (s : State) (h : Hart) (st : Stream) : (putStream s h st).agenda = s.agenda := rfl
@[simp] theorem putStream_cur (s : State) (h : Hart) (st : Stream) : (putStream s h st).cur = s.cur := rfl
@[simp] theorem putStream_fresh (s : State) (h : Hart) (st : Stream) : (putStream s h st).fresh = s.fresh := rfl
@[simp] theorem putStream_time (s : State) (h : Hart) (st : Stream) : (putStream s h st).time = s.time := rfl
@[simp] theorem putStream_subCycle (s : State) (h : Hart) (st : Stream) : (putStream s h st).subCycle = s.subCycle := rfl
@[simp] theorem putStream_dead (s : State) (h : Hart) (st : Stream) : (putStream s h st).dead = s.dead := rfl
@[simp] theorem putStream_ms (s : State) (h : Hart) (st : Stream) : (putStream s h st).ms = s.ms := rfl
@[simp] theorem putStream_strs (s : State) (h : Hart) (st : Stream) : (putStream s h st).strs = Tab.set s.strs (hartKey h) st := rfl
@[simp] theorem putStream_jobs (s : State) (h : Hart) (st : Stream) : (putStream s h st).jobs = s.jobs := rfl
@[simp] theorem putStream_saved (s : State) (h : Hart) (st : Stream) : (putStream s h st).saved = s.saved := rfl
@[simp] theorem putStream_cores (s : State) (h : Hart) (st : Stream) : (putStream s h st).cores = s.cores := rfl
@[simp] theorem putStream_clusters (s : State) (h : Hart) (st : Stream) : (putStream s h st).clusters = s.clusters := rfl
@[simp] theorem putStream_nextJob (s : State) (h : Hart) (st : Stream) : (putStream s h st).nextJob = s.nextJob := rfl
@[simp] theorem putStream_parts (s : State) (h : Hart) (st : Stream) : (putStream s h st).parts = s.parts := rfl
@[simp] theorem putStream_pool (s : State) (h : Hart) (st : Stream) : (putStream s h st).pool = s.pool := rfl
@[simp] theorem putStream_streams (s : State) (h : Hart) (st : Stream) : (putStream s h st).streams = s.streams := rfl
@[simp] theorem putStream_ftqs (s : State) (h : Hart) (st : Stream) : (putStream s h st).ftqs = s.ftqs := rfl
@[simp] theorem putStream_unitOwner (s : State) (h : Hart) (st : Stream) : (putStream s h st).unitOwner = s.unitOwner := rfl
@[simp] theorem putStream_clusterOwner (s : State) (h : Hart) (st : Stream) : (putStream s h st).clusterOwner = s.clusterOwner := rfl
@[simp] theorem putStream_ownOwner (s : State) (h : Hart) (st : Stream) : (putStream s h st).ownOwner = s.ownOwner := rfl
@[simp] theorem putStream_meshRetired (s : State) (h : Hart) (st : Stream) : (putStream s h st).meshRetired = s.meshRetired := rfl
@[simp] theorem putStream_wakeQueue (s : State) (h : Hart) (st : Stream) : (putStream s h st).wakeQueue = s.wakeQueue := rfl
@[simp] theorem putStream_lastWake (s : State) (h : Hart) (st : Stream) : (putStream s h st).lastWake = s.lastWake := rfl
@[simp] theorem putStream_ports (s : State) (h : Hart) (st : Stream) : (putStream s h st).ports = s.ports := rfl
@[simp] theorem putStream_encoders (s : State) (h : Hart) (st : Stream) : (putStream s h st).encoders = s.encoders := rfl
@[simp] theorem putStream_decoders (s : State) (h : Hart) (st : Stream) : (putStream s h st).decoders = s.decoders := rfl
@[simp] theorem putStream_mgmt (s : State) (h : Hart) (st : Stream) : (putStream s h st).mgmt = s.mgmt := rfl
@[simp] theorem putStream_fabric (s : State) (h : Hart) (st : Stream) : (putStream s h st).fabric = s.fabric := rfl
@[simp] theorem putStream_out (s : State) (h : Hart) (st : Stream) : (putStream s h st).out = s.out := rfl
@[simp] theorem putStream_errs (s : State) (h : Hart) (st : Stream) : (putStream s h st).errs = s.errs := rfl
@[simp] theorem putStream_platform (s : State) (h : Hart) (st : Stream) : (putStream s h st).platform = s.platform := rfl

/-! ### `modJob` -/

@[simp] theorem modJob_agenda (s : State) (k : Nat) (f : Job → Job) : (modJob s k f).agenda = s.agenda := rfl
@[simp] theorem modJob_cur (s : State) (k : Nat) (f : Job → Job) : (modJob s k f).cur = s.cur := rfl
@[simp] theorem modJob_fresh (s : State) (k : Nat) (f : Job → Job) : (modJob s k f).fresh = s.fresh := rfl
@[simp] theorem modJob_time (s : State) (k : Nat) (f : Job → Job) : (modJob s k f).time = s.time := rfl
@[simp] theorem modJob_subCycle (s : State) (k : Nat) (f : Job → Job) : (modJob s k f).subCycle = s.subCycle := rfl
@[simp] theorem modJob_dead (s : State) (k : Nat) (f : Job → Job) : (modJob s k f).dead = s.dead := rfl
@[simp] theorem modJob_ms (s : State) (k : Nat) (f : Job → Job) : (modJob s k f).ms = s.ms := rfl
@[simp] theorem modJob_strs (s : State) (k : Nat) (f : Job → Job) : (modJob s k f).strs = s.strs := rfl
@[simp] theorem modJob_jobs (s : State) (k : Nat) (f : Job → Job) : (modJob s k f).jobs = Tab.modify s.jobs k f := rfl
@[simp] theorem modJob_saved (s : State) (k : Nat) (f : Job → Job) : (modJob s k f).saved = s.saved := rfl
@[simp] theorem modJob_cores (s : State) (k : Nat) (f : Job → Job) : (modJob s k f).cores = s.cores := rfl
@[simp] theorem modJob_clusters (s : State) (k : Nat) (f : Job → Job) : (modJob s k f).clusters = s.clusters := rfl
@[simp] theorem modJob_nextJob (s : State) (k : Nat) (f : Job → Job) : (modJob s k f).nextJob = s.nextJob := rfl
@[simp] theorem modJob_parts (s : State) (k : Nat) (f : Job → Job) : (modJob s k f).parts = s.parts := rfl
@[simp] theorem modJob_pool (s : State) (k : Nat) (f : Job → Job) : (modJob s k f).pool = s.pool := rfl
@[simp] theorem modJob_streams (s : State) (k : Nat) (f : Job → Job) : (modJob s k f).streams = s.streams := rfl
@[simp] theorem modJob_ftqs (s : State) (k : Nat) (f : Job → Job) : (modJob s k f).ftqs = s.ftqs := rfl
@[simp] theorem modJob_unitOwner (s : State) (k : Nat) (f : Job → Job) : (modJob s k f).unitOwner = s.unitOwner := rfl
@[simp] theorem modJob_clusterOwner (s : State) (k : Nat) (f : Job → Job) : (modJob s k f).clusterOwner = s.clusterOwner := rfl
@[simp] theorem modJob_ownOwner (s : State) (k : Nat) (f : Job → Job) : (modJob s k f).ownOwner = s.ownOwner := rfl
@[simp] theorem modJob_meshRetired (s : State) (k : Nat) (f : Job → Job) : (modJob s k f).meshRetired = s.meshRetired := rfl
@[simp] theorem modJob_wakeQueue (s : State) (k : Nat) (f : Job → Job) : (modJob s k f).wakeQueue = s.wakeQueue := rfl
@[simp] theorem modJob_lastWake (s : State) (k : Nat) (f : Job → Job) : (modJob s k f).lastWake = s.lastWake := rfl
@[simp] theorem modJob_ports (s : State) (k : Nat) (f : Job → Job) : (modJob s k f).ports = s.ports := rfl
@[simp] theorem modJob_encoders (s : State) (k : Nat) (f : Job → Job) : (modJob s k f).encoders = s.encoders := rfl
@[simp] theorem modJob_decoders (s : State) (k : Nat) (f : Job → Job) : (modJob s k f).decoders = s.decoders := rfl
@[simp] theorem modJob_mgmt (s : State) (k : Nat) (f : Job → Job) : (modJob s k f).mgmt = s.mgmt := rfl
@[simp] theorem modJob_fabric (s : State) (k : Nat) (f : Job → Job) : (modJob s k f).fabric = s.fabric := rfl
@[simp] theorem modJob_out (s : State) (k : Nat) (f : Job → Job) : (modJob s k f).out = s.out := rfl
@[simp] theorem modJob_errs (s : State) (k : Nat) (f : Job → Job) : (modJob s k f).errs = s.errs := rfl
@[simp] theorem modJob_platform (s : State) (k : Nat) (f : Job → Job) : (modJob s k f).platform = s.platform := rfl

/-! ### `modCore` -/

@[simp] theorem modCore_agenda (s : State) (c : Nat) (f : Core → Core) : (modCore s c f).agenda = s.agenda := rfl
@[simp] theorem modCore_cur (s : State) (c : Nat) (f : Core → Core) : (modCore s c f).cur = s.cur := rfl
@[simp] theorem modCore_fresh (s : State) (c : Nat) (f : Core → Core) : (modCore s c f).fresh = s.fresh := rfl
@[simp] theorem modCore_time (s : State) (c : Nat) (f : Core → Core) : (modCore s c f).time = s.time := rfl
@[simp] theorem modCore_subCycle (s : State) (c : Nat) (f : Core → Core) : (modCore s c f).subCycle = s.subCycle := rfl
@[simp] theorem modCore_dead (s : State) (c : Nat) (f : Core → Core) : (modCore s c f).dead = s.dead := rfl
@[simp] theorem modCore_ms (s : State) (c : Nat) (f : Core → Core) : (modCore s c f).ms = s.ms := rfl
@[simp] theorem modCore_strs (s : State) (c : Nat) (f : Core → Core) : (modCore s c f).strs = s.strs := rfl
@[simp] theorem modCore_jobs (s : State) (c : Nat) (f : Core → Core) : (modCore s c f).jobs = s.jobs := rfl
@[simp] theorem modCore_saved (s : State) (c : Nat) (f : Core → Core) : (modCore s c f).saved = s.saved := rfl
@[simp] theorem modCore_cores (s : State) (c : Nat) (f : Core → Core) : (modCore s c f).cores = Tab.upd s.cores c .reset f := rfl
@[simp] theorem modCore_clusters (s : State) (c : Nat) (f : Core → Core) : (modCore s c f).clusters = s.clusters := rfl
@[simp] theorem modCore_nextJob (s : State) (c : Nat) (f : Core → Core) : (modCore s c f).nextJob = s.nextJob := rfl
@[simp] theorem modCore_parts (s : State) (c : Nat) (f : Core → Core) : (modCore s c f).parts = s.parts := rfl
@[simp] theorem modCore_pool (s : State) (c : Nat) (f : Core → Core) : (modCore s c f).pool = s.pool := rfl
@[simp] theorem modCore_streams (s : State) (c : Nat) (f : Core → Core) : (modCore s c f).streams = s.streams := rfl
@[simp] theorem modCore_ftqs (s : State) (c : Nat) (f : Core → Core) : (modCore s c f).ftqs = s.ftqs := rfl
@[simp] theorem modCore_unitOwner (s : State) (c : Nat) (f : Core → Core) : (modCore s c f).unitOwner = s.unitOwner := rfl
@[simp] theorem modCore_clusterOwner (s : State) (c : Nat) (f : Core → Core) : (modCore s c f).clusterOwner = s.clusterOwner := rfl
@[simp] theorem modCore_ownOwner (s : State) (c : Nat) (f : Core → Core) : (modCore s c f).ownOwner = s.ownOwner := rfl
@[simp] theorem modCore_meshRetired (s : State) (c : Nat) (f : Core → Core) : (modCore s c f).meshRetired = s.meshRetired := rfl
@[simp] theorem modCore_wakeQueue (s : State) (c : Nat) (f : Core → Core) : (modCore s c f).wakeQueue = s.wakeQueue := rfl
@[simp] theorem modCore_lastWake (s : State) (c : Nat) (f : Core → Core) : (modCore s c f).lastWake = s.lastWake := rfl
@[simp] theorem modCore_ports (s : State) (c : Nat) (f : Core → Core) : (modCore s c f).ports = s.ports := rfl
@[simp] theorem modCore_encoders (s : State) (c : Nat) (f : Core → Core) : (modCore s c f).encoders = s.encoders := rfl
@[simp] theorem modCore_decoders (s : State) (c : Nat) (f : Core → Core) : (modCore s c f).decoders = s.decoders := rfl
@[simp] theorem modCore_mgmt (s : State) (c : Nat) (f : Core → Core) : (modCore s c f).mgmt = s.mgmt := rfl
@[simp] theorem modCore_fabric (s : State) (c : Nat) (f : Core → Core) : (modCore s c f).fabric = s.fabric := rfl
@[simp] theorem modCore_out (s : State) (c : Nat) (f : Core → Core) : (modCore s c f).out = s.out := rfl
@[simp] theorem modCore_errs (s : State) (c : Nat) (f : Core → Core) : (modCore s c f).errs = s.errs := rfl
@[simp] theorem modCore_platform (s : State) (c : Nat) (f : Core → Core) : (modCore s c f).platform = s.platform := rfl

/-! ### `modCluster` -/

@[simp] theorem modCluster_agenda (s : State) (c : Nat) (f : Cluster → Cluster) : (modCluster s c f).agenda = s.agenda := rfl
@[simp] theorem modCluster_cur (s : State) (c : Nat) (f : Cluster → Cluster) : (modCluster s c f).cur = s.cur := rfl
@[simp] theorem modCluster_fresh (s : State) (c : Nat) (f : Cluster → Cluster) : (modCluster s c f).fresh = s.fresh := rfl
@[simp] theorem modCluster_time (s : State) (c : Nat) (f : Cluster → Cluster) : (modCluster s c f).time = s.time := rfl
@[simp] theorem modCluster_subCycle (s : State) (c : Nat) (f : Cluster → Cluster) : (modCluster s c f).subCycle = s.subCycle := rfl
@[simp] theorem modCluster_dead (s : State) (c : Nat) (f : Cluster → Cluster) : (modCluster s c f).dead = s.dead := rfl
@[simp] theorem modCluster_ms (s : State) (c : Nat) (f : Cluster → Cluster) : (modCluster s c f).ms = s.ms := rfl
@[simp] theorem modCluster_strs (s : State) (c : Nat) (f : Cluster → Cluster) : (modCluster s c f).strs = s.strs := rfl
@[simp] theorem modCluster_jobs (s : State) (c : Nat) (f : Cluster → Cluster) : (modCluster s c f).jobs = s.jobs := rfl
@[simp] theorem modCluster_saved (s : State) (c : Nat) (f : Cluster → Cluster) : (modCluster s c f).saved = s.saved := rfl
@[simp] theorem modCluster_cores (s : State) (c : Nat) (f : Cluster → Cluster) : (modCluster s c f).cores = s.cores := rfl
@[simp] theorem modCluster_clusters (s : State) (c : Nat) (f : Cluster → Cluster) : (modCluster s c f).clusters = Tab.upd s.clusters c .reset f := rfl
@[simp] theorem modCluster_nextJob (s : State) (c : Nat) (f : Cluster → Cluster) : (modCluster s c f).nextJob = s.nextJob := rfl
@[simp] theorem modCluster_parts (s : State) (c : Nat) (f : Cluster → Cluster) : (modCluster s c f).parts = s.parts := rfl
@[simp] theorem modCluster_pool (s : State) (c : Nat) (f : Cluster → Cluster) : (modCluster s c f).pool = s.pool := rfl
@[simp] theorem modCluster_streams (s : State) (c : Nat) (f : Cluster → Cluster) : (modCluster s c f).streams = s.streams := rfl
@[simp] theorem modCluster_ftqs (s : State) (c : Nat) (f : Cluster → Cluster) : (modCluster s c f).ftqs = s.ftqs := rfl
@[simp] theorem modCluster_unitOwner (s : State) (c : Nat) (f : Cluster → Cluster) : (modCluster s c f).unitOwner = s.unitOwner := rfl
@[simp] theorem modCluster_clusterOwner (s : State) (c : Nat) (f : Cluster → Cluster) : (modCluster s c f).clusterOwner = s.clusterOwner := rfl
@[simp] theorem modCluster_ownOwner (s : State) (c : Nat) (f : Cluster → Cluster) : (modCluster s c f).ownOwner = s.ownOwner := rfl
@[simp] theorem modCluster_meshRetired (s : State) (c : Nat) (f : Cluster → Cluster) : (modCluster s c f).meshRetired = s.meshRetired := rfl
@[simp] theorem modCluster_wakeQueue (s : State) (c : Nat) (f : Cluster → Cluster) : (modCluster s c f).wakeQueue = s.wakeQueue := rfl
@[simp] theorem modCluster_lastWake (s : State) (c : Nat) (f : Cluster → Cluster) : (modCluster s c f).lastWake = s.lastWake := rfl
@[simp] theorem modCluster_ports (s : State) (c : Nat) (f : Cluster → Cluster) : (modCluster s c f).ports = s.ports := rfl
@[simp] theorem modCluster_encoders (s : State) (c : Nat) (f : Cluster → Cluster) : (modCluster s c f).encoders = s.encoders := rfl
@[simp] theorem modCluster_decoders (s : State) (c : Nat) (f : Cluster → Cluster) : (modCluster s c f).decoders = s.decoders := rfl
@[simp] theorem modCluster_mgmt (s : State) (c : Nat) (f : Cluster → Cluster) : (modCluster s c f).mgmt = s.mgmt := rfl
@[simp] theorem modCluster_fabric (s : State) (c : Nat) (f : Cluster → Cluster) : (modCluster s c f).fabric = s.fabric := rfl
@[simp] theorem modCluster_out (s : State) (c : Nat) (f : Cluster → Cluster) : (modCluster s c f).out = s.out := rfl
@[simp] theorem modCluster_errs (s : State) (c : Nat) (f : Cluster → Cluster) : (modCluster s c f).errs = s.errs := rfl
@[simp] theorem modCluster_platform (s : State) (c : Nat) (f : Cluster → Cluster) : (modCluster s c f).platform = s.platform := rfl

/-! ### `modPart` -/

@[simp] theorem modPart_agenda (s : State) (p : Nat) (f : Part → Part) : (modPart s p f).agenda = s.agenda := rfl
@[simp] theorem modPart_cur (s : State) (p : Nat) (f : Part → Part) : (modPart s p f).cur = s.cur := rfl
@[simp] theorem modPart_fresh (s : State) (p : Nat) (f : Part → Part) : (modPart s p f).fresh = s.fresh := rfl
@[simp] theorem modPart_time (s : State) (p : Nat) (f : Part → Part) : (modPart s p f).time = s.time := rfl
@[simp] theorem modPart_subCycle (s : State) (p : Nat) (f : Part → Part) : (modPart s p f).subCycle = s.subCycle := rfl
@[simp] theorem modPart_dead (s : State) (p : Nat) (f : Part → Part) : (modPart s p f).dead = s.dead := rfl
@[simp] theorem modPart_ms (s : State) (p : Nat) (f : Part → Part) : (modPart s p f).ms = s.ms := rfl
@[simp] theorem modPart_strs (s : State) (p : Nat) (f : Part → Part) : (modPart s p f).strs = s.strs := rfl
@[simp] theorem modPart_jobs (s : State) (p : Nat) (f : Part → Part) : (modPart s p f).jobs = s.jobs := rfl
@[simp] theorem modPart_saved (s : State) (p : Nat) (f : Part → Part) : (modPart s p f).saved = s.saved := rfl
@[simp] theorem modPart_cores (s : State) (p : Nat) (f : Part → Part) : (modPart s p f).cores = s.cores := rfl
@[simp] theorem modPart_clusters (s : State) (p : Nat) (f : Part → Part) : (modPart s p f).clusters = s.clusters := rfl
@[simp] theorem modPart_nextJob (s : State) (p : Nat) (f : Part → Part) : (modPart s p f).nextJob = s.nextJob := rfl
@[simp] theorem modPart_parts (s : State) (p : Nat) (f : Part → Part) : (modPart s p f).parts = Tab.upd s.parts p .reset f := rfl
@[simp] theorem modPart_pool (s : State) (p : Nat) (f : Part → Part) : (modPart s p f).pool = s.pool := rfl
@[simp] theorem modPart_streams (s : State) (p : Nat) (f : Part → Part) : (modPart s p f).streams = s.streams := rfl
@[simp] theorem modPart_ftqs (s : State) (p : Nat) (f : Part → Part) : (modPart s p f).ftqs = s.ftqs := rfl
@[simp] theorem modPart_unitOwner (s : State) (p : Nat) (f : Part → Part) : (modPart s p f).unitOwner = s.unitOwner := rfl
@[simp] theorem modPart_clusterOwner (s : State) (p : Nat) (f : Part → Part) : (modPart s p f).clusterOwner = s.clusterOwner := rfl
@[simp] theorem modPart_ownOwner (s : State) (p : Nat) (f : Part → Part) : (modPart s p f).ownOwner = s.ownOwner := rfl
@[simp] theorem modPart_meshRetired (s : State) (p : Nat) (f : Part → Part) : (modPart s p f).meshRetired = s.meshRetired := rfl
@[simp] theorem modPart_wakeQueue (s : State) (p : Nat) (f : Part → Part) : (modPart s p f).wakeQueue = s.wakeQueue := rfl
@[simp] theorem modPart_lastWake (s : State) (p : Nat) (f : Part → Part) : (modPart s p f).lastWake = s.lastWake := rfl
@[simp] theorem modPart_ports (s : State) (p : Nat) (f : Part → Part) : (modPart s p f).ports = s.ports := rfl
@[simp] theorem modPart_encoders (s : State) (p : Nat) (f : Part → Part) : (modPart s p f).encoders = s.encoders := rfl
@[simp] theorem modPart_decoders (s : State) (p : Nat) (f : Part → Part) : (modPart s p f).decoders = s.decoders := rfl
@[simp] theorem modPart_mgmt (s : State) (p : Nat) (f : Part → Part) : (modPart s p f).mgmt = s.mgmt := rfl
@[simp] theorem modPart_fabric (s : State) (p : Nat) (f : Part → Part) : (modPart s p f).fabric = s.fabric := rfl
@[simp] theorem modPart_out (s : State) (p : Nat) (f : Part → Part) : (modPart s p f).out = s.out := rfl
@[simp] theorem modPart_errs (s : State) (p : Nat) (f : Part → Part) : (modPart s p f).errs = s.errs := rfl
@[simp] theorem modPart_platform (s : State) (p : Nat) (f : Part → Part) : (modPart s p f).platform = s.platform := rfl

/-! ### `modLaunch` -/

@[simp] theorem modLaunch_agenda (s : State) (i : Nat) (f : Launch → Launch) : (modLaunch s i f).agenda = s.agenda := rfl
@[simp] theorem modLaunch_cur (s : State) (i : Nat) (f : Launch → Launch) : (modLaunch s i f).cur = s.cur := rfl
@[simp] theorem modLaunch_fresh (s : State) (i : Nat) (f : Launch → Launch) : (modLaunch s i f).fresh = s.fresh := rfl
@[simp] theorem modLaunch_time (s : State) (i : Nat) (f : Launch → Launch) : (modLaunch s i f).time = s.time := rfl
@[simp] theorem modLaunch_subCycle (s : State) (i : Nat) (f : Launch → Launch) : (modLaunch s i f).subCycle = s.subCycle := rfl
@[simp] theorem modLaunch_dead (s : State) (i : Nat) (f : Launch → Launch) : (modLaunch s i f).dead = s.dead := rfl
@[simp] theorem modLaunch_ms (s : State) (i : Nat) (f : Launch → Launch) : (modLaunch s i f).ms = s.ms := rfl
@[simp] theorem modLaunch_strs (s : State) (i : Nat) (f : Launch → Launch) : (modLaunch s i f).strs = s.strs := rfl
@[simp] theorem modLaunch_jobs (s : State) (i : Nat) (f : Launch → Launch) : (modLaunch s i f).jobs = s.jobs := rfl
@[simp] theorem modLaunch_saved (s : State) (i : Nat) (f : Launch → Launch) : (modLaunch s i f).saved = s.saved := rfl
@[simp] theorem modLaunch_cores (s : State) (i : Nat) (f : Launch → Launch) : (modLaunch s i f).cores = s.cores := rfl
@[simp] theorem modLaunch_clusters (s : State) (i : Nat) (f : Launch → Launch) : (modLaunch s i f).clusters = s.clusters := rfl
@[simp] theorem modLaunch_nextJob (s : State) (i : Nat) (f : Launch → Launch) : (modLaunch s i f).nextJob = s.nextJob := rfl
@[simp] theorem modLaunch_parts (s : State) (i : Nat) (f : Launch → Launch) : (modLaunch s i f).parts = s.parts := rfl
@[simp] theorem modLaunch_pool (s : State) (i : Nat) (f : Launch → Launch) : (modLaunch s i f).pool = Tab.upd s.pool i .reset f := rfl
@[simp] theorem modLaunch_streams (s : State) (i : Nat) (f : Launch → Launch) : (modLaunch s i f).streams = s.streams := rfl
@[simp] theorem modLaunch_ftqs (s : State) (i : Nat) (f : Launch → Launch) : (modLaunch s i f).ftqs = s.ftqs := rfl
@[simp] theorem modLaunch_unitOwner (s : State) (i : Nat) (f : Launch → Launch) : (modLaunch s i f).unitOwner = s.unitOwner := rfl
@[simp] theorem modLaunch_clusterOwner (s : State) (i : Nat) (f : Launch → Launch) : (modLaunch s i f).clusterOwner = s.clusterOwner := rfl
@[simp] theorem modLaunch_ownOwner (s : State) (i : Nat) (f : Launch → Launch) : (modLaunch s i f).ownOwner = s.ownOwner := rfl
@[simp] theorem modLaunch_meshRetired (s : State) (i : Nat) (f : Launch → Launch) : (modLaunch s i f).meshRetired = s.meshRetired := rfl
@[simp] theorem modLaunch_wakeQueue (s : State) (i : Nat) (f : Launch → Launch) : (modLaunch s i f).wakeQueue = s.wakeQueue := rfl
@[simp] theorem modLaunch_lastWake (s : State) (i : Nat) (f : Launch → Launch) : (modLaunch s i f).lastWake = s.lastWake := rfl
@[simp] theorem modLaunch_ports (s : State) (i : Nat) (f : Launch → Launch) : (modLaunch s i f).ports = s.ports := rfl
@[simp] theorem modLaunch_encoders (s : State) (i : Nat) (f : Launch → Launch) : (modLaunch s i f).encoders = s.encoders := rfl
@[simp] theorem modLaunch_decoders (s : State) (i : Nat) (f : Launch → Launch) : (modLaunch s i f).decoders = s.decoders := rfl
@[simp] theorem modLaunch_mgmt (s : State) (i : Nat) (f : Launch → Launch) : (modLaunch s i f).mgmt = s.mgmt := rfl
@[simp] theorem modLaunch_fabric (s : State) (i : Nat) (f : Launch → Launch) : (modLaunch s i f).fabric = s.fabric := rfl
@[simp] theorem modLaunch_out (s : State) (i : Nat) (f : Launch → Launch) : (modLaunch s i f).out = s.out := rfl
@[simp] theorem modLaunch_errs (s : State) (i : Nat) (f : Launch → Launch) : (modLaunch s i f).errs = s.errs := rfl
@[simp] theorem modLaunch_platform (s : State) (i : Nat) (f : Launch → Launch) : (modLaunch s i f).platform = s.platform := rfl

/-! ### `modSdesc` -/

@[simp] theorem modSdesc_agenda (s : State) (i : Nat) (f : StreamDesc → StreamDesc) : (modSdesc s i f).agenda = s.agenda := rfl
@[simp] theorem modSdesc_cur (s : State) (i : Nat) (f : StreamDesc → StreamDesc) : (modSdesc s i f).cur = s.cur := rfl
@[simp] theorem modSdesc_fresh (s : State) (i : Nat) (f : StreamDesc → StreamDesc) : (modSdesc s i f).fresh = s.fresh := rfl
@[simp] theorem modSdesc_time (s : State) (i : Nat) (f : StreamDesc → StreamDesc) : (modSdesc s i f).time = s.time := rfl
@[simp] theorem modSdesc_subCycle (s : State) (i : Nat) (f : StreamDesc → StreamDesc) : (modSdesc s i f).subCycle = s.subCycle := rfl
@[simp] theorem modSdesc_dead (s : State) (i : Nat) (f : StreamDesc → StreamDesc) : (modSdesc s i f).dead = s.dead := rfl
@[simp] theorem modSdesc_ms (s : State) (i : Nat) (f : StreamDesc → StreamDesc) : (modSdesc s i f).ms = s.ms := rfl
@[simp] theorem modSdesc_strs (s : State) (i : Nat) (f : StreamDesc → StreamDesc) : (modSdesc s i f).strs = s.strs := rfl
@[simp] theorem modSdesc_jobs (s : State) (i : Nat) (f : StreamDesc → StreamDesc) : (modSdesc s i f).jobs = s.jobs := rfl
@[simp] theorem modSdesc_saved (s : State) (i : Nat) (f : StreamDesc → StreamDesc) : (modSdesc s i f).saved = s.saved := rfl
@[simp] theorem modSdesc_cores (s : State) (i : Nat) (f : StreamDesc → StreamDesc) : (modSdesc s i f).cores = s.cores := rfl
@[simp] theorem modSdesc_clusters (s : State) (i : Nat) (f : StreamDesc → StreamDesc) : (modSdesc s i f).clusters = s.clusters := rfl
@[simp] theorem modSdesc_nextJob (s : State) (i : Nat) (f : StreamDesc → StreamDesc) : (modSdesc s i f).nextJob = s.nextJob := rfl
@[simp] theorem modSdesc_parts (s : State) (i : Nat) (f : StreamDesc → StreamDesc) : (modSdesc s i f).parts = s.parts := rfl
@[simp] theorem modSdesc_pool (s : State) (i : Nat) (f : StreamDesc → StreamDesc) : (modSdesc s i f).pool = s.pool := rfl
@[simp] theorem modSdesc_streams (s : State) (i : Nat) (f : StreamDesc → StreamDesc) : (modSdesc s i f).streams = Tab.upd s.streams i .reset f := rfl
@[simp] theorem modSdesc_ftqs (s : State) (i : Nat) (f : StreamDesc → StreamDesc) : (modSdesc s i f).ftqs = s.ftqs := rfl
@[simp] theorem modSdesc_unitOwner (s : State) (i : Nat) (f : StreamDesc → StreamDesc) : (modSdesc s i f).unitOwner = s.unitOwner := rfl
@[simp] theorem modSdesc_clusterOwner (s : State) (i : Nat) (f : StreamDesc → StreamDesc) : (modSdesc s i f).clusterOwner = s.clusterOwner := rfl
@[simp] theorem modSdesc_ownOwner (s : State) (i : Nat) (f : StreamDesc → StreamDesc) : (modSdesc s i f).ownOwner = s.ownOwner := rfl
@[simp] theorem modSdesc_meshRetired (s : State) (i : Nat) (f : StreamDesc → StreamDesc) : (modSdesc s i f).meshRetired = s.meshRetired := rfl
@[simp] theorem modSdesc_wakeQueue (s : State) (i : Nat) (f : StreamDesc → StreamDesc) : (modSdesc s i f).wakeQueue = s.wakeQueue := rfl
@[simp] theorem modSdesc_lastWake (s : State) (i : Nat) (f : StreamDesc → StreamDesc) : (modSdesc s i f).lastWake = s.lastWake := rfl
@[simp] theorem modSdesc_ports (s : State) (i : Nat) (f : StreamDesc → StreamDesc) : (modSdesc s i f).ports = s.ports := rfl
@[simp] theorem modSdesc_encoders (s : State) (i : Nat) (f : StreamDesc → StreamDesc) : (modSdesc s i f).encoders = s.encoders := rfl
@[simp] theorem modSdesc_decoders (s : State) (i : Nat) (f : StreamDesc → StreamDesc) : (modSdesc s i f).decoders = s.decoders := rfl
@[simp] theorem modSdesc_mgmt (s : State) (i : Nat) (f : StreamDesc → StreamDesc) : (modSdesc s i f).mgmt = s.mgmt := rfl
@[simp] theorem modSdesc_fabric (s : State) (i : Nat) (f : StreamDesc → StreamDesc) : (modSdesc s i f).fabric = s.fabric := rfl
@[simp] theorem modSdesc_out (s : State) (i : Nat) (f : StreamDesc → StreamDesc) : (modSdesc s i f).out = s.out := rfl
@[simp] theorem modSdesc_errs (s : State) (i : Nat) (f : StreamDesc → StreamDesc) : (modSdesc s i f).errs = s.errs := rfl
@[simp] theorem modSdesc_platform (s : State) (i : Nat) (f : StreamDesc → StreamDesc) : (modSdesc s i f).platform = s.platform := rfl

/-! ### `modFtq` -/

@[simp] theorem modFtq_agenda (s : State) (i : Nat) (f : FrameTileQueue → FrameTileQueue) : (modFtq s i f).agenda = s.agenda := rfl
@[simp] theorem modFtq_cur (s : State) (i : Nat) (f : FrameTileQueue → FrameTileQueue) : (modFtq s i f).cur = s.cur := rfl
@[simp] theorem modFtq_fresh (s : State) (i : Nat) (f : FrameTileQueue → FrameTileQueue) : (modFtq s i f).fresh = s.fresh := rfl
@[simp] theorem modFtq_time (s : State) (i : Nat) (f : FrameTileQueue → FrameTileQueue) : (modFtq s i f).time = s.time := rfl
@[simp] theorem modFtq_subCycle (s : State) (i : Nat) (f : FrameTileQueue → FrameTileQueue) : (modFtq s i f).subCycle = s.subCycle := rfl
@[simp] theorem modFtq_dead (s : State) (i : Nat) (f : FrameTileQueue → FrameTileQueue) : (modFtq s i f).dead = s.dead := rfl
@[simp] theorem modFtq_ms (s : State) (i : Nat) (f : FrameTileQueue → FrameTileQueue) : (modFtq s i f).ms = s.ms := rfl
@[simp] theorem modFtq_strs (s : State) (i : Nat) (f : FrameTileQueue → FrameTileQueue) : (modFtq s i f).strs = s.strs := rfl
@[simp] theorem modFtq_jobs (s : State) (i : Nat) (f : FrameTileQueue → FrameTileQueue) : (modFtq s i f).jobs = s.jobs := rfl
@[simp] theorem modFtq_saved (s : State) (i : Nat) (f : FrameTileQueue → FrameTileQueue) : (modFtq s i f).saved = s.saved := rfl
@[simp] theorem modFtq_cores (s : State) (i : Nat) (f : FrameTileQueue → FrameTileQueue) : (modFtq s i f).cores = s.cores := rfl
@[simp] theorem modFtq_clusters (s : State) (i : Nat) (f : FrameTileQueue → FrameTileQueue) : (modFtq s i f).clusters = s.clusters := rfl
@[simp] theorem modFtq_nextJob (s : State) (i : Nat) (f : FrameTileQueue → FrameTileQueue) : (modFtq s i f).nextJob = s.nextJob := rfl
@[simp] theorem modFtq_parts (s : State) (i : Nat) (f : FrameTileQueue → FrameTileQueue) : (modFtq s i f).parts = s.parts := rfl
@[simp] theorem modFtq_pool (s : State) (i : Nat) (f : FrameTileQueue → FrameTileQueue) : (modFtq s i f).pool = s.pool := rfl
@[simp] theorem modFtq_streams (s : State) (i : Nat) (f : FrameTileQueue → FrameTileQueue) : (modFtq s i f).streams = s.streams := rfl
@[simp] theorem modFtq_ftqs (s : State) (i : Nat) (f : FrameTileQueue → FrameTileQueue) : (modFtq s i f).ftqs = Tab.upd s.ftqs i .reset f := rfl
@[simp] theorem modFtq_unitOwner (s : State) (i : Nat) (f : FrameTileQueue → FrameTileQueue) : (modFtq s i f).unitOwner = s.unitOwner := rfl
@[simp] theorem modFtq_clusterOwner (s : State) (i : Nat) (f : FrameTileQueue → FrameTileQueue) : (modFtq s i f).clusterOwner = s.clusterOwner := rfl
@[simp] theorem modFtq_ownOwner (s : State) (i : Nat) (f : FrameTileQueue → FrameTileQueue) : (modFtq s i f).ownOwner = s.ownOwner := rfl
@[simp] theorem modFtq_meshRetired (s : State) (i : Nat) (f : FrameTileQueue → FrameTileQueue) : (modFtq s i f).meshRetired = s.meshRetired := rfl
@[simp] theorem modFtq_wakeQueue (s : State) (i : Nat) (f : FrameTileQueue → FrameTileQueue) : (modFtq s i f).wakeQueue = s.wakeQueue := rfl
@[simp] theorem modFtq_lastWake (s : State) (i : Nat) (f : FrameTileQueue → FrameTileQueue) : (modFtq s i f).lastWake = s.lastWake := rfl
@[simp] theorem modFtq_ports (s : State) (i : Nat) (f : FrameTileQueue → FrameTileQueue) : (modFtq s i f).ports = s.ports := rfl
@[simp] theorem modFtq_encoders (s : State) (i : Nat) (f : FrameTileQueue → FrameTileQueue) : (modFtq s i f).encoders = s.encoders := rfl
@[simp] theorem modFtq_decoders (s : State) (i : Nat) (f : FrameTileQueue → FrameTileQueue) : (modFtq s i f).decoders = s.decoders := rfl
@[simp] theorem modFtq_mgmt (s : State) (i : Nat) (f : FrameTileQueue → FrameTileQueue) : (modFtq s i f).mgmt = s.mgmt := rfl
@[simp] theorem modFtq_fabric (s : State) (i : Nat) (f : FrameTileQueue → FrameTileQueue) : (modFtq s i f).fabric = s.fabric := rfl
@[simp] theorem modFtq_out (s : State) (i : Nat) (f : FrameTileQueue → FrameTileQueue) : (modFtq s i f).out = s.out := rfl
@[simp] theorem modFtq_errs (s : State) (i : Nat) (f : FrameTileQueue → FrameTileQueue) : (modFtq s i f).errs = s.errs := rfl
@[simp] theorem modFtq_platform (s : State) (i : Nat) (f : FrameTileQueue → FrameTileQueue) : (modFtq s i f).platform = s.platform := rfl

/-! ### `modMs` -/

@[simp] theorem modMs_agenda (s : State) (f : MemSys → MemSys) : (modMs s f).agenda = s.agenda := rfl
@[simp] theorem modMs_cur (s : State) (f : MemSys → MemSys) : (modMs s f).cur = s.cur := rfl
@[simp] theorem modMs_fresh (s : State) (f : MemSys → MemSys) : (modMs s f).fresh = s.fresh := rfl
@[simp] theorem modMs_time (s : State) (f : MemSys → MemSys) : (modMs s f).time = s.time := rfl
@[simp] theorem modMs_subCycle (s : State) (f : MemSys → MemSys) : (modMs s f).subCycle = s.subCycle := rfl
@[simp] theorem modMs_dead (s : State) (f : MemSys → MemSys) : (modMs s f).dead = s.dead := rfl
@[simp] theorem modMs_ms (s : State) (f : MemSys → MemSys) : (modMs s f).ms = f s.ms := rfl
@[simp] theorem modMs_strs (s : State) (f : MemSys → MemSys) : (modMs s f).strs = s.strs := rfl
@[simp] theorem modMs_jobs (s : State) (f : MemSys → MemSys) : (modMs s f).jobs = s.jobs := rfl
@[simp] theorem modMs_saved (s : State) (f : MemSys → MemSys) : (modMs s f).saved = s.saved := rfl
@[simp] theorem modMs_cores (s : State) (f : MemSys → MemSys) : (modMs s f).cores = s.cores := rfl
@[simp] theorem modMs_clusters (s : State) (f : MemSys → MemSys) : (modMs s f).clusters = s.clusters := rfl
@[simp] theorem modMs_nextJob (s : State) (f : MemSys → MemSys) : (modMs s f).nextJob = s.nextJob := rfl
@[simp] theorem modMs_parts (s : State) (f : MemSys → MemSys) : (modMs s f).parts = s.parts := rfl
@[simp] theorem modMs_pool (s : State) (f : MemSys → MemSys) : (modMs s f).pool = s.pool := rfl
@[simp] theorem modMs_streams (s : State) (f : MemSys → MemSys) : (modMs s f).streams = s.streams := rfl
@[simp] theorem modMs_ftqs (s : State) (f : MemSys → MemSys) : (modMs s f).ftqs = s.ftqs := rfl
@[simp] theorem modMs_unitOwner (s : State) (f : MemSys → MemSys) : (modMs s f).unitOwner = s.unitOwner := rfl
@[simp] theorem modMs_clusterOwner (s : State) (f : MemSys → MemSys) : (modMs s f).clusterOwner = s.clusterOwner := rfl
@[simp] theorem modMs_ownOwner (s : State) (f : MemSys → MemSys) : (modMs s f).ownOwner = s.ownOwner := rfl
@[simp] theorem modMs_meshRetired (s : State) (f : MemSys → MemSys) : (modMs s f).meshRetired = s.meshRetired := rfl
@[simp] theorem modMs_wakeQueue (s : State) (f : MemSys → MemSys) : (modMs s f).wakeQueue = s.wakeQueue := rfl
@[simp] theorem modMs_lastWake (s : State) (f : MemSys → MemSys) : (modMs s f).lastWake = s.lastWake := rfl
@[simp] theorem modMs_ports (s : State) (f : MemSys → MemSys) : (modMs s f).ports = s.ports := rfl
@[simp] theorem modMs_encoders (s : State) (f : MemSys → MemSys) : (modMs s f).encoders = s.encoders := rfl
@[simp] theorem modMs_decoders (s : State) (f : MemSys → MemSys) : (modMs s f).decoders = s.decoders := rfl
@[simp] theorem modMs_mgmt (s : State) (f : MemSys → MemSys) : (modMs s f).mgmt = s.mgmt := rfl
@[simp] theorem modMs_fabric (s : State) (f : MemSys → MemSys) : (modMs s f).fabric = s.fabric := rfl
@[simp] theorem modMs_out (s : State) (f : MemSys → MemSys) : (modMs s f).out = s.out := rfl
@[simp] theorem modMs_errs (s : State) (f : MemSys → MemSys) : (modMs s f).errs = s.errs := rfl
@[simp] theorem modMs_platform (s : State) (f : MemSys → MemSys) : (modMs s f).platform = s.platform := rfl

/-! ### What the named pieces read after an update -/

/-- A stream that is there, after a change of it. -/
theorem getStream_modStream_self (s : State) (h : Hart) (f : Stream → Stream) (st : Stream)
    (e : Tab.get? s.strs (hartKey h) = some st) : getStream (modStream s h f) h = f st := by
  simp [getStream, Tab.getD, Tab.get?_modify_self, e]

/-- Another stream, after a change of one. -/
theorem getStream_modStream_ne (s : State) (h g : Hart) (f : Stream → Stream) (e : hartKey g ≠ hartKey h) :
    getStream (modStream s h f) g = getStream s g := by
  simp [getStream, Tab.getD, Tab.get?_modify_ne _ _ _ _ e]

theorem getJob_modJob_self (s : State) (k : Nat) (f : Job → Job) (j : Job) (e : Tab.get? s.jobs k = some j) :
    getJob (modJob s k f) k = f j := by
  simp [getJob, Tab.getD, Tab.get?_modify_self, e]

theorem getJob_modJob_ne (s : State) (k l : Nat) (f : Job → Job) (e : l ≠ k) :
    getJob (modJob s k f) l = getJob s l := by
  simp [getJob, Tab.getD, Tab.get?_modify_ne _ _ _ _ e]

@[simp] theorem getJob_modStream (s : State) (h : Hart) (f : Stream → Stream) (k : Nat) :
    getJob (modStream s h f) k = getJob s k := rfl

@[simp] theorem getStream_modJob (s : State) (k : Nat) (f : Job → Job) (h : Hart) :
    getStream (modJob s k f) h = getStream s h := rfl

@[simp] theorem getCore_modCore_self (s : State) (k : Nat) (f : Core → Core) : getCore (modCore s k f) k = f (getCore s k) := by
  simp [getCore]

theorem getCore_modCore_ne (s : State) (k l : Nat) (f : Core → Core) (e : l ≠ k) : getCore (modCore s k f) l = getCore s l := by
  simp [getCore, Tab.getD_upd_ne _ _ _ _ _ _ e]

@[simp] theorem getCluster_modCluster_self (s : State) (k : Nat) (f : Cluster → Cluster) : getCluster (modCluster s k f) k = f (getCluster s k) := by
  simp [getCluster]

theorem getCluster_modCluster_ne (s : State) (k l : Nat) (f : Cluster → Cluster) (e : l ≠ k) : getCluster (modCluster s k f) l = getCluster s l := by
  simp [getCluster, Tab.getD_upd_ne _ _ _ _ _ _ e]

@[simp] theorem getPart_modPart_self (s : State) (k : Nat) (f : Part → Part) : getPart (modPart s k f) k = f (getPart s k) := by
  simp [getPart]

theorem getPart_modPart_ne (s : State) (k l : Nat) (f : Part → Part) (e : l ≠ k) : getPart (modPart s k f) l = getPart s l := by
  simp [getPart, Tab.getD_upd_ne _ _ _ _ _ _ e]

@[simp] theorem getLaunch_modLaunch_self (s : State) (k : Nat) (f : Launch → Launch) : getLaunch (modLaunch s k f) k = f (getLaunch s k) := by
  simp [getLaunch]

theorem getLaunch_modLaunch_ne (s : State) (k l : Nat) (f : Launch → Launch) (e : l ≠ k) : getLaunch (modLaunch s k f) l = getLaunch s l := by
  simp [getLaunch, Tab.getD_upd_ne _ _ _ _ _ _ e]

@[simp] theorem getSdesc_modSdesc_self (s : State) (k : Nat) (f : StreamDesc → StreamDesc) : getSdesc (modSdesc s k f) k = f (getSdesc s k) := by
  simp [getSdesc]

theorem getSdesc_modSdesc_ne (s : State) (k l : Nat) (f : StreamDesc → StreamDesc) (e : l ≠ k) : getSdesc (modSdesc s k f) l = getSdesc s l := by
  simp [getSdesc, Tab.getD_upd_ne _ _ _ _ _ _ e]

@[simp] theorem getFtq_modFtq_self (s : State) (k : Nat) (f : FrameTileQueue → FrameTileQueue) : getFtq (modFtq s k f) k = f (getFtq s k) := by
  simp [getFtq]

theorem getFtq_modFtq_ne (s : State) (k l : Nat) (f : FrameTileQueue → FrameTileQueue) (e : l ≠ k) : getFtq (modFtq s k f) l = getFtq s l := by
  simp [getFtq, Tab.getD_upd_ne _ _ _ _ _ _ e]

@[simp] theorem getCore_modStream (s : State) (h : Hart) (f : Stream → Stream) (g : Nat) : getCore (modStream s h f) g = getCore s g := rfl
@[simp] theorem getCluster_modStream (s : State) (h : Hart) (f : Stream → Stream) (g : Nat) : getCluster (modStream s h f) g = getCluster s g := rfl
@[simp] theorem getPart_modStream (s : State) (h : Hart) (f : Stream → Stream) (g : Nat) : getPart (modStream s h f) g = getPart s g := rfl
@[simp] theorem getLaunch_modStream (s : State) (h : Hart) (f : Stream → Stream) (g : Nat) : getLaunch (modStream s h f) g = getLaunch s g := rfl
@[simp] theorem getSdesc_modStream (s : State) (h : Hart) (f : Stream → Stream) (g : Nat) : getSdesc (modStream s h f) g = getSdesc s g := rfl
@[simp] theorem getFtq_modStream (s : State) (h : Hart) (f : Stream → Stream) (g : Nat) : getFtq (modStream s h f) g = getFtq s g := rfl
@[simp] theorem getJob_putStream (s : State) (h : Hart) (st : Stream) (g : Nat) : getJob (putStream s h st) g = getJob s g := rfl
@[simp] theorem getCore_putStream (s : State) (h : Hart) (st : Stream) (g : Nat) : getCore (putStream s h st) g = getCore s g := rfl
@[simp] theorem getCluster_putStream (s : State) (h : Hart) (st : Stream) (g : Nat) : getCluster (putStream s h st) g = getCluster s g := rfl
@[simp] theorem getPart_putStream (s : State) (h : Hart) (st : Stream) (g : Nat) : getPart (putStream s h st) g = getPart s g := rfl
@[simp] theorem getLaunch_putStream (s : State) (h : Hart) (st : Stream) (g : Nat) : getLaunch (putStream s h st) g = getLaunch s g := rfl
@[simp] theorem getSdesc_putStream (s : State) (h : Hart) (st : Stream) (g : Nat) : getSdesc (putStream s h st) g = getSdesc s g := rfl
@[simp] theorem getFtq_putStream (s : State) (h : Hart) (st : Stream) (g : Nat) : getFtq (putStream s h st) g = getFtq s g := rfl
@[simp] theorem getCore_modJob (s : State) (k : Nat) (f : Job → Job) (g : Nat) : getCore (modJob s k f) g = getCore s g := rfl
@[simp] theorem getCluster_modJob (s : State) (k : Nat) (f : Job → Job) (g : Nat) : getCluster (modJob s k f) g = getCluster s g := rfl
@[simp] theorem getPart_modJob (s : State) (k : Nat) (f : Job → Job) (g : Nat) : getPart (modJob s k f) g = getPart s g := rfl
@[simp] theorem getLaunch_modJob (s : State) (k : Nat) (f : Job → Job) (g : Nat) : getLaunch (modJob s k f) g = getLaunch s g := rfl
@[simp] theorem getSdesc_modJob (s : State) (k : Nat) (f : Job → Job) (g : Nat) : getSdesc (modJob s k f) g = getSdesc s g := rfl
@[simp] theorem getFtq_modJob (s : State) (k : Nat) (f : Job → Job) (g : Nat) : getFtq (modJob s k f) g = getFtq s g := rfl
@[simp] theorem getStream_modCore (s : State) (c : Nat) (f : Core → Core) (g : Hart) : getStream (modCore s c f) g = getStream s g := rfl
@[simp] theorem getJob_modCore (s : State) (c : Nat) (f : Core → Core) (g : Nat) : getJob (modCore s c f) g = getJob s g := rfl
@[simp] theorem getCluster_modCore (s : State) (c : Nat) (f : Core → Core) (g : Nat) : getCluster (modCore s c f) g = getCluster s g := rfl
@[simp] theorem getPart_modCore (s : State) (c : Nat) (f : Core → Core) (g : Nat) : getPart (modCore s c f) g = getPart s g := rfl
@[simp] theorem getLaunch_modCore (s : State) (c : Nat) (f : Core → Core) (g : Nat) : getLaunch (modCore s c f) g = getLaunch s g := rfl
@[simp] theorem getSdesc_modCore (s : State) (c : Nat) (f : Core → Core) (g : Nat) : getSdesc (modCore s c f) g = getSdesc s g := rfl
@[simp] theorem getFtq_modCore (s : State) (c : Nat) (f : Core → Core) (g : Nat) : getFtq (modCore s c f) g = getFtq s g := rfl
@[simp] theorem getStream_modCluster (s : State) (c : Nat) (f : Cluster → Cluster) (g : Hart) : getStream (modCluster s c f) g = getStream s g := rfl
@[simp] theorem getJob_modCluster (s : State) (c : Nat) (f : Cluster → Cluster) (g : Nat) : getJob (modCluster s c f) g = getJob s g := rfl
@[simp] theorem getCore_modCluster (s : State) (c : Nat) (f : Cluster → Cluster) (g : Nat) : getCore (modCluster s c f) g = getCore s g := rfl
@[simp] theorem getPart_modCluster (s : State) (c : Nat) (f : Cluster → Cluster) (g : Nat) : getPart (modCluster s c f) g = getPart s g := rfl
@[simp] theorem getLaunch_modCluster (s : State) (c : Nat) (f : Cluster → Cluster) (g : Nat) : getLaunch (modCluster s c f) g = getLaunch s g := rfl
@[simp] theorem getSdesc_modCluster (s : State) (c : Nat) (f : Cluster → Cluster) (g : Nat) : getSdesc (modCluster s c f) g = getSdesc s g := rfl
@[simp] theorem getFtq_modCluster (s : State) (c : Nat) (f : Cluster → Cluster) (g : Nat) : getFtq (modCluster s c f) g = getFtq s g := rfl
@[simp] theorem getStream_modPart (s : State) (p : Nat) (f : Part → Part) (g : Hart) : getStream (modPart s p f) g = getStream s g := rfl
@[simp] theorem getJob_modPart (s : State) (p : Nat) (f : Part → Part) (g : Nat) : getJob (modPart s p f) g = getJob s g := rfl
@[simp] theorem getCore_modPart (s : State) (p : Nat) (f : Part → Part) (g : Nat) : getCore (modPart s p f) g = getCore s g := rfl
@[simp] theorem getCluster_modPart (s : State) (p : Nat) (f : Part → Part) (g : Nat) : getCluster (modPart s p f) g = getCluster s g := rfl
@[simp] theorem getLaunch_modPart (s : State) (p : Nat) (f : Part → Part) (g : Nat) : getLaunch (modPart s p f) g = getLaunch s g := rfl
@[simp] theorem getSdesc_modPart (s : State) (p : Nat) (f : Part → Part) (g : Nat) : getSdesc (modPart s p f) g = getSdesc s g := rfl
@[simp] theorem getFtq_modPart (s : State) (p : Nat) (f : Part → Part) (g : Nat) : getFtq (modPart s p f) g = getFtq s g := rfl
@[simp] theorem getStream_modLaunch (s : State) (i : Nat) (f : Launch → Launch) (g : Hart) : getStream (modLaunch s i f) g = getStream s g := rfl
@[simp] theorem getJob_modLaunch (s : State) (i : Nat) (f : Launch → Launch) (g : Nat) : getJob (modLaunch s i f) g = getJob s g := rfl
@[simp] theorem getCore_modLaunch (s : State) (i : Nat) (f : Launch → Launch) (g : Nat) : getCore (modLaunch s i f) g = getCore s g := rfl
@[simp] theorem getCluster_modLaunch (s : State) (i : Nat) (f : Launch → Launch) (g : Nat) : getCluster (modLaunch s i f) g = getCluster s g := rfl
@[simp] theorem getPart_modLaunch (s : State) (i : Nat) (f : Launch → Launch) (g : Nat) : getPart (modLaunch s i f) g = getPart s g := rfl
@[simp] theorem getSdesc_modLaunch (s : State) (i : Nat) (f : Launch → Launch) (g : Nat) : getSdesc (modLaunch s i f) g = getSdesc s g := rfl
@[simp] theorem getFtq_modLaunch (s : State) (i : Nat) (f : Launch → Launch) (g : Nat) : getFtq (modLaunch s i f) g = getFtq s g := rfl
@[simp] theorem getStream_modSdesc (s : State) (i : Nat) (f : StreamDesc → StreamDesc) (g : Hart) : getStream (modSdesc s i f) g = getStream s g := rfl
@[simp] theorem getJob_modSdesc (s : State) (i : Nat) (f : StreamDesc → StreamDesc) (g : Nat) : getJob (modSdesc s i f) g = getJob s g := rfl
@[simp] theorem getCore_modSdesc (s : State) (i : Nat) (f : StreamDesc → StreamDesc) (g : Nat) : getCore (modSdesc s i f) g = getCore s g := rfl
@[simp] theorem getCluster_modSdesc (s : State) (i : Nat) (f : StreamDesc → StreamDesc) (g : Nat) : getCluster (modSdesc s i f) g = getCluster s g := rfl
@[simp] theorem getPart_modSdesc (s : State) (i : Nat) (f : StreamDesc → StreamDesc) (g : Nat) : getPart (modSdesc s i f) g = getPart s g := rfl
@[simp] theorem getLaunch_modSdesc (s : State) (i : Nat) (f : StreamDesc → StreamDesc) (g : Nat) : getLaunch (modSdesc s i f) g = getLaunch s g := rfl
@[simp] theorem getFtq_modSdesc (s : State) (i : Nat) (f : StreamDesc → StreamDesc) (g : Nat) : getFtq (modSdesc s i f) g = getFtq s g := rfl
@[simp] theorem getStream_modFtq (s : State) (i : Nat) (f : FrameTileQueue → FrameTileQueue) (g : Hart) : getStream (modFtq s i f) g = getStream s g := rfl
@[simp] theorem getJob_modFtq (s : State) (i : Nat) (f : FrameTileQueue → FrameTileQueue) (g : Nat) : getJob (modFtq s i f) g = getJob s g := rfl
@[simp] theorem getCore_modFtq (s : State) (i : Nat) (f : FrameTileQueue → FrameTileQueue) (g : Nat) : getCore (modFtq s i f) g = getCore s g := rfl
@[simp] theorem getCluster_modFtq (s : State) (i : Nat) (f : FrameTileQueue → FrameTileQueue) (g : Nat) : getCluster (modFtq s i f) g = getCluster s g := rfl
@[simp] theorem getPart_modFtq (s : State) (i : Nat) (f : FrameTileQueue → FrameTileQueue) (g : Nat) : getPart (modFtq s i f) g = getPart s g := rfl
@[simp] theorem getLaunch_modFtq (s : State) (i : Nat) (f : FrameTileQueue → FrameTileQueue) (g : Nat) : getLaunch (modFtq s i f) g = getLaunch s g := rfl
@[simp] theorem getSdesc_modFtq (s : State) (i : Nat) (f : FrameTileQueue → FrameTileQueue) (g : Nat) : getSdesc (modFtq s i f) g = getSdesc s g := rfl
@[simp] theorem getStream_modMs (s : State) (f : MemSys → MemSys) (g : Hart) : getStream (modMs s f) g = getStream s g := rfl
@[simp] theorem getJob_modMs (s : State) (f : MemSys → MemSys) (g : Nat) : getJob (modMs s f) g = getJob s g := rfl
@[simp] theorem getCore_modMs (s : State) (f : MemSys → MemSys) (g : Nat) : getCore (modMs s f) g = getCore s g := rfl
@[simp] theorem getCluster_modMs (s : State) (f : MemSys → MemSys) (g : Nat) : getCluster (modMs s f) g = getCluster s g := rfl
@[simp] theorem getPart_modMs (s : State) (f : MemSys → MemSys) (g : Nat) : getPart (modMs s f) g = getPart s g := rfl
@[simp] theorem getLaunch_modMs (s : State) (f : MemSys → MemSys) (g : Nat) : getLaunch (modMs s f) g = getLaunch s g := rfl
@[simp] theorem getSdesc_modMs (s : State) (f : MemSys → MemSys) (g : Nat) : getSdesc (modMs s f) g = getSdesc s g := rfl
@[simp] theorem getFtq_modMs (s : State) (f : MemSys → MemSys) (g : Nat) : getFtq (modMs s f) g = getFtq s g := rfl

/-! ### Registers and predicates -/

/-- A register of a stream after one is set: s0 discards what is written and reads as zero (R13, R38). -/
theorem streamReg_setStreamReg (st : Stream) (d r : Reg) (v : Word) :
    streamReg (setStreamReg st d v) r = if r = d ∧ d ≠ 0 then v else streamReg st r := by
  by_cases hd : d = 0
  · rw [setStreamReg, if_pos hd, if_neg (fun h => h.2 hd)]
  · rw [setStreamReg, if_neg hd]
    by_cases hr : r = d
    · subst hr
      rw [if_pos ⟨rfl, hd⟩]
      simp only [streamReg, if_neg hd, Vector.getElem_set_self]
    · rw [if_neg (fun h => hr h.1)]
      have : d.toNat ≠ r.toNat := fun e => hr (BitVec.eq_of_toNat_eq e.symm)
      simp only [streamReg, Vector.getElem_set_ne _ _ this]

@[simp] theorem streamReg_zero (st : Stream) : streamReg st 0 = 0 := by simp [streamReg]

@[simp] theorem setStreamReg_zero (st : Stream) (v : Word) : setStreamReg st 0 v = st := by simp [setStreamReg]

@[simp] theorem streamPred_zero (st : Stream) : streamPred st 0 = true := by simp [streamPred]

@[simp] theorem setStreamReg_pc (st : Stream) (d : Reg) (v : Word) : (setStreamReg st d v).pc = st.pc := by
  simp only [setStreamReg]; split <;> rfl
@[simp] theorem setStreamReg_preds (st : Stream) (d : Reg) (v : Word) : (setStreamReg st d v).preds = st.preds := by
  simp only [setStreamReg]; split <;> rfl
@[simp] theorem setStreamReg_loops (st : Stream) (d : Reg) (v : Word) : (setStreamReg st d v).loops = st.loops := by
  simp only [setStreamReg]; split <;> rfl
@[simp] theorem setStreamReg_trap (st : Stream) (d : Reg) (v : Word) : (setStreamReg st d v).trap = st.trap := by
  simp only [setStreamReg]; split <;> rfl
@[simp] theorem setStreamReg_returnPoint (st : Stream) (d : Reg) (v : Word) : (setStreamReg st d v).returnPoint = st.returnPoint := by
  simp only [setStreamReg]; split <;> rfl
@[simp] theorem setStreamReg_stand (st : Stream) (d : Reg) (v : Word) : (setStreamReg st d v).stand = st.stand := by
  simp only [setStreamReg]; split <;> rfl
@[simp] theorem setStreamReg_wait (st : Stream) (d : Reg) (v : Word) : (setStreamReg st d v).wait = st.wait := by
  simp only [setStreamReg]; split <;> rfl
@[simp] theorem setStreamReg_arrived (st : Stream) (d : Reg) (v : Word) : (setStreamReg st d v).arrived = st.arrived := by
  simp only [setStreamReg]; split <;> rfl
@[simp] theorem setStreamReg_head (st : Stream) (d : Reg) (v : Word) : (setStreamReg st d v).head = st.head := by
  simp only [setStreamReg]; split <;> rfl
@[simp] theorem setStreamReg_pos (st : Stream) (d : Reg) (v : Word) : (setStreamReg st d v).pos = st.pos := by
  simp only [setStreamReg]; split <;> rfl
@[simp] theorem setStreamReg_releases (st : Stream) (d : Reg) (v : Word) : (setStreamReg st d v).releases = st.releases := by
  simp only [setStreamReg]; split <;> rfl
@[simp] theorem setStreamReg_written (st : Stream) (d : Reg) (v : Word) : (setStreamReg st d v).written = st.written := by
  simp only [setStreamReg]; split <;> rfl
@[simp] theorem setStreamReg_stepping (st : Stream) (d : Reg) (v : Word) : (setStreamReg st d v).stepping = st.stepping := by
  simp only [setStreamReg]; split <;> rfl

/-- S(r) after SetS(d, v), in a stream that is there (R38). -/
theorem rd_wr (s : State) (d r : Reg) (v : Word) (st : Stream) (e : Tab.get? s.strs (hartKey s.cur) = some st) :
    rd (wr s d v) r = if r = d ∧ d ≠ 0 then v else rd s r := by
  simp only [rd, curStream, wr, modCurStream, modStream_cur]
  rw [getStream_modStream_self s s.cur _ st e, streamReg_setStreamReg]
  simp [getStream, Tab.getD, e]

end Sys2Proof.Machine
end

