-- ==== Sys2Proof/Laws/Issue.lean ====
section
/-! SUPPORT. What the issue of an instruction does (R42, R43, R78, R424, R427), once for all of them: where the
stream is quiet, an instruction whose body answers completes, branches, traps or is blocked, and nothing else
happens. -/

namespace Sys2Proof.Machine

/-! ### Observation does nothing in a quiet stream -/

theorem quiet_iff (s : State) : quiet s = true ↔
    (Tab.get? s.strs (hartKey s.cur)).isSome = true ∧ (Tab.get? s.jobs (jobKey s.cur)).isSome = true
      ∧ traceOn s (curPart s) = false ∧ (∀ w ∈ (getDebug s (curPart s)).bps.toList, bitOf w 0 = false)
      ∧ (∀ m ∈ (getDebug s (curPart s)).monitors.toList, bitOf m.cfg 0 = false)
      ∧ (curStream s).stepping = false ∧ chalked s (curPart s) = false := by
  simp only [quiet, Bool.and_eq_true, Bool.not_eq_true', List.all_eq_true]
  tauto

/-- Without a monitor that is enabled a sample changes nothing (R475). -/
theorem sample_off (s : State) (p src sel v : Nat)
    (h : ∀ m ∈ (getDebug s p).monitors.toList, bitOf m.cfg 0 = false) : sample s p src sel v = s := by
  unfold sample
  rw [if_neg]
  rw [← Vector.any_toList]
  simp only [List.any_eq_true, Bool.and_eq_true, not_exists, not_and]
  intro m hm h1 _
  simp [h m hm] at h1

theorem sampleQueues_off (s : State) (p : Nat) (a b : Queues)
    (h : ∀ m ∈ (getDebug s p).monitors.toList, bitOf m.cfg 0 = false) : sampleQueues s p a b = s := by
  unfold sampleQueues
  generalize ((queueLengths a).zip (queueLengths b)).zipIdx = l
  induction l with
  | nil => rfl
  | cons x l ih =>
    simp only [List.foldl_cons]
    split
    · exact ih
    · rw [sample_off s p _ _ _ h]; exact ih

theorem sampleWait_off (s : State) (h : Hart)
    (m : ∀ m ∈ (getDebug s (getJob s (jobKey h)).ids.part).monitors.toList, bitOf m.cfg 0 = false) :
    sampleWait s h = s := by
  unfold sampleWait
  split
  · rfl
  · simp only [sampleFlag]
    split
    · exact sample_off s _ _ _ _ m
    · rfl

theorem traceInstr_off (s : State) (h : Hart) (port : Nat) (off : Bool) (pc : Word) (n : Nat)
    (t : traceOn s (getJob s (jobKey h)).ids.part = false) : traceInstr s h port off pc n = s := by
  simp [traceInstr, t]

theorem traceMarker_off (s : State) (h : Hart) (n : Nat) (bs : List Byte)
    (t : traceOn s (getJob s (jobKey h)).ids.part = false) : traceMarker s h n bs = s := by
  simp [traceMarker, t]

theorem breakpointHits_off (s s' : State) (h : Hart)
    (b : ∀ w ∈ (getDebug s (getJob s (jobKey h)).ids.part).bps.toList, bitOf w 0 = false) :
    breakpointHits s s' h = [] := by
  simp only [breakpointHits, List.map_eq_nil_iff, List.filter_eq_nil_iff]
  intro e he
  have := b e.1 (List.fst_mem_of_mem_zipIdx he)
  simp [this]

/-! ### The stream after an instruction -/

/-- Where no LOOP ends at `pc`, the stream simply continues there (R78). -/
theorem loopEnd_none (active : Bool) (ls : List LoopState) (pc : Word) (ps : BitVec 16)
    (h : ∀ l ∈ ls, (active && !l.inHandler) = true ∨ (pc != l.stop) = true) : loopEnd active ls pc ps = (ls, pc, ps) := by
  cases ls with
  | nil => rfl
  | cons l ls =>
    rw [loopEnd]
    split
    · rfl
    · rename_i hn
      rcases h l (List.mem_cons_self ..) with e | e
      · exact absurd e hn
      · rw [if_neg]
        simpa using e

/-- An instruction that completes in a quiet stream where no LOOP ends (R39, R465). -/
theorem advance_eq (s : State) (i : Instr) (hq : quiet s = true) (hp : plain s i.size = true) :
    advance s i = retire i.size s := by
  obtain ⟨h1, -, -, -, h5, -, -⟩ := (quiet_iff s).1 hq
  obtain ⟨st, hst⟩ := Option.isSome_iff_exists.1 h1
  have hcur : curStream s = st := by simp [curStream, getStream, Tab.getD, hst]
  rw [advance, sampleWait_off s s.cur h5, retire, modCurStream, modCurStream, modStream, modStream]
  rw [Tab.modify_eq_set _ _ _ _ hst, Tab.modify_eq_set _ _ _ _ hst]
  congr 2
  simp only [plain, hcur, List.all_eq_true, Bool.or_eq_true, Bool.and_eq_true] at hp
  have : ∀ l ∈ st.loops, (trapActive st && !l.inHandler) = true ∨ (st.pc + BitVec.ofNat 64 i.size != l.stop) = true := by
    intro l hl
    rcases hp l hl with h | h
    · left; simpa using h
    · right; exact h.1
  have e := loopEnd_none (trapActive st) st.loops (st.pc + BitVec.ofNat 64 i.size) st.preds this
  simp only [seqTo, countIssue]
  rw [show trapActive { st with pos := st.pos + 1, wait := none } = trapActive st from rfl, e]

/-- The settling of a step that nothing observes. -/
theorem settleThen_eq (i : Instr) (s s' : State) (k : State → State)
    (hb : ∀ w ∈ (getDebug s (curPart s)).bps.toList, bitOf w 0 = false)
    (hm : ∀ m ∈ (getDebug s' (curPart s)).monitors.toList, bitOf m.cfg 0 = false)
    (hs : (getStream s' s.cur).stepping = false) : settleThen i s s' k = k s' := by
  rw [settleThen, breakpointHits_off s s' s.cur hb]
  simp only [overBreaks, endInstr, List.find?_nil, fireHits, List.foldl_nil]
  rw [sampleQueues_off s' (curPart s) _ _ hm, endStep, hs]
  rfl

/-- What an effect must leave as it is, so that the end of its instruction can be said: the executing stream and
its partition, and that nothing observes them. -/
structure Keeps (s s' : State) (n : Nat) : Prop where
  cur : s'.cur = s.cur
  part : curPart s' = curPart s
  quiet : quiet s' = true
  plain : plain s' n = true

theorem retire_stepping (s : State) (n : Nat) (hq : quiet s = true) : (getStream (retire n s) s.cur).stepping = false := by
  obtain ⟨h1, -, -, -, -, h6, -⟩ := (quiet_iff s).1 hq
  obtain ⟨st, hst⟩ := Option.isSome_iff_exists.1 h1
  rw [retire, modCurStream, getStream_modStream_self s s.cur _ st hst]
  simpa [curStream, getStream, Tab.getD, hst] using h6

theorem settle_advance (i : Instr) (s s' : State) (hq : Machine.quiet s = true) (hk : Keeps s s' i.size) (off : Bool) :
    settle i s (advance (record s' i off) i) = retire i.size s' := by
  have q := (quiet_iff s).1 hq
  have q' := (quiet_iff s').1 hk.quiet
  have hrec : record s' i off = s' := by
    rw [record, traceInstr_off]
    exact q'.2.2.1
  rw [hrec, advance_eq s' i hk.quiet hk.plain, settle, settleThen_eq]
  · rfl
  · exact q.2.2.2.1
  · rw [← hk.part]; exact q'.2.2.2.2.1
  · rw [← hk.cur]; exact retire_stepping s' _ hk.quiet

/-- No LOOP end lies within the instruction. -/
theorem crossesEnd_false (s : State) (n : Nat) (hp : plain s n = true) : crossesEnd (curStream s) n = false := by
  simp only [plain, List.all_eq_true] at hp
  simp only [crossesEnd, List.any_eq_false]
  intro l hl hc
  have := hp l hl
  simp only [Bool.and_eq_true, decide_eq_true_eq] at hc
  simp only [Bool.or_eq_true, Bool.and_eq_true, Bool.not_eq_true', Bool.and_eq_false_iff, decide_eq_false_iff_not,
    bne_iff_ne] at this
  rcases this with e | e
  · simp [e.1, e.2] at hc
  · rcases e.2 with f | f
    · exact f hc.1.2
    · exact f hc.2

/-- An instruction whose guard is false has no effect (R43, R45). -/
theorem issue_off (i : Instr) (strms : List Strm) (g : Guard) (lacks : State → Bool) (body : State → Exec Effect)
    (s : State) (hq : quiet s = true) (hp : plain s i.size = true) (hs : strms.contains s.cur.strm = true)
    (hl : lacks s = false) (hg : guardOk s g = false) :
    issue i strms (some g) lacks body s = .next (retire i.size s) := by
  unfold issue
  rw [crossesEnd_false s _ hp, hs, hl]
  simp only [Bool.not_true, Bool.or_self, if_false, guardHolds, hg, Bool.not_false, if_true, Bool.false_eq_true]
  rw [settle_advance i s s hq ⟨rfl, rfl, hq, hp⟩]

/-- Past the checks of stream, privilege and guard, the body decides. -/
theorem issue_body (i : Instr) (strms : List Strm) (g : Option Guard) (lacks : State → Bool)
    (body : State → Exec Effect) (s : State) (hp : plain s i.size = true)
    (hs : strms.contains s.cur.strm = true) (hl : lacks s = false) (hg : guardHolds s g = true) :
    issue i strms g lacks body s = outcome i s (body s) := by
  unfold issue
  rw [crossesEnd_false s _ hp, hs, hl, hg]
  simp

/-- An instruction whose body answers a next state completes in sequence. -/
theorem issue_next (i : Instr) (strms : List Strm) (g : Option Guard) (lacks : State → Bool)
    (body : State → Exec Effect) (s s' : State) (hq : quiet s = true) (hp : plain s i.size = true)
    (hs : strms.contains s.cur.strm = true) (hl : lacks s = false) (hg : guardHolds s g = true)
    (hb : body s = .ok (.next s')) (hk : Keeps s s' i.size) :
    issue i strms g lacks body s = .next (retire i.size s') := by
  rw [issue_body i strms g lacks body s hp hs hl hg, hb, outcome,
    settle_advance i s s' hq hk]

/-- An instruction that fails a check takes a precise trap. -/
theorem issue_trap (i : Instr) (strms : List Strm) (g : Option Guard) (lacks : State → Bool)
    (body : State → Exec Effect) (s : State) (hp : plain s i.size = true)
    (hs : strms.contains s.cur.strm = true) (hl : lacks s = false) (hg : guardHolds s g = true) (c : Cause) (a t : Word)
    (hb : body s = .error (.trap c a t)) : issue i strms g lacks body s = .next (trapNow s i c a t) := by
  rw [issue_body i strms g lacks body s hp hs hl hg, hb, outcome]

/-- An instruction that must wait blocks its stream. -/
theorem issue_wait (i : Instr) (strms : List Strm) (g : Option Guard) (lacks : State → Bool)
    (body : State → Exec Effect) (s : State) (hp : plain s i.size = true)
    (hs : strms.contains s.cur.strm = true) (hl : lacks s = false) (hg : guardHolds s g = true) (k : WaitKind)
    (hb : body s = .error (.wait k)) : issue i strms g lacks body s = .next (block s s.cur k) := by
  rw [issue_body i strms g lacks body s hp hs hl hg, hb, outcome]

/-- An instruction in a stream that may not issue it is ILLEGAL (R11, R42). -/
theorem issue_illegal (i : Instr) (strms : List Strm) (g : Option Guard) (lacks : State → Bool)
    (body : State → Exec Effect) (s : State) (hs : strms.contains s.cur.strm = false) :
    issue i strms g lacks body s = .next (trapNow s i .illegal 0 0) := by
  unfold issue
  rw [hs]
  simp

/-- Without the permission it needs an instruction takes PRIV (R42, R402). -/
theorem issue_priv (i : Instr) (strms : List Strm) (g : Option Guard) (lacks : State → Bool)
    (body : State → Exec Effect) (s : State) (hp : plain s i.size = true) (hs : strms.contains s.cur.strm = true)
    (hl : lacks s = true) : issue i strms g lacks body s = .next (trapNow s i .priv 0 0) := by
  unfold issue
  rw [crossesEnd_false s _ hp, hs, hl]
  simp

/-- Every outcome of an issue is a next state. -/
theorem issue_completes (i : Instr) (strms : List Strm) (g : Option Guard) (lacks : State → Bool)
    (body : State → Exec Effect) (s : State) : ∃ t, issue i strms g lacks body s = .next t := by
  unfold issue
  split
  · exact ⟨_, rfl⟩
  · split
    · exact ⟨_, rfl⟩
    · split
      · exact ⟨_, rfl⟩
      · rcases body s with e | e <;> cases e <;> exact ⟨_, rfl⟩

/-! ### Effects that keep an instruction's end as it is -/

/-- An effect that leaves every partition as it is, and of its own stream the PC, the LOOPs, the trap registers. -/
theorem keeps_of (s s' : State) (n : Nat) (hq : quiet s = true) (hp : plain s n = true)
    (hcur : s'.cur = s.cur) (hparts : s'.parts = s.parts)
    (hst : (Tab.get? s'.strs (hartKey s.cur)).isSome = true) (hjob : (Tab.get? s'.jobs (jobKey s.cur)).isSome = true)
    (hpart : curPart s' = curPart s)
    (h1 : (curStream s').stepping = (curStream s).stepping) (h2 : (curStream s').loops = (curStream s).loops)
    (h3 : (curStream s').pc = (curStream s).pc) (h4 : (curStream s').trap = (curStream s).trap) :
    Keeps s s' n := by
  have q := (quiet_iff s).1 hq
  have hp' : ∀ p, getPart s' p = getPart s p := fun p => by simp [getPart, hparts]
  refine ⟨hcur, hpart, (quiet_iff s').2 ⟨?_, ?_, ?_, ?_, ?_, ?_, ?_⟩, ?_⟩
  · rwa [hcur]
  · rwa [hcur]
  · simpa [traceOn, getDebug, hp', hpart] using q.2.2.1
  · simpa [getDebug, hp', hpart] using q.2.2.2.1
  · simpa [getDebug, hp', hpart] using q.2.2.2.2.1
  · rw [h1]; exact q.2.2.2.2.2.1
  · simpa [chalked, getDebug, hp', hpart, hparts] using q.2.2.2.2.2.2
  · simpa [plain, trapActive, h2, h3, h4] using hp

theorem keeps_modCurStream (s : State) (n : Nat) (f : Stream → Stream) (hq : quiet s = true) (hp : plain s n = true)
    (h1 : ∀ st, (f st).stepping = st.stepping) (h2 : ∀ st, (f st).loops = st.loops) (h3 : ∀ st, (f st).pc = st.pc)
    (h4 : ∀ st, (f st).trap = st.trap) : Keeps s (modCurStream s f) n := by
  obtain ⟨hs, hj, -⟩ := (quiet_iff s).1 hq
  obtain ⟨st, e⟩ := Option.isSome_iff_exists.1 hs
  have c : curStream s = st := by simp [curStream, getStream, Tab.getD, e]
  have c' : curStream (modCurStream s f) = f st := getStream_modStream_self s s.cur f st e
  refine keeps_of s _ n hq hp rfl rfl ?_ hj rfl ?_ ?_ ?_ ?_
  · simp [modCurStream, modStream, Tab.get?_modify_self, e]
  all_goals simp [c, c', h1, h2, h3, h4]

theorem keeps_modCurJob (s : State) (n : Nat) (f : Job → Job) (hq : quiet s = true) (hp : plain s n = true)
    (h1 : ∀ j, (f j).ids.part = j.ids.part) : Keeps s (modCurJob s f) n := by
  obtain ⟨hs, hj, -⟩ := (quiet_iff s).1 hq
  obtain ⟨j, e⟩ := Option.isSome_iff_exists.1 hj
  refine keeps_of s _ n hq hp rfl rfl hs ?_ ?_ rfl rfl rfl rfl
  · simp [modCurJob, modJob, Tab.get?_modify_self, e]
  · have c : curJob s = j := by simp [curJob, getJob, Tab.getD, e]
    have c' : curJob (modCurJob s f) = f j := getJob_modJob_self s _ f j e
    simp [curPart, c, c', h1]

theorem keeps_wr (s : State) (n : Nat) (d : Reg) (v : Word) (hq : quiet s = true) (hp : plain s n = true) :
    Keeps s (wr s d v) n := by
  refine keeps_modCurStream s n _ hq hp ?_ ?_ ?_ ?_ <;> intro st <;> simp only [setStreamReg] <;> split <;> rfl

theorem keeps_wp (s : State) (n : Nat) (p : BitVec 4) (b : Bool) (hq : quiet s = true) (hp : plain s n = true) :
    Keeps s (wp s p b) n :=
  keeps_modCurStream s n _ hq hp (fun _ => rfl) (fun _ => rfl) (fun _ => rfl) (fun _ => rfl)

theorem Keeps.refl (s : State) (n : Nat) (hq : Machine.quiet s = true) (hp : Machine.plain s n = true) : Keeps s s n :=
  ⟨rfl, rfl, hq, hp⟩

theorem Keeps.trans {s t u : State} {n : Nat} (a : Keeps s t n) (b : Keeps t u n) : Keeps s u n :=
  ⟨b.cur.trans a.cur, b.part.trans a.part, b.quiet, b.plain⟩

theorem ready_iff (s : State) (n : Nat) (g : Option Guard) :
    ready s n g = true ↔ quiet s = true ∧ plain s n = true ∧ guardHolds s g = true := by
  simp [ready, and_assoc]

/-- An instruction that always completes, and only writes a register. -/
theorem simple_wr (i : Instr) (g : Option Guard) (f : State → State) (d : Reg) (v : Word) (s : State)
    (h : ready s i.size g = true) (hf : f s = wr s d v) : simple i g f s = .next (retire i.size (wr s d v)) := by
  obtain ⟨hq, hp, hg⟩ := (ready_iff _ _ _).1 h
  exact issue_next i _ g _ _ s _ hq hp (by cases s.cur.strm <;> rfl) rfl hg (by rw [hf]) (keeps_wr s _ d v hq hp)

/-! ### Taking a trap (R427, R428) -/

/-- With a handler and outside it, a trap enters the handler. -/
theorem takeTrap_enter (s : State) (h : Hart) (t : TrapInfo) (ha : trapActive (getStream s h) = false)
    (hv : (getStream s h).trap.vec ≠ 0) (ht : traceOn s (getJob s (jobKey h)).ids.part = false)
    (hm : ∀ m ∈ (getDebug s (getJob s (jobKey h)).ids.part).monitors.toList, bitOf m.cfg 0 = false) :
    takeTrap s h t = modStream s h (enterHandler · t) := by
  rw [takeTrap, traceMarker_off s h _ _ ht, sampleWait_off s h hm]
  simp only [ha, Bool.false_or, beq_iff_eq, if_neg hv]

/-- In the handler, or without one, a trap aborts the job. -/
theorem takeTrap_abort (s : State) (h : Hart) (t : TrapInfo)
    (ha : trapActive (getStream s h) = true ∨ (getStream s h).trap.vec = 0) : takeTrap s h t = abortJob s h t := by
  rw [takeTrap]
  rcases ha with ha | ha <;> simp [ha]

end Sys2Proof.Machine
end

