-- ==== Sys2Proof/Laws/Memory.lean ====
section
/-! SUPPORT. Every operation that writes memory keeps its canonical form: device memory and the scratchpads. -/

namespace Sys2Proof.Machine

theorem memOk_iff (s : State) : memOk s = true ↔ s.ms.mem.wf = true ∧ s.ms.spad.wf = true := by
  simp [memOk]

/-- A change of the memory system that leaves both memories as they are. -/
theorem memOk_of_eq (s t : State) (hm : t.ms.mem = s.ms.mem) (hs : t.ms.spad = s.ms.spad) (h : memOk s = true) :
    memOk t = true := by
  simpa [memOk, hm, hs] using h

/-- What each step of a fold keeps, the fold keeps. -/
theorem foldl_keeps {α σ : Type} (P : σ → Prop) (f : σ → α → σ) (hf : ∀ s x, P s → P (f s x)) (l : List α) (s : σ)
    (h : P s) : P (l.foldl f s) := by
  induction l generalizing s with
  | nil => exact h
  | cons x l ih => exact ih _ (hf s x h)

theorem memOk_noteOld (s : State) (jobs : List Nat) (g : Nat) (a b : Granule) (h : memOk s = true) :
    memOk (noteOld s jobs g a b) = true := by
  unfold noteOld
  split
  · exact h
  · exact memOk_of_eq s _ rfl rfl h

theorem memOk_modMs (s : State) (f : MemSys → MemSys) (hm : (f s.ms).mem = s.ms.mem)
    (hs : (f s.ms).spad = s.ms.spad) (h : memOk s = true) : memOk (modMs s f) = true := memOk_of_eq s _ hm hs h

theorem memOk_noteMissed (s : State) (who : Nat × Nat) (pa n : Nat) (h : memOk s = true) :
    memOk (noteMissed s who pa n) = true := by
  unfold noteMissed
  split
  · exact h
  · exact memOk_modMs s _ rfl rfl h

theorem memOk_readSeen (s : State) (v : Viewer) (pa n : Nat) (h : memOk s = true) :
    memOk (readSeen s v pa n) = true := by
  unfold readSeen
  split
  · exact h
  · exact memOk_modMs s _ rfl rfl h

theorem memOk_compWrite (s : State) (g o : Nat) (bs : List Byte) (h : memOk s = true) :
    memOk (compWrite s g o bs) = true := memOk_of_eq s _ rfl rfl h

theorem memOk_writeGranule (s : State) (own : Option Nat) (cmp : Bool) (g o : Nat) (bs : List Byte)
    (h : memOk s = true) : memOk (writeGranule s own cmp g o bs) = true := by
  unfold writeGranule
  extract_lets old s1 s2 s3
  have h1 : memOk s1 = true := memOk_noteOld _ _ _ _ _ h
  have h2 : memOk s2 = true := by
    dsimp only [s2]
    split
    · exact memOk_noteOld _ _ _ _ _ h1
    · exact h1
  have h3 : memOk s3 = true := by
    dsimp only [s3]
    split
    · exact memOk_compWrite _ _ _ _ h2
    · rw [memOk_iff] at h2 ⊢
      exact ⟨Memory.putBytes_wf _ _ _ h2.1, h2.2⟩
  exact memOk_of_eq s3 _ rfl rfl h3

/-- A cured write keeps the canonical form. -/
theorem memOk_writePa (s : State) (who : Nat × Nat) (own : Option Nat) (cmp : Bool) (pa : Nat) (bs : List Byte)
    (keep : Option StashLine) (h : memOk s = true) : memOk (writePa s who own cmp pa bs keep) = true :=
  memOk_of_eq _ _ rfl rfl
    (foldl_keeps (fun s => memOk s = true) _ (fun s _ h => memOk_writeGranule s _ _ _ _ _ h) _ _
      (memOk_noteMissed _ _ _ _ h))

theorem memOk_wetGranuleWrite (s : State) (w : WetWriter) (cmp : Bool) (g o : Nat) (bs : List Byte)
    (h : memOk s = true) : memOk (wetGranuleWrite s w cmp g o bs) = true :=
  memOk_of_eq (noteOld s [w.job] g _ _) _ rfl rfl (memOk_noteOld _ _ _ _ _ h)

/-- A wet write keeps the canonical form. -/
theorem memOk_writeWet (s : State) (w : WetWriter) (cmp : Bool) (pa : Nat) (bs : List Byte) (h : memOk s = true) :
    memOk (writeWet s w cmp pa bs) = true :=
  foldl_keeps (fun s => memOk s = true) _ (fun s _ h => memOk_wetGranuleWrite s _ _ _ _ _ h) _ _ h

theorem memOk_holdBack (s0 s : State) (p : Nat) (w : WetGranule) (h : memOk s = true) :
    memOk (holdBack s0 s p w) = true := by
  unfold holdBack
  split
  · exact memOk_modMs s _ rfl rfl h
  · exact h

/-- Curing keeps the canonical form. -/
theorem memOk_cure (s : State) (jobid : Nat) (h : memOk s = true) : memOk (cure s jobid) = true := by
  unfold cure
  extract_lets p mine s1
  refine foldl_keeps (fun s => memOk s = true) _ (fun s w h => ?_) _ _ (memOk_modMs s _ rfl rfl h)
  extract_lets a b
  have ha : memOk a = true := memOk_holdBack _ _ _ _ (memOk_writePa _ _ _ _ _ _ _ h)
  have hb : memOk b = true := by
    dsimp only [b]
    split
    · exact memOk_modMs a _ rfl rfl ha
    · exact ha
  split
  · exact memOk_modMs b _ rfl rfl hb
  · exact hb

theorem memOk_discardWet (s : State) (jobid : Nat) (h : memOk s = true) : memOk (discardWet s jobid) = true :=
  memOk_modMs s _ rfl rfl h

theorem memOk_dropEarly (s : State) (h : Hart) (sel : EarlyPlace → Bool) (hs : memOk s = true) :
    memOk (dropEarly s h sel) = true := by
  unfold dropEarly
  split
  · exact hs
  · exact memOk_modMs s _ rfl rfl hs

theorem memOk_performWc (s : State) (w : WcStore) (h : memOk s = true) : memOk (performWc s w) = true :=
  memOk_dropEarly _ _ _ (memOk_writeWet s _ _ _ _ h)

/-- Performing buffered stores keeps the canonical form. -/
theorem memOk_flushWc (s : State) (core : Nat) (h : memOk s = true) : memOk (flushWc s core) = true :=
  foldl_keeps (fun s => memOk s = true) _ (fun s w h => memOk_performWc s w h) _ _ (memOk_modMs s _ rfl rfl h)

theorem memOk_evictWc (s : State) (core : Nat) (h : memOk s = true) : memOk (evictWc s core) = true := by
  unfold evictWc
  split
  · exact h
  · exact foldl_keeps (fun s => memOk s = true) _ (fun s w h => memOk_performWc s w h) _ _
      (memOk_modMs s _ rfl rfl h)

theorem memOk_fillGranule (s : State) (v : Viewer) (cmp : Bool) (pa spad g : Nat) (h : memOk s = true) :
    memOk (fillGranule s v cmp pa spad g) = true := by
  rw [memOk_iff] at h ⊢
  exact ⟨h.1, Memory.putBytes_wf _ _ _ h.2⟩

theorem memOk_writeSpad (s : State) (sp : Nat) (bs : List Byte) (h : memOk s = true) :
    memOk (writeSpad s sp bs) = true := by
  rw [memOk_iff] at h ⊢
  exact ⟨h.1, Memory.putBytes_wf _ _ _ h.2⟩

theorem memOk_finishStores (s : State) (sel : Hart → Bool) (h : memOk s = true) :
    memOk (finishStores s sel) = true := by
  unfold finishStores
  split
  · exact h
  · exact foldl_keeps (fun s => memOk s = true) _ (fun s b h => memOk_writeSpad s _ _ h) _ _
      (memOk_modMs s _ rfl rfl h)

theorem memOk_poisonGranule (s : State) (jobid g : Nat) (h : memOk s = true) :
    memOk (poisonGranule s jobid g) = true := memOk_modMs s _ rfl rfl h

theorem memOk_writeBackLine (s : State) (core : Nat) (j : Job) (l : StashLine) (h : memOk s = true) :
    memOk (writeBackLine s core j l) = true := by
  unfold writeBackLine
  split
  · exact h
  · refine memOk_of_eq _ _ rfl rfl (foldl_keeps (fun s => memOk s = true) _ (fun s g h => ?_) _ _ h)
    split
    · split
      · exact memOk_poisonGranule _ _ _ (memOk_writePa _ _ _ _ _ _ _ h)
      · exact memOk_writePa _ _ _ _ _ _ _ h
    · exact h

/-- A write-back of the stash keeps the canonical form. -/
theorem memOk_stashWriteBack (s : State) (core : Nat) (j : Job) (h : memOk s = true) :
    memOk (stashWriteBack s core j) = true :=
  foldl_keeps (fun s => memOk s = true) _ (fun s l h => memOk_writeBackLine s core j l h) _ _
    (memOk_finishStores s _ h)

/-- A refill of the stash keeps the canonical form. -/
theorem memOk_stashRefresh (s : State) (core : Nat) (j : Job) (h : memOk s = true) :
    memOk (stashRefresh s core j) = true := by
  refine foldl_keeps (fun s => memOk s = true) _ (fun s l h => ?_) _ _ h
  dsimp only
  split
  · exact h
  · refine memOk_of_eq _ _ rfl rfl
      (foldl_keeps (fun s => memOk s = true) _ (fun s g h => ?_) _ _ (memOk_readSeen _ _ _ _ h))
    split
    · exact h
    · exact memOk_fillGranule _ _ _ _ _ _ h

theorem memOk_publish (s : State) (scope : Nat) (sel : LateWrite → Bool) (h : memOk s = true) :
    memOk (publish s scope sel) = true := by
  unfold publish
  split
  · exact h
  · exact memOk_modMs s _ rfl rfl h

/-- What comes before a release keeps the canonical form. -/
theorem memOk_earlyCure (s : State) (scope : Nat) (h : memOk s = true) : memOk (earlyCure s scope) = true := by
  have h1 := memOk_cure _ (curJob (flushWc s s.cur.core)).ids.jobid (memOk_flushWc s s.cur.core h)
  unfold earlyCure
  dsimp only
  split
  · exact memOk_stashWriteBack _ _ _ h1
  · exact h1

/-- A release keeps the canonical form. -/
theorem memOk_releaseSide (s : State) (scope : Nat) (h : memOk s = true) : memOk (releaseSide s scope) = true :=
  memOk_publish _ _ _ (memOk_earlyCure s scope h)

/-- A release on an object keeps the canonical form. -/
theorem memOk_releaseObject (s : State) (scope : Nat) (o : Word) (h : memOk s = true) :
    memOk (releaseObject s scope o) = true := memOk_publish _ _ _ (memOk_earlyCure s scope h)

theorem memOk_orderReads (s : State) (h : Hart) (hs : memOk s = true) : memOk (orderReads s h) = true := by
  unfold orderReads
  split
  · exact hs
  · exact memOk_modMs s _ rfl rfl hs

theorem memOk_acquirePlaces (s : State) (scope : Nat) (orders : EarlyPlace → Bool) (h : memOk s = true) :
    memOk (acquirePlaces s scope orders) = true := by
  unfold acquirePlaces
  extract_lets s1
  have h1 : memOk s1 = true := by
    dsimp only [s1]
    split
    · exact h
    · exact memOk_modMs s _ rfl rfl h
  split
  · exact memOk_stashRefresh _ _ _ h1
  · exact h1

/-- An acquire keeps the canonical form. -/
theorem memOk_acquireSide (s : State) (scope : Nat) (h : memOk s = true) : memOk (acquireSide s scope) = true :=
  memOk_acquirePlaces s scope _ h

/-- An acquire on an object keeps the canonical form. -/
theorem memOk_acquireObject (s : State) (scope : Nat) (o : Word) (h : memOk s = true) :
    memOk (acquireObject s scope o) = true := by
  unfold acquireObject
  refine memOk_acquirePlaces _ _ _ ?_
  split
  · exact h
  · exact memOk_modMs s _ rfl rfl h

theorem memOk_dirtyRange (s : State) (a : Agent) (win : Option (Nat × Nat)) (n : Nat) (h : memOk s = true) :
    memOk (dirtyRange s a win n) = true := by
  unfold dirtyRange
  split
  · refine foldl_keeps (fun s => memOk s = true) _ (fun s g h => ?_) _ _ h
    exact memOk_modMs s _ rfl rfl h
  · exact h

theorem memOk_fillLine (s t : State) (a : Agent) (w line : Nat) (e : fillLine s a w line = .ok t)
    (h : memOk s = true) : memOk t = true := by
  unfold fillLine at e
  split at e
  · cases e; exact h
  · split at e
    · cases e; exact h
    · split at e
      · cases e
      · cases e
      · cases e
        rename_i j _ _ _ _ _ x sp _ _
        have := foldl_keeps (fun s => memOk s = true)
          (fun s g => fillGranule s { a.view with job := j.ids.jobid, only := none } x.cmp x.pa sp g)
          (fun s g h => memOk_fillGranule _ _ _ _ _ _ h) (List.range 32) _
          (memOk_readSeen s { a.view with job := j.ids.jobid, only := none } x.pa 256 h)
        generalize List.foldl _ _ _ = s1 at this ⊢
        exact memOk_modMs s1 _ rfl rfl this

/-- Filling stash lines keeps the canonical form. -/
theorem memOk_fillRange (s t : State) (a : Agent) (win : Option (Nat × Nat)) (n : Nat)
    (e : fillRange s a win n = .ok t) (h : memOk s = true) : memOk t = true := by
  have go : ∀ (l : List Nat) (w o : Nat) (r : Except AccFail State), (∀ s, r = .ok s → memOk s = true) →
      ∀ t, l.foldl (fun r i => r.bind fun s => fillLine s a w (o / 256 + i)) r = .ok t → memOk t = true := by
    intro l w o
    induction l with
    | nil => intro r hr t ht; exact hr t ht
    | cons i l ih =>
      intro r hr t ht
      refine ih _ (fun s' e' => ?_) t ht
      cases r with
      | error x => cases e'
      | ok s0 => exact memOk_fillLine s0 s' a w _ e' (hr s0 rfl)
  unfold fillRange at e
  split at e
  · cases e; exact h
  · rename_i w o
    exact go _ w o (.ok s) (fun s' e' => by cases e'; exact h) t e

theorem memOk_noteWrite (s : State) (h : Hart) (p ipa pa : Nat) (hs : memOk s = true) :
    memOk (noteWrite s h p ipa pa) = true := by
  unfold noteWrite
  split
  · exact memOk_of_eq s _ rfl rfl hs
  · exact hs

/-- A store to global memory keeps the canonical form. -/
theorem memOk_storeGlobal (s : State) (a : Agent) (x : Xl) (bs : List Byte) (h : memOk s = true) :
    memOk (storeGlobal s a x bs) = true := by
  have h1 := memOk_dropEarly _ a.hart (globPlaces x.pa bs.length) (memOk_noteWrite s a.hart a.part x.ipa x.pa h)
  unfold storeGlobal
  dsimp only
  split
  · exact memOk_writePa _ _ _ _ _ _ _ h1
  · split
    · split
      · exact memOk_evictWc _ _ (memOk_modMs _ _ rfl rfl h1)
      · exact memOk_modMs _ _ rfl rfl h1
    · exact memOk_writeWet _ _ _ _ _ h1

theorem memOk_noteBy (s : State) (a : Agent) (ipa pa : Nat) (h : memOk s = true) :
    memOk (noteBy s a ipa pa) = true := by
  unfold noteBy
  split
  · exact memOk_noteWrite s _ _ _ _ h
  · unfold noteOpLine
    split
    · exact memOk_of_eq s _ rfl rfl h
    · exact h
  · exact h
  · exact h

theorem memOk_dirtyWin (s : State) (a : Agent) (win : Option (Nat × Nat)) (n : Nat) (h : memOk s = true) :
    memOk (dirtyWin s a win n) = true := by
  have h1 := memOk_dirtyRange s a win n h
  unfold dirtyWin
  dsimp only
  split
  · split
    · split
      · exact memOk_noteBy _ _ _ _ h1
      · exact h1
    · exact h1
  · exact h1

/-- A never-wet write of a cell keeps the canonical form. -/
theorem memOk_cellWrite (s : State) (a : Agent) (c : Cell) (o : Nat) (bs : List Byte) (h : memOk s = true) :
    memOk (cellWrite s a c o bs) = true := by
  unfold cellWrite
  split
  · exact memOk_dirtyWin _ _ _ _ (memOk_dropEarly _ _ _ (memOk_writeSpad _ _ _ h))
  · exact memOk_writePa _ _ _ _ _ _ _ (memOk_noteBy _ _ _ _ h)

end Sys2Proof.Machine
end

