-- ==== Sys2Proof/Tests/Slice0.lean ====
section
/-! SUPPORT. Tests: the words of instructions, ill-formed instructions, single steps with results from the spec's own
examples, and for every statement a state and operands that meet its hypotheses. -/

namespace Sys2Proof.Tests

open Sys2Proof.Machine

set_option Elab.async false

/-! ## Small states -/

/-- No guard. -/
def g0 : Guard := ⟨0, false⟩

/-- A guard that is false: not p0. -/
def gF : Guard := ⟨0, true⟩

/-- A job of partition 0 in slot 0 of core 0, its stream `t` executing at 0x100000. -/
def base (t : Strm) : State := { probe State.reset [] t with cur := ⟨0, 0, t⟩, agenda := [] }

/-- The same with scalar registers. -/
def regs (s : State) (l : List (Nat × Word)) : State :=
  modCurStream s fun st => { st with regs := l.foldl (fun r e => r.setIfInBounds e.1 e.2) st.regs }

/-- Handlers at 0x2000 for the three streams. -/
def vec (s : State) : State :=
  [Strm.l, .c, .s].foldl (fun s t => modStream s { s.cur with strm := t } fun st =>
    { st with trap := { st.trap with vec := 0x2000 } }) s

/-- The executing stream is in its handler. -/
def inH (s : State) : State := modCurStream s fun st => { st with trap := { st.trap with cause := 0x200 } }

/-- The outcome's state, for outcomes that are one. -/
def nx (r : Result) : State := match r with | .next t => t | _ => State.reset

def perm (s : State) (n : Word) : State := modPart s 0 fun p => { p with perms := n }


/-! ## Statements about the step and scalar instructions -/

theorem witness_StepRunsDecoded :
    let s := probe State.reset [4, 0, 0, 0] .l
    s.agenda = .issue ⟨0, 0, .l⟩ :: [] ∧ s.dead = false ∧ canIssue (Say.took s []) ⟨0, 0, .l⟩ = true
      ∧ fetchParcels (Say.took s []) ⟨0, 0, .l⟩ (getStream s ⟨0, 0, .l⟩).pc = .ok [4] ∧ decode [4] = .ok (.nop g0) := by
  refine ⟨rfl, rfl, by decide +kernel, by decide +kernel, by decide +kernel⟩

theorem witness_StepRunsEvent :
    { base .l with agenda := [.event .deviceReset] }.dead = false
      ∧ ({ base .l with agenda := [.due (.childOpDone 0 255)] } : State).agenda = .due (.childOpDone 0 255) :: []
      ∧ ({ base .l with agenda := [.due (.jobDeal 111)] } : State).agenda = .due (.jobDeal 111) :: []
      ∧ ({ base .l with agenda := [.due (.launchAllot 7)] } : State).agenda = .due (.launchAllot 7) :: [] :=
  ⟨rfl, rfl, rfl, rfl⟩

theorem witness_StoppedDie :
    ({ base .l with dead := true, agenda := [.event .thermalHold] } : State).dead = true
      ∧ Act.event .thermalHold ≠ .event .deviceReset := ⟨rfl, by decide⟩

theorem witness_EncodeDecode : (Instr.add g0 31 31 31).wf = true ∧ encode (.add g0 31 31 31) ≠ [] := by decide +kernel

theorem witness_DecodeSound : decode [0x0001412C, 7] = .ok (.trapi 5) := by decide +kernel

theorem witness_ScalarResults :
    ∀ i ∈ [Instr.add g0 3 1 2, .sub g0 3 1 2, .and g0 3 1 2, .or g0 3 1 2, .xor g0 3 1 2, .shl g0 3 1 2, .shr g0 3 1 2,
      .sra g0 3 1 2, .mul g0 3 1 2, .mulh g0 3 1 2, .mulhu g0 3 1 2, .div g0 3 1 2, .divu g0 3 1 2, .rem g0 3 1 2,
      .remu g0 3 1 2, .min g0 3 1 2, .minu g0 3 1 2, .max g0 3 1 2, .maxu g0 3 1 2, .clz g0 3 1, .ctz g0 3 1, .popc g0 3 1,
      .brev g0 0 1, .sel gF 3 1 2, .addi 3 1 0x1FFF, .andi 3 1 0x1FFF, .ori 3 1 1, .xori 3 1 1, .shli 3 1 63, .shri 3 1 63,
      .srai 3 1 0, .ldhi 3 0x20000, .addpc 3 0x1FFFF, .pmovGet g0 3, .kgetRow g0 3 0, .kgetCol g0 3 7, .csrr 3 0,
      .kvslot g0 3 1 2, .xlatRd g0 3 1, .xlatWr g0 3 1, .xlatEx g0 3 1],
      ((Say.result (base .c) i).any fun x => x.1.contains (base .c).cur.strm && ready (base .c) 4 x.2.1) = true := by
  decide +kernel

theorem witness_RegisterWrites : quiet (base .s) = true := by decide +kernel

/-- Division: by zero, −2^63 by −1, and any other. -/
theorem witness_Division :
    let z := regs (base .l) [(1, 7)]
    let m := regs (base .l) [(1, 0x8000000000000000), (2, 0xFFFFFFFFFFFFFFFF)]
    let o := regs (base .l) [(1, 0x8000000000000000), (2, 1)]
    ready z 4 (some g0) = true ∧ rd z 2 = 0
      ∧ ready m 4 (some g0) = true ∧ rd m 1 = 0x8000000000000000 ∧ rd m 2 = 0xFFFFFFFFFFFFFFFF
      ∧ ready o 4 (some g0) = true ∧ rd o 2 ≠ 0
      ∧ ¬(rd o 1 = 0x8000000000000000 ∧ rd o 2 = 0xFFFFFFFFFFFFFFFF) := by decide +kernel

theorem witness_Nop : quiet (base .l) = true ∧ plain (base .l) 4 = true := by decide +kernel

theorem witness_Sel :
    (quiet (base .l) = true ∧ plain (base .l) 4 = true) ∧ (rp (base .l) 0 ^^ false) = true
      ∧ (rp (base .l) 0 ^^ true) = false := by decide +kernel

theorem witness_Predicates :
    (∀ i ∈ [Instr.psetEq g0 15 1 2, .psetNe g0 0 1 2, .psetLt g0 3 1 2, .psetLtu g0 3 1 2, .psetGe g0 3 1 2,
      .psetGeu g0 3 1 2, .plogAnd g0 3 1 2, .plogOr g0 3 1 2, .plogXor g0 3 1 2, .plogAndn g0 3 1 2, .pmov g0 3 31],
      ((Say.truth (base .l) i).any fun x => ready (base .l) 4 (some x.1)) = true)
    ∧ ready (base .l) 4 (some g0) = true := by decide +kernel

/-- The lane-mask stack at depths 1, 15 and 16. -/
def stack (n : Nat) : State := modCurJob (base .c) fun j => { j with maskStack := List.replicate n 5 }

theorem witness_Masks :
    ∀ n ∈ [1, 15, 16], (stack n).cur.strm = .c ∧ ready (stack n) 4 (some g0) = true
      ∧ (curJob (stack n)).maskStack = 5 :: List.replicate (n - 1) 5 := by decide +kernel

/-- A false guard of each kind that the statement names, and of class V. -/
theorem witness_FalseSlot :
    (∀ i ∈ [(Instr.add gF 3 1 2, Strm.l), (.twait gF 1, .l), (.ksetRow gF 1 2, .c), (.pushb gF 1, .l), (.sqpush gF 0 1, .l),
      (.sqpush gF 2 1, .c), (.sqpush gF 3 1, .s), (.sqpop gF 0 1, .c), (.sqpop gF 1 1, .s), (.sqpop gF 3 1, .l),
      (.rdq gF 0 0 1 2, .l), (.wrq gF 0 0 1, .s)],
      ((Say.guardOf i.1).any fun x => x.2.1.contains i.2 && Say.permitted (base i.2) x.2.2 && quiet (base i.2)
        && plain (base i.2) i.1.size && (rp (base i.2) x.1.p ^^ x.1.pn) == false) = true)
    ∧ Say.permitted (perm (base .l) 0x20) (some 5) = true ∧ Say.permitted (perm (base .l) 2) (some 1) = true
    ∧ (Instr.vmov { n := 0, fmt := 0, g := gF, k := 0, rnd := 7, ftz := false, sat := false, D := .row 1 0 false false .straight,
                    A := .row 2 0 false false .straight, B := .none, fn := 0 }).vParts.isSome = true
    ∧ plain (base .c) 12 = true := by decide +kernel

theorem witness_WrongStream :
    Say.guardOf (.ksetRow g0 1 2) = some (g0, [.c], none) ∧ (base .l).cur.strm ∉ [Strm.c]
      ∧ Say.guardOf (.wrq g0 0 0 1) = some (g0, [.s], none) ∧ (base .l).cur.strm ∉ [Strm.s] := by decide +kernel

/-- BMZ with a top of 0 and of 1; JALR with an address that is, and is not, a multiple of 4. -/
theorem witness_Jumps :
    quiet (base .c) = true ∧ plain (base .c) 4 = true ∧ (rp (base .c) 0 ^^ false) = true
      ∧ maskTop (curJob (base .c)) ≠ 0
      ∧ maskTop (curJob (modCurJob (base .c) fun j => { j with maskStack := [0, 1] })) = 0
      ∧ (rd (regs (base .c) [(1, 8)]) 1 + BitVec.ofInt 64 (BitVec.toInt (0x1FFF : BitVec 13) * 4)).toNat % 4 = 0
      ∧ (rd (regs (base .c) [(1, 9)]) 1).toNat % 4 ≠ 0 := by decide +kernel

theorem witness_BranchLeavesLoops : quiet (base .l) = true ∧ trapActive (curStream (base .l)) = false := by decide +kernel


/-! ## Queues, LOOP, traps, memory -/

/-- Queues: b0 with n entries. -/
def bits (s : State) (q : Fin 2) (n : Nat) : State :=
  modCurJob s fun j => { j with queues := { j.queues with b := j.queues.b.set q (List.replicate n true) } }

theorem witness_OutcomeQueues :
    (∀ n ∈ [0, 31], ready (bits (base .l) 0 n) 4 (some g0) = true ∧ (curJob (bits (base .l) 0 n)).queues.b[0].length < 32)
    ∧ ready (bits (base .c) 1 32) 4 (some g0) = true ∧ ¬(curJob (bits (base .c) 1 32)).queues.b[1].length < 32
    ∧ quiet (bits (base .s) 1 1) = true ∧ plain (bits (base .s) 1 1) 4 = true
    ∧ (curJob (bits (base .s) 1 1)).queues.b[1] = true :: [] ∧ (curJob (bits (base .c) 0 0)).queues.b[0] = [] := by
  decide +kernel

def words (s : State) (q : Fin 4) (n : Nat) : State :=
  modCurJob s fun j => { j with queues := { j.queues with sq := j.queues.sq.set q (List.replicate n 9) } }

theorem witness_ScalarQueues :
    ready (words (base .l) 0 15) 4 (some g0) = true ∧ (curJob (words (base .l) 0 15)).queues.sq[0].length < 16
      ∧ ready (words (base .s) 3 16) 4 (some g0) = true ∧ ¬(curJob (words (base .s) 3 16)).queues.sq[3].length < 16
      ∧ ready (words (base .c) 0 0) 4 (some g0) = true ∧ (curJob (words (base .c) 0 0)).queues.sq[0] = []
      ∧ ready (words (base .s) 1 1) 4 (some g0) = true ∧ (curJob (words (base .s) 1 1)).queues.sq[1] = 9 :: []
      ∧ ready (words (base .l) 2 16) 4 (some g0) = true
      ∧ (curJob (words (base .l) 2 16)).queues.sq[2] = 9 :: List.replicate 15 9 := by decide +kernel

/-- A LOOP of `st` + 1 stages over a body of `n` parcels, its trip count in s1. -/
def loopOp (st : BitVec 3) (sp : BitVec 4) (n : BitVec 16) : LoopOp :=
  { (default : LoopOp) with st := st, trip := 1, sp := sp, body := n }

/-- A LOOP with one rotating value of ten rows; the LOOP about it ends there. -/
def ringed : LoopOp := { loopOp 0 0 6 with rot0 := ⟨2, 9⟩ }

def outer (stop : Word) : LoopState :=
  { start := 0x0FFFF0, stop := stop, stages := 1, sp := 0, rots := [], trips := 2, j := 0, inHandler := false }

def nested (stop : Word) : State := modCurStream (base .c) fun st => { st with loops := [outer stop] }

theorem legal_of (s : State) (o : LoopOp) (h : o.body ≠ 0 ∧ (o.st = 0 ↔ o.sp = 0) ∧ o.sp.toNat + o.st.toNat ≤ 15)
    (hr : Say.ringsOf o = []) (hl : (curStream s).loops = []) : Say.LoopLegal s o := by
  exact ⟨h.1, h.2.1, h.2.2, by simp [hr], by simp [hr], by simp [hr], by simp [hl], by simp [hl], by simp [hl]⟩

/-- LOOPs that pass their checks, with 8 stages, with one, and with a trip count of 0; and one without a body. -/
theorem witness_LoopEntry :
    let s := regs (base .l) [(1, 3)]
    let z := base .l
    (quiet s = true ∧ plain s 24 = true) ∧ Say.LoopLegal s (loopOp 7 8 6) ∧ rd s 1 ≠ 0
      ∧ Say.LoopLegal s (loopOp 0 0 1) ∧ ¬Say.LoopLegal s (loopOp 0 0 0)
      ∧ (quiet z = true ∧ plain z 24 = true) ∧ Say.LoopLegal z (loopOp 0 0 1) ∧ rd z 1 = 0
      ∧ (∀ x ∈ (curStream z).loops, x.stop ≠ (Say.bodyOf z (loopOp 0 0 1)).2)
      -- a rotating value, within an outer LOOP that it fits
      ∧ Say.LoopLegal (nested 0x100100) ringed ∧ ¬Say.LoopLegal (nested 0x100020) ringed := by
  refine ⟨by decide +kernel, legal_of _ _ (by decide) (by decide +kernel) (by decide +kernel), by decide +kernel,
    legal_of _ _ (by decide) (by decide +kernel) (by decide +kernel), fun h => h.1 (by decide),
    by decide +kernel, legal_of _ _ (by decide) (by decide +kernel) (by decide +kernel), by decide +kernel,
    by decide +kernel, ?_, ?_⟩
  · have e : Say.ringsOf ringed = [⟨2, 9⟩] := by decide
    refine ⟨by decide, by decide, by decide, by simp [e], by simp [e], fun _ => rfl, by decide +kernel,
      by decide +kernel, fun x hx _ h => ?_⟩
    rw [show (curStream (nested 0x100100)).loops = [outer 0x100100] from rfl, List.mem_singleton] at hx
    exact absurd (hx ▸ rfl) h
  · exact fun h => absurd (h.2.2.2.2.2.2.2.1 (outer 0x100020) (by decide +kernel) (by decide +kernel)) (by decide +kernel)

/-- At the last instruction of a LOOP of two stages and two trips, in kernel iteration `j`. -/
def inLoop (j : Nat) : State :=
  modCurStream (base .l) fun st => { st with loops :=
    [{ start := 0x0FFFF0, stop := 0x100004, stages := 2, sp := 14, rots := [], trips := 2, j := j, inHandler := false },
     { start := 0x0FFF00, stop := 0x100008, stages := 1, sp := 0, rots := [], trips := 2, j := 0, inHandler := false }] }

theorem witness_LoopEnd :
    ∀ j ∈ [1, 2], quiet (inLoop j) = true ∧ trapActive (curStream (inLoop j)) = false
      ∧ ((curStream (inLoop j)).loops.head?.all fun l =>
          (curStream (inLoop j)).pc + 4 == l.stop && decide (l.start < l.stop) && decide ((curStream (inLoop j)).pc < l.stop)
          && decide (l.sp + l.stages ≤ 16) && decide (1 ≤ l.trips)
          && decide (l.j + 1 < l.trips + l.stages - 1) == (j == 1)) = true
      ∧ ((curStream (inLoop j)).loops.tail.all fun x =>
          x.stop != 0x100004 && decide ((0x100004 : Word) ≤ x.stop)) = true := by decide +kernel

theorem witness_Traps :
    let s := vec (base .c)
    let t := inH s
    (Tab.get? s.strs (hartKey s.cur)).isSome = true ∧ trapActive (curStream s) = false ∧ (curStream s).trap.vec ≠ 0
      ∧ traceOn s (getJob s (jobKey s.cur)).ids.part = false
      ∧ (∀ u ∈ [t, base .s], (Tab.get? u.jobs (jobKey u.cur)).isSome = true ∧ (getJob u (jobKey u.cur)).phase = .running)
      ∧ trapActive (getStream t t.cur) = true ∧ (getStream (base .s) (base .s).cur).trap.vec = 0 := by decide +kernel

theorem witness_SoftwareTrap :
    let s := vec (base .c)
    (quiet s = true ∧ plain s 4 = true ∧ trapActive (curStream s) = false ∧ (curStream s).trap.vec ≠ 0)
      ∧ quiet (inH s) = true ∧ plain (inH s) 4 = true ∧ trapActive (curStream (inH s)) = true
      ∧ (curJob (inH s)).phase = .running := by decide +kernel

/-- In a handler with this TRCAUSE. -/
def cause (c : Word) : State := modCurStream (base .l) fun st => { st with trap := { st.trap with cause := c } }

/-- The three ways TRET resumes, and TRET outside a handler. -/
theorem witness_TrapReturn :
    ([0x200, 0x611, 0x308].all fun c => quiet (cause c) && plain (cause c) 4 && trapActive (curStream (cause c))
      && (curStream (cause c)).loops.all fun l => l.inHandler) = true
    ∧ quiet (base .l) = true ∧ plain (base .l) 4 = true ∧ trapActive (curStream (base .l)) = false := by decide +kernel

theorem witness_Break :
    let s := vec (base .l)
    let d := modDebug s 0 fun d => { d with buffer := 1 }
    (quiet s = true ∧ plain s 4 = true ∧ trapActive (curStream s) = false ∧ bitOf (getDebug s (curPart s)).buffer 0 = false
        ∧ (curStream s).trap.vec ≠ 0)
      ∧ (quiet d = true ∧ plain d 4 = true ∧ trapActive (curStream d) = false
        ∧ bitOf (getDebug d (curPart d)).buffer 0 = true ∧ isSealed d (curPart d) = false)
      ∧ quiet (inH d) = true ∧ plain (inH d) 4 = true ∧ trapActive (curStream (inH d)) = true
        ∧ (curJob (inH d)).phase = .running := by decide +kernel

/-- An address in scratchpad, one in device memory on a WB page, and one in each not aligned. -/
def spadVa : Word := 0xFF0000000000
def memVa : Word := 0x200000
def memXl : Xl := ⟨0x200000, 0x200000, 0, false⟩

/-- s1 holds this address. -/
def at1 (va : Word) : State := regs (base .l) [(1, va), (2, 3), (3, 5)]

theorem place_spad (k : AccKind) (n : Nat) (h : n = 1 ∨ n = 2 ∨ n = 4 ∨ n = 8 ∨ n = 16) :
    Say.place (at1 spadVa) k spadVa n (.spad 0 none) := by
  rcases h with rfl | rfl | rfl | rfl | rfl <;> (refine ⟨?_, ?_, ?_, rfl, ?_⟩ <;> decide +kernel)

theorem place_mem (k : AccKind) (n : Nat) (h : n = 1 ∨ n = 2 ∨ n = 4 ∨ n = 8 ∨ n = 16) :
    Say.place (at1 memVa) k memVa n (.glob memXl) := by
  rcases h with rfl | rfl | rfl | rfl | rfl <;> cases k <;>
    (refine ⟨?_, ?_, ?_, ?_, ⟨memXl, ?_, Or.inl ⟨?_, rfl⟩⟩, ?_⟩ <;> decide +kernel)

/-- The same, with a word in memory there. -/
def wordIs (n : Nat) : State :=
  { at1 memVa with ms := { (at1 memVa).ms with mem := Memory.putBytes (at1 memVa).ms.mem 0x200000 (leBytes 8 n) } }

theorem place_word (v : Nat) (hv : v = 3 ∨ v = 4 ∨ v = 0x500000003) (k : AccKind) (n : Nat) (h : n = 8 ∨ n = 16) :
    Say.place (wordIs v) k memVa n (.glob memXl) := by
  rcases hv with rfl | rfl | rfl <;> rcases h with rfl | rfl <;> cases k <;>
    (refine ⟨?_, ?_, ?_, ?_, ⟨memXl, ?_, Or.inl ⟨?_, rfl⟩⟩, ?_⟩ <;> decide +kernel)

theorem witness_Loads :
    (∀ i ∈ [Instr.ldb 3 1 0, .ldbu 3 1 0, .ldh 3 1 0, .ldhu 3 1 0, .ldw 3 1 0, .ldwu 3 1 0, .ldd 3 1 0, .ldpiB g0 3 1 2,
      .ldpiBu g0 3 1 2, .ldpiH g0 3 1 2, .ldpiHu g0 3 1 2, .ldpiW g0 3 1 2, .ldpiWu g0 3 1 2, .ldpiD g0 3 1 1],
      ((Say.loadForm (at1 memVa) i).any fun x => ready (at1 memVa) 4 x.1 && x.2.2.1 == memVa) = true
      ∧ ((Say.loadForm (at1 (memVa + 1)) i).any fun x => ready (at1 (memVa + 1)) 4 x.1
          && (x.2.2.2.1 == 1 || x.2.2.1.toNat % x.2.2.2.1 != 0)) = true)
    ∧ Say.place (at1 memVa) .read memVa 8 (.glob memXl) ∧ Say.place (at1 spadVa) .read spadVa 1 (.spad 0 none) :=
  ⟨by decide +kernel, place_mem _ _ (by simp), place_spad _ _ (by simp)⟩

theorem witness_Stores :
    (∀ i ∈ [Instr.stb 3 1 0, .sth 3 1 0, .stw 3 1 0, .std 3 1 0, .stpiB g0 3 1 2, .stpiH g0 3 1 2, .stpiW g0 3 1 2,
      .stpiD g0 1 1 2],
      ((Say.storeForm (at1 memVa) i).any fun x => ready (at1 memVa) 4 x.1 && x.2.2.1 == memVa) = true)
    ∧ Say.place (at1 memVa) .write memVa 8 (.glob memXl) ∧ Say.fits (at1 memVa) (.glob memXl) 8
    ∧ Say.place (at1 spadVa) .write spadVa 8 (.spad 0 none) ∧ Say.fits (at1 spadVa) (.spad 0 none) 8
    ∧ quiet (at1 memVa) = true ∧ memOk (at1 memVa) = true ∧ memOk (at1 spadVa) = true
    ∧ effType memXl = 0 ∧ memXl.pa % 8 = 0 ∧ effType { memXl with typ := 2 } = 2 ∧ memXl.cmp = false
    ∧ (at1 memVa).ms.split = none ∧ (at1 spadVa).ms.split = none
    -- an address that is not a multiple of the width, of a load and of a store
    ∧ ready (at1 (memVa + 1)) 4 none = true ∧ (rd (at1 (memVa + 1)) 1 + BitVec.signExtend 64 (0 : BitVec 13)).toNat % 2 ≠ 0
    ∧ ((Say.loadForm (at1 (memVa + 1)) (.ldh 3 1 0)).any fun x => x.2.2.1.toNat % x.2.2.2.1 != 0) = true
    ∧ ((Say.storeForm (at1 (memVa + 1)) (.std 3 1 0)).any fun x => x.2.2.1.toNat % x.2.2.2.1 != 0) = true :=
  ⟨by decide +kernel, place_mem _ _ (by simp), Or.inr (by decide +kernel), place_spad _ _ (by simp), trivial,
    by decide +kernel⟩

/-- A host page, by one block of each stage: VA 1 GiB is the host's address 0 behind port 0, under ATS. -/
def hosted (ide : Bool) (refused : List (Waiter × Nat)) : State :=
  let s := modPort { at1 0x40000000 with ownOwner := [(312, 0)] } 0 fun p => { p with up := true, ide := ide, ats := true }
  let mem := Memory.putBytes (Memory.putBytes s.ms.mem 0x11008 (leBytes 8 0x40000000001D)) 0x13008 (leBytes 8 0x4000001D)
  { s with ms := { s.ms with mem := mem, hostAbsent := [0x400000000], priRefused := refused } }

/-- A load and a store: the link carries nothing; the page is refused, and awaited. -/
theorem witness_HostPages :
    [hosted false [], hosted true [], hosted true [((curAgent (hosted true [])).who, 0x400000000)]].all (fun s =>
      ((Say.loadForm s (.ldd 3 1 0)).any fun x => x.1 == none && x.2.2.1 == 0x40000000 && x.2.2.2.1 == 8) && ready s 4 none
        && ((Say.storeForm s (.std 3 1 0)).any fun x => x.1 == none && x.2.2.1 == 0x40000000 && x.2.2.2.1 == 8)
        && !inSpadWindow 0x40000000 && (List.range 4).all (fun w => stashSizeOf (viewedJob s) w == 0)
        && [AccKind.read, .write].all fun k => (translate s (curPart s) (curJob s).ids.pasid 0x40000000 k s.cur.core).toOption.any
            fun y => isHostPa y.pa && hostPort y.pa == 0 && y.pa / 4096 == 0x400000000) = true
    ∧ linkCarries (hosted false []) 0 0 = false ∧ linkCarries (hosted true []) 0 0 = true
    ∧ hostPage (hosted true []) (curAgent (hosted true [])).who 0 0x400000000000 = .waits
    ∧ hostPage (hosted true [((curAgent (hosted true [])).who, 0x400000000)]) (curAgent (hosted true [])).who 0 0x400000000000
        = .refused := by decide +kernel

/-- Window 3 holds two lines of memory at 0x200000, kept at job offset 0x1000; these lines of it have been filled. -/
def stashed (l : List StashLine) : State :=
  let s := modCurJob (at1 (memVa + 8)) fun j =>
    { j with stashBase := j.stashBase.set 3 0x200000, stashSize := j.stashSize.set 3 0x1000000200 }
  { s with ms := { s.ms with stash := l } }

def held : StashLine := lineOf (curJob (stashed [])) 3 0 0x200000 false false

theorem in_window (l : List StashLine) (h : l = [] ∨ l = [held]) (k : AccKind) (hk : k = .read ∨ k = .write) :
    Say.InWindow (stashed l) k (memVa + 8) 8 3 0x1008 0x1000 memXl := by
  rcases h with rfl | rfl <;> rcases hk with rfl | rfl <;>
    exact
      { aligned := by decide +kernel, noOps := by decide +kernel, global := by decide, lt := by decide
        mapped := by decide +kernel, holds := by decide +kernel, one := by decide +kernel, line := by decide +kernel
        byte := by decide +kernel, access := ⟨⟨0x200008, 0x200008, 0, false⟩, _, by decide +kernel, Or.inl ⟨by decide, rfl⟩⟩
        source := ⟨memXl, by decide +kernel, Or.inl ⟨by decide, rfl⟩⟩, whole := by decide
        inOrder := by rfl, memory := by decide +kernel }

/-- A filled line, and one that is not. -/
theorem witness_StashAccesses :
    (∀ l, l = [] ∨ l = [held] → Say.InWindow (stashed l) .read (memVa + 8) 8 3 0x1008 0x1000 memXl
      ∧ Say.InWindow (stashed l) .write (memVa + 8) 8 3 0x1008 0x1000 memXl)
    ∧ [stashed [], stashed [held]].all (fun s => ready s 4 none && s.ms.split.isNone && (curJob s).sealedSet.isEmpty
        && ((Say.loadForm s (.ldd 3 1 0)).any fun x => x.1 == none && x.2.2.1 == memVa + 8)
        && ((Say.storeForm s (.std 3 1 0)).any fun x => x.1 == none && x.2.2.1 == memVa + 8)) = true
    ∧ Say.filled (stashed []) (memVa + 8) 3 = false ∧ Say.filled (stashed [held]) (memVa + 8) 3 = true
    ∧ spadPoisonIn (stashed [held]) 0x1008 8 = none ∧ poisonIn (stashed []) (curAgent (stashed [])).view 0x200000 256 = none :=
  ⟨fun l h => ⟨in_window l h _ (by simp), in_window l h _ (by simp)⟩, by decide +kernel⟩

/-- The job that executes is the one that its JOBID names. -/
theorem witness_StoreFrame :
    Say.named (at1 memVa) ∧ Say.named (at1 spadVa) ∧ quiet (at1 memVa) = true ∧ memOk (at1 memVa) = true
      ∧ memOk (at1 spadVa) = true ∧ (at1 memVa).ms.split = none :=
  ⟨⟨by decide +kernel, by decide +kernel⟩, ⟨by decide +kernel, by decide +kernel⟩, by decide +kernel⟩

theorem witness_Atomics :
    (∀ i ∈ [Instr.amoAdd ⟨0, false⟩ 3 1 2, .amoMin ⟨6, true⟩ 3 1 2, .amoMax ⟨0, false⟩ 3 1 2, .amoMinu ⟨0, false⟩ 3 1 2,
      .amoMaxu ⟨0, false⟩ 3 1 2, .amoAnd ⟨0, false⟩ 3 1 2, .amoOr ⟨0, false⟩ 3 1 2, .amoSwap ⟨0, false⟩ 3 1 2,
      .cas ⟨0, false⟩ 3 1 2], ((Say.atomicForm (at1 memVa) i).any fun x => x.2.2.1 == 1) = true)
    ∧ ready (at1 memVa) 4 none = true ∧ rd (at1 memVa) 1 = memVa
    ∧ Say.place (at1 memVa) .atomic memVa 8 (.glob memXl) ∧ Say.isWb (.glob memXl)
    ∧ Say.place (at1 spadVa) .atomic spadVa 8 (.spad 0 none) ∧ Say.isWb (.spad 0 none)
    ∧ Say.place (at1 memVa) .atomic memVa 16 (.glob memXl) ∧ (at1 memVa).ms.amoq = []
    -- a sequence number that is NEXT, the last ahead of it, the first behind it
    ∧ (orderedCell (at1 memVa) (curAgent (at1 memVa)).view (.glob memXl)).2 = 0 ∧ ((2 ^ 31 - 1 : BitVec 32) - 0).toNat < 2 ^ 31
    ∧ 2 ^ 31 ≤ ((2 ^ 31 : BitVec 32) - 0).toNat :=
  ⟨by decide +kernel, by decide +kernel, by decide +kernel, place_mem _ _ (by simp), by rfl,
    place_spad _ _ (by simp), trivial, place_mem _ _ (by simp), by decide +kernel⟩

theorem witness_ReleaseAcquire :
    ready (at1 memVa) 4 none = true ∧ Say.place (at1 memVa) .atomic (rd (at1 memVa) 1) 16 (.glob memXl)
      ∧ Say.place (at1 memVa) .read (rd (at1 memVa) 1) 16 (.glob memXl) ∧ Say.isWb (.glob memXl)
      ∧ Say.isGlobal (.glob memXl) :=
  ⟨by decide +kernel, place_mem _ _ (by simp), place_mem _ _ (by simp), by rfl, trivial⟩

/-- WAITA, SWSET and SWWAIT on words that stand at 3, and at 4; sync words at the edges of an advance. -/
theorem witness_SyncWords :
    (∀ v ∈ [3, 4, 0x500000003], let s := wordIs v
      ready s 4 none = true ∧ Say.place s .read (rd s 1) 8 (.glob memXl) ∧ Say.place s .read (rd s 1) 16 (.glob memXl)
        ∧ Say.place s .atomic (rd s 1) 16 (.glob memXl)
        ∧ polled (Say.accessed s (.glob memXl) 8) (.glob memXl) = BitVec.ofNat 64 v)
    -- SWSET of 3: COUNT is 0, and 5
    ∧ (syncRead (cellNow (Say.accessed (wordIs 3) (.glob memXl) 16) (.glob memXl) 16) (curAgent (wordIs 3)).view
        (.glob memXl)).count = 0
    ∧ (syncRead (cellNow (Say.accessed (wordIs 0x500000003) (.glob memXl) 16) (.glob memXl) 16)
        (curAgent (wordIs 3)).view (.glob memXl)).count = 5
    ∧ rd (wordIs 3) 2 = 3 ∧ (2 ^ 32 - 1 < 2 ^ 32 ∧ 2 ^ 32 - 1 + 0 < 2 ^ 32) ∧ Say.isWb (.glob memXl)
    ∧ passed 0 (rd (wordIs 3) 2).toNat = false ∧ passed 1 (rd (at1 memVa) 0).toNat = true := by
  refine ⟨fun v h => ⟨?_, ?_, ?_, ?_, ?_⟩, by refine ⟨?_, ?_, ?_, ?_, by rfl, ?_⟩ <;> decide +kernel⟩
  on_goal 2 => exact place_word v (by simpa using h) _ _ (by simp)
  on_goal 2 => exact place_word v (by simpa using h) _ _ (by simp)
  on_goal 2 => exact place_word v (by simpa using h) _ _ (by simp)
  all_goals
    simp only [List.mem_cons, List.not_mem_nil, or_false] at h
    rcases h with rfl | rfl | rfl <;> decide +kernel

/-- No binding, and one that the new one touches; a region that ends at 2^47. -/
def bound (n : Nat) : State :=
  modPart (regs (base .l) [(1, 16), (2, 0x7FFFFFFFFF00), (3, 0x100)]) 0 fun p =>
    { p with bindings := List.replicate n ⟨0x20, 0, 0x7FFFFFFFFF00, 0⟩ }

theorem witness_Bindings :
    (∀ n ∈ [0, 1], ready (bound n) 4 none = true ∧ (getPart (bound n) 0).bindings.length < Config.bindEntries
      ∧ ∀ x ∈ (getPart (bound n) 0).bindings, x.pasid = 0 → x.base.toNat + x.length.toNat ≤ 0x7FFFFFFFFF00)
    ∧ rd (bound 0) 1 = 16 ∧ rd (bound 0) 2 = 0x7FFFFFFFFF00 ∧ rd (bound 0) 3 = 0x100
    ∧ ready (modPart (bound 0) 0 fun p => { p with bindings := [⟨16, 0, 0x100, 0⟩, ⟨16, 0x7FFFFFFFFF00, 0x100, 0⟩] }) 4 none = true
    ∧ (⟨16, 0x7FFFFFFFFF00, 0x100, 0⟩ : Binding) ∉ [(⟨16, 0, 0x100, 0⟩ : Binding)] := by decide +kernel

/-- BAR at number `n`, in a job that is a member of every level, of one arrival each. -/
def bar (n b : Word) (dom : Word) : State :=
  modCurJob (vec (regs (base .l) [(1, n), (2, b)])) fun j => { j with ids := { j.ids with dommem := dom } }

def member : Word := 0x20080200802009

theorem witness_Barriers :
    ((List.range 7).all fun l => quiet (bar 2047 0 member) && decide ((Say.barrier (bar 2047 0 member) l 2047).2.1 < 2 ^ 32)
      && ready (bar 2047 0 member) 4 none && mayArrive member l .l
      && (Say.barrier (arrive (bar 2047 0 member) l 2047).1 l 2047).2.1 == 1
      && (curStream (bar 2047 0 member)).arrived == none
      && (Say.barrier (bar 2047 0 member) l 2047).1 + 1 == domCount (curJob (bar 2047 0 member)).ids.dommem l) = true
    -- a stream that has arrived: PHASE has passed its arrival's, and has not
    ∧ (let s := fun w => modCurStream (bar 2047 0 member) fun st => { st with arrived := some w }
       ready (s 0) 4 none = true ∧ (curStream (s 0xFFFFFFFF)).arrived = some 0xFFFFFFFF
        ∧ passed (Say.barrier (s 0xFFFFFFFF) 3 2047).2.1 0xFFFFFFFF = true ∧ passed (Say.barrier (s 0) 3 2047).2.1 0 = false)
    ∧ passed (Say.barrier (bar 0 1 member) 0 0).2.1 (rd (bar 0 1 member) 2).toNat = false
    ∧ passed (Say.barrier (bar 0 0xFFFFFFFF member) 0 0).2.1 (rd (bar 0 0xFFFFFFFF member) 2).toNat = true
    ∧ passed 0 (0xFFFFFFFF : BitVec 32).toNat = true ∧ passed 0 (0 : BitVec 32).toNat = false
    ∧ ready (bar 2048 0 member) 4 none = true ∧ (rd (bar 2048 0 member) 1).toNat = 2048
    ∧ ready (bar 0 0 0) 4 none = true ∧ mayArrive 0 1 .l = false := by decide +kernel

/-! ## The rendezvous, tokens, recipes -/

/-- The L- and C-streams stand at these rendezvous; the S-stream executes. -/
def stands (l c : Rendezvous) : State :=
  let put := fun (s : State) (t : Strm) (r : Rendezvous) =>
    modStream s ⟨0, 0, t⟩ fun st => { st with stand := some r }
  put (put (vec (base .s)) .l l) .c c

theorem meets (r : Rendezvous) (h : r = .rdv ∨ r = .rgn 1 ∨ r = .yield g0 ∨ r = .ended) : Say.meeting (stands r r) r := by
  rcases h with rfl | rfl | rfl | rfl <;> intro t <;> cases t <;>
    first
    | exact ⟨by decide +kernel, by decide +kernel, fun _ => ⟨_, rfl, by decide +kernel⟩⟩
    | exact ⟨by decide +kernel, by decide +kernel, fun h => absurd rfl h⟩

theorem witness_Rendezvous :
    Say.meeting (stands .rdv .rdv) .rdv ∧ Say.meeting (stands (.rgn 1) (.rgn 1)) (.rgn 1)
      ∧ Say.free (stands (.rgn 1) (.rgn 1)) ∧ (1 : BitVec 18) ≠ 0
      ∧ Say.meeting (stands (.yield g0) (.yield g0)) (.yield g0) ∧ guardOk (stands (.yield g0) (.yield g0)) g0 = true
      ∧ Say.free (stands (.yield g0) (.yield g0))
      ∧ Say.meeting (stands .ended .ended) .ended ∧ Say.free (stands .ended .ended)
      ∧ (curCore (stands .ended .ended)).tokens = []
      ∧ Tab.wf (stands .ended .ended).jobs = true ∧ Tab.wf (stands .ended .ended).strs = true :=
  ⟨meets _ (by simp), meets _ (by simp), ⟨by decide +kernel, by decide +kernel, by decide +kernel, by decide +kernel⟩,
    by decide, meets _ (by simp), by decide +kernel,
    ⟨by decide +kernel, by decide +kernel, by decide +kernel, by decide +kernel⟩, meets _ (by simp),
    ⟨by decide +kernel, by decide +kernel, by decide +kernel, by decide +kernel⟩, by decide +kernel, by decide +kernel,
    by decide +kernel⟩

theorem standing_of (l c : Rendezvous) (h : l = .ended ∧ c = .ended ∨ l = .rgn 2 ∧ c = .ended) (s : State)
    (hs : s = stands l c ∨ s = bits (stands l c) 0 1) : Say.standing s := by
  rcases h with ⟨rfl, rfl⟩ | ⟨rfl, rfl⟩ <;> rcases hs with rfl | rfl <;> intro t <;> cases t <;>
    first
    | exact ⟨by decide +kernel, by decide +kernel, by decide +kernel, by decide +kernel, fun _ => ⟨_, rfl⟩⟩
    | exact ⟨by decide +kernel, by decide +kernel, by decide +kernel, by decide +kernel, fun h => absurd rfl h⟩

/-- A first arrival; three that differ; a queue that is not empty. -/
theorem witness_RendezvousTraps :
    (ready (base .s) 4 none = true ∧ (curStream (Say.as (base .s) .l)).stand = none)
      ∧ Say.standing (stands (.rgn 2) .ended)
      ∧ ((curStream (Say.as (stands (.rgn 2) .ended) .l)).stand = some (.rgn 2) ∧ (Rendezvous.rgn 2).meets .rdv = false
        ∧ (Rendezvous.rgn 2).meets (.rgn 1) = false)
      ∧ Say.free (stands (.rgn 2) .ended)
      ∧ Say.standing (bits (stands .ended .ended) 0 1) ∧ queuesEmpty (curJob (bits (stands .ended .ended) 0 1)) = false
      ∧ trapActive (curStream (bits (stands .ended .ended) 0 1)) = false :=
  ⟨by decide +kernel, standing_of _ _ (by simp) _ (Or.inl rfl), by decide +kernel,
    ⟨by decide +kernel, by decide +kernel, by decide +kernel, by decide +kernel⟩,
    standing_of _ _ (by simp) _ (Or.inr rfl), by decide +kernel, by decide +kernel⟩

/-- One operation in slot 5 of the core, of sequence number 0x110, next number 0x120; s4 holds a token. -/
def token (x : TokState) : TokenEntry :=
  { (default : TokenEntry) with seq := 0x110, state := x, holder := some 1, strm := .l, instr := .nop g0 }

def withTok (t : Strm) (v : Word) (e : TokenEntry) : State :=
  modCurCore (vec (regs (base t) [(4, v), (6, 9)])) fun c => { c with tokens := [(5, e)], nextSeq := 0x120 }

/-- The cases of R151: NONE, sequence number 0, FOREIGN, FORWARD (age 0 and 2^23 + 1), RETIRED (ages 1 and 2^23). -/
theorem witness_TokenOperands :
    let s := fun v => withTok .l v (token .running)
    Say.tokenOf (.twait g0 4) = some (g0, 4) ∧ ready (s 0) 4 (some g0) = true
      ∧ (rd (s 0) 4 = 0 ∧ (curJob (s 0)).accs.toList.all (fun a => a.pending.isEmpty) = true)
      ∧ Say.seqOf (rd (s 0x05000000) 4) = 0
      ∧ (Tab.get? (curCore (withTok .l 0x05000110 { token .running with holder := some 2 })).tokens 5).any
          (fun e => e.seq == 0x110 && e.holder != some 1) = true
      ∧ Say.age (s 0) 0x120 = 0 ∧ Say.age (s 0) 0x11F = 1 ∧ Say.age (s 0) (0x120 + 0xFFFFFF - 2 ^ 23) = 2 ^ 23
      ∧ Say.age (s 0) (0x120 + 0xFFFFFF - 2 ^ 23 - 1) = 2 ^ 23 + 1 := by decide +kernel

theorem witness_TokenEffects :
    (∀ x ∈ [TokState.pending, .ready, .running, .done, .faulted, .cancelled], ready (withTok .l 0x05000110 (token x)) 4 (some g0) = true
      ∧ Say.seqOf (rd (withTok .l 0x05000110 (token x)) 4) ≠ 0
      ∧ Tab.get? (curCore (withTok .l 0x05000110 (token x))).tokens 5 = some (token x)
      ∧ (token x).seq = Say.seqOf (rd (withTok .l 0x05000110 (token x)) 4)
      ∧ (token x).holder = some (curJob (withTok .l 0x05000110 (token x))).ids.jobid
      ∧ (token x).det = false ∧ (token x).strm = .l ∧ (token x).reported = false ∧ footAccs (token x).foot = []
      ∧ accsOwned (curJob (withTok .l 0x05000110 (token x))) 5 0x110 = []
      ∧ Tab.wf (curCore (withTok .l 0x05000110 (token x))).tokens = true)
    -- one that has been reported, one whose footprint names an accumulator
    ∧ { token .faulted with reported := true }.reported = true
    ∧ footAccs { token .done with foot := [.acc 3 true] }.foot ≠ []
    -- an operation that owns accumulator 7
    ∧ accsOwned (curJob (modCurJob (withTok .l 0x05000110 (token .done)) fun j =>
        { j with accs := j.accs.set 7 { j.accs[7] with owner := some (5, 0x110) } })) 5 0x110 = [7]
    -- ADOPT: no orphan of the name, and one
    ∧ ready (withTok .l 0 (token .done)) 4 (some g0) = true
    ∧ (∀ e ∈ (curCore (withTok .l 0 (token .done))).tokens, e.2.holder = none → e.2.name ≠ 9)
    ∧ orphanNamed (withTok .l 0 { token .running with holder := none, name := 9 }) 0 9
        = some (5, { token .running with holder := none, name := 9 })
    ∧ (heldBy (withTok .l 0 { token .running with holder := none, name := 9 }) 0 1).length < Config.tokenShare
    ∧ (freeSlot (withTok .l 0 { token .running with holder := none, name := 9 }) 0).isSome = true := by decide +kernel

/-- Rows of the executing job, in the C-stream. -/
def withRows (l : List (Nat × Row)) : State := modCurJob (vec (base .c)) fun j => { j with rows := l }

/-- A row under a tag, and a resident recipe row. -/
def rowOf (t : Tag) (d : RowBits) : Row := ⟨rowTag t false false true, d, 0, 0⟩
def recipeRow : Row := ⟨rowTag 4 true false true, 7, 0, 1⟩

theorem witness_FixDrop :
    let s := withRows [(4, rowOf 4 7), (5, rowOf 4 8)]
    s.cur.strm = .c ∧ ready s 4 none = true ∧ (curJob s).recipes = [] ∧ (∀ e ∈ (curJob s).rows, e.2.mark = false)
      ∧ (∀ r ∈ immRows (4 + 1024), (getRow (curJob s) r).res = true) ∧ ordinaryRows (curJob s) ≤ (curJob s).ids.rowRes
      -- one row more than the reservation has room for
      ∧ (let u := modCurJob s fun j => { j with ids := { j.ids with rowRes := 2 } }
         ready u 4 none = true ∧ (curJob u).ids.rowRes < ordinaryRows (curJob u) +
          ((immRows 6).filter fun r => !(getRow (curJob u) r).res || (getRow (curJob u) r).mark).length) := by decide +kernel

theorem witness_RecipeClear :
    let s := withRows [(4, recipeRow), (5, rowOf 4 8)]
    s.cur.strm = .c ∧ ready s 4 none = true ∧ Tab.wf (curJob s).rows = true ∧ readersOf (curJob s) (immRows (4 + 1024)) = []
      ∧ ordinaryRows (curJob s) + ((immRows (4 + 1024)).filter fun r =>
        (getRow (curJob s) r).mark && (getRow (curJob s) r).res).length ≤ (curJob s).ids.rowRes := by decide +kernel

/-- VIOTA of row 5; RCP of row 5, and of row 6, with it as its body. -/
def iota5 : Instr :=
  .viota { fmt := 4, k := 0, g := g0, fn := 0, rnd := 7, sat := false, ftz := false, D := .row 5 0 false false .straight,
           A := .imm 3, B := .none, n := 0 }

def rcpAt (i : BitVec 13) : State :=
  vec { probe State.reset ((encode (.rcp 0 i) ++ encode iota5).flatMap (leBytes 4)) .c with cur := ⟨0, 0, .c⟩, agenda := [] }

theorem witness_RecipeMade :
    (∀ i ∈ [5, 6], (rcpAt i).cur.strm = .c ∧ quiet (rcpAt i) = true ∧ plain (rcpAt i) 4 = true
      ∧ (fetchBody (rcpAt i) (rcpAt i).cur ((curStream (rcpAt i)).pc + 4) 1).toOption = some ([(iota5, 0x100004)], encode iota5))
    ∧ rcpLegal (rcpAt 5) 5 1 [iota5] = true ∧ rcpLegal (rcpAt 6) 6 1 [iota5] = false
    ∧ (keptRecipes (curJob (rcpAt 5)) (immRows 5)).length < 16 ∧ (∀ r ∈ immRows 5, sourceRecipe (curJob (rcpAt 5)) r = none)
    ∧ (curStream (rcpAt 5)).loops = [] := by decide +kernel

/-- SEAL of the last 256 bytes of the grant's upper half, of the first 256 past it, of a length of 0; with 7 ranges, with 8. -/
def sealing (off len : Word) (n : Nat) : State :=
  modCurJob (vec (regs (base .l) [(4, off), (5, len)])) fun j => { j with sealedSet := List.replicate n (0, 256) }

theorem witness_SealedSet :
    (∀ x ∈ [(0x87F00, 7), (0x88000, 0), (0x87F00, 8)], ready (sealing x.1 256 x.2) 4 (some g0) = true
      ∧ (rd (sealing x.1 256 x.2) 4).toNat % 256 = 0 ∧ rd (sealing x.1 256 x.2) 5 = 256
      ∧ (curJob (sealing x.1 256 x.2)).sealedSet.length = x.2)
    ∧ (grantAddr 0 (curJob (sealing 0 256 0)).grant 0x87F00 256).isSome = true
    ∧ (grantAddr 0 (curJob (sealing 0 256 0)).grant 0x88000 256).isSome = false
    ∧ writesRange (sealing 0x87F00 256 7) (sealing 0x87F00 256 7).cur 1 0x87F00 256 = false
    ∧ rd (sealing 0x87F00 0 7) 5 = 0 ∧ (0x87F00, 256) ∉ (curJob (sealing 0x87F00 256 7)).sealedSet
    ∧ (0, 256) ∈ (curJob (sealing 0 256 1)).sealedSet ∧ writesRange (sealing 0 256 1) (sealing 0 256 1).cur 1 0 256 = false
    ∧ (curJob (sealing 0 256 1)).sealedSet = [] ++ (0, 256) :: [] ∧ (curJob (sealing 0 256 1)).recipes = []
    ∧ (curJob (sealing 0 256 1)).rows = [] := by decide +kernel

/-! ## Launches, system instructions -/

/-- Launch record 63, the last of the share, in this state; s4 holds an index. -/
def record (n : Word) (state flags : Nat) : State :=
  modLaunch (vec (regs (base .l) [(4, n), (5, 0xFFFFFFFF)])) 63 fun l => ((l.put 0 1 state).put 6 2 flags).put 0x18 4 1

theorem witness_Launches :
    (∀ x ∈ [1, 4], ready (record 63 x 0) 4 (some g0) = true ∧ Say.owns (record 63 x 0) 63 ∧ (getLaunch (record 63 x 0) 63).state = x
      ∧ fieldsOk (record 63 x 0) 0 (getLaunch (record 63 x 0) 63) = true ∧ (getLaunch (record 63 x 0) 63).flags / 8 % 2 = 0
      ∧ eventTurn (record 63 x 0) 0 1 63 = .now ∧ requestsOut (record 63 x 0) = false
      ∧ (curStream (record 63 x 0)).arming = false)
    ∧ (∀ i ∈ [Instr.lputDeadline g0 4 5, .lputArgs g0 4 5, .lputCount g0 4 5, .lputPatch g0 3 4 5, .lputPatch g0 7 4 5],
      ((Say.lputForm (record 63 1 0) i).any fun x => x.1 == g0 && x.2.1 == 4 && x.2.2.2.2.2) = true)
    -- one past the share; an armed record; a flag that is reserved
    ∧ ready (record 64 1 0) 4 (some g0) = true ∧ ¬(64 : Nat) < 0 + 64 ∧ (getLaunch (record 63 2 0) 63).state = 2
    ∧ (getLaunch (record 63 1 8) 63).flags / 8 % 2 = 1
    -- an ARM that has released: its record is still BUILT, or another has armed it
    ∧ (let s := fun x => modCurStream (record 63 x 0) fun st => { st with arming := true }
       ready (s 1) 4 (some g0) = true ∧ (curStream (s 1)).arming = true ∧ requestsOut (s 2) = false
        ∧ eventTurn (s 1) 0 1 63 = .now ∧ eventTurn (s 2) 0 1 63 = .now ∧ ready (s 2) 4 (some g0) = true
        ∧ fieldsOk (s 1) 0 (getLaunch (s 1) 63) = true ∧ (getLaunch (s 2) 63).state = 2) := by
  unfold Say.owns
  decide +kernel

/-- Stream 255, with rung 3 of one record. -/
def rungs (a b : Word) : State :=
  { modSdesc (vec (regs (base .l) [(4, a), (5, b)])) 255 (fun d => (d.put 0x40 1 2).put 0x3C 2 1) with ownOwner := [(255, 0)] }

/-- MIGR from core 1 to core 2, and with core ids at the partition's count. -/
def moves (a b n : Word) : State := perm (vec (regs (base .l) [(4, a), (5, b), (6, n)])) 0x20

theorem witness_LaunchQueries :
    ready (base .l) 4 (some g0) = true ∧ (curJob (base .l)).signalled = false
      ∧ (curJob (modCurJob (base .l) fun j => { j with signalled := true })).signalled = true
      ∧ (getLaunch (base .l) 0).preds = []
      ∧ (getLaunch (modLaunch (base .l) 0 fun l => { l with preds := [(3, 1, 2)] }) 0).preds = [(3, 1, 2)]
      ∧ ready (rungs 255 3) 4 (some g0) = true ∧ Tab.get? (rungs 255 3).ownOwner 255 = some 0
      ∧ rungCount (getSdesc (rungs 255 3) 255) 3 ≠ 0 ∧ rungCount (getSdesc (rungs 255 3) 255) 2 = 0
      ∧ Tab.get? (rungs 254 3).ownOwner 254 = none
      -- MIGR
      ∧ (coreCount (moves 1 2 1) 0 = 8 ∧ ready (moves 1 2 1) 4 (some g0) = true
        ∧ bitOf (getPart (moves 1 2 1) 0).perms 5 = true ∧ bitOf (getPart (base .l) 0).perms 5 = false)
      ∧ rd (moves 8 2 1) 4 = 8 ∧ rd (moves 7 8 1) 5 = 8 ∧ rd (moves 1 2 0) 6 = 0 ∧ rd (moves 1 1 1) 4 = rd (moves 1 1 1) 5
      ∧ replaying (moves 1 2 1) 0 = false ∧ requestsOut (moves 1 2 1) = false ∧ arbiterOpen (moves 1 2 1) 0 = true := by decide +kernel

theorem witness_ControlRegisters :
    let s := regs (base .l) [(4, 0x2000), (5, 0x0F), (6, 0x14), (7, 5)]
    ready s 4 none = true
      -- CTL takes the highest rounding mode; TRCAUSE its highest bit; the base of a window that is not mapped
      ∧ ([(0, 4), (0x10, 0x7FF), (0x11, 0x2000), (0x12, 1), (0x13, 1), (0x14, 1), (0x15, 1), (0x16, 1), (0x17, 1), (0x18, 1),
          (0x19, 1), (0x1A, 0x2000), (0x30, 1), (0x50, 0x10000000), (0x52, 0), (0x54, 0xFFFFFFFFF000), (0x56, 0x1000)].all
          fun x : Nat × Word => (Say.csrSet s x.1 x.2).isSome) = true
      ∧ Say.csrSet s 0x51 0 = none := by decide +kernel

/-- Window 3, at job offset 0x1000 and virtual address 0x10000000; the same in force; and one that would overlap it. -/
def stashing (size : Word := 0) : State :=
  modCurJob (base .l) fun j =>
    { j with stashBase := j.stashBase.set 3 0x10000000, stashSize := j.stashSize.set 3 size }

/-- Every case in which a write is refused. -/
theorem witness_CsrRefused :
    Say.CsrRefuses (stashing) 0x41 0 .priv ∧ Say.CsrRefuses stashing 0 0x20 .illegal ∧ Say.CsrRefuses stashing 0 5 .illegal
      ∧ Say.CsrRefuses stashing 0 0x10 .priv ∧ Say.CsrRefuses stashing 0x10 0x800 .illegal
      ∧ Say.CsrRefuses stashing 0x11 2 .illegal ∧ Say.CsrRefuses stashing 0x1A 1 .illegal
      ∧ Say.CsrRefuses stashing 0x50 1 .illegal ∧ Say.CsrRefuses (stashing 0x1000001000) 0x56 0 .perm
      ∧ Say.CsrRefuses stashing 0x57 0x100 .illegal ∧ Say.CsrRefuses (stashing 0x1000001000) 0x55 0x1000001000 .perm :=
  ⟨.readOnly _ _ (by decide), .ctl _ (Or.inl (by decide)), .ctl _ (Or.inr (by decide)),
    .det _ (by decide) (by decide) (by decide +kernel), .trcause _ (by decide), .trpc _ (by decide), .trvec _ (by decide),
    .baseBits 0 _ (Or.inl (by decide)), .baseMapped 3 _ (by decide) (by decide) (by decide +kernel),
    .sizeBits 3 _ (fun h => absurd h.1 (by decide)), .sizeMaps 2 _ ⟨by decide, by decide⟩ (by decide)
      fun h => absurd ((h.2.1 3 (by decide) (by decide +kernel)).1) (by decide +kernel)⟩

theorem witness_StashWindows :
    (Tab.get? stashing.jobs (jobKey stashing.cur)).isSome = true ∧ ready stashing 4 none = true
      ∧ Say.SizeWord 0x1000001000 ∧ bitsOf (0x1000001000 : Word) 0 20 ≠ 0 ∧ Say.Mappable stashing 3 0x1000001000
      ∧ Say.SizeWord 0 ∧ bitsOf (0 : Word) 0 20 = 0
      -- a range that crosses the end of the grant's lower half
      ∧ Say.SizeWord 0x7000002000 ∧ ¬Say.Mappable stashing 3 0x7000002000 :=
  ⟨by decide +kernel, by decide +kernel, ⟨by decide, by decide⟩, by decide, ⟨Or.inl (by decide +kernel), by decide +kernel⟩,
    ⟨by decide, by decide⟩, by decide, ⟨by decide, by decide⟩, fun h => absurd h.1 (by decide +kernel)⟩

theorem witness_SystemControl :
    -- TLBI with the permission, and without
    ready (perm (base .l) 2) 4 (some g0) = true ∧ bitOf (getPart (perm (base .l) 2) 0).perms 1 = true
      ∧ bitOf (getPart (base .l) 0).perms 1 = false ∧ (perm (base .l) 2).cores = State.reset.cores
      ∧ (rd (regs (base .l) [(1, 0x7FFFFFFFFFFF)]) 1).toNat < 2 ^ 47
      -- PCTL: SCHED 2 written and read, an operation of the host, a word that is not legal, LPASID at the share's end
      ∧ (let s := regs (perm (base .l) 0x7F) [(4, 0x020106), (5, 99), (6, 0x020006), (7, 0x018), (8, 0xFF), (9, 0x400005)]
         ready s 4 (some g0) = true ∧ ctlWordOk (rd s 4) = true ∧ ctlLegal s 0 (ctlOf (rd s 4) 99) = true
          ∧ bitOf (rd s 4) 12 = false ∧ ctlGranted s 0 (ctlOf (rd s 4) 99) = true ∧ (ctlOf (rd s 4) 99).op = 6
          ∧ (ctlOf (rd s 4) 99).wrt = true ∧ (ctlOf (rd s 6) 99).wrt = false ∧ ctlGranted s 0 (ctlOf (rd s 6) 99) = true
          ∧ (ctlOf (rd s 7) 99).op = 0x18 ∧ ctlWordOk (rd s 7) = true ∧ (ctlOf (rd s 8) 99).op = 0xFF
          ∧ ctlLegal s 0 (ctlOf (rd s 8) 99) = false ∧ (ctlOf (rd s 9) 99).op = 5 ∧ (ctlOf (rd s 9) 99).index = 64) := by
  decide +kernel

/-! ## Vector instructions -/

/-- D is row 7, A row 4, B row 2; the gains, masks and modes as at job start. -/
def vop : VOp :=
  { fmt := 0, k := 0, g := g0, fn := 0, rnd := 7, sat := false, ftz := false, D := Say.at_ 7, A := Say.at_ 4, B := Say.at_ 2,
    n := 0 }

def un (v : VOp) : VOp := { v with B := .none }

/-- Rows 2, 4 and 7 under these tags; s3 holds 0x300. -/
def vrows (b a d : Tag) : State :=
  modCurJob (vec (regs (base .c) [(3, 0x300), (9, 0x8000000000000001)])) fun j =>
    { j with rows := [(2, rowOf b 0x0102), (4, rowOf a 0x80FF), (5, rowOf a 3), (7, rowOf d 9), (8, rowOf d 8)] }

def depth (n : Nat) (s : State) : State := modCurJob s fun j => { j with maskStack := List.replicate n (BitVec.allOnes 64) }

/-- What every vector statement asks of the state, on these three rows. -/
def vready (s : State) (v : VOp) : Bool :=
  decide (s.cur.strm = .c) && ready s 12 (some v.g) && (curJob s).recipes.isEmpty && (curJob s).rows.all (fun e => !e.2.mark)
    && v.n == 0 && v.k == 0 && maskTop (curJob s) == BitVec.allOnes 64
    && ([2, 4, 5, 7, 8].all fun r : Nat => (Tab.get? (curJob s).rows r).any fun x => x.res && !x.mark && x.poison == 0)
    && !v.ftz && !bitOf (viewedJob s).ctl 3

theorem vready_oneStep (s : State) (v : VOp) (h : vready s v = true) :
    Say.oneStep s v ∧ Say.unmasked s ∧ Say.noFlush s v := by
  simp only [vready, Bool.and_eq_true, decide_eq_true_eq, List.isEmpty_iff, List.all_eq_true, Bool.not_eq_true',
    beq_iff_eq] at h
  obtain ⟨⟨⟨⟨⟨⟨⟨⟨⟨h1, h2⟩, h3⟩, h4⟩, h5⟩, h6⟩, h7⟩, h8⟩, h9⟩, h10⟩ := h
  exact ⟨⟨h1, h2, ⟨h3, h4⟩, h5, h6⟩, h7, h9, h10⟩

/-- Rows of each integer format, all of one tag; and a B row of another element width. -/
theorem witness_VectorInteger :
    ([4, 5 + 64 * 16, 6].all fun t : Tag => vready (vrows t t t) vop && isInt t.fmt) = true
      ∧ vready (vrows (5 + 64 * 16) 4 4) vop = true ∧ gainUsable (Say.gain (vrows (5 + 64 * 16) 4 4) 4) = true
      ∧ elemBytes (Tag.fmt (5 + 64 * 16)) ≠ elemBytes (Tag.fmt 4)
      -- a rounding mode that an integer operation does not take
      ∧ vready (vrows 4 4 4) { vop with rnd := 4 } = true
      ∧ ([Instr.vadd vop, .vsub vop, .vmul vop, .vfma vop, .vfms vop, .vmin vop, .vmax vop, .vabs (un vop), .vdiv vop,
        .vclamp vop].all fun i => (Say.vInt false 4 i).isSome) = true := by decide +kernel

theorem witness_VectorFloat :
    ([1, 2, 3, 7].all fun t : Tag => vready (vrows t t t) vop && t.fmt != 15 && !isInt t.fmt
        && gainUsable (Say.gain (vrows t t t) t)) = true
      ∧ ([Instr.vadd vop, .vsub vop, .vmul vop, .vfma vop, .vfms vop, .vmin vop, .vmax vop, .vabs (un vop), .vdiv vop,
        .vclamp vop, .vrcp (un vop), .vrsq (un vop), .vsqrt (un vop), .vexp2 (un vop), .vrnd (un vop), .vlerp vop].all fun i =>
          (Say.vFloat 0 i).isSome) = true := by decide +kernel

theorem witness_VectorBits :
    vready (vrows 6 (5 + 64 * 16) 1) vop = true ∧ elemBytes (Tag.fmt 6) = elemBytes (Tag.fmt (5 + 64 * 16)) ∧ vready (vrows 4 4 4) vop = true
      ∧ elemBytes (Tag.fmt 4) = elemBytes (Tag.fmt 1) ∧ isInt (Tag.fmt 4) = true
      ∧ vready (depth 15 (vrows 4 4 4)) { vop with D := .none } = true
      ∧ (curJob (depth 15 (vrows 4 4 4))).maskStack.length < 16
      ∧ vready (depth 16 (vrows 4 4 4)) { vop with D := .none } = true
      ∧ 16 ≤ (curJob (depth 16 (vrows 4 4 4))).maskStack.length ∧ (5 : BitVec 4).toNat % 8 < 6 := by decide +kernel

theorem witness_VectorMoves :
    vready (vrows 1 1 1) vop = true
      ∧ (64 : BitVec 14).getLsbD 6 = decide ((5 : Nat) = 5) ∧ (0 : BitVec 14).getLsbD 6 ≠ decide ((5 : Nat) = 5) := by
  decide +kernel

theorem witness_VectorReductions :
    vready (vrows 4 4 4) (un vop) = true ∧ isInt (Tag.fmt 4) = true ∧ gainUsable (Say.gain (vrows 4 4 4) 4) = true
      ∧ vready (vrows 4 4 4) { un vop with rnd := 0 } = true
      ∧ vready (vrows 4 4 4) { un vop with A := .scalar 9 false } = true := by decide +kernel

theorem witness_VectorConversions :
    -- VCVT and VGAIN from INT32 to FP32 and from FP32; VPACK FP32 to BF16, VUNPK BF16 to FP32
    ([4, 1, 2].all fun t : Tag => vready (vrows 15 t 15) { vop with B := .imm 9 } && t.fmt != 15
        && gainUsable (Say.gain (vrows 15 t 15) t)) = true
      ∧ gainUsable (Say.gain (vrows 15 4 15) (mkTag 1 9)) = true ∧ elemBytes (mkTag 1 9).fmt = elemBytes (Tag.fmt 4)
      ∧ elemBytes (Tag.fmt 2) + elemBytes (Tag.fmt 2) = elemBytes (Tag.fmt 1) ∧ gainUsable (Say.gain (vrows 15 4 15) (mkTag 2 9)) = true := by
  decide +kernel

/-- Two steps: q4 receives what q1, rotated rows from 4 on, give under mask pair k1. -/
def formOp (d a : Desc) : VOp := { vop with n := 1, k := 1, D := d, A := a, B := .queue 1 true .reversed }

/-- In a LOOP of ten rotating rows, with three entries in q1 and `n` in q4. -/
def forming (n : Nat) : State :=
  modCurStream (modCurJob (base .c) fun j =>
    { j with
      rows := (List.range 16).map fun r => (r, rowOf 4 9)
      rowMasks := j.rowMasks.set 1 1
      queues := { j.queues with q := (j.queues.q.set 1 (List.replicate 3 ⟨4, 7⟩)).set 4 (List.replicate n ⟨4, 7⟩) } }) fun st =>
    { st with loops := [{ start := 0x0FFFF0, stop := 0x100100, stages := 1, sp := 0, rots := [⟨2, 9⟩], trips := 2, j := 1,
                          inHandler := false }] }

theorem shaped_of (n : Nat) (hn : n = 6 ∨ n = 7) :
    Say.Shaped (forming n) (formOp (.queue 4 false .straight) (.row 3 2 true false .first)) true := by
  rcases hn with rfl | rfl <;>
    exact
      { strm := rfl, ready := by decide +kernel, dest := Or.inr ⟨4, by decide, rfl⟩, sources := by decide
        tagged := by decide, fmt := rfl
        indices := fun d hd idx st rot ng l h => by
          simp only [formOp, vop, List.mem_cons, List.not_mem_nil, or_false] at hd
          rcases hd with rfl | rfl | rfl <;> cases h
          exact ⟨6, by decide +kernel, by decide⟩
        queues := fun d hd q ng l h => by
          simp only [formOp, vop, List.mem_cons, List.not_mem_nil, or_false] at hd
          rcases hd with rfl | rfl <;> cases h
          decide
        limits := ⟨by decide, fun _ => by decide⟩, depths := by decide +kernel }

theorem witness_VectorForms :
    Say.Shaped (forming 6) (formOp (.queue 4 false .straight) (.row 3 2 true false .first)) true
      ∧ Say.Shaped (forming 7) (formOp (.queue 4 false .straight) (.row 3 2 true false .first)) true
      ∧ Say.OneTag (forming 6) (formOp (.queue 4 false .straight) (.row 3 2 true false .first)) 4
      ∧ (∀ q < 8, Say.short (forming 6) (formOp (.queue 4 false .straight) (.row 3 2 true false .first)) q = false)
      ∧ (List.range 8).filter (Say.short (forming 7) (formOp (.queue 4 false .straight) (.row 3 2 true false .first))) = [4]
      ∧ isInt (Tag.fmt 4) = true ∧ (formOp (.queue 4 false .straight) (.row 3 2 true false .first)).rnd = 7
      ∧ Say.rowAt (forming 6) 3 2 true 0 = some 4 ∧ Say.rowAt (forming 6) 3 2 true 1 = some 6 := by
  refine ⟨shaped_of 6 (by simp), shaped_of 7 (by simp), ⟨⟨rfl, by decide +kernel⟩, ?_, ?_⟩, by decide +kernel⟩
  · intro d hd idx st rot ng l h j hj r hr
    simp only [formOp, vop, List.mem_cons, List.not_mem_nil, or_false] at hd
    rcases hd with rfl | rfl | rfl <;> cases h
    have : j = 0 ∨ j = 1 := by simp [formOp] at hj; omega
    rcases this with rfl | rfl
    · obtain rfl : r = 4 := by simpa using (hr.symm.trans (by decide +kernel : _ = some 4))
      exact ⟨rowOf 4 9, ⟨by decide +kernel, rfl, rfl, rfl⟩, by decide⟩
    · obtain rfl : r = 6 := by simpa using (hr.symm.trans (by decide +kernel : _ = some 6))
      exact ⟨rowOf 4 9, ⟨by decide +kernel, rfl, rfl, rfl⟩, by decide⟩
  · intro o ho q ng l h j hj
    simp only [List.mem_cons, List.not_mem_nil, or_false] at ho
    rcases ho with rfl | rfl <;> simp [formOp, vop] at h
    obtain ⟨rfl, -, -⟩ := h
    have : j = 0 ∨ j = 1 := by simp [formOp] at hj; omega
    rcases this with rfl | rfl <;> exact ⟨⟨4, 7⟩, by decide +kernel, rfl⟩

/-- VLD and VST at job offset 0x300; an offset that is not aligned, and one past the grant. -/
theorem witness_VectorMemory :
    vready (vrows 4 4 4) { vop with A := .scalar 3 false, B := .imm 4 } = true
      ∧ (∀ e ∈ (curCore (vrows 4 4 4)).tokens, e.2.holder ≠ some 1) ∧ (∀ w < 4, stashSizeOf (viewedJob (vrows 4 4 4)) w = 0)
      ∧ (rd (vrows 4 4 4) 3).toNat = 0x300 ∧ loadTagOk 4 = true
      ∧ grantAddr 0 (curJob (vrows 4 4 4)).grant 0x300 256 = some 0x300 ∧ spadPoisonIn (vrows 4 4 4) 0x300 256 = none
      ∧ (rd (vrows 4 4 4) 9).toNat % 256 ≠ 0
      ∧ grantAddr 0 (curJob (vrows 4 4 4)).grant 0x8000 256 = none
      ∧ (curJob (vrows 4 4 4)).sealedSet = [] ∧ memOk (vrows 4 4 4) = true ∧ (vrows 4 4 4).ms.split = none := by decide +kernel

/-! ## Engine operations -/

/-- An operation with its registers in s3 to s8, its new token in s9, edges named in s1 and s2. -/
def head (fmt : BitVec 4) : MHead := ⟨fmt, 9, 1, 2, 3, false⟩

def engOp : EngOp := ⟨head 0, 3, 4, 5, 6, 7, 8, 10, 20, 4, 0, 1⟩

def matOp (fmt : BitVec 4) : MatOp :=
  ⟨head fmt, 0, 0x800, 3, 1, 1, 4, 4, 1, 0x820, 0, false, false, true, false, false, false, 5, 3, 4, 5, 6⟩

/-- The executing stream may push: the table is empty. The job is a member of level 1. -/
def pushing (t : Strm) (dom : Word) : State :=
  modCurJob (vec (regs (base t) [(3, 0x1000), (4, 0x2000), (5, 32), (8, 0x3000)])) fun j =>
    { j with ids := { j.ids with dommem := dom } }

theorem may_push (t : Strm) (dom : Word) (h : t = .l ∨ t = .c) (hd : dom = 0 ∨ dom = 8) (f : BitVec 4) (hf : f = 0 ∨ f = 2 ∨ f = 4) :
    Say.mayPush (pushing t dom) (head f) := by
  rcases h with rfl | rfl <;> rcases hd with rfl | rfl <;> rcases hf with rfl | rfl | rfl <;>
    exact ⟨by decide +kernel, by decide +kernel, by decide +kernel, by decide +kernel, by
      show ∀ a ∈ _, _
      decide +kernel⟩

theorem witness_WrongStream_engine :
    (Instr.accz (matOp 1)).mParts.isSome = true ∧ (base .l).cur.strm ∉ [Strm.c]
      ∧ (base .c).cur.strm ∉ [Strm.l, Strm.s] ∧ (Instr.cpy engOp).eParts.isSome = true := by decide +kernel

theorem witness_EnginePush :
    (pushing .l 0).cur.strm ≠ .c ∧ (pushing .l 8).cur.strm ≠ .c ∧
    ((Instr.cpy engOp).eParts.isSome = true ∧ Say.mayPush (pushing .l 0) engOp.h)
      ∧ ((Instr.cred engOp).eParts.isSome = true ∧ Say.collective (.cred engOp) = some engOp
        ∧ Say.mayPush (pushing .l 8) engOp.h ∧ collSize (curJob (pushing .l 8)).ids engOp ≠ 0
        ∧ collSize (curJob (pushing .l 0)).ids engOp = 0) :=
  ⟨by decide, by decide, ⟨by rfl, may_push _ _ (by simp) (by simp) _ (by simp)⟩, by rfl, by rfl, may_push _ _ (by simp) (by simp) _ (by simp),
    by decide +kernel, by decide +kernel⟩

/-- One entry in slot 5 with a footprint of lines 8 to 12, named by s1. -/
def entry (x : TokState) : TokenEntry :=
  { token x with strm := .c, instr := .pfch engOp, foot := [.spad 8 12 true] }

def edged (x : TokState) (v : Word) : State :=
  modCurCore (vec (regs (base .l) [(1, v)])) fun c => { c with tokens := [(5, entry x)], nextSeq := 0x120 }

theorem witness_PushEdges :
    (∀ x ∈ [TokState.pending, .ready, .running, .done, .faulted, .cancelled], ready (edged x 0x05000110) 24 none = true
      ∧ (edged x 0x05000110).cur.strm ≠ .c ∧ (curCore (edged x 0x05000110)).tokens = [(5, entry x)]
      ∧ (entry x).holder = some (curJob (edged x 0x05000110)).ids.jobid ∧ (rd (edged x 0x05000110) 2).toNat % 2 ^ 32 = 0
      ∧ (curCore (edged x 0x05000110)).nextSeq ≠ (entry x).seq ∧ (edged x 0x05000110).saved = []
      ∧ Say.seqOf (rd (edged x 0x05000110) 1) = (entry x).seq ∧ Say.slotOf (rd (edged x 0x05000110) 1) = 5)
    -- deterministic mode: an operation of line 10 and the next three
    ∧ (let s := modCurJob (edged .ready 0) fun j => { j with ctl := 16 }
       ready s 24 none = true ∧ (rd s 1).toNat % 2 ^ 32 = 0 ∧ detMode (curJob s) = true ∧ (entry .ready).strm ≠ s.cur.strm
        ∧ (entry .ready).state.inFlight = true ∧ (entry .ready).seen.getLsbD 0 = false
        ∧ 8 ≤ engOp.ln.toNat ∧ engOp.ln.toNat ≤ 12 ∧ engOp.cnt ≠ 0) := by decide +kernel

/-- Whether the operands of a matrix operation are in place, as `Say.inPlace` says. -/
def placed (s : State) (xs : List Operand) : Bool :=
  xs.all fun x => x.stride % 2 == 1 && x.lines.all fun l =>
    x.placed l && (grantAddr s.cur.core (curJob s).grant (256 * l) 256).isSome
      && (!x.write || (curJob s).sealedSet.all fun r => decide (256 * l + 256 ≤ r.1 ∨ r.1 + r.2 ≤ 256 * l))

theorem inPlace_of (s : State) (xs : List Operand) (h : placed s xs = true) : Say.inPlace s xs := by
  intro x hx
  simp only [placed, List.all_eq_true, Bool.and_eq_true, beq_iff_eq, Bool.or_eq_true, Bool.not_eq_true',
    decide_eq_true_eq] at h
  obtain ⟨h1, h2⟩ := h x hx
  refine ⟨h1, fun l hl => ?_⟩
  obtain ⟨⟨h3, h4⟩, h5⟩ := h2 l hl
  exact ⟨h3, h4, fun w r hr => h5.resolve_left (by simp [w]) r hr⟩

/-- Every matrix instruction on operands that are in place, with the accumulator of its kind. -/
def matrixCases : List (Instr × Bool) :=
  [(.mma (matOp 2), false), (.mmi (matOp 2), true), (.attn (matOp 2), false), (.accz (matOp 4), false), (.accrd (matOp 2), false),
   (.accwr (matOp 2), false), (.drnq (matOp 4), true), (.mtrn (matOp 2), false), (.qnt (matOp 2), false), (.dqnt (matOp 2), false),
   (.rqnt (matOp 2), false)]

def kind (b : Bool) : State :=
  modCurJob (pushing .c 0) fun j => { j with accs := j.accs.map fun a => { a with pushedInt := b } }

theorem witness_MatrixPush :
    (matrixCases.all fun x => (Say.matAsk (kind x.2) x.1).any fun k => placed (kind x.2) k.xs && (k.int.all fun b => b == x.2) && k.also) = true
      ∧ Say.mayPush (pushing .c 0) (matOp 2).h ∧ (pushing .c 0).cur.strm = .c
      -- an even stride, an accumulator of the wrong kind
      ∧ ((Say.matAsk (pushing .c 0) (.mma { matOp 2 with sa := 2 })).any fun k => (k.xs.find? fun x => x.stride % 2 == 0).isSome) = true
      ∧ ((Say.matAsk (pushing .c 0) (.mmi (matOp 2))).any fun k => placed (pushing .c 0) k.xs && k.int == some true
        && (curJob (pushing .c 0)).accs[k.m.acc.toNat].pushedInt == false) = true :=
  ⟨by decide +kernel, may_push _ _ (by simp) (by simp) _ (by simp), by decide +kernel, by decide +kernel, by decide +kernel⟩

/-! ## Events of the engines and of the token table -/

/-- The address of job offset `o` in the scratchpad window. -/
def spadAt (o : Nat) : Word := BitVec.ofNat 64 (Config.spadWindow + o)

/-- A running operation in slot 5 of core 0, with the registers of its push. -/
def running (i : Instr) (rs : List Word) : TokenEntry :=
  { (default : TokenEntry) with seq := 0x110, state := .running, holder := some 1, strm := .c, instr := i, regs := rs,
                                ids := probeJob.ids }

def withOp (e : TokenEntry) : State := modCore (base .l) 0 fun c => { c with tokens := [(5, e)], nextSeq := 0x120, cycle := 77 }

theorem witness_EngineEvents :
    (let e := { running (.cpy engOp) [] with state := .ready, prio := 1 }
     let s := modCore (base .l) 0 fun c =>
      { c with nextSeq := 0x120, tokens := [(2, { e with seq := 0x112 }), (5, e), (7, { e with prio := 0, seq := 0x100 })] }
     (5, e) ∈ tokens s 0 ∧ Tab.wf (tokens s 0) = true ∧ engineOf e.instr = some .copy
      ∧ (∀ x ∈ tokens s 0, x.1 ≠ 5 → x.2.state = .ready → engineOf x.2.instr = some .copy →
        x.2.prio < e.prio ∨ x.2.prio = e.prio
          ∧ (0x120 + 0xFFFFFF - x.2.seq) % 0xFFFFFF < (0x120 + 0xFFFFFF - e.seq) % 0xFFFFFF))
    -- a matrix operation that is READY while one runs
    ∧ (let e := { running (.accz (matOp 4)) [] with state := .ready }
       let s := modCore (base .l) 0 fun c => { c with nextSeq := 0x120, tokens := [(2, { e with state := .running }), (5, e)] }
       (5, e) ∈ tokens s 0 ∧ engineOf e.instr = some .matrix
        ∧ ∃ x ∈ tokens s 0, x.2.state = .running ∧ engineOf x.2.instr = some .matrix)
    -- entries of the table: DONE; an orphan at its limit, before it, and one that failed detached
    ∧ Tab.get? (tokens (withOp { running (.nop g0) [] with state := .done }) 0) 5 = some { running (.nop g0) [] with state := .done }
    ∧ (residentJob (base .l) 1).any (fun j => !detMode j && (accsOwned j 5 0x110).isEmpty) = true
    ∧ (let s := withOp { running (.nop g0) [] with state := .faulted, det := true, holder := none, endedAt := 77 }
       let u := modPart s 0 fun p => { p with orphtmo := 1 }
       77 + (getPart s 0).orphtmo.toNat ≤ cycleOf s 0 ∧ cycleOf u 0 < 77 + (getPart u 0).orphtmo.toNat
        ∧ TokState.faulted.inFlight = false) := by decide +kernel

/-- The core runs one operation, which nothing observes. -/
def runsB (s : State) (core slot : Nat) (e : TokenEntry) : Bool :=
  tokens s core == [(slot, e)] && e.state == .running && e.held.isNone && e.early.isEmpty && e.performed.isEmpty && !e.ran
    && e.counted == 0 && s.ms.wet.isEmpty && s.saved.isEmpty
    && ((getDebug s e.ids.part).monitors.toList.all fun m => !bitOf m.cfg 0) && !chalked s e.ids.part

theorem runs_of (s : State) (core slot : Nat) (e : TokenEntry) (h : runsB s core slot e = true) : Say.runs s core slot e := by
  simp only [runsB, Bool.and_eq_true, beq_iff_eq, Option.isNone_iff_eq_none, List.isEmpty_iff, List.all_eq_true,
    Bool.not_eq_true'] at h
  obtain ⟨⟨⟨⟨⟨⟨⟨⟨⟨⟨h1, h2⟩, h3⟩, h4⟩, h5⟩, h6⟩, h7⟩, h8⟩, h9⟩, h10⟩, h11⟩ := h
  exact ⟨h1, h2, h3, h4, h5, h6, h7, by simp [h8], by simp [h9], h10, h11⟩

/-- CPY of 592 bytes; one from a source that is not aligned; PFCH, and one that every stream of a deterministic job
has seen; ACCZ; a request 2 ms old, and 1 ns younger. -/
theorem witness_OperationEnds :
    (let e := running (.cpy engOp) [0, 0, spadAt 0x40, spadAt 0x200, 592]
     runsB (withOp e) 0 5 e = true ∧ memOk (withOp e) = true ∧ (residentJob (withOp e) 1).isSome = true
      ∧ opVal e .ra = spadAt 0x40 ∧ (opVal e .rb).toNat % 16 = 0 ∧ (opVal e .rc).toNat % 2 ^ 32 = 592
      ∧ grantAddr 0 probeJob.grant 0x40 592 = some 0x40 ∧ grantAddr 0 probeJob.grant 0x200 592 = some 0x200)
    ∧ (let e := running (.cpy engOp) [0, 0, spadAt 0x48, spadAt 0x200, 16]
       runsB (withOp e) 0 5 e = true ∧ (opVal e .ra).toNat % 16 ≠ 0)
    ∧ (let e := running (.pfch engOp) [0, 0, 0, 1]
       runsB (withOp e) 0 5 e = true ∧ Say.seenByAll (withOp e) 5 e = false)
    ∧ (let e := { running (.pfch engOp) [0, 0, 0, 1] with seen := 7 }
       let s := modCurJob (withOp e) fun j => { j with ctl := 16 }
       runsB s 0 5 e = true ∧ Say.seenByAll s 5 e = true)
    ∧ (let e := running (.accz (matOp 4)) [0, 0]
       let s := modCurJob (withOp e) fun j => { j with accs := j.accs.set 3 { j.accs[3] with owner := some (5, 0x110) } }
       runsB s 0 5 e = true ∧ (residentJob s 1).any (fun j => j.accs[3].owner == some (5, 0x110)) = true)
    ∧ (let e := { running (.dirlk engOp) [0, 0] with requests := [{ (default : PeerReq) with sentAt := 5 }] }
       runsB (withOp e) 0 5 e = true ∧ (default : PeerReq).reply = none ∧ (default : PeerReq).delivered = false ∧ 5 + 2000000 ≤ 2000005 ∧ 2000004 < 5 + 2000000
        ∧ collOp e.instr = none) := by decide +kernel

/-- CRED of INT32 sums at level 4, on cores 0 and 1; the second member has index `i`. -/
def sumOp : EngOp := { engOp with h := head 4, rw := 0, op := 0, lvl := 4 }

def joiner (id i src : Nat) : TokenEntry :=
  { running (.cred sumOp) [0, 0, spadAt src, spadAt 0x80, 8, BitVec.ofNat 64 i, 3] with
    holder := some id, ids := { probeJob.ids with jobid := id, dommem := 2 * 2 ^ 33 } }

def joiners (i : Nat) : State :=
  let job := fun id => { probeJob with ids := { probeJob.ids with jobid := id, dommem := 2 * 2 ^ 33 } }
  { base .l with
    jobs := [(0, job 1), (4, job 2)]
    cores := [(0, { getCore (base .l) 0 with tokens := [(5, joiner 1 0 0x40)] }),
              (1, { getCore (base .l) 1 with tokens := [(6, joiner 2 i 0x100)] })] }

theorem witness_Collective :
    (∀ i ∈ [0, 1], let s := joiners i
      s.cores.map (·.1) = [0, 1] ∧ memOk s = true ∧ s.fabric.remote = [] ∧ s.fabric.pending = [] ∧ (getPart s 0).failedColl = []
        ∧ runsB s 0 5 (joiner 1 0 0x40) = true ∧ runsB s 1 6 (joiner 2 i 0x100) = true
        ∧ (residentJob s 1).isSome = true ∧ (residentJob s 2).isSome = true)
    ∧ (let s := modPart (joiners 1) 0 fun p => { p with failedColl := [⟨(4, 0, 3, 0), some 2, 1, [], none, 2⟩] }
       (getPart s 0).failedColl.any (fun f => f.covers (4, 0, 3, 0) (joiner 1 0 0x40).ids) = true
        ∧ runsB s 0 5 (joiner 1 0 0x40) = true ∧ runsB s 1 6 (joiner 2 1 0x100) = true)
    ∧ collSize (joiner 1 0 0x40).ids sumOp = 2 ∧ collKey 0 (joiner 1 0 0x40) sumOp = (4, 0, 3, 0)
    ∧ collKey 1 (joiner 2 1 0x100) sumOp = (4, 0, 3, 0) ∧ (opVal (joiner 1 0 0x40) .rc).toNat % 2 ^ 32 = 8
    ∧ bitsOf (opVal (joiner 2 1 0x100) .rd) 0 10 = 1
    ∧ grantAddr 1 probeJob.grant 0x100 32 = some (Config.spadSpan + 0x100)
    ∧ grantAddr 0 probeJob.grant 0x80 32 = some 0x80 := by decide +kernel

/-! ## The dispatcher, the scheduler, pre-emption -/

def card : Card := ⟨0x100000, 8, 0x4000, 100, 0, 0, none⟩

/-- Launch 3 of ten records, ready to be allotted. -/
def launch : Launch :=
  { (((Launch.reset.put 0 1 2).put 0x18 4 10).put 0x10 8 0x5000).put 0x1C 4 16 with since := some 0, card := some card }

def ready3 : State := { base .l with pool := [(3, launch)], jobs := [], strs := [], time := 1000 }

/-- The entry words of the card lie at 0x100000; core 0 holds the last two records. -/
def queued (n : Nat) (l : Launch) : State :=
  modCore { ready3 with
    pool := [(3, l)]
    ms := { ready3.ms with mem := Memory.putBytes ready3.ms.mem 0x100000 (leBytes 4 0x100 ++ leBytes 4 0x100 ++ leBytes 4 0x3FFFFF00) } } 0
    fun c => { c with localQueue := [(3, 8, n)] }

/-- What `Say.onlyLaunch` asks for, and that nothing measures the partition. -/
def onlyB (s : State) (l : Launch) : Bool :=
  s.pool == [(3, l)] && (l.state == 2 || l.state == 3) && l.since.isSome && decide (l.retired + 1 < l.count) && l.deadline == 0
    && (getDebug s 0).monitors.toList.all fun m => !bitOf m.cfg 0

def bad : Launch := { launch with card := some { card with bad := some (.launch, 7) } }

theorem witness_Dispatcher :
    onlyB ready3 launch = true ∧ inShare ready3 0 3 = true ∧ stopped ready3 0 = false ∧ launch.next < launch.count
      ∧ Tab.wf ready3.cores = true ∧ chunkCores ready3 0 3 ≠ []
      ∧ candidates (base .l) 0 = [] ∧ stopped (modDebug ready3 0 fun d => { d with stop := some (0, 0) }) 0 = true
      -- dealing: the last record of a chunk, and one before it
      ∧ ([1, 2].all fun n => onlyB (queued n launch) launch && (getCore (queued n launch) 0).localQueue == [(3, 8, n)]
          && Tab.get? (queued n launch).clusterOwner 0 == some 0 && !(getCluster (queued n launch) 0).gated
          && !stopped (queued n launch) 0 && Tab.wf (queued n launch).cores && (queued n launch).jobs.isEmpty
          && (queued n launch).saved.isEmpty) = true
      ∧ (match readRange (modCore (queued 1 launch) 0 fun c => { c with localQueue := [] }) (dispatcher 0 0) 0x100000 12 with
          | .ok x => (List.range 3).all fun k =>
              ofLe ((x.2.drop (4 * k)).take 4) % 4 == 0
          | .error _ => false) = true
      ∧ card.rows ≤ 1024 ∧ card.grant ≤ 2 ^ 20 ∧ onlyB (queued 1 bad) bad = true
      -- the fault record of a bad card: written, and waiting for a page of host memory that the host has yet to give
      ∧ (match faultTo (queued 1 bad) (dispatcher 0 0 3) bad.sink (unstartedRecord .launch 7 3 8) with
          | .ok _ => true
          | .error _ => false) = true := by decide +kernel

/-- Launch window slot 3 with this go byte, of a record that may be armed, or one that is reserved (word 7). -/
def windowed (go : Nat) (strm : Nat) (seen : Bool := true) : State :=
  let bs := (List.range 127).map (fun n => if n = 0x18 then 4 else if 0x30 ≤ n ∧ n < 0x38 then 0xFF else if n = 0x3C then
    BitVec.ofNat 8 strm else 0) ++ [BitVec.ofNat 8 go]
  let s := modPart { ready3 with pool := [(3, launch.put 0 1 1)] } 0 fun p =>
    { p with window := some 0x200000, windowWritten := if seen then [3] else [] }
  { s with ms := { s.ms with mem := Memory.putBytes s.ms.mem (0x200000 + 128 * 3) bs } }

/-- Stream 7, a boundary of which falls now, with launch 3 in this state. -/
def desc : StreamDesc :=
  { (((((StreamDesc.reset.put 0 8 1000).put 0x10 8 500).put 0x45 1 1).put 0x44 1 23).put 0x20 4 3 |>.put 0x24 2 1 |>.put 0x18 8 41)
    with nextAt := 1000 }

def falling (state : Nat) : State :=
  { ready3 with pool := [(3, (((Launch.reset.put 0 1 state).put 6 2 8).put 0x18 4 4).put 0x30 8 0xFFFFFFFFFFFFFFFF)],
                streams := [(7, desc)], ownOwner := [(7, 0)] }

theorem witness_Scheduler :
    ([0, 1, 255].all fun go => partOfIndex (windowed go 0) 3 == some 0 && (getPart (windowed go 0) 0).window == some 0x200000
        && arbiterOpen (windowed go 0) 0 && !replaying (windowed go 0) 0
        && NatSet.has (getPart (windowed go 0) 0).windowWritten 3) = true
      ∧ NatSet.has (getPart (windowed 1 0 false) 0).windowWritten 3 = false
      ∧ (getPart (windowed 1 0 false) 0).window = some 0x200000
      ∧ (let s := modPart (windowed 1 0) 0 fun p => { p with log := { p.log with cap := 4, wr := 4 }, ctlTmpl := 16 }
         arbiterOpen s 0 = false ∧ (getLaunch s 3).go = 1)
      ∧ (getLaunch (windowed 1 0) 3).go = 1 ∧ (getLaunch (windowed 1 0) 3).state = 1
      ∧ (readPa (windowed 1 0) deviceView false (0x200000 + 128 * 3) 128).getD 127 0 = 1
      -- a boundary, with its launch BUILT, RETIRED, ARMED or RUNNING
      ∧ ([1, 4, 2, 3].all fun x => streamOwner (falling x) 7 == some 0 && arbiterOpen (falling x) 0 && !replaying (falling x) 0
          && !stopped (falling x) 0 && (getPart (falling x) 0).log.cap == 0 && !detPart (falling x) 0
          && (getLaunch (falling x) 3).state == x && inShare (falling x) 0 3 && (getLaunch (falling x) 3).flags == 8
          && (getLaunch (falling x) 3).get 0x30 4 == 0xFFFFFFFF && (getLaunch (falling x) 3).get 0x34 4 == 0xFFFFFFFF
          && (getLaunch (falling x) 3).get 0x78 7 == 0 && !lowerBoundary (falling x) 0 7 1000) = true
      -- stream 6 has a boundary at the same time
      ∧ (let s := { falling 1 with streams := [(6, desc), (7, desc)], ownOwner := [(6, 0), (7, 0)] }
         streamOwner s 7 = some 0 ∧ getSdesc s 7 = desc ∧ lowerBoundary s 0 7 1000 = true)
      ∧ desc.get 0x45 1 = 1 ∧ desc.due = [] ∧ desc.nextAt ≤ (falling 1).time ∧ desc.get 0x40 1 = 0 ∧ rungCount desc 0 = 1
      ∧ desc.get 0x44 1 = 23 := by decide +kernel

theorem witness_Arbiter :
    (let s := modPart (falling 1) 0 fun p => { p with rungReqs := [(1, 7, 2), (1, 7, 0)] }
     Tab.wf s.parts = true ∧ (getPart s 0).rungReqs = (1, 7, 2) :: [(1, 7, 0)] ∧ arbiterOpen s 0 = true ∧ replaying s 0 = false
      ∧ detPart s 0 = false ∧ (getPart s 0).log.cap = 0)
    ∧ (let s := modCore (modPart ready3 0 fun p => { p with migrations := [(0, 7, 6)] }) 0 fun c => { c with localQueue := [(3, 5, 7)] }
       (getPart s 0).migrations = [(0, 7, 6)] ∧ stopped s 0 = false ∧ physCore s 0 0 = some 0
        ∧ (physCore s 0 7).any (fun k => k != 0) = true ∧ (getCore s 0).localQueue = [(3, 5, 7)]
        ∧ (getLaunch s 3).flags / 4 % 2 = 0 ∧ replaying s 0 = false ∧ Tab.wf s.cores = true
        -- the other's queue takes the chunk; it is full; no more cores may hold the launch
        ∧ (physCore s 0 7).any (fun k => (getCore s k).localQueue.length < 8 && holders s 0 3 < widthOf s 0 (getLaunch s 3)) = true
        ∧ (physCore s 0 7).any (fun k =>
            (getCore (modCore s k fun c => { c with localQueue := List.replicate 8 (3, 0, 1) }) k).localQueue.length == 8) = true
        ∧ widthOf s 0 ((getLaunch s 3).put 0x2C 4 1) = 1 ∧ holders s 0 3 = 1)
    ∧ (1999 : Nat) % 2000 ≠ 0 ∧ (2000 : Nat) % 2000 = 0
    -- clusters: idle for GATEIDLE, a wake 250 ns after the last, one that is done
    ∧ (let s := modCluster { ready3 with time := 30000 } 0 fun c => { c with idleSince := 30000 - (getPart ready3 0).gateidle.toNat }
       (getCluster s 0).gated = false ∧ (getCluster s 0).idleSince + (getPart s 0).gateidle.toNat ≤ s.time ∧ s.jobs = []
        ∧ s.cores = State.reset.cores)
    ∧ (let s := { modCluster ready3 0 fun c => { c with gated := true, wakeAt := some 1000 } with
                  wakeQueue := [1], lastWake := some 750 }
       (getCluster s 0).gated = true ∧ s.wakeQueue = 1 :: [] ∧ 750 + 250 ≤ s.time ∧ (getCluster s 0).wakeAt = some 1000
        ∧ 1000 ≤ s.time)
    ∧ (999 < 750 + 250) := by decide +kernel

/-- The job in slot 0 of core 0 in this phase, at cycle 0x100000. -/
def phase (f : JobPhase) : State :=
  modCore (modCurJob (base .l) fun j => { j with phase := f, prereq := 3 }) 0 fun c => { c with cycle := 0x100000 }

theorem witness_Preemption :
    (∀ f ∈ [JobPhase.running, .draining 7, .flipping true, .resuming true], Tab.wf (phase f).jobs = true ∧ Tab.wf (phase f).strs = true
      ∧ (Tab.get? (phase f).jobs 0).any (fun j => j.phase == f) = true ∧ (∀ e ∈ tokens (phase f) 0, e.2.holder ≠ some 1)
      ∧ stopped (phase f) 0 = false)
    ∧ cycleOf (phase .running) 0 = 0x100000
    ∧ (0x100000 - (getPart (base .l) 0).prelim.toNat) + (getPart (base .l) 0).prelim.toNat = 0x100000
    ∧ (getPart (base .l) 0).prelim.toNat < 0x100000
    ∧ planeRoom (phase (.flipping true)) 0 1 (ordinaryRows (curJob (phase (.flipping true)))) = true
    -- every stream of the job; a plane that is full
    ∧ ([Strm.l, .c, .s].all fun x => (Tab.get? (phase (.draining 7)).strs (hartKey ⟨0, 0, x⟩)).isSome) = true
    ∧ (let x : Saved := ⟨probeJob, .start 0, .start 0, .start 0, 0, true, false, 0⟩
       let s := { phase (.flipping true) with saved := List.replicate 4 x }
       planeRoom s 0 1 (ordinaryRows (curJob s)) = false) := by decide +kernel

/-- Launch 3, of a higher priority, waits on core `k` with `n` records, some of which have a victim; every core of the
partition holds a job of launch 0, and all but that of core 0 are protected. -/
def contended (k n : Nat) (asked : NatSet) : State :=
  let job := fun k => { probeJob with
    ids := { probeJob.ids with jobid := k + 1 }, protectedUntil := if k = 0 then none else some 0x200000 }
  modCore { base .l with
    time := 1000000
    pool := [(0, { Launch.reset.put 0 1 3 with since := some 0 }),
             (3, { launch.put 4 1 20 with card := some { card with rows := 1000 }, asked := asked })]
    jobs := (List.range 8).map fun k => (4 * k, job k) } k fun c => { c with localQueue := [(3, 0, n)], cycle := 0x100000 }

/-- The victim is on the record's own core, and on another; every record has one; no record contends. -/
theorem witness_PreemptRequest :
    ([(0, 1, []), (1, 2, [1])].all fun x : Nat × Nat × NatSet => let s := contended x.1 x.2.1 x.2.2
      Tab.wf s.jobs && Tab.wf s.strs && Tab.wf s.cores && Tab.wf s.pool && !stopped s 0 && arbiterOpen s 0
        && contenders s 0 == [(x.1, 3, 0)] && (victims s 0 (x.1, 3, 0)).map (fun v => (v.1, v.2.1)) == [(0, 0)]
        && (getCore s x.1).localQueue == [(3, 0, x.2.1)] && !hasVictim s 3 0) = true
      ∧ contenders (contended 0 1 [0]) 0 = [] ∧ contenders (base .l) 1 = [] := by decide +kernel

/-- A draining job with a dirty line of a stash window, whose head stands in a LOOP of two stages from p14 on. -/
theorem witness_Drained :
    (let l := { held with dirty := 1 }
     let s := modCurJob (stashed [l]) fun j => { j with phase := .draining 7 }
     l.job = (curJob s).ids.jobid ∧ memOk s = true ∧ l.pa % 256 = 0 ∧ s.ms.comp = [] ∧ l.dirty.getLsbD 0 = true
      ∧ grantAddr 0 (curJob s).grant (l.sline * 256) 256 = some 0x1000 ∧ Tab.wf s.jobs = true)
    ∧ ((inLoop 1).strs.all fun x => x.2.loops.all fun l => l.stages == 2 || l.stages == 1) = true
    ∧ Say.staged { (default : LoopState) with stages := 2, sp := 14 } 15
    ∧ ¬Say.staged { (default : LoopState) with stages := 2, sp := 14 } 13 :=
  ⟨by decide +kernel, by decide +kernel, by unfold Say.staged; decide, by unfold Say.staged; decide⟩

theorem witness_SavedContexts :
    (let x : Saved := ⟨probeJob, .start 0, .start 0, .start 0, 0, true, false, 0⟩
     let s := { base .l with saved := [x], jobs := [], strs := [] }
     s.saved = x :: [] ∧ x.core = 0 ∧ x.inMemory = false ∧ flipWaits s 0 = false ∧ s.jobs = []
      ∧ (getCore s 0).localQueue = [] ∧ x.job.ids.rowRes ≤ 1024 ∧ Tab.get? s.clusterOwner 0 = some 0
      ∧ (getCluster s 0).gated = false ∧ stopped s 0 = false ∧ Tab.wf s.jobs = true ∧ Tab.wf s.strs = true
      -- in the area with a full plane's worth of rows at most; on a gated cluster
      ∧ residentRows x.job ≤ 1024
      ∧ (let u := modCluster s 0 fun c => { c with gated := true }
         (getCluster u 0).gated = true ∧ (getCluster u 0).wakeAt = none ∧ clusterOf 0 ∉ u.wakeQueue ∧ stopped u 0 = false)
      -- a flip that waits for room
      ∧ (let u := modPart { phase (.flipping true) with saved := x :: List.replicate 3 x } 0 fun t =>
          { t with ctxBase := 4096, ctxSize := 655360 }
         flipWaits u 0 = true ∧ u.saved = x :: List.replicate 3 x ∧ inArea u 0 < areaSlots u 0)) := by decide +kernel

/-- The L-stream waits at SQPUSH since cycle 5, at cycle 15 with WAITTMO 10. -/
def waiting (k : WaitKind) (cyc : Nat) : State :=
  let s := { probe State.reset ((encode (.sqpush g0 0 1)).flatMap (leBytes 4)) .l with cur := ⟨0, 0, .l⟩, agenda := [] }
  modCore (modCurJob (modCurStream (vec s) fun st => { st with wait := some ⟨5, k⟩ }) fun j => { j with waittmo := 10 }) 0
    fun c => { c with cycle := cyc }

theorem witness_WaitLimits :
    ([WaitKind.queue 8, .queues 8 [4], .value 9 77 2081].all fun k => live (waiting k 15) ⟨0, 0, .l⟩ && !stopped (waiting k 15) 0
        && (getStream (waiting k 15) ⟨0, 0, .l⟩).stand.isNone && (fetch (waiting k 15) ⟨0, 0, .l⟩).toOption == some (.sqpush g0 0 1)
        && (seenJob (waiting k 15) ⟨0, 0, .l⟩ (getJob (waiting k 15) 0)).waittmo == 10 && cycleOf (waiting k 15) 0 == 15 && quiet (waiting k 15) && plain (waiting k 15) 4) = true
      ∧ cycleOf (waiting (.queue 8) 14) 0 < 5 + 10
      -- L waits on sq0, C on sq2, which C and L would serve
      ∧ (let s := modStream (waiting (.queue 8) 15) ⟨0, 0, .c⟩ fun st => { st with wait := some ⟨5, .queue 10⟩ }
         (getStream s ⟨0, 0, .l⟩).trap.vec ≠ 0 ∧ trapActive (getStream s ⟨0, 0, .l⟩) = false
          ∧ (getStream s ⟨0, 0, .s⟩).wait = none ∧ (getStream s ⟨0, 0, .c⟩).stand = none
          ∧ (fetch (queueTrapAt s ⟨0, 0, .l⟩ (.sqpush g0 0 1) (8 + 256)) ⟨0, 0, .c⟩).toOption = some (.sqpush g0 0 1)) := by
  decide +kernel

/-! ## Control operations of the host -/

/-- Partition 0 with a buffer, a stream of its own, and log counts. -/
def managed : State :=
  modDebug (modPart { base .l with ownOwner := [(7, 0), (258, 0)], pool := [(3, Launch.reset)] } 0 fun t =>
    { t with ctxSize := 655360, log := { t.log with wr := 9, rd := 2 } }) 0 fun d => { d with buffer := 0x4500 }

/-- Every partition but 0 is as at reset: none of them is sealed. -/
theorem served_of (s : State) (t : Part) (h : s.parts = [(0, t)]) (hr : s.platform.mode = .running)
    (ht : t.state ≠ .sealed) : Say.served s := by
  refine ⟨hr, fun q => ?_⟩
  unfold getPart
  rw [h]
  rcases Nat.lt_trichotomy q 0 with h | rfl | h
  · omega
  · simpa [Tab.getD, Tab.get?] using ht
  · have : ¬(0 = q) := by omega
    simp [Tab.getD, Tab.get?, this, Part.reset]

theorem managed_served : Say.served managed := served_of _ _ rfl (by decide +kernel) (by decide +kernel)

/-- A stream's descriptor that may be enabled. -/
def enabling : StreamDesc :=
  (((((((StreamDesc.reset.put 0 8 1000).put 8 8 300).put 0x50 4 10).put 0x54 4 256).put 0x58 1 2).put 0x5A 2 64).put 0x5C 2 64
    |>.put 0x59 1 8).put 0x20 4 3 |>.put 0x24 2 1

def sealing0 : State :=
  modPart { managed with jobs := [], strs := [] } 0 fun t => { t with log := { t.log with cap := 16 } }

/-- In replay mode, an event of TYPE 5 at the head of the log. -/
def replay0 : State :=
  let s := modDebug (modPart managed 0 fun t => { t with log := { t.log with base := 0x5000, cap := 16 } }) 0 fun d =>
    { d with replayCtl := 1 }
  { s with ms := { s.ms with mem := Memory.putBytes s.ms.mem 0x5010 [5] } }

theorem witness_HostControl :
    Say.served managed
      ∧ (Say.regValue managed 0 0x06 2).isSome = true ∧ (Say.regWritten managed 0 0x06 2 77).isSome = true
      ∧ (Say.regWritten managed 0 0x04 0 (8191 + 65536)).isSome = true ∧ (Say.regValue managed 0 0x25 8191).isSome = true
      ∧ { managed.platform with mode := .recovery }.mode = .recovery ∧ (0x24 : Nat) ≠ 0x22 ∧ 8192 ≤ (8192 : BitVec 32).toNat
      -- a sealed partition
      ∧ (getPart (modPart managed 0 fun t => { t with state := .sealed }) 0).state = .sealed
      ∧ (match readRange (modPart managed 0 fun t => { t with state := .sealed }) (dispatcher 0 0) 0x5000 64 with
          | .ok x => x.2.length == 64 && getPart x.1 0 == getPart (modPart managed 0 fun t => { t with state := .sealed }) 0
          | .error _ => false) = true
      -- streams: a descriptor that may be enabled, one that may not
      ∧ (getSdesc managed 7).get 0x45 1 % 2 = 0
      ∧ enableOk managed 7 { getSdesc managed 7 with words := (getSdesc managed 7).words.set 8 0x10000000000 } = false
      ∧ (let s := { managed with streams := [(7, enabling)], pool := [(3, Launch.reset.put 6 2 8)], time := 5000 }
         enableOk s 7 { enabling with words := enabling.words.set 8 0x10000000000 } = true)
      -- a word of an enabled stream, written as it stands
      ∧ (let s := { managed with streams := [(0, { enabling with words := enabling.words.set 8 0x10000000000 })] }
         (getSdesc s 0).get 0x45 1 % 2 = 1 ∧ (Say.regWritten s 0 0x25 0 1000).isSome = true)
      ∧ (Say.regWritten managed 0 0x07 1 4).isSome = true
      ∧ managed.time = 0 :=
  ⟨managed_served, by decide +kernel⟩

/-- Partition 0 without jobs may be sealed; units 0 and 1 of it and of nobody. -/
theorem witness_PartitionLife :
    Say.served managed ∧ (getPart managed 1).state = .free ∧ (getPart managed 0).state = .opened
      ∧ sealable managed 0 = false ∧ sealable sealing0 0 = true
      ∧ (readIpa managed 0 0x10000 4096).any (fun bs => bs.length == 4096) = true
      ∧ (match readRange managed (dispatcher 0 0) 0x5010 64 with
          | .ok x => x.2.length == 64 && (match writeAll x.1 (dispatcher 0 0) 0x5000 (List.replicate 1024 0) with
              | .ok _ => true
              | .error _ => false)
          | .error _ => false) = true
      ∧ Say.ownerIs managed.unitOwner 0 = 1 ∧ Say.ownerIs managed.unitOwner 383 = 0
      ∧ Tab.get? managed.unitOwner 383 ≠ some 7 ∧ bitOf (15 : Word) 0 = true ∧ bitsOf (15 : Word) 1 3 = 7
      ∧ Tab.get? managed.clusterOwner 0 ≠ some 7 ∧ clusterInUse managed 0 = true
      ∧ clusterInUse { managed with jobs := [], strs := [] } 0 = false
      ∧ managed.jobs = [(0, probeJob)] ∧ probeJob.phase = .running ∧ bitOf probeJob.prereq 0 = false
      ∧ canSave managed 0 probeJob = true ∧ managed.saved = [] :=
  ⟨managed_served, by decide +kernel⟩

theorem witness_HostDebug :
    Say.served managed ∧ (getDebug managed 0).stop = none ∧ managed.jobs = [(0, probeJob)] ∧ probeJob.ids.part = 0
      ∧ probeJob.ids.jobid = bitsOf (0x102 : Word) 8 56 ∧ bitsOf (0x102 : Word) 2 6 = 0 ∧ bitsOf (0x102 : Word) 0 2 < 3
      ∧ stopSettled (modDebug { managed with jobs := [], strs := [] } 0 fun d =>
          { d with stop := some (0, 0), stopDone := false, buffer := 0 }) 0 = true
      ∧ Tab.get? managed.clusterOwner 0 = some 0 ∧ bitOf (getDebug managed 0).traceCtl 1 = false
      ∧ (getCluster (modCluster managed 0 fun c => { c with trace := [[1]] }) 0).trace = [[1]]
      ∧ bitOf (getDebug managed 0).replayCtl 0 = false
      ∧ bitOf (getDebug replay0 0).replayCtl 0 = true ∧ (getDebug replay0 0).stop = none
      ∧ (nextLogged replay0 0).any (fun bs => (bs.getD 0x10 0).toNat == 5) = true
      ∧ playsLog (getSdesc replay0 0) = false ∧ playsLog { getSdesc replay0 0 with words := (getSdesc replay0 0).words.set 8 0x40000000000 } = true :=
  ⟨managed_served, by decide +kernel⟩

/-! ## The host interfaces, the peer fabric, the device -/

/-- Function 1, interface 2, queue 3 of 16 entries, for PASID 77, enabled or not; its tail `t`, REVOKE `r`. -/
def queue (en : Bool) (t : BitVec 16) (r : Bool) : State :=
  modQueue (modIface { base .l with ownOwner := [(7, 0), (258, 0), (288, 0), (304, 0), (312, 0)],
                                    pool := [(3, (Launch.reset.put 0 1 1).put 0x18 4 1)] } 1 2 fun x => { x with ctl := 1 }) 1 2 3
    fun q => { q with base := 0x4000, tail := t, ctl := 0x40 * 77 + 0x10 + (if en then 1 else 0) + if r then 2 else 0 }

/-- The same with a packet of this opcode for launch record 3 at HEAD. -/
def packet (op len : Nat) : State :=
  let bs := [BitVec.ofNat 8 op, 0, BitVec.ofNat 8 len, 0, 0, 0, 0, 0] ++ leBytes 8 3 ++ leBytes 8 0x55 ++ leBytes 8 9
    ++ leBytes 8 0 ++ leBytes 8 0xAAAA ++ leBytes 8 0xBBBB ++ leBytes 8 0xCCCC
  writeHost (queue true 1 false) 1 0x4000 bs

/-- Entry 65 of the remap table, with MASK and PENDING set. -/
def masked : State :=
  modPort (queue false 0 false) 1 fun p => { p with remap := [(65, { Tab.getD p.remap 65 .reset with ctl := 7 })] }

theorem witness_Registers :
    (queue false 0 false).platform.mode = .running ∧ (getQueue (queue false 0 false) 1 2 3).en = false
      ∧ (getQueue (queue true 0 false) 1 2 3).en = true ∧ (∀ k < 8, (getQueue (queue false 0 false) 1 2 k).en = false)
      ∧ (Tab.get? (getPort masked 1).remap 65).any (fun r => r.ctl.getLsbD 2) = true ∧ (queue true 0 false).mgmt.go = 0 := by
  decide +kernel

/-- Doorbells: the tail a whole queue ahead, and one more; revoked; of an interface that is not enabled. -/
theorem witness_Doorbells :
    Say.open_ (queue true 0 false) 1 2 3 ∧ (getQueue (queue true 0 false) 1 2 3).pasid = 77
      ∧ (getQueue (queue true 0 false) 1 2 3).revoke = false ∧ (getQueue (queue true 0 false) 1 2 3).log2 = 4
      ∧ Say.ahead (getQueue (queue true 0 false) 1 2 3) 16 = 2 ^ 4 ∧ ¬Say.ahead (getQueue (queue true 0 false) 1 2 3) 17 ≤ 2 ^ 4
      ∧ Say.open_ (queue true 0 true) 1 2 3 ∧ (getQueue (queue true 0 true) 1 2 3).revoke = true
      ∧ ifaceEn (getIface (queue true 0 false) 1 3) = false ∧ (getQueue (queue false 0 false) 1 2 3).en = false
      -- a tail nearer to HEAD than that of an earlier doorbell
      ∧ ¬((getQueue (queue true 5 false) 1 2 3).tail - (getQueue (queue true 5 false) 1 2 3).head).toNat
          ≤ Say.ahead (getQueue (queue true 5 false) 1 2 3) 4 := by
  unfold Say.open_
  decide +kernel

/-- Behind a port that uses ATS, the page of the packet is absent; it has been refused to these. -/
def absent (refused : List (Waiter × Nat)) : State :=
  let s := modPort (packet 2 64) 1 fun p => { p with ats := true }
  { s with ms := { s.ms with hostAbsent := [hostName (hostPa 1 0x4000) (some 77)], priRefused := refused } }

theorem witness_Packets :
    Say.open_ (absent []) 1 2 3 ∧ Say.open_ (packet 2 64) 1 2 3 ∧ Say.open_ (packet 1 64) 1 2 3 ∧ Say.open_ (packet 9 64) 1 2 3
      ∧ ([(2, 64), (1, 64), (9, 64), (1, 63)].all fun x => match headPacket (packet x.1 x.2) 1 2 3 with
          | .here p => p.opcode == x.1 && p.flags == 0 && p.length == x.2 && p.zero == 0 && p.index == 3 && p.patch.length == 3
          | _ => false) = true
      -- a packet whose page the host has yet to give, and one whose page it refuses
      ∧ headPacket (absent []) 1 2 3 = .waits (hostName (hostPa 1 0x4000) (some 77))
      ∧ headPacket (absent [(.queue 1 2 3, hostName (hostPa 1 0x4000) (some 77))]) 1 2 3 = .refused 0x4000
      ∧ inShare (packet 1 64) 0 3 = true ∧ bitsOf (getIface (packet 1 64) 1 2).ctl 1 3 = 0 ∧ arbiterOpen (packet 1 64) 0 = true
      ∧ replaying (packet 1 64) 0 = false ∧ (getLaunch (packet 1 64) 3).state = 1
      ∧ (let l := getLaunch (packet 1 64) 3
         let l' := { ((l.put 0x50 8 0xAAAA).put 0x58 8 0xBBBB).put 0x60 8 0xCCCC with pasid := 77 }
         fieldsOk (packet 1 64) 0 l' = true)
      ∧ (getQueue (queue true 0 false) 1 2 3).head = (getQueue (queue true 0 false) 1 2 3).tail := by
  unfold Say.open_
  decide +kernel

theorem witness_HostMemory :
    (let s := queue false 0 false
     s.platform.mode = .running ∧ 0x5000 % 256 + 256 ≤ 256 ∧ memOk s = true ∧ s.ms.ats = [] ∧ s.ms.priSent = []
      ∧ s.ms.hostAbsent = [] ∧ hostUnit s 0 0x5000 false = some 0 ∧ (∀ g ∈ granules 0x5000 256, hostPoison s g = false) ∧ s.ms.wet = []
      ∧ s.ms.comp = [] ∧ s.ms.late = []
      -- a port that no partition owns; a sealed partition; a granule of a port's window
      ∧ hostUnit s 1 0x5000 false = none ∧ isSealed s 0 = false
      ∧ isSealed (modPart s 0 fun p => { p with state := .sealed }) 0 = true ∧ Tab.get? s.unitOwner (0x5000 / 2 ^ 30) = some 0
      ∧ Tab.get? s.ownOwner (312 + hostPort (4096 * 0)) = some 0
      ∧ NatSet.has { s.ms with priSent := [9] }.priSent 9 = true
      ∧ waitersFor { s with ms := { s.ms with priWaiting := [(.device 0 0, 9)] } } 9 = [.device 0 0] ∧ NatSet.has s.ms.priSent 9 = false) := by decide +kernel

/-- Encoder and decoder 0 on ftq 2 of stream 7, with closed frames 5 and 6. -/
def coding (c : Codec) : State :=
  modFtq { queue false 0 false with
    ownOwner := [(7, 0), (258, 0), (288, 0), (304, 0), (312, 0)], encoders := [(0, c)], decoders := [(0, c)]
    streams := [(7, StreamDesc.reset.put 0x5A 2 64 |>.put 0x5C 2 64 |>.put 0x59 1 8)] } 2
    fun f => { f with closed := [5, 6] }

def codec (ctl : Word) : Codec := { Codec.reset with rsize := 0x10000, ctl := ctl }

theorem witness_Codecs :
    encoderOk (coding (codec 0)) 0 { codec 0 with ctl := 1 + 16 + 7 * 256 } = true
      ∧ encoderOk (coding (codec 0)) 0 { codec 0 with ctl := 1 + 16 + 9 * 256 } = false
      ∧ bitOf (codec 17).ctl 0 = true ∧ (getFtq (coding (codec (1 + 16 + 7 * 256))) (bitsOf (codec (1 + 16)).ctl 3 5)).closed = 5 :: [6]
      ∧ (codec 17).ifv.getLsbD 8 = false ∧ Tab.get? (coding (codec 17)).ownOwner 304 = some 0
      ∧ (ofLe ((ringBytes (coding (codec 57)) (getCodec (coding (codec 57)) false 0) 0 16).take 4) + 31) / 16 * 16 = 16
      -- port 0 of its owner: its link carries traffic, and does not
      ∧ (∀ ide, let s := modPort (coding (codec 17)) 0 fun p => { p with up := true, ide := ide }
        ringLinked s true 0 = ide ∧ ringLinked s false 0 = ide)
      ∧ ((16 : BitVec 32) - 0).toNat = 16 ∧ ((15 : BitVec 32) - 0).toNat < 16 ∧ bitOf (codec 0).ctl 0 = false := by
  decide +kernel

/-- Partition 0 joined to chip 5, partition 2, in fabric group 9; one record of the directory. -/
def source : PeerSrc := ⟨5, 2, 9, 0⟩

def pref : PrefixRecord := { (default : PrefixRecord) with fabric := 9, id := 0x77, part := 0, readers := 65534, bitmap := 3 }

def fabricked (d : PrefixRecord) : State :=
  modPart { base .l with fabric := { (base .l).fabric with chips0 := 1, directory := [d, { d with id := 0x78 }] } } 0 fun p =>
    { p with fabric := 9, joined := [(1, 5 + 0x200 + 0x800)] }

theorem witness_PeerFabric :
    srcJoined (fabricked pref) source = true ∧ srcJoined (fabricked pref) { source with fabric := 8 } = false ∧ source.target < 8
      -- flags: one ahead of the last, the last ahead, the first that is not
      ∧ (1 - lastSeqOf (fabricked pref) (0, 5, 2)).toNat = 1 ∧ lastSeqOf (fabricked pref) (0, 5, 2) = 0
      ∧ 0x5000 % 16 = 0 ∧ ownUnit (fabricked pref) 0 0x5000 = true ∧ memOk (fabricked pref) = true
      ∧ (fabricked pref).ms.wet = [] ∧ (fabricked pref).ms.comp = [] ∧ (fabricked pref).ms.late = []
      ∧ poisonIn (fabricked pref) deviceView 0x5000 16 = none ∧ anyLink (fabricked pref) 0 = true
      ∧ poisonIn { fabricked pref with ms := { (fabricked pref).ms with memPoison := [0x5008 / 8] } } deviceView 0x5000 16 ≠ none
      -- a flag whose data has been confirmed, and one whose has not
      ∧ (let f := fun b => OutFlag.mk 1 0 5 2 9 3 0 4 (.syncWord 0x5000 1) 0 b
         ({ fabricked pref with fabric := { (fabricked pref).fabric with pending := [f true] } } : State).fabric.pending = [f true]
          ∧ (f true).confirmed = true ∧ (f false).confirmed = false)
      -- a request that has no reply yet, and a reader that an ended operation left
      ∧ (let r : PeerReq := { (default : PeerReq) with tag := 7, chip := source.chip, part := source.part }
         let s := modCore (fabricked pref) 0 fun c => { c with tokens := [(5, { running (.dirlk engOp) [] with requests := [r] })] }
         r.reply = none ∧ s.fabric.ended = [] ∧ s.cores.map (·.1) = [0])
      ∧ (let e : EndedReader := ⟨7, source.target, source.chip, source.part, 0x77, 3, false⟩
         ({ fabricked pref with fabric := { (fabricked pref).fabric with ended := [e] } }.fabric.ended == [e]) = true
          ∧ e.answered = false)
      ∧ (granules 0x5000 256).all (fun g => ownUnit (fabricked pref) 0 (8 * g)) = true
      ∧ (granules 0x7000000000 1).all (fun g => ownUnit (fabricked pref) 0 (8 * g)) = false
      -- the directory: a record with one reader fewer than the most, and with the most
      ∧ (fabricked pref).fabric.directory = pref :: [{ pref with id := 0x78 }] ∧ pref.fabric = fabricOf (fabricked pref) 0
      ∧ pref.readers < 65535 ∧ pref.id ≠ 0 ∧ (65535 : Nat) ≤ { pref with readers := 65535 }.readers
      ∧ (match readPage (fabricked pref) (recordBulk pref) pref.page 0 (2 * (recordBits pref).half) with
          | .ok _ => true
          | .error _ => false) = true
      ∧ (match blockPartials (fabricked pref) (recordBulk pref) (recordBits pref) ⟨64, 1, 0x3F800000, 0, none⟩ (queryRows 64 1 []) with
          | .ok _ => true
          | .error _ => false) = true
      ∧ (KvBits.ofBytes (KvBits.mk 0 0 0 0 0 0 0 0 0 0x77).bytes).fid = 0x77 := by decide +kernel

/-- What the sensors read: eighths of a degree, and W; the clock, and whether it is held. -/
def sensed (temp : Int) (power mhz : Nat) (hold : Bool) : Platform :=
  { (base .l).platform with temp := temp, power := power, mhz := mhz, hold := hold }

/-- At each bound of the table, and just beyond it. -/
theorem witness_ErrorsAndResets :
    (8 * 95 ≤ (sensed 760 0 701 false).temp ∧ 700 < (sensed 760 0 701 false).mhz) ∧ 1800 < (sensed 0 1801 701 false).power
      ∧ ¬(8 * 95 ≤ (sensed 759 1800 701 false).temp ∨ 1800 < (sensed 759 1800 701 false).power)
      ∧ (let p := sensed 720 1700 1399 false
         p.hold = false ∧ p.mhz < 1400 ∧ p.temp ≤ 8 * 90 ∧ p.power ≤ 1700)
      ∧ ¬(sensed 721 1700 1399 false).temp ≤ 8 * 90
      ∧ 8 * 105 ≤ (sensed 840 0 1400 false).temp ∧ (sensed 839 0 1400 false).temp < 8 * 105
      ∧ ((sensed 799 0 700 true).hold = true ∧ (sensed 799 0 700 true).temp < 8 * 100)
      ∧ 8 * 110 ≤ (sensed 880 0 700 true).temp ∧ (base .l).platform.mode = .running
      -- a saved context in the context area, and one in the shadow plane
      ∧ (let x : Saved := ⟨probeJob, .start 0, .start 0, .start 0, 0, true, false, 0⟩
         ({ base .l with saved := [{ x with inMemory := true }] }.saved.any fun y => y.job.ids.jobid == 1 && y.inMemory) = true
          ∧ ({ base .l with saved := [x] }.saved.any fun y => y.inMemory) = false)
      ∧ Tab.wf (base .l).parts = true ∧ (base .l).platform.staged = none ∧ memOk (base .l) = true
      ∧ ((granules (hostPa 1 0x5000) 256).all fun g => isHostPa (8 * g) && hostPort (8 * g) < 2) = true
      ∧ (base .l).ms.wet = [] ∧ (base .l).ms.comp = [] := by decide +kernel

/-- q1 with five rows, and with six; q6 with two. -/
def rowQ (t : Strm) (k : Fin 8) (n : Nat) (o tag : Word) : State :=
  modCurJob (vec (regs (base t) [(3, o), (4, tag)])) fun j =>
    { j with queues := { j.queues with q := j.queues.q.set k (List.replicate n ⟨4, 7⟩) } }

theorem witness_RowQueues :
    ready (rowQ .l 1 5 0x300 4) 4 (some g0) = true ∧ (curJob (rowQ .l 1 5 0x300 4)).queues.q[1].length + 3 ≤ 8
      ∧ rdqTagOk 4 = true ∧ rdqTagOk 0x0E = false ∧ (rd (rowQ .l 1 5 0x300 4) 3).toNat % 256 = 0
      ∧ (∀ e ∈ (curCore (rowQ .l 1 5 0x300 4)).tokens, e.2.holder ≠ some 1)
      ∧ (∀ w < 4, stashSizeOf (curJob (rowQ .l 1 5 0x300 4)) w = 0) ∧ (curJob (rowQ .l 1 5 0x300 4)).sealedSet = []
      ∧ grantAddr 0 (curJob (rowQ .l 1 5 0x300 4)).grant 0x300 (256 * 3) = some 0x300
      ∧ spadPoisonIn (rowQ .l 1 5 0x300 4) 0x300 (256 * 3) = none
      ∧ ready (rowQ .l 1 6 0x300 4) 4 (some g0) = true ∧ 8 < (curJob (rowQ .l 1 6 0x300 4)).queues.q[1].length + 3
      ∧ (rd (rowQ .l 1 5 0x301 4) 3).toNat % 256 ≠ 0
      ∧ ready (rowQ .s 6 2 0x300 4) 4 (some g0) = true ∧ 2 ≤ (curJob (rowQ .s 6 2 0x300 4)).queues.q[6].length
      ∧ (curJob (rowQ .s 6 2 0x300 4)).queues.q[6].length < 3 ∧ memOk (rowQ .s 6 2 0x300 4) = true := by decide +kernel

/-- A step that answers a next state, from a state whose memory is in canonical form. -/
theorem witness_StepKeepsMemory :
    memOk (probe State.reset [4, 0, 0, 0] .l) = true
      ∧ (match step (probe State.reset [4, 0, 0, 0] .l) with | .next _ => true | _ => false) = true := by decide +kernel

/-! ## The words of the instructions, written out from the spec's layouts -/

/-- The words of nop to brev (R43, R44), from the rows' match bits and field places. -/
theorem test_decode_s_scalar :
    [(0x19000004 : Nat),
     0x195DA208,
     0x195DA20C,
     0x195DA210,
     0x195DA214,
     0x195DA218,
     0x195DA21C,
     0x195DA220,
     0x195DA224,
     0x195DA228,
     0x395DA228,
     0x595DA228,
     0x195DA22C,
     0x395DA22C,
     0x595DA22C,
     0x795DA22C,
     0x195DA230,
     0x395DA230,
     0x595DA230,
     0x795DA230,
     0x1905A234,
     0x3905A234,
     0x5905A234,
     0x7905A234].map (decodeTableWord 32) =
    [some (.nop ⟨9, true⟩),
     some (.add ⟨9, true⟩ 17 22 11),
     some (.sub ⟨9, true⟩ 17 22 11),
     some (.and ⟨9, true⟩ 17 22 11),
     some (.or ⟨9, true⟩ 17 22 11),
     some (.xor ⟨9, true⟩ 17 22 11),
     some (.shl ⟨9, true⟩ 17 22 11),
     some (.shr ⟨9, true⟩ 17 22 11),
     some (.sra ⟨9, true⟩ 17 22 11),
     some (.mul ⟨9, true⟩ 17 22 11),
     some (.mulh ⟨9, true⟩ 17 22 11),
     some (.mulhu ⟨9, true⟩ 17 22 11),
     some (.div ⟨9, true⟩ 17 22 11),
     some (.divu ⟨9, true⟩ 17 22 11),
     some (.rem ⟨9, true⟩ 17 22 11),
     some (.remu ⟨9, true⟩ 17 22 11),
     some (.min ⟨9, true⟩ 17 22 11),
     some (.minu ⟨9, true⟩ 17 22 11),
     some (.max ⟨9, true⟩ 17 22 11),
     some (.maxu ⟨9, true⟩ 17 22 11),
     some (.clz ⟨9, true⟩ 17 22),
     some (.ctz ⟨9, true⟩ 17 22),
     some (.popc ⟨9, true⟩ 17 22),
     some (.brev ⟨9, true⟩ 17 22)] := by
  decide +kernel

/-- The words of sel to kgetCol (R43, R44), from the rows' match bits and field places. -/
theorem test_decode_s_predicates :
    [(0x195DA238 : Nat),
     0x195D923C,
     0x395D923C,
     0x595D923C,
     0x795D923C,
     0x995D923C,
     0xB95D923C,
     0x19335240,
     0x39335240,
     0x59335240,
     0x79335240,
     0x19059244,
     0x39002244,
     0x59058044,
     0x19058A48,
     0x39058A48,
     0x595D8A48,
     0x1901A24C,
     0x3901A24C].map (decodeTableWord 32) =
    [some (.sel ⟨9, true⟩ 17 22 11),
     some (.psetEq ⟨9, true⟩ 9 22 11),
     some (.psetNe ⟨9, true⟩ 9 22 11),
     some (.psetLt ⟨9, true⟩ 9 22 11),
     some (.psetLtu ⟨9, true⟩ 9 22 11),
     some (.psetGe ⟨9, true⟩ 9 22 11),
     some (.psetGeu ⟨9, true⟩ 9 22 11),
     some (.plogAnd ⟨9, true⟩ 9 13 6),
     some (.plogOr ⟨9, true⟩ 9 13 6),
     some (.plogXor ⟨9, true⟩ 9 13 6),
     some (.plogAndn ⟨9, true⟩ 9 13 6),
     some (.pmov ⟨9, true⟩ 9 22),
     some (.pmovGet ⟨9, true⟩ 17),
     some (.pmovPut ⟨9, true⟩ 22),
     some (.ksetRow ⟨9, true⟩ 5 22),
     some (.ksetCol ⟨9, true⟩ 5 22),
     some (.ksetBoth ⟨9, true⟩ 5 22 11),
     some (.kgetRow ⟨9, true⟩ 17 6),
     some (.kgetCol ⟨9, true⟩ 17 6)] := by
  decide +kernel

/-- The words of addi to addpc (R43, R44), from the rows' match bits and field places. -/
theorem test_decode_s_immediates :
    [(0x91A5A250 : Nat),
     0x91A5A254,
     0x91A5A258,
     0x91A5A25C,
     0x15DA260,
     0x15DA264,
     0x15DA268,
     0xAAF36270,
     0xAAF36274].map (decodeTableWord 32) =
    [some (.addi 17 22 0x1234),
     some (.andi 17 22 0x1234),
     some (.ori 17 22 0x1234),
     some (.xori 17 22 0x1234),
     some (.shli 17 22 0x2b),
     some (.shri 17 22 0x2b),
     some (.srai 17 22 0x2b),
     some (.ldhi 17 0x2abcd),
     some (.addpc 17 0x2abcd)] := by
  decide +kernel

/-- The words of ldb to stpiD (R43, R44), from the rows' match bits and field places. -/
theorem test_decode_s_loads :
    [(0x91A5A280 : Nat),
     0x91A5A284,
     0x91A5A288,
     0x91A5A28C,
     0x91A5A290,
     0x91A5A294,
     0x91A5A298,
     0x91A5A29C,
     0x91A5A2A0,
     0x91A5A2A4,
     0x91A5A2A8,
     0x195DA2AC,
     0x395DA2AC,
     0x595DA2AC,
     0x795DA2AC,
     0x995DA2AC,
     0xB95DA2AC,
     0xD95DA2AC,
     0x195DA2B0,
     0x395DA2B0,
     0x595DA2B0,
     0x795DA2B0].map (decodeTableWord 32) =
    [some (.ldb 17 22 0x1234),
     some (.ldbu 17 22 0x1234),
     some (.ldh 17 22 0x1234),
     some (.ldhu 17 22 0x1234),
     some (.ldw 17 22 0x1234),
     some (.ldwu 17 22 0x1234),
     some (.ldd 17 22 0x1234),
     some (.stb 17 22 0x1234),
     some (.sth 17 22 0x1234),
     some (.stw 17 22 0x1234),
     some (.std 17 22 0x1234),
     some (.ldpiB ⟨9, true⟩ 17 22 11),
     some (.ldpiBu ⟨9, true⟩ 17 22 11),
     some (.ldpiH ⟨9, true⟩ 17 22 11),
     some (.ldpiHu ⟨9, true⟩ 17 22 11),
     some (.ldpiW ⟨9, true⟩ 17 22 11),
     some (.ldpiWu ⟨9, true⟩ 17 22 11),
     some (.ldpiD ⟨9, true⟩ 17 22 11),
     some (.stpiB ⟨9, true⟩ 17 22 11),
     some (.stpiH ⟨9, true⟩ 17 22 11),
     some (.stpiW ⟨9, true⟩ 17 22 11),
     some (.stpiD ⟨9, true⟩ 17 22 11)] := by
  decide +kernel

/-- The words of amoAdd to barArrivewait (R43, R44), from the rows' match bits and field places. -/
theorem test_decode_s_atomics :
    [(0x155DA2C0 : Nat),
     0x355DA2C0,
     0x555DA2C0,
     0x755DA2C0,
     0x955DA2C0,
     0xB55DA2C0,
     0xD55DA2C0,
     0xF55DA2C0,
     0x155DA2C4,
     0x155DA2C8,
     0x50580D0,
     0x50580D4,
     0x50000D8,
     0x250000D8,
     0x450000D8,
     0x155DA2DC,
     0x355DA2DC,
     0x555DA2DC,
     0x5DA2E0,
     0x205DA2E0,
     0x55D80E4,
     0x155DA2E8,
     0x505A2F0,
     0x255DA2F0,
     0x4505A2F0].map (decodeTableWord 32) =
    [some (.amoAdd ⟨5, true⟩ 17 22 11),
     some (.amoMin ⟨5, true⟩ 17 22 11),
     some (.amoMax ⟨5, true⟩ 17 22 11),
     some (.amoMinu ⟨5, true⟩ 17 22 11),
     some (.amoMaxu ⟨5, true⟩ 17 22 11),
     some (.amoAnd ⟨5, true⟩ 17 22 11),
     some (.amoOr ⟨5, true⟩ 17 22 11),
     some (.amoSwap ⟨5, true⟩ 17 22 11),
     some (.cas ⟨5, true⟩ 17 22 11),
     some (.amoq ⟨5, true⟩ 17 22 11),
     some (.acq 5 22),
     some (.rel 5 22),
     some (.fenceFull 5),
     some (.fenceAcqside 5),
     some (.fenceRelside 5),
     some (.waitaNe ⟨5, true⟩ 17 22 11),
     some (.waitaEq ⟨5, true⟩ 17 22 11),
     some (.waitaGeu ⟨5, true⟩ 17 22 11),
     some (.bind 17 22 11),
     some (.unbind 17 22 11),
     some (.swset 5 22 11),
     some (.swwait ⟨5, true⟩ 17 22 11),
     some (.barArrive 5 17 22),
     some (.barWait 5 17 22 11),
     some (.barArrivewait 5 17 22)] := by
  decide +kernel

/-- The words of br to bmz (R43, R44), from the rows' match bits and field places. -/
theorem test_decode_s_control :
    [(0xAD2DF300 : Nat),
     0xAAF34104,
     0xAAF36308,
     0x91A5A30C,
     0xAD2DE310,
     0x19034114,
     0x11C,
     0x120,
     0x19000124,
     0xAAF34128,
     0xAAF3412C,
     0x130,
     0xAAF34134,
     0x34138,
     0x91A5813C,
     0x19058140,
     0x39018140,
     0x19000144,
     0x19000148,
     0xAD2DC14C].map (decodeTableWord 32) =
    [some (.br ⟨9, true⟩ true 0x15a5b),
     some (.jmp 0x2abcd),
     some (.jal 17 0x2abcd),
     some (.jalr 17 22 0x1234),
     some (.brq true true true 0x15a5b),
     some (.pushb ⟨9, true⟩ 13),
     some (.rdv),
     some (.end_),
     some (.yield_ ⟨9, true⟩),
     some (.rgn 0x2abcd),
     some (.trapi 0x2abcd),
     some (.tret),
     some (.brk 0x2abcd),
     some (.snap 13),
     some (.trcm 22 0x1234),
     some (.mpush ⟨9, true⟩ 22),
     some (.mpushPair ⟨9, true⟩ 6),
     some (.minv ⟨9, true⟩),
     some (.mpop ⟨9, true⟩),
     some (.bmz true 0x15a5b)] := by
  decide +kernel

/-- The words of sqpush to tfree (R43, R44), from the rows' match bits and field places. -/
theorem test_decode_s_queues_tokens :
    [(0x59058150 : Nat),
     0x59002354,
     0xB95D8558,
     0xB905855C,
     0x19058160,
     0x19059364,
     0x19058168,
     0x195D816C,
     0x1905A370,
     0x1905A374,
     0x195D8178,
     0x1905817C].map (decodeTableWord 32) =
    [some (.sqpush ⟨9, true⟩ 2 22),
     some (.sqpop ⟨9, true⟩ 2 17),
     some (.rdq ⟨9, true⟩ 5 2 22 11),
     some (.wrq ⟨9, true⟩ 5 2 22),
     some (.twait ⟨9, true⟩ 22),
     some (.ttest ⟨9, true⟩ 9 22),
     some (.cncl ⟨9, true⟩ 22),
     some (.dtch ⟨9, true⟩ 22 11),
     some (.adopt ⟨9, true⟩ 17 22),
     some (.tstat ⟨9, true⟩ 17 22),
     some (.tpri ⟨9, true⟩ 22 11),
     some (.tfree ⟨9, true⟩ 22)] := by
  decide +kernel

/-- The words of fix to migr (R43, R44), from the rows' match bits and field places. -/
theorem test_decode_s_recipes_launches :
    [(0x61280180 : Nat),
     0x61280184,
     0x61280188,
     0x61280194,
     0x195D818C,
     0x195D8190,
     0x91A00598,
     0x190581A0,
     0x195D81A4,
     0x395D81A4,
     0x595D81A4,
     0xB95D81A4,
     0x190001A8,
     0x190001AC,
     0x1905A3B0,
     0x395DA3B0,
     0x195DA3B4].map (decodeTableWord 32) =
    [some (.fix 0xc25),
     some (.unfix 0xc25),
     some (.drop 0xc25),
     some (.rcpclr 0xc25),
     some (.seal ⟨9, true⟩ 22 11),
     some (.unseal ⟨9, true⟩ 22 11),
     some (.rcp 2 0x1234),
     some (.arm ⟨9, true⟩ 22),
     some (.lputDeadline ⟨9, true⟩ 22 11),
     some (.lputArgs ⟨9, true⟩ 22 11),
     some (.lputCount ⟨9, true⟩ 22 11),
     some (.lputPatch ⟨9, true⟩ 5 22 11),
     some (.lsuc ⟨9, true⟩),
     some (.lprw ⟨9, true⟩),
     some (.rung ⟨9, true⟩ 17 22),
     some (.rungReq ⟨9, true⟩ 17 22 11),
     some (.migr ⟨9, true⟩ 17 22 11)] := by
  decide +kernel

/-- The words of csrr to kvslot (R43, R44), from the rows' match bits and field places. -/
theorem test_decode_s_system :
    [(0x8823C0 : Nat),
     0x8D81C4,
     0x8DA3C8,
     0x8DA3CC,
     0x190001D0,
     0x395801D0,
     0x595D81D0,
     0x1905A3D4,
     0x3905A3D4,
     0x5905A3D4,
     0x195DA3D8,
     0x195DA3DC].map (decodeTableWord 32) =
    [some (.csrr 17 17),
     some (.csrw 17 22),
     some (.csrs 17 22 17),
     some (.csrc 17 22 17),
     some (.tlbiAll ⟨9, true⟩),
     some (.tlbiPasid ⟨9, true⟩ 11),
     some (.tlbiVa ⟨9, true⟩ 22 11),
     some (.xlatRd ⟨9, true⟩ 17 22),
     some (.xlatWr ⟨9, true⟩ 17 22),
     some (.xlatEx ⟨9, true⟩ 17 22),
     some (.pctl ⟨9, true⟩ 17 22 11),
     some (.kvslot ⟨9, true⟩ 17 22 11)] := by
  decide +kernel

/-- The words of VADD to VLERP (R45, R46, R49, R284). -/
theorem test_decode_v_arith :
    [(0xD0FFEF674F019A943819A405 : Nat),
     0xD0005620009000193819A009,
     0xD674F00FFEF19A943819A20D,
     0xD20056874F019A943819A611,
     0xD874F08000919A943819BE15,
     0xD20009874F0000193819A819,
     0xD874F00005619A943819AA1D,
     0xD10003674F019A943819AC21,
     0xD0FFEF874F019A940E19A825,
     0xD0005680009000190E19A829,
     0xD874F00005619A940E19BE2D,
     0xD0FFEF874F019A940E19A831,
     0xD874F080009000190E19A835,
     0xD00056874F019A940E19A039,
     0xD20056674F019A940E79A23D,
     0x20009674F0100030F59A23D,
     0xD0FFEF874F019A940E19A441,
     0xD0FFEF2000919A943819AE45,
     0xD80009874F0000193979A249].map (decodeTableWord 96) =
    [some (.vadd ⟨2, 5, ⟨9, true⟩, 0, 4, true, true, .row 0x2A5 9 true false .straight, .row 0x13C 7 false true .first, .imm 0x3FFB, 13⟩),
     some (.vsub ⟨0, 5, ⟨9, true⟩, 0, 4, true, true, .queue 6 false .straight, .queue 2 true .straight, .scalar 21 false, 13⟩),
     some (.vmul ⟨1, 5, ⟨9, true⟩, 0, 4, true, true, .row 0x2A5 9 true false .straight, .imm 0x3FFB, .row 0x13C 7 false true .first, 13⟩),
     some (.vfma ⟨3, 5, ⟨9, true⟩, 0, 4, true, true, .row 0x2A5 9 true false .straight, .row 0x13C 7 false false .reversed, .scalar 21 true, 13⟩),
     some (.vfms ⟨15, 5, ⟨9, true⟩, 0, 4, true, true, .row 0x2A5 9 true false .straight, .queue 2 false .reversed, .row 0x13C 7 false false .reversed, 13⟩),
     some (.vmin ⟨4, 5, ⟨9, true⟩, 0, 4, true, true, .queue 6 false .straight, .row 0x13C 7 false false .reversed, .queue 2 true .straight, 13⟩),
     some (.vmax ⟨5, 5, ⟨9, true⟩, 0, 4, true, true, .row 0x2A5 9 true false .straight, .scalar 21 false, .row 0x13C 7 false false .reversed, 13⟩),
     some (.vabs ⟨6, 5, ⟨9, true⟩, 0, 4, true, true, .row 0x2A5 9 true false .straight, .row 0x13C 7 false true .first, .none, 13⟩),
     some (.vand ⟨4, 5, ⟨9, true⟩, 0, 7, false, false, .row 0x2A5 9 true false .straight, .row 0x13C 7 false false .reversed, .imm 0x3FFB, 13⟩),
     some (.vor ⟨4, 5, ⟨9, true⟩, 0, 7, false, false, .queue 6 false .straight, .queue 2 false .reversed, .scalar 21 false, 13⟩),
     some (.vxor ⟨15, 5, ⟨9, true⟩, 0, 7, false, false, .row 0x2A5 9 true false .straight, .scalar 21 false, .row 0x13C 7 false false .reversed, 13⟩),
     some (.vshl ⟨4, 5, ⟨9, true⟩, 0, 7, false, false, .row 0x2A5 9 true false .straight, .row 0x13C 7 false false .reversed, .imm 0x3FFB, 13⟩),
     some (.vshr ⟨4, 5, ⟨9, true⟩, 0, 7, false, false, .queue 6 false .straight, .queue 2 false .reversed, .row 0x13C 7 false false .reversed, 13⟩),
     some (.vsra ⟨0, 5, ⟨9, true⟩, 0, 7, false, false, .row 0x2A5 9 true false .straight, .row 0x13C 7 false false .reversed, .scalar 21 false, 13⟩),
     some (.vcmp ⟨1, 5, ⟨9, true⟩, 3, 7, false, false, .row 0x2A5 9 true false .straight, .row 0x13C 7 false true .first, .scalar 21 true, 13⟩),
     some (.vcmpPush ⟨1, 5, ⟨9, true⟩, 10, 7, false, false, .none, .row 0x13C 7 false true .first, .queue 2 true .straight, 0⟩),
     some (.vsel ⟨2, 5, ⟨9, true⟩, 0, 7, false, false, .row 0x2A5 9 true false .straight, .row 0x13C 7 false false .reversed, .imm 0x3FFB, 13⟩),
     some (.vclamp ⟨7, 5, ⟨9, true⟩, 0, 4, true, true, .row 0x2A5 9 true false .straight, .queue 2 true .straight, .imm 0x3FFB, 13⟩),
     some (.vlerp ⟨1, 5, ⟨9, true⟩, 11, 4, true, true, .queue 6 false .straight, .row 0x13C 7 false false .reversed, .queue 2 false .reversed, 13⟩)] := by
  decide +kernel

/-- The words of VCVT to VST (R45, R46, R49, R284). -/
theorem test_decode_v_rest :
    [(0xD000B7674F019A943819A451 : Nat),
     0xD1000380009000193819AA55,
     0xD00056874F019A943819A259,
     0xD000B7874F019A940E19A85D,
     0xD000B7674F019A943819A461,
     0xD1000320009000193819A265,
     0xD100032005619A943819A271,
     0xD10003874F019A943819A475,
     0xD1000380009000193819A679,
     0xD100030FFEF19A943819A27D,
     0xD00056874F019A943819A281,
     0xD100030FFEF19A940E19A291,
     0xD00056874F0000190E19A095,
     0xD0FFEF0005619A940E19A499,
     0xD80009874F019A940E19A89D,
     0xD0FFEF8000919A940E19A0A1,
     0xD100030FFEF19A943819A8A5,
     0xD10003674F019A943839A2B1,
     0xD10003874F019A940E39A2B5,
     0xD1000320009000190E19A8B9,
     0xD10003874F019A940E39A0BD,
     0xD10003674F019A940E19A8C1,
     0xD10003874F019A943839A2C5,
     0xD10003874F019A940E19A8C9,
     0xD10003174F019A940E19A0CD,
     0xD0FFEF0005619A940ED9A0E1,
     0xD00056874F0100030FF9A0E5].map (decodeTableWord 96) =
    [some (.vcvt ⟨2, 5, ⟨9, true⟩, 0, 4, true, true, .row 0x2A5 9 true false .straight, .row 0x13C 7 false true .first, .imm 45, 13⟩),
     some (.vpack ⟨5, 5, ⟨9, true⟩, 0, 4, true, true, .queue 6 false .straight, .queue 2 false .reversed, .none, 13⟩),
     some (.vunpk ⟨1, 5, ⟨9, true⟩, 0, 4, true, true, .row 0x2A5 9 true false .straight, .row 0x13C 7 false false .reversed, .scalar 21 false, 13⟩),
     some (.vtag ⟨4, 5, ⟨9, true⟩, 0, 7, false, false, .row 0x2A5 9 true false .straight, .row 0x13C 7 false false .reversed, .imm 45, 13⟩),
     some (.vgain ⟨2, 5, ⟨9, true⟩, 0, 4, true, true, .row 0x2A5 9 true false .straight, .row 0x13C 7 false true .first, .imm 45, 13⟩),
     some (.vrnd ⟨1, 5, ⟨9, true⟩, 0, 4, true, true, .queue 6 false .straight, .queue 2 true .straight, .none, 13⟩),
     some (.vexp2 ⟨1, 5, ⟨9, true⟩, 0, 4, true, true, .row 0x2A5 9 true false .straight, .scalar 21 true, .none, 13⟩),
     some (.vrcp ⟨2, 5, ⟨9, true⟩, 0, 4, true, true, .row 0x2A5 9 true false .straight, .row 0x13C 7 false false .reversed, .none, 13⟩),
     some (.vrsq ⟨3, 5, ⟨9, true⟩, 0, 4, true, true, .queue 6 false .straight, .queue 2 false .reversed, .none, 13⟩),
     some (.vsqrt ⟨1, 5, ⟨9, true⟩, 0, 4, true, true, .row 0x2A5 9 true false .straight, .imm 0x3FFB, .none, 13⟩),
     some (.vdiv ⟨1, 5, ⟨9, true⟩, 0, 4, true, true, .row 0x2A5 9 true false .straight, .row 0x13C 7 false false .reversed, .scalar 21 false, 13⟩),
     some (.vmov ⟨1, 5, ⟨9, true⟩, 0, 7, false, false, .row 0x2A5 9 true false .straight, .imm 0x3FFB, .none, 13⟩),
     some (.vext ⟨0, 5, ⟨9, true⟩, 0, 7, false, false, .queue 6 false .straight, .row 0x13C 7 false false .reversed, .scalar 21 false, 13⟩),
     some (.vins ⟨2, 5, ⟨9, true⟩, 0, 7, false, false, .row 0x2A5 9 true false .straight, .scalar 21 false, .imm 0x3FFB, 13⟩),
     some (.vperm ⟨4, 5, ⟨9, true⟩, 0, 7, false, false, .row 0x2A5 9 true false .straight, .row 0x13C 7 false false .reversed, .queue 2 false .reversed, 13⟩),
     some (.vrot ⟨0, 5, ⟨9, true⟩, 0, 7, false, false, .row 0x2A5 9 true false .straight, .queue 2 false .reversed, .imm 0x3FFB, 13⟩),
     some (.viota ⟨4, 5, ⟨9, true⟩, 0, 4, true, true, .row 0x2A5 9 true false .straight, .imm 0x3FFB, .none, 13⟩),
     some (.vrsum ⟨1, 5, ⟨9, true⟩, 1, 4, true, true, .row 0x2A5 9 true false .straight, .row 0x13C 7 false true .first, .none, 13⟩),
     some (.vrmax ⟨1, 5, ⟨9, true⟩, 1, 7, false, false, .row 0x2A5 9 true false .straight, .row 0x13C 7 false false .reversed, .none, 13⟩),
     some (.vrmin ⟨4, 5, ⟨9, true⟩, 0, 7, false, false, .queue 6 false .straight, .queue 2 true .straight, .none, 13⟩),
     some (.vamax ⟨0, 5, ⟨9, true⟩, 1, 7, false, false, .row 0x2A5 9 true false .straight, .row 0x13C 7 false false .reversed, .none, 13⟩),
     some (.vamin ⟨4, 5, ⟨9, true⟩, 0, 7, false, false, .row 0x2A5 9 true false .straight, .row 0x13C 7 false true .first, .none, 13⟩),
     some (.vscan ⟨1, 5, ⟨9, true⟩, 1, 4, true, true, .row 0x2A5 9 true false .straight, .row 0x13C 7 false false .reversed, .none, 13⟩),
     some (.vpopc ⟨4, 5, ⟨9, true⟩, 0, 7, false, false, .row 0x2A5 9 true false .straight, .row 0x13C 7 false false .reversed, .none, 13⟩),
     some (.vpfx ⟨0, 5, ⟨9, true⟩, 0, 7, false, false, .row 0x2A5 9 true false .straight, .row 0x13C 7 true false .straight, .none, 13⟩),
     some (.vld ⟨0, 5, ⟨9, true⟩, 6, 7, false, false, .row 0x2A5 9 true false .straight, .scalar 21 false, .imm 0x3FFB, 13⟩),
     some (.vst ⟨0, 5, ⟨9, true⟩, 15, 7, false, false, .none, .row 0x13C 7 false false .reversed, .scalar 21 false, 13⟩)] := by
  decide +kernel

/-- The words of CPY to FRADV (R50, R52, R200, R204). -/
theorem test_decode_engines :
    [(0x220065C36C9E6042 : Nat),
     0x2D006C39A5220065C06C9E6046,
     0x2D006C39A5220065C06C9E604A,
     0x2D000009A5220065C36C9E604E,
     0x220064036C9E6052,
     0x64036C9E6256,
     0x9A5000065C36C9E6462,
     0x9A5220000036C9E7E66,
     0x65C36C9E606A,
     0x1C36C9E606E,
     0x36C9E6072,
     0x65C36C9E6076,
     0x29000000000023D365C36C9E68A2,
     0x30000000000023D365C36C9E7EA6,
     0x8000000000023D365C36C9E7EAA,
     0x18800000000023D365C36C9E64AE,
     0x9A5000001C36C9E60C2,
     0x1D365C36C9E60C6,
     0x800000000001D365C36C9E60C6,
     0x1000000000001D365C36C9E60C6].map (decodeTableWord 192) =
    [some (.cpy ⟨⟨0, 19, 7, 25, 2, true⟩, 3, 14, 25, 0, 0, 17, 0, 0, 0, 0, 0⟩),
     some (.gath ⟨⟨0, 19, 7, 25, 2, true⟩, 0, 14, 25, 0, 0, 17, 2469, 1731, 45, 0, 0⟩),
     some (.scat ⟨⟨0, 19, 7, 25, 2, true⟩, 0, 14, 25, 0, 0, 17, 2469, 1731, 45, 0, 0⟩),
     some (.put ⟨⟨0, 19, 7, 25, 2, true⟩, 3, 14, 25, 0, 0, 17, 2469, 0, 45, 0, 0⟩),
     some (.dcmp ⟨⟨0, 19, 7, 25, 2, true⟩, 3, 0, 25, 0, 0, 17, 0, 0, 0, 0, 0⟩),
     some (.pfch ⟨⟨1, 19, 7, 25, 2, true⟩, 3, 0, 25, 0, 0, 0, 0, 0, 0, 0, 0⟩),
     some (.kvapp ⟨⟨2, 19, 7, 25, 2, true⟩, 3, 14, 25, 0, 0, 0, 2469, 0, 0, 0, 0⟩),
     some (.kvget ⟨⟨15, 19, 7, 25, 2, true⟩, 3, 0, 0, 0, 0, 17, 2469, 0, 0, 0, 0⟩),
     some (.kvevt ⟨⟨0, 19, 7, 25, 2, true⟩, 3, 14, 25, 0, 0, 0, 0, 0, 0, 0, 0⟩),
     some (.dirlk ⟨⟨0, 19, 7, 25, 2, true⟩, 3, 14, 0, 0, 0, 0, 0, 0, 0, 0, 0⟩),
     some (.dirpub ⟨⟨0, 19, 7, 25, 2, true⟩, 3, 0, 0, 0, 0, 0, 0, 0, 0, 0, 0⟩),
     some (.kvfet ⟨⟨0, 19, 7, 25, 2, true⟩, 3, 14, 25, 0, 0, 0, 0, 0, 0, 0, 0⟩),
     some (.cred ⟨⟨4, 19, 7, 25, 2, true⟩, 3, 14, 25, 6, 29, 17, 0, 0, 0, 2, 5⟩),
     some (.cbc ⟨⟨15, 19, 7, 25, 2, true⟩, 3, 14, 25, 6, 29, 17, 0, 0, 0, 0, 6⟩),
     some (.cgth ⟨⟨15, 19, 7, 25, 2, true⟩, 3, 14, 25, 6, 29, 17, 0, 0, 0, 0, 1⟩),
     some (.crsc ⟨⟨2, 19, 7, 25, 2, true⟩, 3, 14, 25, 6, 29, 17, 0, 0, 0, 1, 3⟩),
     some (.enqf ⟨⟨0, 19, 7, 25, 2, true⟩, 3, 14, 0, 0, 0, 0, 2469, 0, 0, 0, 0⟩),
     some (.fradvPub ⟨⟨0, 19, 7, 25, 2, true⟩, 3, 14, 25, 6, 29, 0, 0, 0, 0, 0, 0⟩),
     some (.fradvPin ⟨⟨0, 19, 7, 25, 2, true⟩, 3, 14, 25, 6, 29, 0, 0, 0, 0, 1, 0⟩),
     some (.fradvUnpin ⟨⟨0, 19, 7, 25, 2, true⟩, 3, 14, 25, 6, 29, 0, 0, 0, 0, 2, 0⟩)] := by
  decide +kernel

/-- The words of MMA to RQNT (R50, R52, R313, R314). -/
theorem test_decode_matrix :
    [(0x300000000001919AD0081D3B7056C39A52C9E6E06 : Nat),
     0x1919AD0081D3B7056C39A52C9E6C0A,
     0x365C3000400000000002D000003B7050009A52C9E640E,
     0x50000002C9E6812,
     0x13CE59000019AD000003B7050009A52C9E6616,
     0x20E59000019AD000003B7050009A52C9E6C1A,
     0x300000000000019AD000003B7056C39A52C9E6A1E,
     0x19AD0081D3B7006C39A56C9E7E22,
     0x2080E59000019AD0081D3B7006C39A56C9E6C82,
     0x7000E59000019AD0081D3B7006C39A56C9E6286,
     0x1C3000000000000000000000000000000006C9E6A8A].map (decodeTableWord 192) =
    [some (.mma ⟨⟨7, 19, 7, 25, 2, false⟩, 2469, 1731, 5, 951, 2077, 45, 51, 100, 0, 0, false, false, false, false, false, false, 0, 3, 0, 0, 0⟩),
     some (.mmi ⟨⟨6, 19, 7, 25, 2, false⟩, 2469, 1731, 5, 951, 2077, 45, 51, 100, 0, 0, false, false, false, false, false, false, 0, 0, 0, 0, 0⟩),
     some (.attn ⟨⟨2, 19, 7, 25, 2, false⟩, 2469, 0, 5, 951, 0, 45, 0, 0, 0, 0, false, false, false, true, false, false, 0, 3, 14, 25, 6⟩),
     some (.accz ⟨⟨4, 19, 7, 25, 2, false⟩, 0, 0, 5, 0, 0, 0, 0, 0, 0, 0, false, false, false, false, false, false, 0, 0, 0, 0, 0⟩),
     some (.accrd ⟨⟨3, 19, 7, 25, 2, false⟩, 2469, 0, 5, 951, 0, 45, 51, 0, 3673, 4, true, true, true, false, false, true, 0, 0, 0, 0, 0⟩),
     some (.accwr ⟨⟨6, 19, 7, 25, 2, false⟩, 2469, 0, 5, 951, 0, 45, 51, 0, 3673, 0, false, false, true, false, false, false, 0, 0, 0, 0, 0⟩),
     some (.drnq ⟨⟨5, 19, 7, 25, 2, false⟩, 2469, 1731, 5, 951, 0, 45, 51, 0, 0, 0, false, false, false, false, false, false, 0, 3, 0, 0, 0⟩),
     some (.mtrn ⟨⟨15, 19, 7, 25, 2, true⟩, 2469, 1731, 0, 951, 2077, 45, 51, 0, 0, 0, false, false, false, false, false, false, 0, 0, 0, 0, 0⟩),
     some (.qnt ⟨⟨6, 19, 7, 25, 2, true⟩, 2469, 1731, 0, 951, 2077, 45, 51, 0, 3673, 0, false, false, false, false, true, false, 2, 0, 0, 0, 0⟩),
     some (.dqnt ⟨⟨1, 19, 7, 25, 2, true⟩, 2469, 1731, 0, 951, 2077, 45, 51, 0, 3673, 0, false, false, false, false, false, false, 7, 0, 0, 0, 0⟩),
     some (.rqnt ⟨⟨5, 19, 7, 25, 2, true⟩, 0, 0, 0, 0, 0, 0, 0, 0, 0, 0, false, false, false, false, false, false, 0, 3, 14, 0, 0⟩)] := by
  decide +kernel

/-- The word of LOOP (R76). -/
theorem test_decode_loop :
    [(0x14F03A000407000027FF00013EAA0D550000BEEF002EEB02 : Nat)].map (decodeTableWord 192) =
    [some (.loop ⟨5, 23, 11, 0xBEEF, ⟨341, 3⟩, ⟨682, 15⟩, ⟨1, 0⟩, ⟨1023, 9⟩, ⟨0, 0⟩, ⟨7, 1⟩, ⟨512, 14⟩, ⟨240, 5⟩⟩)] := by
  decide +kernel

/-! ## Ill-formed instructions are refused -/

/-- A well-formed VADD of rows. -/
def vgood : VOp :=
  ⟨1, 0, g0, 0, 7, false, false, .row 3 1 false false .straight, .row 1 1 false false .straight,
    .row 2 1 false false .straight, 3⟩

/-- Every fmt, fn, rounding, neg, operand-kind, lane and tag check of a V-class row (R45–R47, R284, R286). -/
theorem test_wf_vector :
    (Instr.vadd vgood).wf = true ∧
    ([.vadd { vgood with fmt := 8 }, .vcvt { vgood with fmt := 15, B := .none }, .vld { vgood with fmt := 1, A := .scalar 1 false, B := .imm 0 },
      .vamax { vgood with fmt := 2, B := .none, rnd := 7 },
      .vadd { vgood with fn := 1 }, .vrsum { vgood with fn := 2, B := .none }, .vcmp { vgood with fn := 6 },
      .vcmpPush { vgood with fn := 14, D := .none, n := 0 }, .vcmpPush { vgood with fn := 8, D := .none, n := 1 },
      .vadd { vgood with D := .queue 3 false .straight }, .vadd { vgood with D := .none }, .vfma { vgood with D := .queue 5 false .straight },
      .vadd { vgood with A := .none }, .vabs { vgood with A := .scalar 1 false, B := .none }, .vadd { vgood with A := .queue 4 false .straight },
      .vadd { vgood with B := .none }, .vabs vgood,
      .vadd { vgood with rnd := 5 }, .vadd { vgood with rnd := 6 }, .vand { vgood with rnd := 0 }, .vand { vgood with sat := true },
      .vand { vgood with ftz := true }, .vand { vgood with A := .row 1 1 false true .straight }, .vand { vgood with B := .scalar 1 true },
      .vadd { vgood with D := .row 3 1 false true .straight }, .vadd { vgood with D := .row 3 1 false false .first },
      .vadd { vgood with fmt := 0, A := .scalar 1 false, B := .imm 2 },
      .vcvt { vgood with B := .imm 64 }, .vgain { vgood with B := .imm 64 }, .vtag { vgood with B := .imm 128 },
      .vpfx { vgood with fmt := 0, A := .row 1 1 false false .reversed, B := .none }] : List Instr).all
      (fun i => !i.wf && (decode (encode i)).toOption.isNone) = true := by
  decide +kernel

/-- A well-formed CPY. -/
def egood : EngOp := ⟨⟨0, 1, 0, 0, 0, false⟩, 1, 2, 3, 0, 0, 0, 0, 0, 0, 0, 0⟩

/-- The field checks of the engine word (R50, R51, R200, R204). -/
theorem test_wf_engine :
    (Instr.cpy egood).wf = true ∧
    ([.cpy { egood with h := ⟨0, 0, 0, 0, 0, true⟩ }, .cpy { egood with h := ⟨1, 1, 0, 0, 0, false⟩ },
      .dirlk { egood with rc := 3 }, .dirpub { egood with rb := 2, rc := 0 }, .pfch { egood with ra := 1, rb := 1 },
      .gath { egood with ra := 1, cnt := 4 }, .cpy { egood with rd := 1 }, .cpy { egood with re := 1 }, .kvevt { egood with rw := 1 },
      .cpy { egood with ln := 1 }, .cpy { egood with ln2 := 1 }, .cpy { egood with cnt := 1 },
      .put { egood with cnt := 0 }, .put { egood with cnt := 65 }, .cpy { egood with op := 1 },
      .cred { egood with h := ⟨1, 1, 0, 0, 0, false⟩, op := 3, lvl := 1 }, .cred { egood with h := ⟨1, 1, 0, 0, 0, false⟩, lvl := 0 },
      .cbc { egood with h := ⟨15, 1, 0, 0, 0, false⟩, lvl := 7 }, .cpy { egood with lvl := 1 }] : List Instr).all
      (fun i => !i.wf && (decode (encode i)).toOption.isNone) = true := by
  decide +kernel

/-- A well-formed MMA. -/
def mgood : MatOp :=
  ⟨⟨2, 1, 0, 0, 0, false⟩, 1, 2, 0, 1, 1, 4, 4, 1, 0, 0, false, false, false, false, false, false, 0, 0, 0, 0, 0⟩

/-- The field checks of the matrix word (R50, R313, R314). -/
theorem test_wf_matrix :
    (Instr.mma mgood).wf = true ∧
    ([.mma { mgood with h := ⟨2, 1, 0, 0, 0, true⟩ }, .mtrn { mgood with h := ⟨1, 0, 0, 0, 0, true⟩, kb := 0 },
      .mma { mgood with h := ⟨1, 1, 0, 0, 0, false⟩ }, .mma { mgood with ra := 1 }, .mma { mgood with rb := 1 },
      .mma { mgood with rc := 1 }, .mma { mgood with rd := 1 }, .mtrn { mgood with kb := 0, acc := 1 },
      .accz { mgood with h := ⟨1, 1, 0, 0, 0, false⟩ }, .mma { mgood with m := 0 }, .mma { mgood with n := 65 },
      .mma { mgood with kb := 0 }, .mma { mgood with kb := 129 }, .mtrn mgood, .mma { mgood with lc := 1 },
      .mma { mgood with rnd := 1 }, .accrd { mgood with lb := 0, sb := 0, kb := 0, rnd := 5 },
      .accrd { mgood with lb := 0, sb := 0, kb := 0, lc := 3 }, .mma { mgood with sat := true }, .mma { mgood with norm := true },
      .mma { mgood with side := true }, .mma { mgood with causal := true }, .mma { mgood with scsrc := true },
      .mma { mgood with prior := true }, .mma { mgood with srcfmt := 1 },
      .qnt { mgood with h := ⟨5, 1, 0, 0, 0, false⟩, kb := 0, srcfmt := 3 },
      .drnq { mgood with h := ⟨5, 1, 0, 0, 0, false⟩, kb := 0, sb := 1 },
      .attn { mgood with lb := 0, sb := 0, n := 0, kb := 0, rd := 1 }] : List Instr).all
      (fun i => !i.wf && (decode (encode i)).toOption.isNone) = true := by
  decide +kernel

/-- The field checks of S-class instructions: scopes (R43, R92, R181, R186), LDPI's registers (R174), region 0, row
ranges (R453), LPUT fields (R348), CSR numbers (R87). -/
theorem test_wf_scalar :
    ([.amoAdd ⟨8, false⟩ 1 2 3, .cas ⟨9, true⟩ 1 2 3, .amoq ⟨15, false⟩ 1 2 3, .swwait ⟨8, true⟩ 1 2 3, .waitaNe ⟨8, true⟩ 1 2 3,
      .waitaEq ⟨3, false⟩ 1 2 3, .acq 8 1, .rel 9 1, .fenceFull 8, .swset 8 1 2, .barArrive 7 1 2, .barWait 7 1 2 3,
      .ldpiD g0 4 4 1, .rgn 0, .snap 16, .fix 0x7FF, .rcpclr 0x1FFF, .lputPatch g0 2 1 2, .csrr 1 0x006, .csrw 0xFFF 1] : List Instr).all
      (fun i => !i.wf) = true := by
  decide +kernel

/-- Reserved words are refused: a zero word and an unused major opcode of each class, the reserved class, a must-be-zero bit, a
reserved lane code and a truncated instruction (R39, R41, R46, R49, R52). -/
theorem test_reserved_words :
    [0x0, 0x1F8, 0x3, 0x20000004, 0x00000006].map (decodeTableWord 32) = [none, none, none, none, none] ∧
    [0x0001000300001000001E0001].map (decodeTableWord 96) = [none] ∧
    ([0x0A] : List Nat).map (decodeTableWord 192) = [none] ∧
    (decode [0x0E000005, 0x00000000]).toOption = none := by
  decide +kernel


/-! ## Results the spec works out -/

/-- The worked encodings of the spec: add, (!p3) sub, addi, (p2) br.t, csrr; pset.lt, ldhi, ori, jal, ret, brq, mpush, csrw; waita,
pset.eq, (p1) br, sel, amo.swap; lsuc, lprw, rdq, wrq; tlbi.pasid, xlat.wr, pctl. -/
theorem test_worked_words :
    [0x00290608, 0x1309CE0C, 0xFFE18C50, 0xFFFD4500, 0x002005C0, 0x4029043C, 0xFFFCD070, 0xCB021058, 0x0002BF08, 0x0007C10C,
      0xFFFE6110, 0x0001C140, 0x000181C4, 0x17729CDC, 0x0073423C, 0xFFFF4300, 0x064DEE38, 0xE76B00C0, 0x000001A8, 0x000001AC,
      0x00580158, 0x0002C15C, 0x202801D0, 0x20010FD4, 0x00290FD8].map (decodeTableWord 32) =
    [some (.add g0 3 4 5), some (.sub ⟨3, true⟩ 7 7 1), some (.addi 6 6 0x1FFC), some (.br ⟨2, false⟩ true 0x1FFFA),
      some (.csrr 2 4), some (.psetLt g0 2 4 5), some (.ldhi 8 0x3FFF3), some (.ori 8 8 0x1960), some (.jal 31 10),
      some (.jalr 0 31 0), some (.brq false true true 0x1FFFC), some (.mpush g0 7), some (.csrw 0 6),
      some (.waitaNe ⟨7, true⟩ 14 10 14), some (.psetEq g0 1 13 14), some (.br ⟨1, false⟩ true 0x1FFFE),
      some (.sel ⟨6, false⟩ 23 23 9), some (.amoSwap ⟨7, false⟩ 0 12 13), some (.lsuc g0), some (.lprw g0),
      some (.rdq g0 0 0 0 11), some (.wrq g0 0 0 11), some (.tlbiPasid g0 5), some (.xlatWr g0 7 4), some (.pctl g0 7 4 5)] := by
  decide +kernel

/-- A rotation field that rotates nothing. -/
def idle : RotField := ⟨0, 0⟩

/-- The worked parcels of vfma, vmul and vadd (three) and of cpy and loop (six). -/
theorem test_worked_parcels :
    [0x300005010000120000004411, 0x00003200001000000000040D, 0x00000F000010001100000405].map (decodeTableWord 96) =
      [some (.vfma ⟨2, 2, g0, 0, 0, false, false, .row 128 1 false false .straight, .row 0 1 false false .straight,
        .queue 1 false .straight, 3⟩),
       some (.vmul ⟨2, 0, g0, 0, 0, false, false, .row 0 0 false false .straight, .queue 0 false .straight, .scalar 12 false, 0⟩),
       some (.vadd ⟨2, 0, g0, 0, 0, false, false, .queue 4 false .straight, .queue 0 false .straight, .imm 3, 0⟩)]
    ∧ [0x0000250700014042, 0x000008400000000C00212502].map (decodeTableWord 192) =
      [some (.cpy ⟨⟨0, 10, 0, 0, 0, false⟩, 7, 8, 9, 0, 0, 0, 0, 0, 0, 0, 0⟩),
       some (.loop ⟨2, 9, 8, 12, ⟨0x40, 2⟩, idle, idle, idle, idle, idle, idle, idle⟩)] := by
  decide +kernel

/-- Rows of the table of R266 that round an FP32 word or an exact value (formats 2 BF16, 3 FP16, 1 FP32; modes 0 RNE, 1 RTZ, 2 RUP,
3 RDN, 4 RNA). -/
theorem test_conversions :
    ([(2, 0, false, 0x3F808000), (2, 4, false, 0x3F808000), (2, 0, false, 0x3F818000), (2, 1, false, 0x3F818000),
      (2, 0, false, 0x7F7F8000), (2, 0, true, 0x7F7F8000), (2, 1, false, 0x7F7F8000), (2, 0, false, 0x7FC00001), (3, 0, false, 0x7FC00001),
      (5, 0, false, 0x7FC00001), (7, 0, false, 0x7FC00001)] : List (Nat × Nat × Bool × BitVec 32)).map
      (fun x => encodeElem x.1 fp32One x.2.1 x.2.2.1 false (ofFp32 x.2.2.2)) =
      [0x3F80, 0x3F81, 0x3F82, 0x3F81, 0x7F80, 0x7F7F, 0x7F7F, 0x7FC0, 0x7E00, 0x00, 0x80]
    ∧ ([(0, false, 65520), (0, true, 65520), (0, false, 65519)] : List (Nat × Bool × Int)).map
      (fun x => encodeElem 3 fp32One x.1 x.2.1 false (Ex.ofInt x.2.2)) = [0x7C00, 0x7BFF, 0x7BFF]
    ∧ ([(0, 5, 2), (4, 5, 2), (2, 5, 2), (3, 5, 2), (0, -5, 2), (4, -5, 2), (1, -5, 2), (3, -5, 2), (0, 255, 2), (0, -261, 2)] :
        List (Nat × Int × Nat)).map (fun x => encodeElem 5 fp32One x.1 false false ((Ex.ofInt x.2.1).div (Ex.ofInt x.2.2))) =
      [2, 3, 3, 2, 0xFE, 0xFD, 0xFE, 0xFD, 0x7F, 0x80]
    ∧ ([(-2, 5), (-3, 1), (300, 1)] : List (Int × Int)).map
      (fun x => encodeElem 6 fp32One 0 false false ((Ex.ofInt x.1).div (Ex.ofInt x.2))) = [0, 0, 0xFF] := by
  decide +kernel

/-- The DK8 rows of R266: FP32 3.2, 1.0703125, 1.2109375, 0.99, 20.0 and −∞; 0.8 at gain 0.25; ±1.0 at gain 2,000,000; and DK8 0x20 and
0xC0 decoded. -/
theorem test_dk8 :
    ([0x404CCCCD, 0x3F890000, 0x3F9B0000, 0x3F7D70A4, 0x41A00000, 0xFF800000] : List (BitVec 32)).map
      (fun x => encodeElem 7 fp32One 0 false false (ofFp32 x)) = [0x50, 0x40, 0x42, 0x40, 0x7F, 0xFF]
    ∧ ([(0x3E800000, 0x3F4CCCCD), (0x49F42400, 0x3F800000), (0x49F42400, 0xBF800000)] : List (BitVec 32 × BitVec 32)).map
      (fun x => encodeElem 7 x.1 0 false false (ofFp32 x.2)) = [0x50, 0, 0]
    ∧ toFp32 (decodeElem 7 fp32One 0x20) = 0x3DCCCCCD ∧ (decodeElem 7 fp32One 0xC0).eqv (Ex.ofInt (-1)) = true := by
  decide +kernel

/-- The integer rows of R266: 0x7FFFFFFF + 1, −128 ÷ −1 and 7 ÷ 0. -/
theorem test_integer_results :
    [intResult 4 false (0x7FFFFFFF + 1), intResult 4 true (0x7FFFFFFF + 1), intDiv 5 false (-128) (-1), intDiv 5 true (-128) (-1),
      intDiv 6 false 7 0] = [0x80000000, 0x7FFFFFFF, 0x80, 0x7F, 0xFF] := by
  decide +kernel

/-- The five-leaf trees of R271: sets A and B. -/
theorem test_plumb_order :
    ([[0x4B800000, 0x3F800000, 0x3F800000, 0x3F800000, 0x80000000], [0x80000000, 0x80000000, 0x80000000, 0x80000000, 0x80000000]] :
      List (List (BitVec 32))).map (fun l => toFp32 (plumbSum32 (l.map fun x => some (ofFp32 x)))) = [0x4B800001, 0x80000000] := by
  decide +kernel

/-- The ordered cell of R178's example: 16,777,216 at its turn, then the two buffered 1.0. -/
theorem test_amoq_order :
    applyBuffered 64 2 [⟨0, 64, 7, 0x3F800000⟩, ⟨0, 64, 6, 0x3F800000⟩] (fp32Add 0 0x4B800000, 6) = ((0x4B800000, 8), []) := by
  decide +kernel

/-- The worked table of R151. -/
theorem test_judge :
    let s := modCurCore (base .l) fun c =>
      { c with nextSeq := 0x120, tokens := [(5, { token .running with holder := some (curJob (base .l)).ids.jobid })] }
    ([0x05000110, 0x09000100, 0x05000100, 0x09000120, 0x09000121, 0x09000000, 0].map fun t =>
      match judgeCur s t with
      | .none => 0 | .foreign => 1 | .forward => 2 | .retired => 3 | .live .. => 4) = [4, 3, 3, 2, 2, 1, 0] := by
  decide +kernel

/-- vpfx of 0xB5 and viota.int8.n2 with #120 (R309). -/
theorem test_vector_worked :
    (let s := nx (Sys2Proof.Machine.execVpfx { vop with fmt := 4, A := .scalar 9 false, B := .none }
        (regs (vrows 4 4 4) [(9, 0xB5)]))
     ((elemsOf 4 (getRow (curJob s) 7).data).take 9 = [0, 0xFFFFFFFF, 1, 0xFFFFFFFF, 2, 3, 0xFFFFFFFF, 4, 0xFFFFFFFF]))
    ∧ (let s := nx (Sys2Proof.Machine.execViota { vop with fmt := 5, D := .row 7 1 false false .straight, A := .imm 120, B := .none, n := 1 }
        (vrows 4 4 4))
       ((elemsOf 5 (getRow (curJob s) 7).data).take 9 = [120, 121, 122, 123, 124, 125, 126, 127, 127]
        ∧ (elemsOf 5 (getRow (curJob s) 8).data).take 2 = [127, 127])) := by
  decide +kernel

/-- Single scalar steps: a wrap, a shift amount of 64 + 1, DIV by zero (R65, R66), LDHI and ADDPC (R69), JAL and a JALR that returns
(R73). -/
theorem test_scalar_steps :
    let s := regs (base .l) [(4, 0xFFFFFFFFFFFFFFFF), (5, 2), (6, 0x41), (31, 0x100040)]
    [rd (nx (execAdd g0 3 4 5 s)) 3, rd (nx (execShl g0 3 5 6 s)) 3, rd (nx (execDiv g0 3 5 0 s)) 3, rd (nx (execLdhi 8 0x3FFF3 s)) 8,
      rd (nx (execAddpc 3 0x3FFFF s)) 3, rd (nx (execJal 31 10 s)) 31, (curStream (nx (execJal 31 10 s))).pc,
      (curStream (nx (execJalr 0 31 0 s))).pc] =
    [1, 4, 0xFFFFFFFFFFFFFFFF, 0xFFFFFFFFFFFE6000, 0xFFFFC, 0x100004, 0x100028, 0x100040] := by
  decide +kernel

end Sys2Proof.Tests
end

section
/-! PROOFS. The values that the scalar instructions compute (R64 to R71, R218): what the model computes is what the
statements write out. -/

namespace Sys2Proof.Proofs

open Sys2Proof Sys2Proof.Machine

/-! ### Products and quotients (R65, R66) -/

theorem mul_eq_ofInt {n : Nat} (a b : BitVec n) : a * b = BitVec.ofInt n (a.toInt * b.toInt) := by
  apply BitVec.eq_of_toInt_eq; simp [BitVec.toInt_mul]

theorem mulHigh_eq_extract (a b : Word) :
    mulHigh a b = (a.signExtend 128 * b.signExtend 128).extractLsb' 64 64 := by
  rw [mul_eq_ofInt, BitVec.toInt_signExtend_of_le (by decide), BitVec.toInt_signExtend_of_le (by decide), mulHigh]
  generalize a.toInt * b.toInt = p
  apply BitVec.eq_of_toNat_eq
  rw [BitVec.toNat_ofInt, BitVec.extractLsb'_toNat, BitVec.toNat_ofInt, Nat.shiftRight_eq_div_pow]
  omega

theorem mulHighU_eq_extract (a b : Word) :
    mulHighU a b = (a.setWidth 128 * b.setWidth 128).extractLsb' 64 64 := by
  have ha := a.isLt
  have hb := b.isLt
  have hab : a.toNat * b.toNat < 2 ^ 128 := by
    calc a.toNat * b.toNat < 2 ^ 64 * 2 ^ 64 := Nat.mul_lt_mul'' ha hb
      _ = 2 ^ 128 := by norm_num
  apply BitVec.eq_of_toNat_eq
  simp only [mulHighU, BitVec.toNat_ofNat, BitVec.extractLsb'_toNat, BitVec.toNat_mul, BitVec.toNat_setWidth,
    Nat.shiftRight_eq_div_pow]
  rw [Nat.mod_eq_of_lt (a := a.toNat) (by omega), Nat.mod_eq_of_lt (a := b.toNat) (by omega), Nat.mod_eq_of_lt hab]

theorem divS_eq_quotient (a b : Word) : divS a b = Say.quotient a b := by
  by_cases hb : b = 0
  · simp [divS, Say.quotient, hb]
  · simp only [divS, Say.quotient, if_neg hb]
    apply BitVec.eq_of_toInt_eq
    rw [BitVec.toInt_sdiv, BitVec.toInt_ofInt]

theorem divU_eq_quotientU (a b : Word) : divU a b = Say.quotientU a b := by
  by_cases hb : b = 0
  · simp [divU, Say.quotientU, hb]
  · simp only [divU, Say.quotientU, if_neg hb]
    apply BitVec.eq_of_toNat_eq
    rw [BitVec.toNat_udiv, BitVec.toNat_ofNat, Nat.mod_eq_of_lt]
    exact Nat.lt_of_le_of_lt (Nat.div_le_self _ _) a.isLt

theorem remS_eq (a b : Word) : remS a b = a - Say.quotient a b * b := by
  by_cases hb : b = 0
  · simp [remS, Say.quotient, hb]
  · simp only [remS, Say.quotient, if_neg hb]
    have e : a.toInt.tmod b.toInt + a.toInt.tdiv b.toInt * b.toInt = a.toInt := by
      rw [mul_comm, Int.tmod_add_mul_tdiv]
    rw [eq_sub_iff_add_eq]
    have h : a.srem b = BitVec.ofInt 64 (a.toInt.tmod b.toInt) := by
      rw [← BitVec.toInt_srem, BitVec.ofInt_toInt]
    calc a.srem b + BitVec.ofInt 64 (a.toInt.tdiv b.toInt) * b
        = BitVec.ofInt 64 (a.toInt.tmod b.toInt) + BitVec.ofInt 64 (a.toInt.tdiv b.toInt) * BitVec.ofInt 64 b.toInt := by
          rw [h, BitVec.ofInt_toInt]
      _ = a := by rw [← BitVec.ofInt_mul, ← BitVec.ofInt_add, e, BitVec.ofInt_toInt]

theorem remU_eq (a b : Word) : remU a b = a - Say.quotientU a b * b := by
  by_cases hb : b = 0
  · simp [remU, Say.quotientU, hb]
  · rw [← divU_eq_quotientU]
    simp only [remU, divU, if_neg hb]
    rw [eq_sub_iff_add_eq, add_comm, mul_comm]
    apply BitVec.eq_of_toNat_eq
    have := Nat.div_add_mod a.toNat b.toNat
    have ha := a.isLt
    rw [BitVec.toNat_add, BitVec.toNat_mul, BitVec.toNat_udiv, BitVec.toNat_umod]
    rw [Nat.mod_add_mod, this, Nat.mod_eq_of_lt ha]

theorem minS_eq (a b : Word) : minS a b = if b.slt a then b else a := by
  by_cases h : a.toInt ≤ b.toInt <;> simp [minS, BitVec.slt, h]

theorem maxS_eq (a b : Word) : maxS a b = if a.slt b then b else a := by
  rcases lt_trichotomy a.toInt b.toInt with h | h | h
  · simp [maxS, BitVec.slt, h, h.le]
  · simp [maxS, BitVec.eq_of_toInt_eq h]
  · simp [maxS, BitVec.slt, h.not_ge, h.not_gt]

theorem minU_eq (a b : Word) : minU a b = if b < a then b else a := by
  by_cases h : a.toNat ≤ b.toNat <;> simp [minU, BitVec.lt_def, h]

theorem maxU_eq (a b : Word) : maxU a b = if a < b then b else a := by
  rcases lt_trichotomy a.toNat b.toNat with h | h | h
  · simp [maxU, BitVec.lt_def, h, h.le]
  · simp [maxU, BitVec.eq_of_toNat_eq h]
  · simp [maxU, BitVec.lt_def, h.not_ge, h.not_gt]

/-! ### Shifts, and the bits of a word -/

theorem amount_eq_low6 (b : Word) : amount b = Say.low6 b := by
  simp [amount, Say.low6, BitVec.extractLsb'_toNat]

/-- A sign-extended offset, moved left (R43, R69). -/
theorem sext_shiftLeft {n : Nat} (x : BitVec n) (k : Nat) : sext x <<< k = BitVec.ofInt 64 (x.toInt * 2 ^ k) := by
  have htwo : BitVec.twoPow 64 k = BitVec.ofInt 64 (2 ^ k) := by
    apply BitVec.eq_of_toNat_eq
    rw [BitVec.toNat_twoPow, BitVec.toNat_ofInt]
    norm_cast
  rw [BitVec.shiftLeft_eq_mul_twoPow, htwo, BitVec.ofInt_mul]
  rfl

theorem zeroRun_of_all_false (l : List Bool) (h : ∀ b ∈ l, b = false) : Say.zeroRun l = l.length := by
  rw [Say.zeroRun, List.takeWhile_eq_self_iff.2]
  intro b hb
  simp [h b hb]

theorem zeroRun_of_first_true (l : List Bool) (k : Nat) (hk : l[k]? = some true) (hlt : ∀ j < k, l[j]? = some false) :
    Say.zeroRun l = k := by
  induction l generalizing k with
  | nil => simp at hk
  | cons b l ih =>
    cases k with
    | zero =>
      obtain rfl : b = true := by simpa using hk
      simp [Say.zeroRun]
    | succ k =>
      obtain rfl : b = false := by simpa using hlt 0 (by omega)
      have := ih k (by simpa using hk) fun j hj => by simpa using hlt (j + 1) (by omega)
      simpa [Say.zeroRun] using this

theorem getElem?_bitList (a : Word) (i : Nat) (hi : i < 64) : (Say.bitList a)[i]? = some (a.getLsbD i) := by
  simp [Say.bitList, hi]

theorem trailingZeros_eq (a : Word) : trailingZeros a = BitVec.ofNat 64 (Say.zeroRun (Say.bitList a)) := by
  rw [trailingZeros]
  cases h : (List.range 64).find? fun i => a.getLsbD i with
  | none =>
    rw [zeroRun_of_all_false]
    · simp [Say.bitList]
    · simp only [Say.bitList, List.mem_map, List.mem_range]
      rintro b ⟨i, hi, rfl⟩
      simpa using List.find?_eq_none.1 h i (List.mem_range.2 hi)
  | some k =>
    obtain ⟨hk, hmem, hlt⟩ := List.find?_range_eq_some.1 h
    have hk64 : k < 64 := List.mem_range.1 hmem
    rw [zeroRun_of_first_true _ k]
    · simp
    · rw [getElem?_bitList a k hk64, hk]
    · intro j hj
      rw [getElem?_bitList a j (by omega)]
      simpa using hlt j hj

theorem getElem?_bitList_reverse (a : Word) (i : Nat) (hi : i < 64) :
    (Say.bitList a).reverse[i]? = some (a.getLsbD (63 - i)) := by
  have hlen : (Say.bitList a).length = 64 := by simp [Say.bitList]
  rw [List.getElem?_reverse (by omega), hlen, getElem?_bitList a _ (by omega)]

theorem leadingZeros_eq (a : Word) : leadingZeros a = BitVec.ofNat 64 (Say.zeroRun (Say.bitList a).reverse) := by
  by_cases h : a = 0
  · subst h; decide
  · have hne : a.toNat ≠ 0 := fun e => h (BitVec.eq_of_toNat_eq e)
    have hlog : Nat.log2 a.toNat < 64 := (Nat.log2_lt hne).2 a.isLt
    rw [leadingZeros, if_neg h, zeroRun_of_first_true _ (63 - Nat.log2 a.toNat)]
    · rw [getElem?_bitList_reverse a _ (by omega), show 63 - (63 - Nat.log2 a.toNat) = Nat.log2 a.toNat by omega,
        ← BitVec.testBit_toNat, Nat.testBit_log2 hne]
    · intro j hj
      rw [getElem?_bitList_reverse a j (by omega), ← BitVec.testBit_toNat, Nat.testBit_lt_two_pow]
      exact Nat.lt_of_lt_of_le Nat.lt_log2_self (Nat.pow_le_pow_right (by omega) (by omega))

theorem onesCount_eq_count (a : Word) : onesCount a = (Say.bitList a).count true := by
  rw [onesCount, Say.bitList, List.count, List.countP_map, List.countP_eq_length_filter]
  congr 1
  apply List.filter_congr
  simp

/-- The bits of a word below `p`, kept by a mask (R218). -/
theorem onesCount_and_mask (a : Word) (p : Nat) (hp : p < 64) :
    onesCount (a &&& BitVec.ofNat 64 (2 ^ p - 1)) = ((Say.bitList a).take p).count true := by
  have hmask (i : Nat) (hi : i < 64) :
      (a &&& BitVec.ofNat 64 (2 ^ p - 1)).getLsbD i = (a.getLsbD i && decide (i < p)) := by
    rw [BitVec.getLsbD_and, BitVec.getLsbD_ofNat, Nat.testBit_two_pow_sub_one, decide_eq_true hi, Bool.true_and]
  have hrange : List.range 64 = List.range p ++ (List.range (64 - p)).map (p + ·) := by
    rw [← List.range_add]; congr 1; omega
  have htake : (Say.bitList a).take p = (List.range p).map fun i => a.getLsbD i := by
    rw [Say.bitList, ← List.map_take, List.take_range, Nat.min_eq_left hp.le]
  rw [htake, onesCount, hrange, List.filter_append, List.length_append, List.count, List.countP_map,
    List.countP_eq_length_filter]
  have hhigh : ((List.range (64 - p)).map (p + ·)).filter
      (fun i => (a &&& BitVec.ofNat 64 (2 ^ p - 1)).getLsbD i) = [] := by
    simp only [List.filter_eq_nil_iff, List.mem_map, List.mem_range]
    rintro _ ⟨i, hi, rfl⟩
    simp [hmask (p + i) (by omega)]
  rw [hhigh, List.length_nil, Nat.add_zero]
  congr 1
  apply List.filter_congr
  intro i hi
  have hi : i < p := List.mem_range.1 hi
  simp [hmask i (by omega), hi]

theorem testBit_reverseFold (a : Word) (n k : Nat) :
    ((List.range n).foldl (fun r i => 2 * r + b2n (a.getLsbD i)) 0).testBit k
      = (decide (k < n) && a.getLsbD (n - 1 - k)) := by
  induction n generalizing k with
  | zero => simp
  | succ n ih =>
    rw [List.range_succ, List.foldl_append, List.foldl_cons, List.foldl_nil]
    cases k with
    | zero => cases h : a.getLsbD n <;> simp [b2n, h]
    | succ k =>
      rw [Nat.testBit_succ, show ∀ m, (2 * m + b2n (a.getLsbD n)) / 2 = m by
        intro m; rw [b2n]; split <;> omega, ih]
      rw [show n + 1 - 1 - (k + 1) = n - 1 - k by omega]
      simp

theorem bitReverse_eq (a : Word) : bitReverse a = a.reverse := by
  apply BitVec.eq_of_getLsbD_eq
  intro i hi
  rw [bitReverse, BitVec.getLsbD_ofNat, testBit_reverseFold, BitVec.getLsbD_reverse, BitVec.getMsbD]
  simp [hi]

theorem kvSlot_eq (a b : Word) : kvSlot a (amount b) =
    if a.getLsbD (Say.low6 b) then BitVec.ofNat 64 (((Say.bitList a).take (Say.low6 b)).count true)
    else BitVec.allOnes 64 := by
  rw [kvSlot, amount_eq_low6, onesCount_and_mask a _ (by rw [← amount_eq_low6]; exact Nat.mod_lt _ (by decide))]

theorem guardOk_eq_xor (s : State) (g : Guard) : guardOk s g = (rp s g.p ^^ g.pn) := by
  simp [guardOk]

theorem predsValue_eq (st : Stream) : predsValue st = BitVec.ofNat 64 (st.preds ||| 1).toNat := by
  rw [predsValue, BitVec.ofNat_toNat]

theorem rowMask_setWidth (j : Job) (k : BitVec 3) :
    (rowMask j k).setWidth 64 = BitVec.ofNat 64 (if k = 0 then 0xFFFF else (j.rowMasks[k.toNat]).toNat) := by
  rw [rowMask]
  split
  · rfl
  · rw [BitVec.ofNat_toNat]

/-! ### Instructions that write one scalar register (R65 to R71, R86, R218) -/

/-- A register-register form, where the value it computes is known. -/
theorem alu_completes (i : Instr) (g : Guard) (d a b : Reg) (f : Word → Word → Word) (v : Word) (s : State)
    (h : ready s i.size (some g) = true) (hv : f (rd s a) (rd s b) = v) :
    alu i g d a b f s = .next (retire i.size (wr s d v)) :=
  simple_wr i (some g) _ d v s h (by rw [hv])

/-- A register-immediate form, where the value it computes is known. -/
theorem aluImm_completes (i : Instr) (d a : Reg) (f : Word → Word) (v : Word) (s : State)
    (h : ready s i.size none = true) (hv : f (rd s a) = v) :
    aluImm i d a f s = .next (retire i.size (wr s d v)) :=
  simple_wr i none _ d v s h (by rw [hv])

/-- An instruction of the C-stream that only writes a register. -/
theorem simpleC_wr (i : Instr) (g : Option Guard) (f : State → State) (d : Reg) (v : Word) (s : State)
    (h : ready s i.size g = true) (hc : s.cur.strm ∈ [Strm.c]) (hf : f s = wr s d v) :
    simpleC i g f s = .next (retire i.size (wr s d v)) := by
  obtain ⟨hq, hp, hg⟩ := (ready_iff _ _ _).1 h
  exact issue_next i _ g _ _ s _ hq hp (by simpa using hc) rfl hg (by rw [hf]) (keeps_wr s _ d v hq hp)

/-- XLAT, of any kind of access. -/
theorem xlat_completes (i : Instr) (g : Guard) (d a : Reg) (k : AccKind) (s : State)
    (h : ready s i.size (some g) = true) :
    xlat i g d a k s = .next (retire i.size
      (wr s d (xlatWord (translate s (curPart s) (curJob s).ids.pasid (rd s a) k s.cur.core)))) :=
  simple_wr i (some g) _ d _ s h rfl

/-- Settles O2: every form has one of the shapes above, and the value it computes is the stated one. -/
theorem scalarResults : Obligations.ScalarResults := by
  unfold Obligations.ScalarResults
  intro i s ts g d v hr hstrm hready
  cases i with
  | add => cases hr; exact alu_completes _ _ _ _ _ _ _ s hready rfl
  | sub => cases hr; exact alu_completes _ _ _ _ _ _ _ s hready rfl
  | and => cases hr; exact alu_completes _ _ _ _ _ _ _ s hready rfl
  | or => cases hr; exact alu_completes _ _ _ _ _ _ _ s hready rfl
  | xor => cases hr; exact alu_completes _ _ _ _ _ _ _ s hready rfl
  | shl => cases hr; exact alu_completes _ _ _ _ _ (fun x y => x <<< amount y) _ s hready (by rw [amount_eq_low6])
  | shr => cases hr; exact alu_completes _ _ _ _ _ (fun x y => x >>> amount y) _ s hready (by rw [amount_eq_low6])
  | sra => cases hr; exact alu_completes _ _ _ _ _ (fun x y => x.sshiftRight (amount y)) _ s hready (by rw [amount_eq_low6])
  | mul => cases hr; exact alu_completes _ _ _ _ _ _ _ s hready (mul_eq_ofInt _ _)
  | mulh => cases hr; exact alu_completes _ _ _ _ _ _ _ s hready (mulHigh_eq_extract _ _)
  | mulhu => cases hr; exact alu_completes _ _ _ _ _ _ _ s hready (mulHighU_eq_extract _ _)
  | div => cases hr; exact alu_completes _ _ _ _ _ _ _ s hready (divS_eq_quotient _ _)
  | divu => cases hr; exact alu_completes _ _ _ _ _ _ _ s hready (divU_eq_quotientU _ _)
  | rem => cases hr; exact alu_completes _ _ _ _ _ _ _ s hready (remS_eq _ _)
  | remu => cases hr; exact alu_completes _ _ _ _ _ _ _ s hready (remU_eq _ _)
  | min => cases hr; exact alu_completes _ _ _ _ _ _ _ s hready (minS_eq _ _)
  | minu => cases hr; exact alu_completes _ _ _ _ _ _ _ s hready (minU_eq _ _)
  | max => cases hr; exact alu_completes _ _ _ _ _ _ _ s hready (maxS_eq _ _)
  | maxu => cases hr; exact alu_completes _ _ _ _ _ _ _ s hready (maxU_eq _ _)
  | kvslot => cases hr; exact alu_completes _ _ _ _ _ (fun x y => kvSlot x (amount y)) _ s hready (kvSlot_eq _ _)
  | clz => cases hr; exact alu_completes _ _ _ _ 0 (fun x _ => leadingZeros x) _ s hready (leadingZeros_eq _)
  | ctz => cases hr; exact alu_completes _ _ _ _ 0 (fun x _ => trailingZeros x) _ s hready (trailingZeros_eq _)
  | popc => cases hr; exact alu_completes _ _ _ _ 0 (fun x _ => BitVec.ofNat 64 (onesCount x)) _ s hready (by rw [onesCount_eq_count])
  | brev => cases hr; exact alu_completes _ _ _ _ 0 (fun x _ => bitReverse x) _ s hready (bitReverse_eq _)
  | addi d a k => cases hr; exact aluImm_completes _ _ _ (fun x => x + sext k) _ s hready rfl
  | andi d a k => cases hr; exact aluImm_completes _ _ _ (fun x => x &&& k.setWidth 64) _ s hready rfl
  | ori d a k => cases hr; exact aluImm_completes _ _ _ (fun x => x ||| k.setWidth 64) _ s hready rfl
  | xori d a k => cases hr; exact aluImm_completes _ _ _ (fun x => x ^^^ k.setWidth 64) _ s hready rfl
  | shli d a k => cases hr; exact aluImm_completes _ _ _ (fun x => x <<< k.toNat) _ s hready rfl
  | shri d a k => cases hr; exact aluImm_completes _ _ _ (fun x => x >>> k.toNat) _ s hready rfl
  | srai d a k => cases hr; exact aluImm_completes _ _ _ (fun x => x.sshiftRight k.toNat) _ s hready rfl
  | sel g d a b =>
    cases hr
    exact simple_wr _ _ (fun s => wr s d (if guardOk s g then rd s a else rd s b)) _ _ s hready (by rw [guardOk_eq_xor])
  | ldhi d k => cases hr; exact simple_wr _ _ (fun s => wr s d (sext k <<< 13)) _ _ s hready (by rw [sext_shiftLeft]; norm_num)
  | addpc d k =>
    cases hr
    exact simple_wr _ _ (fun s => wr s d ((curStream s).pc + sext k <<< 2)) _ _ s hready (by rw [sext_shiftLeft]; norm_num)
  | pmovGet g d =>
    cases hr
    exact simple_wr _ _ (fun s => wr s d (predsValue (curStream s))) _ _ s hready (by rw [predsValue_eq])
  | csrr d c => cases hr; exact simple_wr _ _ (fun s => wr s d (csrRead s c.toNat)) _ _ s hready rfl
  | xlatRd => cases hr; exact xlat_completes _ _ _ _ _ s hready
  | xlatWr => cases hr; exact xlat_completes _ _ _ _ _ s hready
  | xlatEx => cases hr; exact xlat_completes _ _ _ _ _ s hready
  | kgetRow g d a =>
    cases hr
    exact simpleC_wr _ _ (fun s => wr s d ((rowMask (curJob s) a).setWidth 64)) _ _ s hready hstrm (by rw [rowMask_setWidth])
  | kgetCol g d a => cases hr; exact simpleC_wr _ _ (fun s => wr s d (colMask (curJob s) a)) _ _ s hready hstrm rfl
  | _ => cases hr

end Sys2Proof.Proofs
end

section
/-! PROOFS. The stream after a change of it, and the frame of the scalar and predicate writers (R13, R38). -/

namespace Sys2Proof.Proofs

open Sys2Proof Sys2Proof.Machine

/-! ### The executing stream and its job after a change of them -/

theorem quiet_stream {s : State} (hq : quiet s = true) : (Tab.get? s.strs (hartKey s.cur)).isSome = true :=
  ((quiet_iff s).1 hq).1

theorem quiet_job {s : State} (hq : quiet s = true) : (Tab.get? s.jobs (jobKey s.cur)).isSome = true :=
  ((quiet_iff s).1 hq).2.1

theorem curStream_modCurStream {s : State} (f : Stream → Stream)
    (h : (Tab.get? s.strs (hartKey s.cur)).isSome = true) : curStream (modCurStream s f) = f (curStream s) := by
  obtain ⟨st, e⟩ := Option.isSome_iff_exists.1 h
  have hst : curStream s = st := by simp [curStream, getStream, Tab.getD, e]
  rw [hst]
  exact getStream_modStream_self s s.cur f st e

theorem isSome_modCurStream {s : State} (f : Stream → Stream)
    (h : (Tab.get? s.strs (hartKey s.cur)).isSome = true) :
    (Tab.get? (modCurStream s f).strs (hartKey (modCurStream s f).cur)).isSome = true := by
  simpa [modCurStream, Tab.get?_modify_self] using h

theorem curJob_modCurJob {s : State} (f : Job → Job) (h : (Tab.get? s.jobs (jobKey s.cur)).isSome = true) :
    curJob (modCurJob s f) = f (curJob s) := by
  obtain ⟨j, e⟩ := Option.isSome_iff_exists.1 h
  have hj : curJob s = j := by simp [curJob, getJob, Tab.getD, e]
  rw [hj]
  exact getJob_modJob_self s (jobKey s.cur) f j e

theorem isSome_modCurJob {s : State} (f : Job → Job) (h : (Tab.get? s.jobs (jobKey s.cur)).isSome = true) :
    (Tab.get? (modCurJob s f).jobs (jobKey (modCurJob s f).cur)).isSome = true := by
  simpa [modCurJob, modJob, Tab.get?_modify_self] using h

/-! ### Predicates -/

theorem getLsbD_setPredBit (ps : BitVec 16) (p q : Nat) (b : Bool) (hp : p < 16) :
    (setPredBit ps p b).getLsbD q = if q = p ∧ p ≠ 0 then b else ps.getLsbD q := by
  by_cases h0 : p = 0
  · simp [setPredBit, h0]
  by_cases hq : q = p
  · subst hq
    cases b <;> simp [setPredBit, h0, hp]
  · have hbit : (1#16 <<< p).getLsbD q = false := by
      rw [BitVec.getLsbD_shiftLeft, BitVec.getLsbD_one]
      simp only [Bool.and_eq_false_iff, Bool.not_eq_false', decide_eq_false_iff_not, decide_eq_true_eq]
      omega
    cases b with
    | false =>
      by_cases h16 : q < 16
      · simp only [setPredBit, if_neg h0, Bool.false_eq_true, if_false, BitVec.getLsbD_and, BitVec.getLsbD_not, hbit]
        simp [h16, hq]
      · simp [hq, BitVec.getLsbD_of_ge (w := 16) _ q (by omega)]
    | true => simp only [setPredBit, if_neg h0, if_true, BitVec.getLsbD_or, hbit]; simp [hq]

/-- A predicate of a stream after one is set: p0 reads as true (R13, R38). -/
theorem streamPred_setStreamPred (st : Stream) (p q : BitVec 4) (b : Bool) :
    streamPred (setStreamPred st p b) q = if q = 0 then true else if q = p then b else streamPred st q := by
  by_cases h0 : q = 0
  · rw [h0, if_pos rfl, streamPred_zero]
  · have hb : (q == 0) = false := by simpa using h0
    simp only [streamPred, setStreamPred, hb, Bool.false_or, getLsbD_setPredBit _ _ _ _ p.isLt, if_neg h0]
    by_cases hqp : q = p
    · subst hqp
      have : q.toNat ≠ 0 := fun e => h0 (BitVec.eq_of_toNat_eq e)
      simp [this]
    · have : q.toNat ≠ p.toNat := fun e => hqp (BitVec.eq_of_toNat_eq e)
      simp [this, hqp]

/-! ### The frame of an instruction that changes its own stream -/

/-- A state as another but for the PC, the registers and the predicates of the executing stream. -/
def SameButRegisters (s t : State) : Prop :=
  (curStream t).trap = (curStream s).trap ∧ (curStream t).loops = (curStream s).loops
    ∧ (curStream t).returnPoint = (curStream s).returnPoint
    ∧ (∀ h, hartKey h ≠ hartKey s.cur → getStream t h = getStream s h) ∧ t.jobs = s.jobs ∧ t.saved = s.saved
    ∧ t.cores = s.cores ∧ t.parts = s.parts ∧ t.pool = s.pool ∧ t.streams = s.streams ∧ t.ms = s.ms
    ∧ (∀ a, Memory.byte t.ms.mem a = Memory.byte s.ms.mem a) ∧ ∀ a, Memory.byte t.ms.spad a = Memory.byte s.ms.spad a

theorem sameButRegisters_modCurStream {s : State} (f : Stream → Stream) (hq : quiet s = true)
    (htrap : ∀ st, (f st).trap = st.trap) (hloops : ∀ st, (f st).loops = st.loops)
    (hreturn : ∀ st, (f st).returnPoint = st.returnPoint) : SameButRegisters s (retire 4 (modCurStream s f)) := by
  have hcur : curStream (retire 4 (modCurStream s f)) =
      { f (curStream s) with pc := (f (curStream s)).pc + BitVec.ofNat 64 4, pos := (f (curStream s)).pos + 1, wait := none } := by
    rw [retire, curStream_modCurStream _ (isSome_modCurStream f (quiet_stream hq)), curStream_modCurStream f (quiet_stream hq)]
  refine ⟨by rw [hcur, htrap], by rw [hcur, hloops], by rw [hcur, hreturn], fun h hne => ?_, rfl, rfl, rfl, rfl, rfl, rfl,
    rfl, fun _ => rfl, fun _ => rfl⟩
  exact (getStream_modStream_ne (modCurStream s f) s.cur h _ hne).trans (getStream_modStream_ne s s.cur h f hne)

theorem curStream_retire {s : State} (n : Nat) (h : (Tab.get? s.strs (hartKey s.cur)).isSome = true) :
    curStream (retire n s) =
      { curStream s with pc := (curStream s).pc + BitVec.ofNat 64 n, pos := (curStream s).pos + 1, wait := none } :=
  curStream_modCurStream _ h

theorem rd_retire {s : State} (n : Nat) (r : Reg) (h : (Tab.get? s.strs (hartKey s.cur)).isSome = true) :
    rd (retire n s) r = rd s r := by rw [rd, curStream_retire n h]; rfl

theorem rp_retire {s : State} (n : Nat) (p : BitVec 4) (h : (Tab.get? s.strs (hartKey s.cur)).isSome = true) :
    rp (retire n s) p = rp s p := by rw [rp, curStream_retire n h]; rfl

/-- Settles O3: a register or a predicate after a write of one, and the frame of both writers. -/
theorem registerWrites : Obligations.RegisterWrites := by
  unfold Obligations.RegisterWrites
  intro s d r v p q b hq
  have hs := quiet_stream hq
  have hwr : (Tab.get? (wr s d v).strs (hartKey (wr s d v).cur)).isSome = true := isSome_modCurStream _ hs
  have hwp : (Tab.get? (wp s p b).strs (hartKey (wp s p b).cur)).isSome = true := isSome_modCurStream _ hs
  refine ⟨⟨?_, ?_, ?_⟩, ?_, ?_, ?_⟩
  · obtain ⟨st, e⟩ := Option.isSome_iff_exists.1 hs
    rw [rd_retire 4 r hwr, rd_wr s d r v st e]
    by_cases hr : r = 0
    · rw [if_pos hr, if_neg fun h => h.2 (h.1 ▸ hr), hr]
      exact streamReg_zero _
    · rw [if_neg hr]
      exact if_congr ⟨fun h => h.1, fun h => ⟨h, h ▸ hr⟩⟩ rfl rfl
  · rw [rp_retire 4 q hwr, rp, wr, curStream_modCurStream _ hs, streamPred, setStreamReg_preds]
    rfl
  · exact sameButRegisters_modCurStream _ hq (by simp) (by simp) (by simp)
  · rw [rp_retire 4 q hwp, rp, wp, curStream_modCurStream _ hs, streamPred_setStreamPred]
    rfl
  · rw [rd_retire 4 r hwp, rd, wp, curStream_modCurStream _ hs]
    rfl
  · exact sameButRegisters_modCurStream _ hq (fun _ => rfl) (fun _ => rfl) (fun _ => rfl)

end Sys2Proof.Proofs
end

section
/-! PROOFS. The step and the instruction it runs (R11, R40, R103, R145). -/

namespace Sys2Proof.Proofs
open Sys2Proof Sys2Proof.Machine

/-- A stream at a NOP, one of whose issued stores has a byte left to write in the scratchpads (R103). -/
def splitStoreAtNop : State :=
  modMs (probe State.reset [4, 0, 0, 0] .l) fun m => { m with begun := [⟨⟨0, 0, .l⟩, 0, [1]⟩] }

/-- Whether an outcome's state has split stores left. -/
def leavesBegun : Result → Bool
  | .next t => !t.ms.begun.isEmpty
  | _ => false

/-- The step ends the stream's split store before the instruction. -/
theorem step_splitStoreAtNop : leavesBegun (step splitStoreAtNop) = false := by decide +kernel

/-- The instruction alone leaves the split store as it is. -/
theorem exec_nop_splitStoreAtNop :
    leavesBegun (exec (.nop ⟨0, false⟩) { afterFetch (Say.took splitStoreAtNop []) with cur := ⟨0, 0, .l⟩ }) = true := by
  decide +kernel

/-- Refutes O25: a stream that issues first writes what its earlier wide store has yet to write (`finishStores`, R103), so
the step is not the execution in the state fetched from. The counterexample is a NOP in a stream with a split store. -/
theorem not_stepRunsDecoded : ¬ Obligations.StepRunsDecoded := by
  unfold Obligations.StepRunsDecoded
  rintro ⟨h, -, -⟩
  have hstep := (h splitStoreAtNop ⟨0, 0, .l⟩ [] [4] (.nop ⟨0, false⟩) rfl rfl (by decide +kernel) (by decide +kernel)
    (by decide +kernel)).2
  have hleft := step_splitStoreAtNop
  rw [hstep, exec_nop_splitStoreAtNop] at hleft
  exact absurd hleft (by decide)

end Sys2Proof.Proofs
end

section
/-! PROOFS. False guards, and streams that may not issue an instruction (R42, R44, R49, R52, R61). -/

namespace Sys2Proof.Proofs

open Sys2Proof Sys2Proof.Machine

/-- The instruction issues by R42's common checks, in these streams, under this guard. -/
def IssuesAs (i : Instr) (ts : List Strm) (g : Option Guard) (lacks : State → Bool) : Prop :=
  ∃ body, ∀ s, exec i s = issue i ts g lacks body s

theorem sqWriter_eq (f : BitVec 2) : [sqWriter f] = [if f = 0 then .l else if f = 3 then .s else .c] := by
  revert f; decide

theorem sqReader_eq (f : BitVec 2) : [sqReader f] = [if f = 0 then .c else if f = 1 then .s else .l] := by
  revert f; decide

/-- An instruction of layout SR or SB asks for the streams, the guard and the permission that R44 gives it. -/
theorem issuesAs_of_guardOf (i : Instr) (g : Guard) (ts : List Strm) (p : Option Nat)
    (h : Say.guardOf i = some (g, ts, p)) :
    ∃ lacks, IssuesAs i ts (some g) lacks ∧ ∀ s, lacks s = !Say.permitted s p := by
  cases i with
  | migr => cases h; exact ⟨lacksMigration, ⟨_, fun _ => rfl⟩, fun _ => rfl⟩
  | tlbiAll => cases h; exact ⟨lacksTranslation, ⟨_, fun _ => rfl⟩, fun _ => rfl⟩
  | tlbiPasid => cases h; exact ⟨lacksTranslation, ⟨_, fun _ => rfl⟩, fun _ => rfl⟩
  | tlbiVa => cases h; exact ⟨lacksTranslation, ⟨_, fun _ => rfl⟩, fun _ => rfl⟩
  | sqpush g f a =>
    cases h
    rw [← sqWriter_eq]
    exact ⟨free, ⟨_, fun _ => rfl⟩, fun _ => rfl⟩
  | sqpop g f d =>
    cases h
    rw [← sqReader_eq]
    exact ⟨free, ⟨_, fun _ => rfl⟩, fun _ => rfl⟩
  | _ => cases h <;> exact ⟨free, ⟨_, fun _ => rfl⟩, fun _ => rfl⟩

/-- A V-class instruction issues in the C-stream alone, under its guard (R45, R49). -/
theorem issuesAs_of_vParts (i : Instr) (op : Nat) (row : VRow) (v : VOp) (h : i.vParts = some (op, row, v)) :
    IssuesAs i [.c] (some v.g) free := by
  cases i <;> cases h <;> exact ⟨_, fun _ => rfl⟩

/-- A matrix operation is pushed by the C-stream (R52). -/
theorem issuesAs_of_mParts (i : Instr) (h : i.mParts.isSome = true) : IssuesAs i [.c] none free := by
  cases i <;> cases h <;> exact ⟨_, fun _ => rfl⟩

/-- An engine operation is pushed by the L- or the S-stream (R52). -/
theorem issuesAs_of_eParts (i : Instr) (h : i.eParts.isSome = true) : IssuesAs i [.l, .s] none free := by
  cases i <;> cases h <;> exact ⟨_, fun _ => rfl⟩

/-- In a stream that may not issue it, an instruction is ILLEGAL before its guard is looked at (R42). -/
theorem IssuesAs.illegal {i : Instr} {ts : List Strm} {g : Option Guard} {lacks : State → Bool}
    (h : IssuesAs i ts g lacks) (s : State) (hs : s.cur.strm ∉ ts) :
    exec i s = .next (trapNow s i .illegal 0 0) := by
  obtain ⟨body, e⟩ := h
  rw [e, issue_illegal]
  simpa using hs

/-- With its guard false, an instruction that passes the checks before it takes its slot alone (R61). -/
theorem IssuesAs.off {i : Instr} {ts : List Strm} {g : Guard} {lacks : State → Bool}
    (h : IssuesAs i ts (some g) lacks) (s : State) (hs : s.cur.strm ∈ ts) (hl : lacks s = false)
    (hq : quiet s = true) (hp : plain s i.size = true) (hg : guardOk s g = false) :
    exec i s = .next (retire i.size s) := by
  obtain ⟨body, e⟩ := h
  rw [e, issue_off i ts g lacks body s hq hp (by simpa using hs) hl hg]

theorem falseSlot_holds : Say.FalseSlot := by
  intro i s g ts p hi hs hperm hq hp hg
  rw [← guardOk_eq_xor] at hg
  rcases hi with hi | ⟨op, row, v, hi, rfl, rfl, rfl⟩
  · obtain ⟨lacks, h, hl⟩ := issuesAs_of_guardOf i g ts p hi
    exact h.off s hs (by rw [hl, hperm]; rfl) hq hp hg
  · exact (issuesAs_of_vParts i op row v hi).off s hs rfl hq hp hg

theorem wrongStream_holds : Say.WrongStream := by
  intro i s ts hi hs
  rcases hi with ⟨g, p, hi⟩ | ⟨rfl, hi⟩ | ⟨q, pn, ht, o, rfl, rfl⟩ | ⟨rfl, hi⟩
  · obtain ⟨lacks, h, -⟩ := issuesAs_of_guardOf i g ts p hi
    exact h.illegal s hs
  · rcases hi with hi | hi | ⟨x, rfl | rfl | rfl | rfl | ⟨d, rfl⟩⟩ | ⟨ht, o, rfl⟩
    · obtain ⟨⟨op, row, v⟩, hv⟩ := Option.isSome_iff_exists.1 hi
      exact (issuesAs_of_vParts i op row v hv).illegal s hs
    · exact (issuesAs_of_mParts i hi).illegal s hs
    · exact IssuesAs.illegal (g := none) (lacks := free) ⟨_, fun _ => rfl⟩ s hs
    · exact IssuesAs.illegal (g := none) (lacks := free) ⟨_, fun _ => rfl⟩ s hs
    · exact IssuesAs.illegal (g := none) (lacks := free) ⟨_, fun _ => rfl⟩ s hs
    · exact IssuesAs.illegal (g := none) (lacks := free) ⟨_, fun _ => rfl⟩ s hs
    · exact IssuesAs.illegal (g := none) (lacks := free) ⟨_, fun _ => rfl⟩ s hs
    · exact IssuesAs.illegal (g := none) (lacks := free) ⟨_, fun _ => rfl⟩ s hs
  · exact IssuesAs.illegal (g := none) (lacks := free) ⟨_, fun _ => rfl⟩ s hs
  · exact (issuesAs_of_eParts i hi).illegal s hs

/-- Settles O29: both parts follow from the common checks of `issue`. -/
theorem falseSlot : Obligations.FalseSlot := ⟨falseSlot_holds, wrongStream_holds⟩

end Sys2Proof.Proofs
end

section
/-! PROOFS. What the operations on memory leave as it is: everything but the memory system. -/

namespace Sys2Proof.Proofs

open Sys2Proof Sys2Proof.Machine

/-! ### States that differ in the memory system alone -/

/-- The second state is the first but for its memory system. -/
def MsOnly (s t : State) : Prop := t = { s with ms := t.ms }

theorem MsOnly.refl (s : State) : MsOnly s s := rfl

theorem MsOnly.trans {s t u : State} (a : MsOnly s t) (b : MsOnly t u) : MsOnly s u := by
  rw [MsOnly] at *
  rw [b, a]

theorem msOnly_modMs (s : State) (f : MemSys → MemSys) : MsOnly s (modMs s f) := rfl

theorem msOnly_foldl {α : Type} (f : State → α → State) (hf : ∀ s x, MsOnly s (f s x)) (l : List α) (s : State) :
    MsOnly s (l.foldl f s) :=
  foldl_keeps (MsOnly s) f (fun t x h => h.trans (hf t x)) l s (.refl s)

theorem MsOnly.ite {s t u : State} {c : Prop} [Decidable c] (a : MsOnly s t) (b : MsOnly s u) :
    MsOnly s (if c then t else u) := by
  split
  · exact a
  · exact b

theorem MsOnly.cur {s t : State} (h : MsOnly s t) : t.cur = s.cur := by rw [show t = { s with ms := t.ms } from h]
theorem MsOnly.strs {s t : State} (h : MsOnly s t) : t.strs = s.strs := by rw [show t = { s with ms := t.ms } from h]
theorem MsOnly.jobs {s t : State} (h : MsOnly s t) : t.jobs = s.jobs := by rw [show t = { s with ms := t.ms } from h]
theorem MsOnly.parts {s t : State} (h : MsOnly s t) : t.parts = s.parts := by rw [show t = { s with ms := t.ms } from h]
theorem MsOnly.cores {s t : State} (h : MsOnly s t) : t.cores = s.cores := by rw [show t = { s with ms := t.ms } from h]

/-! ### Writes (R104, R113, R115) -/

theorem msOnly_noteOld (s : State) (jobs : List Nat) (g : Nat) (a b : Granule) : MsOnly s (noteOld s jobs g a b) :=
  .ite (.refl s) (msOnly_modMs s _)

theorem msOnly_noteMissed (s : State) (who : Nat × Nat) (pa n : Nat) : MsOnly s (noteMissed s who pa n) :=
  .ite (.refl s) (msOnly_modMs s _)

theorem msOnly_compWrite (s : State) (g o : Nat) (bs : List Byte) : MsOnly s (compWrite s g o bs) := by
  unfold compWrite
  exact msOnly_modMs s _

theorem msOnly_writeGranule (s : State) (own : Option Nat) (cmp : Bool) (g o : Nat) (bs : List Byte) :
    MsOnly s (writeGranule s own cmp g o bs) := by
  unfold writeGranule
  extract_lets old s1 s2 s3
  have h1 : MsOnly s s1 := msOnly_noteOld ..
  have h2 : MsOnly s1 s2 := by
    dsimp only [s2]
    split
    · exact msOnly_noteOld ..
    · exact .refl s1
  have h3 : MsOnly s2 s3 := .ite (msOnly_compWrite ..) (msOnly_modMs s2 _)
  exact ((h1.trans h2).trans h3).trans (msOnly_modMs s3 _)

theorem msOnly_writePa (s : State) (who : Nat × Nat) (own : Option Nat) (cmp : Bool) (pa : Nat) (bs : List Byte)
    (keep : Option StashLine) : MsOnly s (writePa s who own cmp pa bs keep) := by
  unfold writePa
  exact ((msOnly_noteMissed ..).trans (msOnly_foldl _ (fun _ _ => msOnly_writeGranule ..) _ _)).trans (msOnly_modMs _ _)

theorem msOnly_wetGranuleWrite (s : State) (w : WetWriter) (cmp : Bool) (g o : Nat) (bs : List Byte) :
    MsOnly s (wetGranuleWrite s w cmp g o bs) := by
  unfold wetGranuleWrite
  exact (msOnly_noteOld ..).trans (msOnly_modMs _ _)

theorem msOnly_writeWet (s : State) (w : WetWriter) (cmp : Bool) (pa : Nat) (bs : List Byte) :
    MsOnly s (writeWet s w cmp pa bs) := msOnly_foldl _ (fun _ _ => msOnly_wetGranuleWrite ..) _ _

theorem msOnly_holdBack (s0 s : State) (p : Nat) (w : WetGranule) : MsOnly s (holdBack s0 s p w) :=
  .ite (msOnly_modMs s _) (.refl s)

theorem msOnly_cure (s : State) (jobid : Nat) : MsOnly s (cure s jobid) := by
  unfold cure
  extract_lets p mine s1
  refine (msOnly_modMs s _ : MsOnly s s1).trans (msOnly_foldl _ (fun t w => ?_) _ _)
  extract_lets a b
  have ha : MsOnly t a := (msOnly_writePa ..).trans (msOnly_holdBack ..)
  have hb : MsOnly a b := .ite (msOnly_modMs a _) (.refl a)
  exact (ha.trans hb).trans (.ite (msOnly_modMs b _) (.refl b))

theorem msOnly_dropEarly (s : State) (h : Hart) (sel : EarlyPlace → Bool) : MsOnly s (dropEarly s h sel) :=
  .ite (.refl s) (msOnly_modMs s _)

theorem msOnly_performWc (s : State) (w : WcStore) : MsOnly s (performWc s w) :=
  (msOnly_writeWet ..).trans (msOnly_dropEarly ..)

theorem msOnly_flushWc (s : State) (core : Nat) : MsOnly s (flushWc s core) :=
  (msOnly_modMs s _).trans (msOnly_foldl _ msOnly_performWc _ _)

theorem msOnly_drainWc (s : State) (h : Hart) : MsOnly s (drainWc s h) :=
  .ite ((msOnly_modMs s _).trans (msOnly_foldl _ msOnly_performWc _ _)) (.refl s)

theorem msOnly_orderReads (s : State) (h : Hart) : MsOnly s (orderReads s h) := .ite (.refl s) (msOnly_modMs s _)

/-! ### Releases and acquires (R98, R99, R108 to R110) -/

theorem msOnly_publish (s : State) (scope : Nat) (sel : LateWrite → Bool) : MsOnly s (publish s scope sel) :=
  .ite (.refl s) (msOnly_modMs s _)

theorem msOnly_finishStores (s : State) (sel : Hart → Bool) : MsOnly s (finishStores s sel) :=
  .ite (.refl s) ((msOnly_modMs s _).trans (msOnly_foldl _ (fun _ _ => msOnly_modMs _ _) _ _))

theorem msOnly_writeBackLine (s : State) (core : Nat) (j : Job) (l : StashLine) :
    MsOnly s (writeBackLine s core j l) := by
  unfold writeBackLine
  split
  · exact .refl s
  · refine (msOnly_foldl _ (fun t g => ?_) _ s).trans (msOnly_modMs _ _)
    exact .ite (.ite ((msOnly_writePa ..).trans (msOnly_modMs _ _)) (msOnly_writePa ..)) (.refl t)

theorem msOnly_stashWriteBack (s : State) (core : Nat) (j : Job) : MsOnly s (stashWriteBack s core j) :=
  (msOnly_finishStores ..).trans (msOnly_foldl _ (fun _ _ => msOnly_writeBackLine ..) _ _)

theorem msOnly_earlyCure (s : State) (scope : Nat) : MsOnly s (earlyCure s scope) :=
  ((msOnly_flushWc ..).trans (msOnly_cure ..)).trans (.ite (msOnly_stashWriteBack ..) (.refl _))

theorem msOnly_releaseSide (s : State) (scope : Nat) : MsOnly s (releaseSide s scope) :=
  (msOnly_earlyCure ..).trans (msOnly_publish ..)

theorem msOnly_readSeen (s : State) (v : Viewer) (pa n : Nat) : MsOnly s (readSeen s v pa n) :=
  .ite (.refl s) (msOnly_modMs s _)

theorem msOnly_fillGranule (s : State) (v : Viewer) (cmp : Bool) (pa spad g : Nat) :
    MsOnly s (fillGranule s v cmp pa spad g) := by
  unfold fillGranule
  exact msOnly_modMs s _

theorem msOnly_stashRefresh (s : State) (core : Nat) (j : Job) : MsOnly s (stashRefresh s core j) := by
  unfold stashRefresh
  refine msOnly_foldl _ (fun t l => ?_) _ s
  dsimp only
  split
  · exact .refl t
  · exact ((msOnly_readSeen ..).trans
      (msOnly_foldl _ (fun u g => .ite (.refl u) (msOnly_fillGranule ..)) _ _)).trans (msOnly_modMs _ _)

theorem msOnly_acquirePlaces (s : State) (scope : Nat) (orders : EarlyPlace → Bool) :
    MsOnly s (acquirePlaces s scope orders) :=
  MsOnly.trans (t := if s.ms.early.isEmpty then s else _) (.ite (.refl s) (msOnly_modMs s _))
    (.ite (msOnly_stashRefresh ..) (.refl _))

theorem msOnly_acquireSide (s : State) (scope : Nat) : MsOnly s (acquireSide s scope) := msOnly_acquirePlaces ..

/-! ### States that an instruction's end does not tell apart -/

/-- The streams, jobs and partitions of the two states are the same, and the same stream executes. -/
structure ExecFrame (s t : State) : Prop where
  cur : t.cur = s.cur
  strs : t.strs = s.strs
  jobs : t.jobs = s.jobs
  parts : t.parts = s.parts

theorem ExecFrame.refl (s : State) : ExecFrame s s := ⟨rfl, rfl, rfl, rfl⟩

theorem ExecFrame.trans {s t u : State} (a : ExecFrame s t) (b : ExecFrame t u) : ExecFrame s u :=
  ⟨b.cur.trans a.cur, b.strs.trans a.strs, b.jobs.trans a.jobs, b.parts.trans a.parts⟩

theorem MsOnly.frame {s t : State} (h : MsOnly s t) : ExecFrame s t := ⟨h.cur, h.strs, h.jobs, h.parts⟩

theorem frame_foldl {α : Type} (f : State → α → State) (hf : ∀ s x, ExecFrame s (f s x)) (l : List α) (s : State) :
    ExecFrame s (l.foldl f s) :=
  foldl_keeps (ExecFrame s) f (fun t x h => h.trans (hf t x)) l s (.refl s)

theorem ExecFrame.ite {s t u : State} {c : Prop} [Decidable c] (a : ExecFrame s t) (b : ExecFrame s u) :
    ExecFrame s (if c then t else u) := by
  split
  · exact a
  · exact b

theorem frame_modCore (s : State) (c : Nat) (f : Core → Core) : ExecFrame s (modCore s c f) := ⟨rfl, rfl, rfl, rfl⟩

theorem ExecFrame.curStream {s t : State} (h : ExecFrame s t) : curStream t = curStream s := by
  simp only [Machine.curStream, getStream, h.cur, h.strs]

theorem ExecFrame.curJob {s t : State} (h : ExecFrame s t) : curJob t = curJob s := by
  simp only [Machine.curJob, getJob, h.cur, h.jobs]

theorem ExecFrame.curPart {s t : State} (h : ExecFrame s t) : curPart t = curPart s := by
  simp only [Machine.curPart, h.curJob]

theorem ExecFrame.getPart {s t : State} (h : ExecFrame s t) (p : Nat) : getPart t p = getPart s p := by
  simp only [Machine.getPart, h.parts]

theorem ExecFrame.rd {s t : State} (h : ExecFrame s t) (r : Reg) : rd t r = rd s r := by simp only [Machine.rd, h.curStream]

theorem ExecFrame.rp {s t : State} (h : ExecFrame s t) (p : BitVec 4) : rp t p = rp s p := by simp only [Machine.rp, h.curStream]

theorem ExecFrame.keeps_quiet {s t : State} (h : ExecFrame s t) (hq : Machine.quiet s = true) : Machine.quiet t = true := by
  simpa only [Machine.quiet, traceOn, getDebug, chalked, h.curPart, h.getPart, h.strs, h.jobs, h.cur, h.parts,
    h.curStream] using hq

theorem ExecFrame.keeps {s t : State} {n : Nat} (h : ExecFrame s t) (hq : quiet s = true) (hp : plain s n = true) :
    Keeps s t n := by
  refine keeps_of s t n hq hp h.cur h.parts ?_ ?_ h.curPart ?_ ?_ ?_ ?_
  · rw [h.strs]; exact quiet_stream hq
  · rw [h.jobs]; exact quiet_job hq
  all_goals rw [h.curStream]

theorem ExecFrame.isSome_stream {s t : State} (h : ExecFrame s t) (hs : (Tab.get? s.strs (hartKey s.cur)).isSome = true) :
    (Tab.get? t.strs (hartKey t.cur)).isSome = true := by rwa [h.strs, h.cur]

theorem ExecFrame.isSome_job {s t : State} (h : ExecFrame s t) (hj : (Tab.get? s.jobs (jobKey s.cur)).isSome = true) :
    (Tab.get? t.jobs (jobKey t.cur)).isSome = true := by rwa [h.jobs, h.cur]

end Sys2Proof.Proofs
end

section
/-! PROOFS. The outcome queues and the scalar queues (R27, R75, R138, R189). -/

namespace Sys2Proof.Proofs

open Sys2Proof Sys2Proof.Machine

/-! ### Streams that try again -/

/-- Nothing but streams other than the executing one differs. -/
structure OthersOnly (s t : State) : Prop where
  cur : t.cur = s.cur
  stream : Tab.get? t.strs (hartKey s.cur) = Tab.get? s.strs (hartKey s.cur)
  jobs : t.jobs = s.jobs
  parts : t.parts = s.parts
  ms : t.ms = s.ms

theorem OthersOnly.refl (s : State) : OthersOnly s s := ⟨rfl, rfl, rfl, rfl, rfl⟩

theorem OthersOnly.trans {s t u : State} (a : OthersOnly s t) (b : OthersOnly t u) : OthersOnly s u :=
  ⟨b.cur.trans a.cur, by have := b.stream; rw [a.cur] at this; exact this.trans a.stream,
    b.jobs.trans a.jobs, b.parts.trans a.parts, b.ms.trans a.ms⟩

theorem OthersOnly.curStream {s t : State} (h : OthersOnly s t) : curStream t = curStream s := by
  simp only [Machine.curStream, getStream, Tab.getD, h.cur, h.stream]

theorem OthersOnly.curJob {s t : State} (h : OthersOnly s t) : curJob t = curJob s := by
  simp only [Machine.curJob, getJob, h.cur, h.jobs]

/-- The streams of one slot have keys of their own. -/
theorem hartKey_ne_of_mem_hartsOf {core slot : Nat} {h k : Hart} (hh : h ∈ hartsOf core slot)
    (hk : k ∈ hartsOf core slot) (hne : h ≠ k) : hartKey h ≠ hartKey k := by
  simp only [hartsOf, List.mem_map] at hh hk
  obtain ⟨t, -, rfl⟩ := hh
  obtain ⟨u, -, rfl⟩ := hk
  cases t <;> cases u <;> first
    | exact absurd rfl hne
    | (simp only [hartKey, jobKey, strmIdx]; omega)

theorem mem_hartsOf_self (h : Hart) : h ∈ hartsOf h.core h.slot := by
  obtain ⟨core, slot, strm⟩ := h
  cases strm <;> simp [hartsOf, allStrms]

theorem othersOnly_retryWaits (s : State) : OthersOnly s (retryWaits s) := by
  have step (l : List Hart) (hl : ∀ h ∈ l, h ∈ hartsOf s.cur.core s.cur.slot) (t : State) (ht : OthersOnly s t) :
      OthersOnly s (l.foldl (fun s h => if h = s.cur then s else modStream s h retryWait) t) := by
    induction l generalizing t with
    | nil => exact ht
    | cons h l ih =>
      refine ih (fun k hk => hl k (List.mem_cons_of_mem _ hk)) _ ?_
      dsimp only
      split
      · exact ht
      · rename_i hne
        have hkey := hartKey_ne_of_mem_hartsOf (mem_hartsOf_self s.cur) (hl h (List.mem_cons_self ..))
          (fun e => hne (by rw [ht.cur, e]))
        exact ⟨ht.cur, by rw [modStream_strs, Tab.get?_modify_ne _ _ _ _ hkey, ht.stream], ht.jobs, ht.parts, ht.ms⟩
  exact step _ (fun _ h => h) s (.refl s)

/-! ### What others have seen (R161) -/

theorem frame_sweepSeen (s : State) (core jobid : Nat) : ExecFrame s (sweepSeen s core jobid) := by
  unfold sweepSeen
  split
  · exact .ite (frame_modCore ..) (.refl s)
  · exact .refl s

theorem ms_sweepSeen (s : State) (core jobid : Nat) : (sweepSeen s core jobid).ms = s.ms := by
  unfold sweepSeen
  split
  · split <;> rfl
  · rfl

theorem frame_markSeen (s : State) (h : Hart) (jobid : Nat) (ks : NatSet) : ExecFrame s (markSeen s h jobid ks) :=
  .ite (.refl s) ((frame_modCore ..).trans (frame_sweepSeen ..))

theorem ms_markSeen (s : State) (h : Hart) (jobid : Nat) (ks : NatSet) : (markSeen s h jobid ks).ms = s.ms := by
  unfold markSeen
  split
  · rfl
  · exact ms_sweepSeen ..

theorem frame_passSeen (s : State) (code n : Nat) : ExecFrame s (passSeen s code n) :=
  (msOnly_orderReads s s.cur).frame.trans (frame_markSeen ..)

theorem ms_passSeen (s : State) (code n : Nat) : (passSeen s code n).ms = (orderReads s s.cur).ms := ms_markSeen ..

/-! ### A change of the job's queues -/

/-- The second state is the first with the queues of the executing job changed; streams that wait may try again. -/
structure QueuesChanged (s : State) (q : Queues) (t : State) : Prop where
  cur : t.cur = s.cur
  parts : t.parts = s.parts
  ms : t.ms = s.ms
  stream : curStream t = curStream s
  job : curJob t = { curJob s with queues := q }
  isSome_stream : (Tab.get? t.strs (hartKey t.cur)).isSome = true
  isSome_job : (Tab.get? t.jobs (jobKey t.cur)).isSome = true

theorem queuesChanged_modQueues (s : State) (f : Queues → Queues) (hq : quiet s = true) :
    QueuesChanged s (f (curJob s).queues) (modQueues s f) := by
  have h := othersOnly_retryWaits s
  have hj : (Tab.get? (retryWaits s).jobs (jobKey (retryWaits s).cur)).isSome = true := by
    rw [h.jobs, h.cur]; exact quiet_job hq
  refine ⟨h.cur, h.parts, h.ms, h.curStream, ?_, ?_, isSome_modCurJob _ hj⟩
  · rw [modQueues, curJob_modCurJob _ hj, h.curJob]
  · have := quiet_stream hq
    rwa [← h.stream, ← h.cur] at this

/-- What comes before the change may leave the memory system, the streams and the jobs as they are. -/
theorem QueuesChanged.of_frame {b s t : State} {q : Queues} (hf : ExecFrame b s) (hms : s.ms = b.ms)
    (h : QueuesChanged s q t) : QueuesChanged b q t :=
  ⟨h.cur.trans hf.cur, h.parts.trans hf.parts, h.ms.trans hms, h.stream.trans hf.curStream,
    by rw [h.job, hf.curJob], h.isSome_stream, h.isSome_job⟩

theorem QueuesChanged.onlyQueues {s t : State} {q : Queues} (h : QueuesChanged s q t) : Say.onlyQueues s t :=
  ⟨q, h.job, h.ms, h.parts, by rw [h.stream], by rw [h.stream]⟩

theorem QueuesChanged.keeps {s t : State} {q : Queues} {n : Nat} (h : QueuesChanged s q t) (hq : quiet s = true)
    (hp : plain s n = true) : Keeps s t n := by
  refine keeps_of s t n hq hp h.cur h.parts (h.cur ▸ h.isSome_stream) (h.cur ▸ h.isSome_job) ?_ ?_ ?_ ?_ ?_
  · rw [curPart, curPart, h.job]
  all_goals rw [h.stream]

/-! ### Pushes and pops -/

theorem vector_setIfInBounds {α : Type} {n : Nat} (v : Vector α n) (k : Fin n) (x : α) :
    v.setIfInBounds k.val x = v.set k.val x := by
  ext i hi
  simp [Vector.getElem_setIfInBounds, Vector.getElem_set]

theorem vector_getD {α : Type} {n : Nat} (v : Vector α n) (k : Fin n) (d : α) : v.getD k.val d = v[k.val] := by
  simp [Vector.getD, Array.getD]

theorem queueLength_bit (qs : Queues) (k : Fin 2) : queueLength qs (12 + k.val) = qs.b[k].length := by
  rw [queueLength, queueLengths, List.getD_append_right _ _ _ _ (by simp)]
  simp [Vector.getElem?_eq_getElem k.isLt]

theorem queueLength_scalar (qs : Queues) (k : Fin 4) : queueLength qs (8 + k.val) = qs.sq[k].length := by
  simp [queueLength, queueLengths, List.getElem?_append]

/-- A push of a branch outcome appends it to its queue. -/
theorem pushBit_changes (s : State) (k : Fin 2) (b : Bool) (hq : quiet s = true) :
    ∃ q, QueuesChanged s q (pushBit s k.val b) ∧ q.b = (curJob s).queues.b.set k.val ((curJob s).queues.b[k] ++ [b])
      ∧ q.sq = (curJob s).queues.sq ∧ q.q = (curJob s).queues.q := by
  have h := queuesChanged_modQueues s (fun qs =>
    countPush { qs with b := qs.b.setIfInBounds k.val (qs.b.getD k.val [] ++ [b]) } (12 + k.val) 1 (curSeen s)) hq
  exact ⟨_, h, by simp only [countPush, vector_setIfInBounds, vector_getD]; rfl, rfl, rfl⟩

/-- A push of a scalar appends it to its queue. -/
theorem pushScalar_changes (s : State) (k : Fin 4) (v : Word) (hq : quiet s = true) :
    ∃ q, QueuesChanged s q (pushScalar s k.val v) ∧ q.sq = (curJob s).queues.sq.set k.val ((curJob s).queues.sq[k] ++ [v])
      ∧ q.q = (curJob s).queues.q ∧ q.b = (curJob s).queues.b := by
  have h := queuesChanged_modQueues s (fun qs =>
    countPush { qs with sq := qs.sq.setIfInBounds k.val (qs.sq.getD k.val [] ++ [v]) } (8 + k.val) 1 (curSeen s)) hq
  exact ⟨_, h, by simp only [countPush, vector_setIfInBounds, vector_getD]; rfl, rfl, rfl⟩

/-- A pop of a branch outcome removes the head of its queue, after which the stream's early reads are used up. -/
theorem popBit_changes (s : State) (k : Fin 2) (hq : quiet s = true) (hp : plain s n = true) :
    ∃ q, QueuesChanged (orderReads s s.cur) q (popBit s k.val)
      ∧ q.b = (curJob s).queues.b.set k.val ((curJob s).queues.b[k].drop 1)
      ∧ q.sq = (curJob s).queues.sq ∧ q.q = (curJob s).queues.q := by
  have hf := frame_passSeen s (12 + k.val) 1
  have h := queuesChanged_modQueues (passSeen s (12 + k.val) 1) (fun qs =>
    dropSeen { qs with b := qs.b.setIfInBounds k.val ((qs.b.getD k.val []).drop 1) } (12 + k.val) 1) (hf.keeps hq hp).quiet
  rw [hf.curJob] at h
  exact ⟨_, h.of_frame (frame_markSeen ..) (ms_passSeen ..),
    by simp only [dropSeen, vector_setIfInBounds, vector_getD]; rfl, rfl, rfl⟩

/-- A pop of a scalar removes the head of its queue, after which the stream's early reads are used up. -/
theorem popScalar_changes (s : State) (k : Fin 4) (hq : quiet s = true) (hp : plain s n = true) :
    ∃ q, QueuesChanged (orderReads s s.cur) q (popScalar s k.val)
      ∧ q.sq = (curJob s).queues.sq.set k.val ((curJob s).queues.sq[k].drop 1)
      ∧ q.q = (curJob s).queues.q ∧ q.b = (curJob s).queues.b := by
  have hf := frame_passSeen s (8 + k.val) 1
  have h := queuesChanged_modQueues (passSeen s (8 + k.val) 1) (fun qs =>
    dropSeen { qs with sq := qs.sq.setIfInBounds k.val ((qs.sq.getD k.val []).drop 1) } (8 + k.val) 1) (hf.keeps hq hp).quiet
  rw [hf.curJob] at h
  exact ⟨_, h.of_frame (frame_markSeen ..) (ms_passSeen ..),
    by simp only [dropSeen, vector_setIfInBounds, vector_getD]; rfl, rfl, rfl⟩

/-! ### PUSHB, BRQ, SQPUSH, SQPOP -/

theorem pushOutcome_holds : Say.PushOutcome := by
  intro s g a q hready hstrm
  obtain ⟨hq, hp, hg⟩ := (ready_iff _ _ _).1 hready
  have hs : [Strm.l, .c].contains s.cur.strm = true := by rcases hstrm with ⟨h, -⟩ | ⟨h, -⟩ <;> rw [h] <;> rfl
  have hcode : (if s.cur.strm = .l then 0 else 1) = q.val := by
    rcases hstrm with ⟨h, rfl⟩ | ⟨h, rfl⟩ <;> rw [h] <;> rfl
  refine ⟨fun hlen => ?_, fun hlen => ?_⟩
  · have hd := (msOnly_drainWc s s.cur).frame
    have hk := hd.keeps (n := 4) hq hp
    obtain ⟨qs, h, hb, hsq, hrows⟩ := pushBit_changes (drainWc s s.cur) q (rp s a) hk.quiet
    rw [hd.curJob] at hb hsq hrows
    refine ⟨pushBit (drainWc s s.cur) q.val (rp s a), ?_, h.onlyQueues, ?_, ?_, ?_, ?_⟩
    · change execPushb g a s = _
      unfold execPushb
      refine issue_next (.pushb g a) _ _ free _ s _ hq hp hs rfl hg ?_ (hk.trans (h.keeps hk.quiet hk.plain))
      dsimp only
      rw [hcode, queueLength_bit, if_pos hlen]
    · rw [h.job, hb]; simp
    · rw [h.job, hb]; fin_cases q <;> simp
    · rw [h.job, hsq]
    · rw [h.job, hrows]
  · change execPushb g a s = _
    unfold execPushb
    refine issue_wait (.pushb g a) _ _ free _ s hp hs rfl hg _ ?_
    dsimp only
    rw [hcode, queueLength_bit, if_neg hlen]

/-- The end of an instruction that branches, with nothing to observe it. -/
theorem settle_branchTo (i : Instr) (s s' : State) (t : Word) (n : Nat) (hq : quiet s = true) (hk : Keeps s s' n) :
    settle i s (branchTo (record s' i false) t) = retireTo t s' := by
  obtain ⟨-, -, -, hbps, -, -, -⟩ := (quiet_iff s).1 hq
  obtain ⟨hs', -, htrace, -, hmon, hstep, -⟩ := (quiet_iff s').1 hk.quiet
  have hrec : record s' i false = s' := by
    rw [record, traceInstr_off]
    exact htrace
  have hbranch : branchTo s' t = retireTo t s' := by rw [branchTo, sampleWait_off s' s'.cur hmon]; rfl
  rw [hrec, hbranch, settle, settleThen_eq _ _ _ _ hbps]
  · rfl
  · rw [← hk.part]; exact hmon
  · rw [← hk.cur]
    change (curStream (retireTo t s')).stepping = false
    rw [retireTo, curStream_modCurStream _ hs']
    exact hstep

/-- An instruction whose body branches. -/
theorem issue_jump (i : Instr) (strms : List Strm) (g : Option Guard) (lacks : State → Bool)
    (body : State → Exec Effect) (s s' : State) (t : Word) (hq : quiet s = true) (hp : plain s i.size = true)
    (hs : strms.contains s.cur.strm = true) (hl : lacks s = false) (hg : guardHolds s g = true)
    (hb : body s = .ok (.jump s' t)) (hk : Keeps s s' i.size) :
    issue i strms g lacks body s = .next (retireTo t s') := by
  rw [issue_body i strms g lacks body s hp hs hl hg, hb, outcome, settle_branchTo i s s' t _ hq hk]

theorem branchOutcome_holds : Say.BranchOutcome := by
  intro s q pn ht o hq hp hstrm n
  have hs : [if q then Strm.s else .c].contains s.cur.strm = true := by rw [hstrm]; cases q <;> rfl
  have hn : n.val = b2n q := by cases q <;> rfl
  have hhead : (curJob s).queues.b[(if q then 1 else 0 : Fin 2)] = (curJob s).queues.b[n] := rfl
  refine ⟨fun hempty => ?_, fun v rest hv => ?_⟩
  · change execBrq q pn ht o s = _
    unfold execBrq
    refine issue_wait (.brq q pn ht o) _ none free _ s hp hs rfl rfl _ ?_
    dsimp only
    rw [hhead, hempty, hn]
  · obtain ⟨qs, h, hb, hsq, hrows⟩ := popBit_changes s n hq hp
    have hk : Keeps s (popBit s n.val) 4 :=
      ((msOnly_orderReads s s.cur).frame.keeps hq hp).trans
        (h.keeps ((msOnly_orderReads s s.cur).frame.keeps hq hp).quiet ((msOnly_orderReads s s.cur).frame.keeps hq hp).plain)
    refine ⟨popBit s n.val, h.onlyQueues, ?_, ?_, ?_, ?_, ?_⟩
    · rw [h.job, hb, hv]; simp
    · rw [h.job, hb]; cases q <;> simp [n]
    · rw [h.job, hsq]
    · rw [h.job, hrows]
    · change execBrq q pn ht o s = _
      unfold execBrq
      by_cases hb : (v ^^ pn) = true
      · rw [if_pos hb]
        refine issue_jump (.brq q pn ht o) _ none free _ s _ _ hq hp hs rfl rfl ?_ hk
        have : (v != pn) = true := by simpa using hb
        dsimp only
        rw [hhead, hv, ← hn]
        simp only [this, if_true, target, h.stream, (msOnly_orderReads s s.cur).frame.curStream, sext_shiftLeft]
        rfl
      · rw [if_neg hb]
        refine issue_next (.brq q pn ht o) _ none free _ s _ hq hp hs rfl rfl ?_ hk
        have : (v != pn) = false := by simpa using hb
        dsimp only
        rw [hhead, hv, ← hn]
        simp only [this]
        rfl

theorem scalarQueues_holds : Say.ScalarQueues := by
  intro s g f hready q
  obtain ⟨hq, hp, hg⟩ := (ready_iff _ _ _).1 hready
  have hlength : queueLength (curJob s).queues (8 + f.toNat) = q.length := queueLength_scalar _ f.toFin
  refine ⟨fun a hstrm => ⟨fun hlen => ?_, fun hlen => ?_⟩, fun d hstrm => ⟨fun hempty => ?_, fun v rest hv => ?_⟩⟩
  · have hd := (msOnly_drainWc s s.cur).frame
    have hk := hd.keeps (n := 4) hq hp
    obtain ⟨qs, (h : QueuesChanged _ qs (pushScalar _ f.toNat _)), hsq, hrows, hb⟩ := pushScalar_changes (drainWc s s.cur) f.toFin (rd s a) hk.quiet
    rw [hd.curJob] at hb hsq hrows
    refine ⟨pushScalar (drainWc s s.cur) f.toNat (rd s a), ?_, h.onlyQueues, by rw [h.job, hsq]; rfl, by rw [h.job, hrows],
      by rw [h.job, hb]⟩
    change execSqpush g f a s = _
    unfold execSqpush
    refine issue_next (.sqpush g f a) _ (some g) free _ s _ hq hp (by rw [sqWriter_eq, hstrm]; simp) rfl hg ?_
      (hk.trans (h.keeps hk.quiet hk.plain))
    rw [hlength, if_pos hlen]
  · change execSqpush g f a s = _
    unfold execSqpush
    refine issue_wait (.sqpush g f a) _ (some g) free _ s hp (by rw [sqWriter_eq, hstrm]; simp) rfl hg _ ?_
    rw [hlength, if_neg hlen]
  · change execSqpop g f d s = _
    unfold execSqpop
    refine issue_wait (.sqpop g f d) _ (some g) free _ s hp (by rw [sqReader_eq, hstrm]; simp) rfl hg _ ?_
    rw [show (curJob s).queues.sq[f.toFin] = [] from hempty]
  · obtain ⟨qs, (h : QueuesChanged _ qs (popScalar s f.toNat)), hsq, hrows, hb⟩ := popScalar_changes s f.toFin hq hp
    have ho := (msOnly_orderReads s s.cur).frame.keeps hq hp
    have hk : Keeps s (popScalar s f.toNat) 4 := ho.trans (h.keeps ho.quiet ho.plain)
    refine ⟨popScalar s f.toNat, ?_, h.onlyQueues, ?_, by rw [h.job, hrows], by rw [h.job, hb]⟩
    · change execSqpop g f d s = _
      unfold execSqpop
      refine issue_next (.sqpop g f d) _ (some g) free _ s _ hq hp (by rw [sqReader_eq, hstrm]; simp) rfl hg ?_
        (hk.trans (keeps_wr _ 4 d v hk.quiet hk.plain))
      rw [show (curJob s).queues.sq[f.toFin] = v :: rest from hv]
    · rw [h.job, hsq, show (curJob s).queues.sq[f.toFin] = v :: rest from hv]
      rfl

/-- Settles O31: each form by what its push or pop changes. -/
theorem smallQueues : Obligations.SmallQueues := ⟨pushOutcome_holds, branchOutcome_holds, scalarQueues_holds⟩

end Sys2Proof.Proofs
end

section
/-! PROOFS. Barriers: arrivals, phases, waits, refusals (R29, R185, R186). -/

namespace Sys2Proof.Proofs

open Sys2Proof Sys2Proof.Machine

/-! ### A change of a partition that leaves its observation as it is -/

/-- A property of entries that the changed entry has exactly where it had it before, and an absent one does not have. -/
theorem any_set {α : Type} (t : Tab α) (k : Nat) (v : α) (P : Nat × α → Bool)
    (hv : P (k, v) = (Tab.get? t k).any fun x => P (k, x)) : (Tab.set t k v).any P = t.any P := by
  induction t with
  | nil => simpa [Tab.set, Tab.get?] using hv
  | cons y t ih =>
    obtain ⟨i, y⟩ := y
    simp only [Tab.get?] at hv
    simp only [Tab.set]
    split
    · rename_i e
      subst e
      simp_all
    · rename_i e
      simp only [e, if_false] at hv
      split
      · rename_i hlt
        simp_all
      · rename_i hlt
        simp only [hlt, if_false] at hv
        rw [List.any_cons, List.any_cons, ih hv]

theorem chalked_modPart (s : State) (p q : Nat) (f : Part → Part) (hf : ∀ x, (f x).dbgState = x.dbgState) :
    chalked (modPart s p f) q = chalked s q := by
  have hdebug : getDebug (modPart s p f) q = getDebug s q := by
    by_cases h : q = p
    · subst h; rw [getDebug, getPart_modPart_self, hf]; rfl
    · rw [getDebug, getPart_modPart_ne _ _ _ _ h]; rfl
  rw [chalked, hdebug, chalked]
  congr 1
  refine any_set s.parts p _ _ ?_
  simp only [hf, Tab.getD]
  cases Tab.get? s.parts p with
  | none => rfl
  | some x => rfl

theorem keeps_modPart (s : State) (p n : Nat) (f : Part → Part) (hf : ∀ x, (f x).dbgState = x.dbgState)
    (hq : quiet s = true) (hp : plain s n = true) : Keeps s (modPart s p f) n := by
  have hdebug (q : Nat) : getDebug (modPart s p f) q = getDebug s q := by
    by_cases h : q = p
    · subst h; rw [getDebug, getPart_modPart_self, hf]; rfl
    · rw [getDebug, getPart_modPart_ne _ _ _ _ h]; rfl
  have q := (quiet_iff s).1 hq
  have hpart : curPart (modPart s p f) = curPart s := rfl
  refine ⟨rfl, rfl, (quiet_iff _).2 ?_, hp⟩
  simp only [traceOn, hdebug, chalked_modPart s p _ f hf, hpart]
  exact q

/-! ### Flags to peers leave the streams alone -/

theorem frame_emitFlag (s : State) (f : OutFlag) : ExecFrame s (emitFlag s f) := .ite ⟨rfl, rfl, rfl, rfl⟩ (.refl s)

theorem frame_sendFlag (s : State) (p chip target : Nat) (body : FlagBody) : ExecFrame s (sendFlag s p chip target body) := by
  unfold sendFlag
  dsimp only
  split
  · refine ExecFrame.trans ?_ (frame_emitFlag ..)
    exact ⟨rfl, rfl, rfl, rfl⟩
  · exact ⟨rfl, rfl, rfl, rfl⟩

theorem frame_tellPeers (s : State) (p : Nat) (body : FlagBody) : ExecFrame s (tellPeers s p body) :=
  frame_foldl _ (fun _ _ => frame_sendFlag ..) _ _

/-! ### An arrival (R186) -/

/-- The state in which an arrival counts: what its release leaves, with one release more. -/
def arrivalBase (s : State) (level : Nat) : State :=
  modCurStream (if 1 ≤ level then releaseSide s level else flushWc s s.cur.core) fun st =>
    { st with releases := st.releases + 1 }

theorem frame_arrivalRelease (s : State) (level : Nat) :
    ExecFrame s (if 1 ≤ level then releaseSide s level else flushWc s s.cur.core) :=
  .ite (msOnly_releaseSide ..).frame (msOnly_flushWc ..).frame

theorem countedRelease_quiet {s : State} (hq : quiet s = true) :
    countedRelease s = modCurStream s fun st => { st with releases := st.releases + 1 } := by
  obtain ⟨-, -, -, -, -, -, hchalk⟩ := (quiet_iff s).1 hq
  simp [countedRelease, hchalk]

theorem keeps_arrivalBase {s : State} (level : Nat) {n : Nat} (hq : quiet s = true) (hp : plain s n = true) :
    Keeps s (arrivalBase s level) n := by
  have hk := (frame_arrivalRelease s level).keeps hq hp
  exact hk.trans (keeps_modCurStream _ n _ hk.quiet hk.plain (fun _ => rfl) (fun _ => rfl) (fun _ => rfl) (fun _ => rfl))

theorem curJob_arrivalBase (s : State) (level : Nat) : curJob (arrivalBase s level) = curJob s :=
  (frame_arrivalRelease s level).curJob

theorem getPart_arrivalBase (s : State) (level p : Nat) : getPart (arrivalBase s level) p = getPart s p :=
  (frame_arrivalRelease s level).getPart p

theorem cur_arrivalBase (s : State) (level : Nat) : (arrivalBase s level).cur = s.cur := (frame_arrivalRelease s level).cur

theorem barrier_arrivalBase (s : State) (level k number : Nat) :
    Say.barrier (arrivalBase s level) k number = Say.barrier s k number := by
  simp only [Say.barrier, curPart, curJob_arrivalBase, getPart_arrivalBase, cur_arrivalBase]

theorem curStream_arrivalBase {s : State} (level : Nat) (hq : quiet s = true) :
    curStream (arrivalBase s level) = { curStream s with releases := (curStream s).releases + 1 } := by
  have h := frame_arrivalRelease s level
  rw [arrivalBase, curStream_modCurStream _ (h.isSome_stream (quiet_stream hq)), h.curStream]

/-- What an arrival leaves of a barrier's list: the entry is as put, at this level. -/
theorem findBarrier_putBarrier (l : List Barrier) (level domain number : Nat) (x : Arrival) (hx : x.2.1 < 2 ^ 32) :
    findBarrier (putBarrier l level domain number x) level domain number = x := by
  obtain ⟨arrived, phase, expected⟩ := x
  simpa [findBarrier, putBarrier] using hx

/-- The entry after an arrival that expects `e` where it is the first (R186). -/
def afterArrival (b : Arrival) (e : Nat) : Arrival := (arriveAt b e).2

theorem afterArrival_phase_lt (b : Arrival) (e : Nat) (hb : b.2.1 < 2 ^ 32) : (afterArrival b e).2.1 < 2 ^ 32 := by
  have hmod : (b.2.1 + 1) % 2 ^ 32 < 2 ^ 32 := Nat.mod_lt _ (by norm_num)
  by_cases h : b.1 + 1 = if b.1 = 0 then e else b.2.2
  · simpa only [afterArrival, arriveAt, if_pos h] using hmod
  · simpa only [afterArrival, arriveAt, if_neg h] using hb

/-- A partition with an entry put. -/
def withBarrier (level domain number : Nat) (x : Arrival) (p : Part) : Part :=
  { p with barriers := putBarrier p.barriers level domain number x }

/-- An arrival, in a stream that nothing observes: where it counts, what it puts there, and the flags of level 6. -/
theorem arrive_eq {s : State} (level number : Nat) (hq : quiet s = true) :
    arrive s level number =
      let b := Say.barrier s level number
      let x := afterArrival b (domCount (curJob s).ids.dommem level)
      if level = 0 then
        (modCurJob (arrivalBase s level) fun j => { j with barriers := Tab.set j.barriers number x }, b.2.1)
      else
        let t := modPart (arrivalBase s level) (curPart s) (withBarrier level (domainOf s.cur.core level) number x)
        (if level = 6 then
          tellPeers t (curPart s) (.barrier (BitVec.ofNat 11 number) (domCount (curJob s).ids.dommem level))
        else t, b.2.1) := by
  have hbase : countedRelease (if 1 ≤ level then releaseSide s level else flushWc s s.cur.core) = arrivalBase s level :=
    countedRelease_quiet ((frame_arrivalRelease s level).keeps_quiet hq)
  unfold arrive
  simp only [hbase, curJob_arrivalBase, getPart_arrivalBase, cur_arrivalBase, partArrive, afterArrival, Say.barrier, curPart]
  split
  · rfl
  · split <;> rfl

theorem arrive_phase {s : State} (level number : Nat) (hq : quiet s = true) :
    (arrive s level number).2 = (Say.barrier s level number).2.1 := by
  rw [arrive_eq level number hq]
  dsimp only
  split <;> rfl

theorem barrier_frame {s t : State} (h : ExecFrame s t) (level number : Nat) :
    Say.barrier t level number = Say.barrier s level number := by
  simp only [Say.barrier, h.curJob, h.curPart, h.getPart, h.cur]

/-- What one arrival leaves of the entry it names (R186). -/
theorem barrier_arrive {s : State} (level number : Nat) (hq : quiet s = true)
    (hph : (Say.barrier s level number).2.1 < 2 ^ 32) :
    Say.barrier (arrive s level number).1 level number =
      afterArrival (Say.barrier s level number) (domCount (curJob s).ids.dommem level) := by
  rw [arrive_eq level number hq]
  have hjob : (Tab.get? (arrivalBase s level).jobs (jobKey (arrivalBase s level).cur)).isSome = true :=
    (frame_arrivalRelease s level).isSome_job (quiet_job hq)
  by_cases h0 : level = 0
  · simp only [if_pos h0]
    rw [Say.barrier, if_pos h0, curJob_modCurJob _ hjob]
    simp
  · simp only [if_neg h0]
    have hput (x : Arrival) (hx : x.2.1 < 2 ^ 32) : Say.barrier (modPart (arrivalBase s level) (curPart s)
        (withBarrier level (domainOf s.cur.core level) number x)) level number = x := by
      have hpart : curPart (modPart (arrivalBase s level) (curPart s)
          (withBarrier level (domainOf s.cur.core level) number x)) = curPart s :=
        congrArg (fun j : Job => j.ids.part) (curJob_arrivalBase s level)
      rw [Say.barrier, if_neg h0, hpart, getPart_modPart_self]
      exact (congrArg (fun c : Hart => findBarrier _ level (domainOf c.core level) number) (cur_arrivalBase s level)).trans
        (findBarrier_putBarrier _ _ _ _ _ hx)
    split
    · rw [barrier_frame (frame_tellPeers ..), hput _ (afterArrival_phase_lt _ _ hph)]
    · rw [hput _ (afterArrival_phase_lt _ _ hph)]

theorem barrierArrival_holds : Say.BarrierArrival := by
  intro s level number hq _ hph b e
  refine ⟨arrive_phase level number hq, ?_⟩
  rw [barrier_arrive level number hq hph]
  rfl

/-- What an arrival leaves of its own stream, for the end of the instruction. -/
theorem keeps_arrive {s : State} (level number : Nat) (hq : quiet s = true) (hp : plain s 4 = true) :
    Keeps s (arrive s level number).1 4 := by
  rw [arrive_eq level number hq]
  have hb := keeps_arrivalBase level hq hp
  dsimp only
  split
  · exact hb.trans (keeps_modCurJob _ 4 _ hb.quiet hb.plain fun _ => rfl)
  · have ht := hb.trans (keeps_modPart (arrivalBase s level) (curPart s) 4
      (withBarrier level (domainOf s.cur.core level) number
        (afterArrival (Say.barrier s level number) (domCount (curJob s).ids.dommem level))) (fun _ => rfl) hb.quiet hb.plain)
    split
    · exact ht.trans ((frame_tellPeers ..).keeps ht.quiet ht.plain)
    · exact ht

theorem curStream_arrive {s : State} (level number : Nat) (hq : quiet s = true) :
    curStream (arrive s level number).1 = { curStream s with releases := (curStream s).releases + 1 } := by
  rw [arrive_eq level number hq, ← curStream_arrivalBase level hq]
  dsimp only
  split
  · rfl
  · split
    · rw [(frame_tellPeers ..).curStream]; rfl
    · rfl

/-! ### BAR (R186) -/

theorem barrierPhase_eq (s : State) (level number : Nat) : barrierPhase s level number = (Say.barrier s level number).2.1 := by
  rw [barrierPhase, Say.barrier]
  split <;> rfl

theorem barrierChecks_ok (s : State) (level : Nat) (a : Word) (arrives : Bool) (ha : a.toNat < 2048)
    (hm : arrives = true → mayArrive (curJob s).ids.dommem level s.cur.strm = true) :
    barrierChecks s level a arrives = .ok () := by
  cases arrives with
  | false => simp [barrierChecks, check, ha]; rfl
  | true => simp [barrierChecks, check, ha, hm]; rfl

theorem barrierChecks_fail (s : State) (level : Nat) (a : Word) (arrives : Bool)
    (h : 2048 ≤ a.toNat ∨ arrives = true ∧ mayArrive (curJob s).ids.dommem level s.cur.strm = false) :
    barrierChecks s level a arrives = .error (.trap .perm a 0) := by
  by_cases ha : a.toNat < 2048
  · obtain ⟨hr, hm⟩ := h.resolve_left (by omega)
    simp [barrierChecks, check, ha, hr, hm]; rfl
  · simp [barrierChecks, check, ha]; rfl

/-- An instruction that completes after it has entered. -/
theorem issue_finish (i : Instr) (strms : List Strm) (g : Option Guard) (lacks : State → Bool)
    (body : State → Exec Effect) (s s' : State) (hp : plain s i.size = true)
    (hs : strms.contains s.cur.strm = true) (hl : lacks s = false) (hg : guardHolds s g = true)
    (hb : body s = .ok (.finish s')) (hk : Keeps s s' i.size) :
    issue i strms g lacks body s = .next (retire i.size s') := by
  obtain ⟨-, -, htrace, -, hmon, -, -⟩ := (quiet_iff s').1 hk.quiet
  have hrec : record s' i false = s' := by
    rw [record, traceInstr_off]
    exact htrace
  rw [issue_body i strms g lacks body s hp hs hl hg, hb, outcome, hrec, advance_eq s' i hk.quiet hk.plain, endInstr,
    sampleQueues_off, endStep, ← hk.cur, retire_stepping s' _ hk.quiet]
  · rfl
  · rw [← hk.part]; exact hmon

theorem allStrms_contains (t : Strm) : allStrms.contains t = true := by cases t <;> rfl

/-- What becomes of an instruction that completes in sequence. -/
theorem outcome_next (i : Instr) (s s' : State) (hq : quiet s = true) (hk : Keeps s s' i.size) :
    outcome i s (.ok (.next s')) = .next (retire i.size s') := by
  rw [outcome, settle_advance i s s' hq hk]

/-- What becomes of an instruction that enters its sequence and is blocked in it. -/
theorem outcome_enter (i : Instr) (s s' : State) (k : WaitKind) (hq : quiet s = true) (hcur : s'.cur = s.cur) :
    outcome i s (.ok (.enter s' k)) = .next (block s' s'.cur k) := by
  obtain ⟨-, -, -, hbps, -, -, -⟩ := (quiet_iff s).1 hq
  rw [outcome, breakpointHits_off s _ s.cur hbps, hcur]
  rfl

theorem barArrive_next (s : State) (sc : BitVec 4) (d a : Reg) (hready : ready s 4 none = true)
    (hn : (rd s a).toNat < 2048) (hm : mayArrive (curJob s).ids.dommem sc.toNat s.cur.strm = true) :
    exec (.barArrive sc d a) s = .next (retire 4
      (wr (arrive s sc.toNat (rd s a).toNat).1 d (BitVec.ofNat 64 (arrive s sc.toNat (rd s a).toNat).2))) := by
  obtain ⟨hq, hp, hg⟩ := (ready_iff _ _ _).1 hready
  have hk := keeps_arrive sc.toNat (rd s a).toNat hq hp
  change execBarArrive sc d a s = _
  unfold execBarArrive
  refine issue_next (.barArrive sc d a) _ none free _ s _ hq hp (allStrms_contains _) rfl hg ?_
    (hk.trans (keeps_wr _ 4 d _ hk.quiet hk.plain))
  dsimp only
  rw [barrierChecks_ok s _ _ true hn fun _ => hm]
  rfl

theorem barArrive_perm (s : State) (sc : BitVec 4) (d a : Reg) (hready : ready s 4 none = true)
    (h : 2048 ≤ (rd s a).toNat ∨ mayArrive (curJob s).ids.dommem sc.toNat s.cur.strm = false) :
    exec (.barArrive sc d a) s = .next (trapNow s (.barArrive sc d a) .perm (rd s a) 0) := by
  obtain ⟨-, hp, hg⟩ := (ready_iff _ _ _).1 hready
  change execBarArrive sc d a s = _
  unfold execBarArrive
  refine issue_trap (.barArrive sc d a) _ none free _ s hp (allStrms_contains _) rfl hg _ _ _ ?_
  dsimp only
  rw [barrierChecks_fail s _ _ true (h.imp_right fun hm => ⟨rfl, hm⟩)]
  rfl

theorem barWait_next (s : State) (sc : BitVec 4) (d a b : Reg) (hready : ready s 4 none = true)
    (hn : (rd s a).toNat < 2048)
    (hpass : passed (Say.barrier s sc.toNat (rd s a).toNat).2.1 (rd s b).toNat = true) :
    exec (.barWait sc d a b) s = .next (retire 4
      (wr (acquireSide s sc.toNat) d (BitVec.ofNat 64 (Say.barrier s sc.toNat (rd s a).toNat).2.1))) := by
  obtain ⟨hq, hp, hg⟩ := (ready_iff _ _ _).1 hready
  have hk := (msOnly_acquireSide s sc.toNat).frame.keeps (n := 4) hq hp
  change execBarWait sc d a b s = _
  unfold execBarWait
  refine issue_next (.barWait sc d a b) _ none free _ s _ hq hp (allStrms_contains _) rfl hg ?_
    (hk.trans (keeps_wr _ 4 d _ hk.quiet hk.plain))
  dsimp only
  rw [barrierChecks_ok s _ _ false hn (by simp), barrierPhase_eq, hpass]
  rfl

theorem barWait_blocked (s : State) (sc : BitVec 4) (d a b : Reg) (hready : ready s 4 none = true)
    (hn : (rd s a).toNat < 2048)
    (hpass : passed (Say.barrier s sc.toNat (rd s a).toNat).2.1 (rd s b).toNat = false) :
    exec (.barWait sc d a b) s = Say.blocked s (.value d
      (BitVec.ofNat 64 (2 ^ 63 + (Say.barrier s sc.toNat (rd s a).toNat).2.1)) (rd s a).toNat) := by
  obtain ⟨-, hp, hg⟩ := (ready_iff _ _ _).1 hready
  change execBarWait sc d a b s = _
  unfold execBarWait
  refine issue_wait (.barWait sc d a b) _ none free _ s hp (allStrms_contains _) rfl hg _ ?_
  dsimp only
  rw [barrierChecks_ok s _ _ false hn (by simp), barrierPhase_eq, hpass]
  rfl

theorem barWait_perm (s : State) (sc : BitVec 4) (d a b : Reg) (hready : ready s 4 none = true)
    (h : 2048 ≤ (rd s a).toNat) :
    exec (.barWait sc d a b) s = .next (trapNow s (.barWait sc d a b) .perm (rd s a) 0) := by
  obtain ⟨-, hp, hg⟩ := (ready_iff _ _ _).1 hready
  change execBarWait sc d a b s = _
  unfold execBarWait
  refine issue_trap (.barWait sc d a b) _ none free _ s hp (allStrms_contains _) rfl hg _ _ _ ?_
  dsimp only
  rw [barrierChecks_fail s _ _ false (.inl h)]
  rfl

/-- A wait at a barrier ends: the acquire, and the stream has arrived nowhere any more. -/
def barrierDone (s : State) (level : Nat) : State :=
  modCurStream (acquireSide s level) fun st => { st with arrived := none }

theorem keeps_barrierDone {s : State} (level : Nat) {n : Nat} (hq : quiet s = true) (hp : plain s n = true) :
    Keeps s (barrierDone s level) n := by
  have hk := (msOnly_acquireSide s level).frame.keeps hq hp
  exact hk.trans (keeps_modCurStream _ n _ hk.quiet hk.plain (fun _ => rfl) (fun _ => rfl) (fun _ => rfl) (fun _ => rfl))

theorem curStream_barrierDone {s : State} (level : Nat) (hq : quiet s = true) :
    curStream (barrierDone s level) = { curStream s with arrived := none } := by
  have hf := (msOnly_acquireSide s level).frame
  rw [barrierDone, curStream_modCurStream _ (hf.isSome_stream (quiet_stream hq)), hf.curStream]

theorem barrier_barrierDone (s : State) (level k number : Nat) :
    Say.barrier (barrierDone s level) k number = Say.barrier s k number :=
  barrier_frame (msOnly_acquireSide s level).frame k number

/-- BAR.ARRIVEWAIT whose arrival has been made, and whose phase has passed. -/
theorem barArrivewait_finish (s : State) (sc : BitVec 4) (d a : Reg) (w : BitVec 32) (hready : ready s 4 none = true)
    (hw : (curStream s).arrived = some w)
    (hpass : passed (Say.barrier s sc.toNat (rd s a).toNat).2.1 w.toNat = true) :
    exec (.barArrivewait sc d a) s = .next (retire 4
      (wr (barrierDone s sc.toNat) d (BitVec.ofNat 64 (Say.barrier s sc.toNat (rd s a).toNat).2.1))) := by
  obtain ⟨hq, hp, hg⟩ := (ready_iff _ _ _).1 hready
  have hk := keeps_barrierDone sc.toNat (n := 4) hq hp
  change execBarArrivewait sc d a s = _
  unfold execBarArrivewait
  refine issue_finish (.barArrivewait sc d a) _ none free _ s _ hp (allStrms_contains _) rfl hg ?_
    (hk.trans (keeps_wr _ 4 d _ hk.quiet hk.plain))
  simp only [hw, barrierPhase_eq, hpass, if_true]
  rfl

/-- BAR.ARRIVEWAIT whose arrival has been made, and whose phase has not passed. -/
theorem barArrivewait_stay (s : State) (sc : BitVec 4) (d a : Reg) (w : BitVec 32) (hready : ready s 4 none = true)
    (hw : (curStream s).arrived = some w)
    (hpass : passed (Say.barrier s sc.toNat (rd s a).toNat).2.1 w.toNat = false) :
    exec (.barArrivewait sc d a) s = Say.blocked s (.value d
      (BitVec.ofNat 64 (2 ^ 63 + (Say.barrier s sc.toNat (rd s a).toNat).2.1)) (rd s a).toNat) := by
  obtain ⟨-, hp, hg⟩ := (ready_iff _ _ _).1 hready
  change execBarArrivewait sc d a s = _
  unfold execBarArrivewait
  rw [issue_body (.barArrivewait sc d a) _ none free _ s hp (allStrms_contains _) rfl hg]
  simp only [hw, barrierPhase_eq, hpass]
  rfl

theorem exec_ok_bind {α β : Type} (x : α) (f : α → Exec β) : ((.ok x : Exec α) >>= f) = f x := rfl

/-- What BAR.ARRIVEWAIT does once its arrival has been made. -/
theorem barArrivewait_outcome (s t : State) (sc : BitVec 4) (d a : Reg) (ph now : Nat) (hp : plain s 4 = true)
    (hn : (rd s a).toNat < 2048) (hm : mayArrive (curJob s).ids.dommem sc.toNat s.cur.strm = true)
    (hw : (curStream s).arrived = none) (ha : arrive s sc.toNat (rd s a).toNat = (t, ph))
    (hnow : barrierPhase t sc.toNat (rd s a).toNat = now) :
    execBarArrivewait sc d a s = outcome (.barArrivewait sc d a) s
      (if passed now ph then .ok (.next (wr (barrierDone t sc.toNat) d (BitVec.ofNat 64 now)))
       else .ok (.enter (modCurStream t fun st => { st with arrived := some (BitVec.ofNat 32 ph) })
        (.value d (BitVec.ofNat 64 (2 ^ 63 + now)) (rd s a).toNat))) := by
  unfold execBarArrivewait
  rw [issue_body (.barArrivewait sc d a) _ none free _ s hp (allStrms_contains _) rfl rfl]
  simp only [hw]
  rw [barrierChecks_ok s _ _ true hn fun _ => hm, exec_ok_bind, ha]
  simp only [hnow]
  rfl

/-- BAR.ARRIVEWAIT that makes its arrival: it goes on where the phase has passed, else it is blocked as arrived. -/
theorem barArrivewait_arrives (s : State) (sc : BitVec 4) (d a : Reg) (hready : ready s 4 none = true)
    (hn : (rd s a).toNat < 2048) (hm : mayArrive (curJob s).ids.dommem sc.toNat s.cur.strm = true)
    (hw : (curStream s).arrived = none) :
    let n := (rd s a).toNat
    let t := (arrive s sc.toNat n).1
    let ph := (Say.barrier s sc.toNat n).2.1
    let now := (Say.barrier t sc.toNat n).2.1
    (passed now ph = true →
      exec (.barArrivewait sc d a) s = .next (retire 4 (wr (barrierDone t sc.toNat) d (BitVec.ofNat 64 now))))
    ∧ (passed now ph = false →
      exec (.barArrivewait sc d a) s = Say.blocked (modCurStream t fun st => { st with arrived := some (BitVec.ofNat 32 ph) })
        (.value d (BitVec.ofNat 64 (2 ^ 63 + now)) n)) := by
  obtain ⟨hq, hp, hg⟩ := (ready_iff _ _ _).1 hready
  intro n t ph now
  have hk : Keeps s t 4 := keeps_arrive sc.toNat n hq hp
  have hd := keeps_barrierDone sc.toNat (n := 4) hk.quiet hk.plain
  have ho := barArrivewait_outcome s t sc d a ph now hp hn hm hw (Prod.ext rfl (arrive_phase sc.toNat n hq))
    (barrierPhase_eq t sc.toNat n)
  refine ⟨fun hpass => ?_, fun hpass => ?_⟩
  · rw [hpass, if_pos rfl, outcome_next _ s _ hq (hk.trans (hd.trans (keeps_wr _ 4 d _ hd.quiet hd.plain)))] at ho
    exact ho
  · rw [hpass, if_neg Bool.false_ne_true] at ho
    exact ho.trans (outcome_enter _ s _ _ hq hk.cur)

theorem barArrivewait_perm (s : State) (sc : BitVec 4) (d a : Reg) (hready : ready s 4 none = true)
    (hw : (curStream s).arrived = none)
    (h : 2048 ≤ (rd s a).toNat ∨ mayArrive (curJob s).ids.dommem sc.toNat s.cur.strm = false) :
    exec (.barArrivewait sc d a) s = .next (trapNow s (.barArrivewait sc d a) .perm (rd s a) 0) := by
  obtain ⟨-, hp, hg⟩ := (ready_iff _ _ _).1 hready
  change execBarArrivewait sc d a s = _
  unfold execBarArrivewait
  refine issue_trap (.barArrivewait sc d a) _ none free _ s hp (allStrms_contains _) rfl hg _ _ _ ?_
  simp only [hw]
  rw [barrierChecks_fail s _ _ true (h.imp_right fun hm => ⟨rfl, hm⟩)]
  rfl

theorem passed_self (g : Nat) (hg : g < 2 ^ 32) : passed g g = false := by
  simp only [passed, Nat.mod_eq_of_lt hg]
  rw [show g + 2 ^ 32 - g = 2 ^ 32 by omega]
  rfl

theorem passed_succ (g : Nat) : passed ((g + 1) % 2 ^ 32) g = true := by
  have : ((g + 1) % 2 ^ 32 + 2 ^ 32 - g % 2 ^ 32) % 2 ^ 32 = 1 := by omega
  simp only [passed, this]
  rfl

theorem barriers_holds : Say.Barriers := by
  intro s sc d a b hready hsc n l ph mine
  obtain ⟨hq, hp, -⟩ := (ready_iff _ _ _).1 hready
  have hk : Keeps s (arrive s l n).1 4 := keeps_arrive l n hq hp
  refine ⟨fun hn hm => barArrive_next s sc d a hready hn hm,
    fun hn => ⟨barWait_next s sc d a b hready hn, barWait_blocked s sc d a b hready hn⟩, ?_, ?_, ?_,
    fun hn => ⟨barArrive_perm s sc d a hready (.inl hn), barWait_perm s sc d a b hready hn⟩,
    fun hn hm => barArrive_perm s sc d a hready (.inr hm), fun hw h => barArrivewait_perm s sc d a hready hw h⟩
  · intro hn hm hw hph hnow
    refine ⟨barrierDone (arrive s l n).1 l, ?_, ?_, barrier_barrierDone ..⟩
    · rw [(barArrivewait_arrives s sc d a hready hn hm hw).1 (by rw [hnow]; exact passed_succ ph), hnow]
    · rw [curStream_barrierDone l hk.quiet]
  · intro hn hm hw hph hnow
    rw [(barArrivewait_arrives s sc d a hready hn hm hw).2 (by rw [hnow]; exact passed_self ph hph), hnow]
  · intro w hn hw
    exact ⟨barArrivewait_finish s sc d a w hready hw, barArrivewait_stay s sc d a w hready hw⟩

/-- Where the executing stream stands, and what a register holds, after an instruction that writes the register and
completes in sequence. -/
theorem after_retire_wr {s t : State} (d : Reg) (v : Word) (hk : Keeps s t 4) (hpc : (curStream t).pc = (curStream s).pc) :
    let u := retire 4 (wr t d v)
    (curStream u).pc = (curStream s).pc + 4 ∧ (curStream u).wait = none ∧ rd u d = if d = 0 then 0 else v := by
  have hs := quiet_stream hk.quiet
  have hwr : (Tab.get? (wr t d v).strs (hartKey (wr t d v).cur)).isSome = true := isSome_modCurStream _ hs
  intro u
  refine ⟨?_, ?_, ?_⟩
  · rw [curStream_retire 4 hwr, wr, curStream_modCurStream _ hs, ← hpc]
    simp
  · rw [curStream_retire 4 hwr]
  · obtain ⟨st, e⟩ := Option.isSome_iff_exists.1 hs
    rw [rd_retire 4 d hwr, rd_wr t d d v st e]
    by_cases hd : d = 0
    · rw [if_neg fun h => h.2 hd, if_pos hd, hd]
      exact streamReg_zero _
    · rw [if_pos ⟨rfl, hd⟩, if_neg hd]

theorem barriersComplete_holds : Say.BarriersComplete := by
  intro s sc d a b hready _ hn b0 e goesOn
  obtain ⟨hq, hp, -⟩ := (ready_iff _ _ _).1 hready
  have hk : Keeps s (arrive s sc.toNat (rd s a).toNat).1 4 := keeps_arrive _ _ hq hp
  have hpc : (curStream (arrive s sc.toNat (rd s a).toNat).1).pc = (curStream s).pc := by rw [curStream_arrive _ _ hq]
  refine ⟨fun hm => ?_, fun hpass => ?_, fun hm hw he hph => ?_, fun w hw hpass => ?_⟩
  · refine ⟨_, barArrive_next s sc d a hready hn hm, ?_⟩
    rw [arrive_phase _ _ hq]
    exact after_retire_wr d _ hk hpc
  · have hf := (msOnly_acquireSide s sc.toNat).frame
    exact ⟨_, barWait_next s sc d a b hready hn hpass, after_retire_wr d _ (hf.keeps hq hp) (by rw [hf.curStream])⟩
  · have hnow : (Say.barrier (arrive s sc.toNat (rd s a).toNat).1 sc.toNat (rd s a).toNat).2.1 = (b0.2.1 + 1) % 2 ^ 32 := by
      rw [barrier_arrive _ _ hq hph, afterArrival, arriveAt, if_pos he]
    refine ⟨_, (barArrivewait_arrives s sc d a hready hn hm hw).1 (by rw [hnow]; exact passed_succ _), ?_⟩
    rw [hnow]
    exact after_retire_wr d _ (hk.trans (keeps_barrierDone _ hk.quiet hk.plain))
      (by rw [curStream_barrierDone _ hk.quiet, ← hpc])
  · exact ⟨_, barArrivewait_finish s sc d a w hready hw hpass,
      after_retire_wr d _ (keeps_barrierDone _ hq hp) (by rw [curStream_barrierDone _ hq])⟩

/-- Settles O39: each form by the state that its arrival or its acquire leaves. -/
theorem barriers : Obligations.Barriers := ⟨barriersComplete_holds, barrierArrival_holds, barriers_holds⟩

end Sys2Proof.Proofs
end

section
/-! PROOFS. The push of a child operation where the token table is empty (R149 to R161). -/

namespace Sys2Proof.Proofs

open Sys2Proof Sys2Proof.Machine

/-! ### Changes that change nothing -/

theorem Tab.modify_eq_self {α : Type} (t : Tab α) (k : Nat) (f : α → α)
    (h : ∀ x, Tab.get? t k = some x → f x = x) : Tab.modify t k f = t := by
  induction t with
  | nil => rfl
  | cons y t ih =>
    obtain ⟨i, y⟩ := y
    simp only [Tab.get?] at h
    simp only [Tab.modify]
    split
    · rename_i e
      rw [h y (by rw [if_pos e])]
    · rename_i e
      split
      · rfl
      · rename_i hlt
        rw [ih fun x hx => h x (by rw [if_neg e, if_neg hlt, hx])]

theorem Tab.mem_of_get? {α : Type} (t : Tab α) (k : Nat) (x : α) (h : Tab.get? t k = some x) : (k, x) ∈ t := by
  induction t with
  | nil => simp [Tab.get?] at h
  | cons y t ih =>
    obtain ⟨i, y⟩ := y
    simp only [Tab.get?] at h
    split at h
    · simp_all
    · split at h
      · simp at h
      · exact List.mem_cons_of_mem _ (ih h)

/-- A change that leaves the executing job as it is. -/
theorem modCurJob_eq_self (s : State) (f : Job → Job) (h : f (curJob s) = curJob s) : modCurJob s f = s := by
  have : Tab.modify s.jobs (jobKey s.cur) f = s.jobs := by
    refine Tab.modify_eq_self _ _ _ fun x hx => ?_
    have hj : curJob s = x := by simp [curJob, getJob, Tab.getD, hx]
    rwa [hj] at h
  rw [modCurJob, modJob, this]

theorem curJob_mem {s : State} (h : (Tab.get? s.jobs (jobKey s.cur)).isSome = true) : (jobKey s.cur, curJob s) ∈ s.jobs := by
  obtain ⟨j, e⟩ := Option.isSome_iff_exists.1 h
  have hj : curJob s = j := by simp [curJob, getJob, Tab.getD, e]
  rw [hj]
  exact Tab.mem_of_get? _ _ _ e

/-! ### What a stream has read early of its job's registers, past its own buffered stores (R87, R94) -/

theorem earlyAt_dropEarly (s : State) (h k : Hart) (sel : EarlyPlace → Bool) (p : EarlyPlace) (hp : sel p = false) :
    earlyAt (dropEarly s h sel) k p = earlyAt s k p := by
  unfold dropEarly
  split
  · rfl
  · simp only [earlyAt, modMs]
    rw [List.find?_filter]
    congr 2
    funext e
    by_cases he : e.place = p
    · simp [he, hp, Bool.beq_eq_decide_eq]
    · simp [he]

theorem early_noteOld (s : State) (jobs : List Nat) (g : Nat) (a b : Granule) :
    (noteOld s jobs g a b).ms.early = s.ms.early := by
  unfold noteOld
  split <;> rfl

theorem early_writeWet (s : State) (w : WetWriter) (cmp : Bool) (pa : Nat) (bs : List Byte) :
    (writeWet s w cmp pa bs).ms.early = s.ms.early := by
  refine foldl_keeps (fun t : State => t.ms.early = s.ms.early) _ (fun t g h => ?_) _ _ rfl
  exact (early_noteOld t [w.job] g _ _).trans h

theorem earlyAt_performWc (s : State) (w : WcStore) (k : Hart) (n : Nat) :
    earlyAt (performWc s w) k (.csr n) = earlyAt s k (.csr n) := by
  rw [performWc, earlyAt_dropEarly _ _ _ _ _ rfl, earlyAt, early_writeWet]
  rfl

theorem earlyAt_drainWc (s : State) (h k : Hart) (n : Nat) : earlyAt (drainWc s h) k (.csr n) = earlyAt s k (.csr n) := by
  unfold drainWc
  split
  · exact foldl_keeps (fun t => earlyAt t k (.csr n) = earlyAt s k (.csr n)) _
      (fun t w ht => (earlyAt_performWc t w k n).trans ht) _ _ rfl
  · rfl

theorem viewedJob_ctl (s : State) : (viewedJob s).ctl = (earlyAt s s.cur (.csr 0x000)).getD (curJob s).ctl := by
  rw [viewedJob, seenJob]
  split
  · rename_i he
    rw [List.isEmpty_iff] at he
    rw [earlyAt, he]
    rfl
  · rfl

theorem viewedJob_ctl_drainWc (s : State) : (viewedJob (drainWc s s.cur)).ctl = (viewedJob s).ctl := by
  have hf := (msOnly_drainWc s s.cur).frame
  rw [viewedJob_ctl, viewedJob_ctl, hf.cur, hf.curJob, earlyAt_drainWc]

/-! ### A push into an empty table -/

/-- Naming no operation asks for no edge. -/
theorem predEdge_none (s : State) : predEdge s 0 = .ok [] := rfl

theorem heldBy_of_empty {s : State} (core jobid : Nat) (h : (getCore s core).tokens = []) : heldBy s core jobid = [] := by
  rw [heldBy, tokens, h]
  rfl

theorem pushBody_error (p : PushSpec) (s : State) (e : Stop) (hta : (rd s p.head.ta).toNat % 2 ^ 32 = 0)
    (htb : (rd s p.head.tb).toNat % 2 ^ 32 = 0) (hc : p.checks s = .error e) : pushBody p s = .error e := by
  rw [pushBody, hta, htb, predEdge_none, hc]
  rfl

theorem pushBody_ok (p : PushSpec) (s : State) (fs : List FootPart) (hempty : (curCore s).tokens = [])
    (hta : (rd s p.head.ta).toNat % 2 ^ 32 = 0) (htb : (rd s p.head.tb).toNat % 2 ^ 32 = 0)
    (hc : p.checks s = .ok fs) : pushBody p s = .ok (.next (place s p 0 fs [] [] false)) := by
  have hheld (jobid : Nat) : heldBy s s.cur.core jobid = [] := heldBy_of_empty _ _ hempty
  have htok : tokens s s.cur.core = [] := hempty
  have hoverlap (ordered : List (Nat × Nat)) : pushOverlap s p.i fs ordered = .ok () := by
    unfold pushOverlap
    dsimp only
    rw [hheld]
    split <;> rfl
  have hwaits : pushWaits s p fs [] = false := by
    have hpending (sel : Nat → BitVec 32 → Bool) : pendingWaits s s.cur.core (curJob s).ids.jobid sel = false := by
      unfold pendingWaits
      split
      · rw [hheld]; rfl
      · rfl
    simp [pushWaits, hpending]
  have hroom : room s = .ready s 0 := by
    have hfree : freeSlot s s.cur.core = some 0 := by
      rw [freeSlot, htok]
      rfl
    simp only [room, hheld, List.length_nil, roomAfter, hfree]
    rfl
  unfold pushBody
  rw [hta, htb, predEdge_none, hc]
  simp only [bind, Except.bind, hheld, List.filter_nil, List.map_nil, List.append_nil, List.eraseDups_nil, withAncestors,
    List.foldl_nil, hoverlap, hwaits, Bool.not_false, waitFor, if_true, hroom, anyFailed, htok, List.any_nil]

/-! ### Placing the first entry (R26, R154, R155) -/

/-- Nothing changes where no commit is pending. -/
theorem commitPending_nil (a : Acc) (p : BitVec 32 → Bool) (h : a.pending = []) : a.commitPending p = a := by
  simp [Acc.commitPending, h]

theorem pendingByToken_zero (s : State) : pendingByToken s 0 = s := by simp [pendingByToken]

theorem pendingByAcc_none (s : State) (accs : List Nat) (h : ∀ a ∈ (curJob s).accs.toList, a.pending = []) :
    pendingByAcc s accs = s := by
  refine modCurJob_eq_self s _ ?_
  have hacc : (Vector.ofFn fun i : Fin 8 =>
      if accs.contains i.val then ((curJob s).accs[i]).commitPending fun _ => true else (curJob s).accs[i]) = (curJob s).accs := by
    ext i hi
    have hnil := h ((curJob s).accs[i]) (Vector.mem_toList_iff.2 (Vector.getElem_mem hi))
    simp [commitPending_nil _ _ hnil]
  rw [hacc]

/-- The job whose accumulators an operation of slot 0 owns. -/
def ownAccs (fs : List FootPart) (seq : Nat) (j : Job) : Job :=
  { j with accs := Vector.ofFn fun i : Fin 8 =>
      if (footAccsWritten fs).contains i.val then { j.accs[i] with owner := some (0, seq), buffer := none }
      else j.accs[i] }

/-- A table whose one entry is PENDING on nothing. -/
theorem settleTable_single (now : Nat) (e : TokenEntry) (hp : e.state = .pending) (he : e.preds = []) :
    settleTable now 1 [(0, e)] = [(0, { e with state := .ready })] := by
  simp [settleTable, settleEntry, hp, he, isPred]

/-- A core with this one entry in its table. -/
def oneEntry (e : TokenEntry) (c : Core) : Core := { c with tokens := [(0, e)] }

/-- The one entry, waiting for nothing, is READY once the table is settled. -/
theorem settleFrom_single (before : Tab TokenEntry) (s : State) (core : Nat) (e : TokenEntry)
    (ht : tokens s core = [(0, e)]) (hp : e.state = .pending) (he : e.preds = []) :
    settleFrom before s core = modCore s core (oneEntry { e with state := .ready }) := by
  have hstep : (modCore s core fun c => { c with tokens := settleTable c.cycle c.tokens.length c.tokens })
      = modCore s core (oneEntry { e with state := .ready }) := by
    have htok : (Tab.getD s.cores core Core.reset).tokens = [(0, e)] := ht
    simp [modCore, Tab.upd, oneEntry, htok, settleTable_single _ e hp he]
  have hready : tokens (modCore s core (oneEntry { e with state := .ready })) core = [(0, { e with state := .ready })] := by
    rw [tokens, getCore_modCore_self, oneEntry]
  have hnote (b : Tab TokenEntry) (u : State) (hu : tokens u core = [(0, { e with state := .ready })]) :
      noteFailures b u core = u := by
    rw [noteFailures, hu]; rfl
  have hdisown (u : State) (hu : tokens u core = [(0, { e with state := .ready })]) : disownFailed u core = u := by
    rw [disownFailed, hu]; rfl
  have hrelease (b : Tab TokenEntry) (u : State) (hu : tokens u core = [(0, { e with state := .ready })]) :
      releaseSavedEnded b u core = u := by
    rw [releaseSavedEnded, hu]
    simp only [List.foldl_cons, List.foldl_nil, TokState.inFlight, Bool.not_true, Bool.false_and]
    cases e.holder <;> rfl
  rw [settleFrom, hstep]
  simp only [hnote _ _ hready, hdisown _ hready, hrelease _ _ hready]

/-- An operation in flight stays in the table when the entries seen by every stream are released. -/
theorem tokens_sweepSeen_ready (s : State) (core jobid : Nat) (e : TokenEntry) (ht : (getCore s core).tokens = [(0, e)])
    (he : e.state = .ready) : (getCore (sweepSeen s core jobid) core).tokens = [(0, e)]
      ∧ (getCore (sweepSeen s core jobid) core).nextSeq = (getCore s core).nextSeq := by
  unfold sweepSeen
  split
  · split
    · rw [getCore_modCore_self]
      simp [ht, he]
    · exact ⟨ht, rfl⟩
  · exact ⟨ht, rfl⟩

/-- A core once the first entry has been placed in its empty table. -/
def firstEntry (e : TokenEntry) (seq : Nat) (c : Core) : Core :=
  { c with tokens := Tab.set c.tokens 0 e, nextSeq := nextSeqAfter seq }

/-- The state in which the table has its first entry, not yet settled. -/
def placedPending (s : State) (p : PushSpec) (fs : List FootPart) (f : Job → Job) : State :=
  let seq := (curCore s).nextSeq
  modCurJob (modCore (modCurJob (drainWc s s.cur) (ownAccs fs seq)) s.cur.core
    (firstEntry (newEntry (drainWc s s.cur) p seq fs [] []) seq)) f

/-- The state in which the token of the first entry is put in S(td). -/
def placedFirst (s : State) (p : PushSpec) (fs : List FootPart) (f : Job → Job) : State :=
  let x := placedPending s p fs f
  let entry := newEntry (drainWc s s.cur) p (curCore s).nextSeq fs [] []
  sweepSeen (modCore x s.cur.core (oneEntry { entry with state := .ready })) s.cur.core (curJob x).ids.jobid

theorem tokens_placedPending (s : State) (p : PushSpec) (fs : List FootPart) (f : Job → Job) (hempty : (curCore s).tokens = []) :
    tokens (placedPending s p fs f) s.cur.core = [(0, newEntry (drainWc s s.cur) p (curCore s).nextSeq fs [] [])] := by
  have hcore : getCore (drainWc s s.cur) s.cur.core = curCore s := by
    rw [curCore, getCore, getCore, (msOnly_drainWc s s.cur).cores]
  unfold placedPending
  simp only [tokens, modCurJob, getCore_modJob, getCore_modCore_self, firstEntry, hcore, hempty]
  rfl

theorem place_first (s : State) (p : PushSpec) (fs : List FootPart) (f : Job → Job) (hq : quiet s = true)
    (hempty : (curCore s).tokens = []) (hta : (rd s p.head.ta).toNat % 2 ^ 32 = 0)
    (htb : (rd s p.head.tb).toNat % 2 ^ 32 = 0) (hn : Say.noPending s) (hafter : ∀ t, p.after t = modCurJob t f) :
    place s p 0 fs [] [] false
      = wr (placedFirst s p fs f) p.head.td (BitVec.ofNat 64 (curCore s).nextSeq) := by
  have hm := msOnly_drainWc s s.cur
  have hf := hm.frame
  have hcore : getCore (drainWc s s.cur) s.cur.core = curCore s := by rw [curCore, getCore, getCore, hm.cores]
  have hpend : ∀ a ∈ (curJob (drainWc s s.cur)).accs.toList, a.pending = [] := by
    rw [hf.curJob]
    exact hn _ (curJob_mem (quiet_job hq)) rfl
  have hsettle := settleFrom_single (tokens (placedPending s p fs f) s.cur.core) (placedPending s p fs f) s.cur.core
    (newEntry (drainWc s s.cur) p (curCore s).nextSeq fs [] []) (tokens_placedPending s p fs f hempty) rfl rfl
  unfold place placedFirst
  dsimp only
  rw [← hsettle, hf.cur, hcore]
  simp only [List.foldl_nil, ite_self, hf.rd, hta, htb, pendingByToken_zero, pendingByAcc_none _ _ hpend, hafter,
    Bool.false_eq_true, if_false, tokenValue, Nat.zero_mul, Nat.zero_add]
  rfl

/-- The entry as it stands in the table. -/
def firstReady (s : State) (p : PushSpec) (fs : List FootPart) : TokenEntry :=
  { newEntry (drainWc s s.cur) p (curCore s).nextSeq fs [] [] with state := .ready }

theorem pushed_firstReady (s : State) (p : PushSpec) (fs : List FootPart) : Say.pushed s p.i p.head (firstReady s p fs) := by
  have hf := (msOnly_drainWc s s.cur).frame
  have hrd : rd (drainWc s s.cur) = rd s := funext hf.rd
  simp only [Say.pushed, firstReady, newEntry, hf.cur, hf.curJob, hf.curStream, hrd, viewedJob_ctl_drainWc, and_self]

theorem oneMore_placedFirst (s : State) (p : PushSpec) (fs : List FootPart) (f : Job → Job) :
    Say.oneMore s (placedFirst s p fs f) (firstReady s p fs) := by
  have hcur : (placedFirst s p fs f).cur = s.cur :=
    ((frame_sweepSeen _ _ _).cur.trans rfl).trans (msOnly_drainWc s s.cur).cur
  have hkeep := tokens_sweepSeen_ready
    (modCore (placedPending s p fs f) s.cur.core (oneEntry (firstReady s p fs))) s.cur.core
    (curJob (placedPending s p fs f)).ids.jobid (firstReady s p fs) (by rw [getCore_modCore_self, oneEntry]) rfl
  rw [Say.oneMore, curCore, hcur]
  refine ⟨hkeep.1, hkeep.2.trans ?_⟩
  rw [getCore_modCore_self, oneEntry]
  simp only [placedPending, modCurJob, getCore_modJob, getCore_modCore_self, firstEntry, nextSeqAfter]

/-- What the placing of the first entry leaves of the state but its cores. -/
theorem placedFirst_rest (s : State) (p : PushSpec) (fs : List FootPart) (f : Job → Job) (hq : quiet s = true) :
    (placedFirst s p fs f).ms = (drainWc s s.cur).ms ∧ (placedFirst s p fs f).strs = s.strs
      ∧ curJob (placedFirst s p fs f) = f (ownAccs fs (curCore s).nextSeq (curJob s)) := by
  have hf := (msOnly_drainWc s s.cur).frame
  have hsweep (t : State) (c j : Nat) := frame_sweepSeen t c j
  have hjob : (Tab.get? (drainWc s s.cur).jobs (jobKey (drainWc s s.cur).cur)).isSome = true := hf.isSome_job (quiet_job hq)
  unfold placedFirst
  refine ⟨(ms_sweepSeen _ _ _).trans rfl, (hsweep _ _ _).strs.trans hf.strs, ?_⟩
  rw [(hsweep _ _ _).curJob]
  change curJob (placedPending s p fs f) = _
  refine (curJob_modCurJob f (isSome_modCurJob (ownAccs fs (curCore s).nextSeq) hjob)).trans ?_
  rw [curJob_modCurJob _ hjob, hf.curJob]

theorem keeps_placedFirst (s : State) (p : PushSpec) (fs : List FootPart) (f : Job → Job) (n : Nat) (hq : quiet s = true)
    (hp : plain s n = true) (hids : ∀ j, (f j).ids = j.ids) : Keeps s (placedFirst s p fs f) n := by
  have h1 := (msOnly_drainWc s s.cur).frame.keeps hq hp
  have h2 := keeps_modCurJob _ n (ownAccs fs (curCore s).nextSeq) h1.quiet h1.plain fun _ => rfl
  have h3 := (frame_modCore (modCurJob (drainWc s s.cur) (ownAccs fs (curCore s).nextSeq)) s.cur.core
    (firstEntry (newEntry (drainWc s s.cur) p (curCore s).nextSeq fs [] []) (curCore s).nextSeq)).keeps
    (h1.trans h2).quiet (h1.trans h2).plain
  have h4 := keeps_modCurJob _ n f h3.quiet h3.plain fun j => by rw [hids]
  have h5 := ((frame_modCore (placedPending s p fs f) s.cur.core (oneEntry (firstReady s p fs))).trans
    (frame_sweepSeen _ s.cur.core (curJob (placedPending s p fs f)).ids.jobid)).keeps h4.quiet h4.plain
  exact (h1.trans h2).trans (h3.trans (h4.trans h5))

/-- A push whose checks pass, into an empty table, with no operation named. -/
theorem push_first (p : PushSpec) (s : State) (fs : List FootPart) (f : Job → Job) (hs : p.strms.contains s.cur.strm = true)
    (hsize : p.i.size = 24) (hmay : Say.mayPush s p.head) (hc : p.checks s = .ok fs)
    (hafter : ∀ t, p.after t = modCurJob t f) (hids : ∀ j, (f j).ids = j.ids) :
    push p s = .next (retire 24 (wr (placedFirst s p fs f) p.head.td (BitVec.ofNat 64 (curCore s).nextSeq))) := by
  obtain ⟨hready, hempty, hta, htb, hn⟩ := hmay
  obtain ⟨hq, hp, hg⟩ := (ready_iff _ _ _).1 hready
  rw [← hsize] at hp ⊢
  have hk := keeps_placedFirst s p fs f p.i.size hq hp hids
  refine issue_next p.i p.strms none free (pushBody p) s _ hq hp hs rfl rfl ?_
    (hk.trans (keeps_wr _ p.i.size p.head.td _ hk.quiet hk.plain))
  rw [pushBody_ok p s fs hempty hta htb hc, place_first s p fs f hq hempty hta htb hn hafter]

/-- A push whose checks fail. -/
theorem push_trap (p : PushSpec) (s : State) (c : Cause) (a t : Word) (hs : p.strms.contains s.cur.strm = true)
    (hsize : p.i.size = 24) (hmay : Say.mayPush s p.head) (hc : p.checks s = .error (.trap c a t)) :
    push p s = .next (trapNow s p.i c a t) := by
  obtain ⟨hready, -, hta, htb, -⟩ := hmay
  obtain ⟨-, hp, -⟩ := (ready_iff _ _ _).1 hready
  exact issue_trap p.i p.strms none free (pushBody p) s (hsize ▸ hp) hs rfl rfl c a t (pushBody_error p s _ hta htb hc)

/-! ### The operands of a matrix operation (R311, R312, R315) -/

theorem seenJob_grant (s : State) (h : Hart) (j : Job) : (seenJob s h j).grant = j.grant := by
  unfold seenJob; split <;> rfl

theorem seenJob_sealedSet (s : State) (h : Hart) (j : Job) : (seenJob s h j).sealedSet = j.sealedSet := by
  unfold seenJob; split <;> rfl

theorem checkLines_ok (ls : List Nat) (ok : Nat → Bool) (c : Cause) (h : ∀ l ∈ ls, ok l = true) :
    checkLines ls ok c = .ok () := by
  have : ls.find? (fun l => !ok l) = none := List.find?_eq_none.2 fun l hl => by simp [h l hl]
  rw [checkLines, this]

theorem operandChecks_ok (s : State) (xs : List Operand) (h : Say.inPlace s xs) : operandChecks s xs = .ok () := by
  have hstride : xs.find? (fun x => x.stride % 2 == 0) = none :=
    List.find?_eq_none.2 fun x hx => by simp [(h x hx).1]
  have hplaced : (xs.findSome? fun x => x.lines.find? fun l => !x.placed l) = none :=
    List.findSome?_eq_none_iff.2 fun x hx => List.find?_eq_none.2 fun l hl => by simp [((h x hx).2 l hl).1]
  have hgrant : ∀ l ∈ xs.flatMap Operand.lines, ((agentOf s s.cur).spad (256 * l) 256).isSome = true := by
    intro l hl
    obtain ⟨x, hx, hl⟩ := List.mem_flatMap.1 hl
    have := ((h x hx).2 l hl).2.1
    simpa only [Agent.spad, agentOf, seenJob_grant, curJob] using this
  have hsealed : ∀ l ∈ (xs.filter Operand.write).flatMap Operand.lines,
      (!inSealed (agentOf s s.cur) (256 * l) 256) = true := by
    intro l hl
    obtain ⟨x, hx, hl⟩ := List.mem_flatMap.1 hl
    obtain ⟨hx, hwrite⟩ := List.mem_filter.1 hx
    have hout := ((h x hx).2 l hl).2.2 hwrite
    simp only [curJob] at hout
    simp only [inSealed, agentOf, seenJob_sealedSet, Bool.not_eq_true', List.any_eq_false]
    intro r hr
    have := hout r hr
    simp only [Bool.and_eq_true, decide_eq_true_eq]
    omega
  unfold operandChecks
  rw [hstride, hplaced]
  simp only [bind, Except.bind, checkLines_ok _ _ _ hgrant, checkLines_ok _ _ _ hsealed]

theorem operandChecks_bank (s : State) (xs : List Operand) (x : Operand)
    (h : xs.find? (fun x => x.stride % 2 == 0) = some x) :
    operandChecks s xs = .error (.trap .bankConflict (BitVec.ofNat 64 (256 * x.line)) 0) := by
  unfold operandChecks
  rw [h]
  rfl

/-! ### The accumulators of a footprint (R315, R316) -/

theorem footAccs_append (xs ys : List FootPart) : footAccs (xs ++ ys) = footAccs xs ++ footAccs ys :=
  List.filterMap_append

theorem footAccsWritten_append (xs ys : List FootPart) :
    footAccsWritten (xs ++ ys) = footAccsWritten xs ++ footAccsWritten ys := List.filterMap_append

/-- A footprint that names no accumulator. -/
def NoAcc (fs : List FootPart) : Prop := ∀ a w, FootPart.acc a w ∉ fs

theorem NoAcc.footAccs {fs : List FootPart} (h : NoAcc fs) : footAccs fs = [] := by
  refine List.filterMap_eq_nil_iff.2 fun f hf => ?_
  cases f with
  | acc a w => exact absurd hf (h a w)
  | _ => rfl

theorem NoAcc.footAccsWritten {fs : List FootPart} (h : NoAcc fs) : footAccsWritten fs = [] := by
  refine List.filterMap_eq_nil_iff.2 fun f hf => ?_
  cases f with
  | acc a w => exact absurd hf (h a w)
  | _ => rfl

theorem noAcc_operands (xs : List Operand) : NoAcc (xs.flatMap Operand.parts) := by
  intro a w h
  obtain ⟨x, -, hx⟩ := List.mem_flatMap.1 h
  obtain ⟨i, -, hi⟩ := List.mem_map.1 hx
  cases hi

theorem noAcc_spadPart (va n lo len off : Nat) (write : Bool) : NoAcc (spadPart va n lo len off write) := by
  intro a w
  unfold spadPart
  dsimp only
  split <;> simp

theorem noAcc_rangeParts (j : Job) (va : Word) (n : Nat) (write : Bool) : NoAcc (rangeParts j va n write) := by
  intro a w
  unfold rangeParts
  dsimp only
  split
  · simp
  · simp only [List.mem_append, List.mem_flatMap, not_or, not_exists, not_and]
    refine ⟨⟨noAcc_spadPart _ _ _ _ _ _ a w, fun _ _ => noAcc_spadPart _ _ _ _ _ _ a w⟩, ?_⟩
    split <;> simp

/-- The accumulators of `l`, with whether each is written, as parts of a footprint. -/
def accParts (l : List (Nat × Bool)) : List FootPart := l.map fun x => .acc x.1 x.2

theorem footAccs_accParts (l : List (Nat × Bool)) : footAccs (accParts l) = l.map (·.1) := by
  simp [footAccs, accParts, List.filterMap_map]

theorem mem_footAccsWritten_accParts (l : List (Nat × Bool)) (a : Nat) :
    a ∈ footAccsWritten (accParts l) ↔ (a, true) ∈ l := by
  induction l with
  | nil => simp [accParts, footAccsWritten]
  | cons x l ih =>
    obtain ⟨b, w⟩ := x
    rw [accParts, footAccsWritten] at *
    cases w <;> simp_all

/-! ### What the push of a matrix instruction does -/

/-- The accumulators of the job as an instruction that asks for `k` leaves them at its push. -/
def ownedAccs (s : State) (k : Say.MatAsk) : Vector Acc 8 :=
  .ofFn fun a : Fin 8 =>
    if (a.val, true) ∈ k.accs then { (curJob s).accs[a] with owner := some (0, (curCore s).nextSeq), buffer := none }
    else (curJob s).accs[a]

theorem matPush_places (i : Instr) (s : State) (k : Say.MatAsk) (check5 : State → Exec Unit) (rest : State → List FootPart)
    (kv : List FootPart) (kind1 : State → Bool) (after : State → State) (f : Job → Job) (hsize : i.size = 24)
    (hmay : Say.mayPush s k.m.h) (hc : s.cur.strm = .c) (hplace : Say.inPlace s k.xs) (hcheck : check5 s = .ok ())
    (hrest : rest s = kv ++ accParts k.accs) (hkv : NoAcc kv) (hafter : ∀ t, after t = modCurJob t f)
    (hids : ∀ j, (f j).ids = j.ids) :
    ∃ u e, matPush i k.m k.xs check5 rest kind1 after s
          = .next (retire 24 (wr u k.m.h.td (BitVec.ofNat 64 (curCore s).nextSeq)))
      ∧ Say.pushed s i k.m.h e ∧ Say.oneMore s u e ∧ u.ms = (drainWc s s.cur).ms ∧ u.strs = s.strs
      ∧ footAccs e.foot = k.accs.map (·.1) ∧ curJob u = f { curJob s with accs := ownedAccs s k } := by
  have hnone : NoAcc (k.xs.flatMap Operand.parts ++ kv) := by
    intro a w h
    exact (List.mem_append.1 h).elim (noAcc_operands _ a w) (hkv a w)
  generalize hfs : k.xs.flatMap Operand.parts ++ rest s = fs
  have hparts : fs = (k.xs.flatMap Operand.parts ++ kv) ++ accParts k.accs := by rw [← hfs, hrest, List.append_assoc]
  have hquiet := ((ready_iff _ _ _).1 hmay.1).1
  refine ⟨_, firstReady s _ fs, push_first _ s fs f (by simp [hc]) hsize hmay ?_ hafter hids, pushed_firstReady s _ fs,
    oneMore_placedFirst s _ fs f, (placedFirst_rest s _ fs f hquiet).1, (placedFirst_rest s _ fs f hquiet).2.1, ?_,
    (placedFirst_rest s _ fs f hquiet).2.2.trans (congrArg f ?_)⟩
  · simp only [operandChecks_ok s _ hplace, hcheck, hfs, bind, Except.bind]
  · change footAccs fs = _
    rw [hparts, footAccs_append, hnone.footAccs, footAccs_accParts, List.nil_append]
  · have hmem (a : Nat) : (footAccsWritten fs).contains a = decide ((a, true) ∈ k.accs) := by
      rw [hparts, footAccsWritten_append, hnone.footAccsWritten, List.nil_append, Bool.eq_iff_iff]
      simp [mem_footAccsWritten_accParts]
    simp only [ownAccs, ownedAccs, hmem, decide_eq_true_eq]

theorem matPush_bank (i : Instr) (s : State) (k : Say.MatAsk) (check5 : State → Exec Unit) (rest : State → List FootPart)
    (kind1 : State → Bool) (after : State → State) (hsize : i.size = 24) (hmay : Say.mayPush s k.m.h)
    (hc : s.cur.strm = .c) (x : Operand) (hx : k.xs.find? (fun x => x.stride % 2 == 0) = some x) :
    matPush i k.m k.xs check5 rest kind1 after s
      = .next (trapNow s i .bankConflict (BitVec.ofNat 64 (256 * x.line)) 0) := by
  refine push_trap _ s _ _ _ (by simp [hc]) hsize hmay ?_
  simp only [operandChecks_bank s _ x hx, bind, Except.bind]

theorem matPush_fails (i : Instr) (s : State) (k : Say.MatAsk) (check5 : State → Exec Unit) (rest : State → List FootPart)
    (kind1 : State → Bool) (after : State → State) (hsize : i.size = 24) (hmay : Say.mayPush s k.m.h)
    (hc : s.cur.strm = .c) (hplace : Say.inPlace s k.xs) (c : Cause) (a t : Word)
    (hcheck : check5 s = .error (.trap c a t)) :
    matPush i k.m k.xs check5 rest kind1 after s = .next (trapNow s i c a t) := by
  refine push_trap _ s _ _ _ (by simp [hc]) hsize hmay ?_
  simp only [operandChecks_ok s _ hplace, hcheck, bind, Except.bind]

/-- The kind that ACC was last pushed with. -/
def kindOf (s : State) (m : MatOp) : Bool := (curJob s).accs[m.acc.toNat].pushedInt

theorem pushedInt_eq (s : State) (m : MatOp) : pushedInt s m.acc.toNat = kindOf s m := by
  have : m.acc.toNat < 8 := m.acc.isLt
  simp [pushedInt, kindOf, Vector.getD, this]

theorem kindCheck_ok (s : State) (m : MatOp) (b : Bool) (h : kindOf s m = b) : kindCheck s m b = .ok () := by
  rw [kindCheck, pushedInt_eq, h]
  simp [check]

theorem kindCheck_error (s : State) (m : MatOp) (b : Bool) (h : kindOf s m ≠ b) :
    kindCheck s m b = .error (.trap .format (BitVec.ofNat 64 m.acc.toNat) 0) := by
  rw [kindCheck, pushedInt_eq, beq_eq_false_iff_ne.2 h]
  rfl

/-- What the spec says of the push of `i`, with `f` what it does to the job but for taking accumulators. -/
def MatSettled (i : Instr) (s : State) (k : Say.MatAsk) (f : Job → Job) : Prop :=
  (Say.inPlace s k.xs → (∀ b, k.int = some b → kindOf s k.m = b) → k.also = true →
      ∃ u e, exec i s = .next (retire 24 (wr u k.m.h.td (BitVec.ofNat 64 (curCore s).nextSeq)))
        ∧ Say.pushed s i k.m.h e ∧ Say.oneMore s u e ∧ u.ms = (drainWc s s.cur).ms ∧ u.strs = s.strs
        ∧ footAccs e.foot = k.accs.map (·.1) ∧ curJob u = f { curJob s with accs := ownedAccs s k })
    ∧ (∀ x, k.xs.find? (fun x => x.stride % 2 == 0) = some x →
      exec i s = .next (trapNow s i .bankConflict (BitVec.ofNat 64 (256 * x.line)) 0))
    ∧ (∀ b, Say.inPlace s k.xs → k.int = some b → kindOf s k.m ≠ b →
      exec i s = .next (trapNow s i .format (BitVec.ofNat 64 k.m.acc.toNat) 0))

/-- Check 5 of R315 as `k` asks for it. -/
structure Check5 (s : State) (k : Say.MatAsk) (check5 : State → Exec Unit) : Prop where
  passes : (∀ b, k.int = some b → kindOf s k.m = b) → k.also = true → check5 s = .ok ()
  fails : ∀ b, k.int = some b → kindOf s k.m ≠ b → check5 s = .error (.trap .format (BitVec.ofNat 64 k.m.acc.toNat) 0)

theorem matSettled_of (i : Instr) (s : State) (k : Say.MatAsk) (check5 : State → Exec Unit) (rest : State → List FootPart)
    (kv : List FootPart) (kind1 : State → Bool) (after : State → State) (f : Job → Job)
    (hexec : exec i s = matPush i k.m k.xs check5 rest kind1 after s) (hsize : i.size = 24) (hmay : Say.mayPush s k.m.h)
    (hc : s.cur.strm = .c) (hcheck : Check5 s k check5) (hrest : rest s = kv ++ accParts k.accs) (hkv : NoAcc kv)
    (hafter : ∀ t, after t = modCurJob t f) (hids : ∀ j, (f j).ids = j.ids) : MatSettled i s k f := by
  rw [MatSettled, hexec]
  exact ⟨fun hp hk ha => matPush_places i s k check5 rest kv kind1 after f hsize hmay hc hp (hcheck.passes hk ha) hrest hkv
      hafter hids,
    fun x hx => matPush_bank i s k check5 rest kind1 after hsize hmay hc x hx,
    fun b hp hb hne => matPush_fails i s k check5 rest kind1 after hsize hmay hc hp _ _ _ (hcheck.fails b hb hne)⟩

theorem Check5.of_kind (s : State) (k : Say.MatAsk) (b : Bool) (hint : k.int = some b) :
    Check5 s k fun s => kindCheck s k.m b where
  passes hk _ := kindCheck_ok s k.m b (hk b hint)
  fails b' hb hne := by
    obtain rfl : b = b' := Option.some.inj (hint.symm.trans hb)
    exact kindCheck_error s k.m b hne

/-- A kind and a further condition on S(RA). -/
theorem Check5.of_also (s : State) (k : Say.MatAsk) (b : Bool) (also : State → Bool) (hint : k.int = some b)
    (halso : k.also = also s) :
    Check5 s k fun s => do
      kindCheck s k.m b
      check (also s) .format where
  passes hk ha := by
    rw [kindCheck_ok s k.m b (hk b hint), ← halso, ha]
    rfl
  fails b' hb hne := by
    obtain rfl : b = b' := Option.some.inj (hint.symm.trans hb)
    rw [kindCheck_error s k.m b hne]
    rfl

theorem Check5.of_none (s : State) (k : Say.MatAsk) (hint : k.int = none) : Check5 s k fun _ => .ok () where
  passes _ _ := rfl
  fails b hb := by simp [hint] at hb

theorem noAcc_nil : NoAcc [] := fun _ _ => List.not_mem_nil

/-- The factors as the model lists them. -/
theorem factors_eq (m : MatOp) (w : Nat) : Say.factors m w = [factorA m w, factorB m w] := by
  simp only [Say.factors, factorA, factorB, kLines, Nat.mul_comm m.kb.toNat 32]

/-- The accumulators of an ATTN as the model lists them. -/
theorem attnAccs_eq (m : MatOp) : ((attnAccs m).map fun a => FootPart.acc a true)
    = accParts ((m.acc.toNat, true) :: if m.acc = 7 then [] else [(m.acc.toNat + 1, true)]) := by
  by_cases h : m.acc = 7
  · have : m.acc.toNat = 7 := by rw [h]; rfl
    rw [attnAccs, if_pos this, if_pos h]
    simp [accParts, this]
  · have : m.acc.toNat ≠ 7 := fun e => h (BitVec.eq_of_toNat_eq e)
    rw [attnAccs, if_neg this, if_neg h]
    rfl

/-- ACCZ sets the pushed kind of the accumulator it names. -/
def setPushedKind (m : MatOp) (j : Job) : Job :=
  { j with accs := Vector.ofFn fun i : Fin 8 =>
      if i.val = m.acc.toNat then { j.accs[i] with pushedInt := m.h.fmt == 4 } else j.accs[i] }

theorem setPushedKind_ownedAccs (m : MatOp) (s : State) (k : Say.MatAsk) :
    setPushedKind m { curJob s with accs := ownedAccs s k }
      = { curJob s with accs := Vector.ofFn fun a : Fin 8 =>
            let o := if (a.val, true) ∈ k.accs then
                { (curJob s).accs[a] with owner := some (0, (curCore s).nextSeq), buffer := none }
              else (curJob s).accs[a]
            if a.val = m.acc.toNat then { o with pushedInt := m.h.fmt == 4 } else o } := by
  simp only [setPushedKind, ownedAccs, Fin.getElem_fin, Vector.getElem_ofFn]

/-- The push sets nothing but what every push of the chapter sets. -/
theorem matSettled_id (i : Instr) (s : State) (k : Say.MatAsk) (check5 : State → Exec Unit) (kv : State → List FootPart)
    (kind1 : State → Bool) (hmay : Say.mayPush s k.m.h) (hc : s.cur.strm = .c) (hsize : i.size = 24)
    (hcheck : Check5 s k check5) (hkv : NoAcc (kv s))
    (hexec : exec i s = matPush i k.m k.xs check5 (fun s => kv s ++ accParts k.accs) kind1 id s) : MatSettled i s k id :=
  matSettled_of i s k check5 (fun s => kv s ++ accParts k.accs) (kv s) kind1 id id hexec hsize hmay hc hcheck rfl hkv
    (fun t => (modCurJob_eq_self t id rfl).symm) fun _ => rfl

/-! ### Each instruction of the chapter -/

section
variable (s : State) (m : MatOp) (hc : s.cur.strm = .c) (hmay : Say.mayPush s m.h)
include hc hmay

theorem mma_settled (k : Say.MatAsk) (hk : Say.matAsk s (.mma m) = some k) : MatSettled (.mma m) s k id := by
  obtain rfl := Option.some.inj hk
  refine matSettled_id _ s _ _ (fun _ => []) (fun _ => false) hmay hc rfl (.of_also s _ false (fun s => m.h.fmt != 7
    || (gainUsable ((rd s m.ra).setWidth 32) && gainUsable ((rd s m.ra >>> 32).setWidth 32))) rfl rfl) noAcc_nil ?_
  dsimp only
  rw [factors_eq]
  rfl

theorem mmi_settled (k : Say.MatAsk) (hk : Say.matAsk s (.mmi m) = some k) : MatSettled (.mmi m) s k id := by
  obtain rfl := Option.some.inj hk
  refine matSettled_id _ s _ _ (fun _ => []) (fun _ => false) hmay hc rfl (.of_kind s _ true rfl) noAcc_nil ?_
  dsimp only
  rw [factors_eq]
  rfl

theorem attn_settled (k : Say.MatAsk) (hk : Say.matAsk s (.attn m) = some k) : MatSettled (.attn m) s k id := by
  obtain rfl := Option.some.inj hk
  refine matSettled_id _ s _ _ (fun s => rangeParts (viewedJob s) (rd s m.ra) (16 * ((rd s m.rb).toNat % 2 ^ 32)) false)
    (fun s => m.acc.toNat != 7 && pushedInt s (m.acc.toNat + 1)) hmay hc rfl (.of_kind s _ false rfl)
    (noAcc_rangeParts _ _ _ _) ?_
  change execAttn m s = _
  rw [execAttn, attnAccs_eq]

theorem accrd_settled (k : Say.MatAsk) (hk : Say.matAsk s (.accrd m) = some k) : MatSettled (.accrd m) s k id := by
  obtain rfl := Option.some.inj hk
  refine matSettled_id _ s _ (fun s => if m.norm then kindCheck s m false else .ok ()) (fun _ => []) (fun _ => false)
    hmay hc rfl ?_ noAcc_nil rfl
  by_cases hn : m.norm = true
  · simp only [hn, if_true]
    exact .of_kind s _ false rfl
  · simp only [hn]
    exact .of_none s _ rfl

theorem accwr_settled (k : Say.MatAsk) (hk : Say.matAsk s (.accwr m) = some k) : MatSettled (.accwr m) s k id := by
  obtain rfl := Option.some.inj hk
  exact matSettled_id _ s _ _ (fun _ => []) (fun _ => false) hmay hc rfl (.of_kind s _ _ rfl) noAcc_nil rfl

theorem drnq_settled (k : Say.MatAsk) (hk : Say.matAsk s (.drnq m) = some k) : MatSettled (.drnq m) s k id := by
  obtain rfl := Option.some.inj hk
  exact matSettled_id _ s _ _ (fun _ => []) (fun _ => false) hmay hc rfl
    (.of_also s _ true (fun s => drainCtlOk m.h.fmt.toNat (rd s m.ra)) rfl rfl) noAcc_nil rfl

theorem mtrn_settled (k : Say.MatAsk) (hk : Say.matAsk s (.mtrn m) = some k) : MatSettled (.mtrn m) s k id := by
  obtain rfl := Option.some.inj hk
  exact matSettled_id _ s _ _ (fun _ => []) (fun _ => false) hmay hc rfl (.of_none s _ rfl) noAcc_nil rfl

theorem qnt_settled (k : Say.MatAsk) (hk : Say.matAsk s (.qnt m) = some k) : MatSettled (.qnt m) s k id := by
  obtain rfl := Option.some.inj hk
  exact matSettled_id _ s _ _ (fun _ => []) (fun _ => false) hmay hc rfl (.of_none s _ rfl) noAcc_nil rfl

theorem dqnt_settled (k : Say.MatAsk) (hk : Say.matAsk s (.dqnt m) = some k) : MatSettled (.dqnt m) s k id := by
  obtain rfl := Option.some.inj hk
  exact matSettled_id _ s _ _ (fun _ => []) (fun _ => false) hmay hc rfl (.of_none s _ rfl) noAcc_nil rfl

theorem rqnt_settled (k : Say.MatAsk) (hk : Say.matAsk s (.rqnt m) = some k) : MatSettled (.rqnt m) s k id := by
  obtain rfl := Option.some.inj hk
  refine matSettled_id _ s _ _ (fun s => kvLine s m.ra true ++ poolPart s m.rb) (fun _ => false) hmay hc rfl
    (.of_none s _ rfl) ?_ ?_
  · intro a w h
    exact (List.mem_append.1 h).elim (noAcc_rangeParts _ _ _ _ a w) (noAcc_rangeParts _ _ _ _ a w)
  · simp only [accParts, List.map_nil, List.append_nil]
    rfl

theorem accz_settled (k : Say.MatAsk) (hk : Say.matAsk s (.accz m) = some k) :
    MatSettled (.accz m) s k (setPushedKind m) := by
  obtain rfl := Option.some.inj hk
  exact matSettled_of _ s _ _ (fun _ => accParts [(m.acc.toNat, true)]) [] (fun _ => false)
    (fun s => modCurJob s (setPushedKind m)) (setPushedKind m) rfl rfl hmay hc (.of_none s _ rfl) rfl noAcc_nil
    (fun _ => rfl) fun _ => rfl

end

/-- Settles O15: each instruction pushes with the operands, the check of the kind and the accumulators that it asks
for. -/
theorem matrixPush : Obligations.MatrixPush := by
  intro i s k hk hmay hc
  cases i with
  | mma m => cases hk; exact mma_settled s m hc hmay _ rfl
  | mmi m => cases hk; exact mmi_settled s m hc hmay _ rfl
  | attn m => cases hk; exact attn_settled s m hc hmay _ rfl
  | accz m =>
    cases hk
    have h := accz_settled s m hc hmay _ rfl
    rw [MatSettled, setPushedKind_ownedAccs] at h
    exact h
  | accrd m => cases hk; exact accrd_settled s m hc hmay _ rfl
  | accwr m => cases hk; exact accwr_settled s m hc hmay _ rfl
  | drnq m => cases hk; exact drnq_settled s m hc hmay _ rfl
  | mtrn m => cases hk; exact mtrn_settled s m hc hmay _ rfl
  | qnt m => cases hk; exact qnt_settled s m hc hmay _ rfl
  | dqnt m => cases hk; exact dqnt_settled s m hc hmay _ rfl
  | rqnt m => cases hk; exact rqnt_settled s m hc hmay _ rfl
  | _ => cases hk

end Sys2Proof.Proofs
end

section
/-! PROOFS. Contexts outside the slots (R369, R370), and the limits of waits (R28, R142, R143, R182). -/

namespace Sys2Proof.Proofs

open Sys2Proof Sys2Proof.Machine

/-! ### A core without a job -/

theorem get?_eq_none {α : Type} {t : Tab α} {k : Nat} (h : ∀ e ∈ t, e.1 ≠ k) : Tab.get? t k = none := by
  by_contra hne
  obtain ⟨x, hx⟩ := Option.ne_none_iff_exists'.1 hne
  exact h _ (Tab.mem_of_get? t k x hx) rfl

section
variable {s : State} {core : Nat} (h : ∀ e ∈ s.jobs, e.1 / 4 ≠ core)
include h

/-- The lowest slot of a core without jobs is free. -/
theorem freeJobSlot_empty : freeJobSlot s core = some 0 := by
  have : Tab.get? s.jobs (slotKey core 0) = none := get?_eq_none fun e he hk => h e he (by rw [hk, slotKey]; omega)
  rw [freeJobSlot, List.range_succ_eq_map, List.find?_cons_of_pos]
  simp [this]

theorem jobsOn_empty : (s.jobs.filter fun e => e.1 / 4 == core) = [] :=
  List.filter_eq_nil_iff.2 fun e he => by simpa using h e he

theorem rowsReserved_empty : rowsReserved s core = 0 := by rw [rowsReserved, jobsOn_empty h]; rfl

end

/-! ### The one context of a core -/

theorem nextSaved_single (s : State) (x : Saved) (hsaved : s.saved = [x]) (hrest : canRestore s x = true) :
    nextSaved s x.core = some x := by
  rw [nextSaved, hsaved, List.filter_cons_of_pos (by simp [hrest])]
  rfl

theorem canRestore_inPlane (s : State) (x : Saved) (hjobs : ∀ e ∈ s.jobs, e.1 / 4 ≠ x.core)
    (hrows : x.job.ids.rowRes ≤ 1024) (hplane : x.inMemory = false) : canRestore s x = true := by
  have : x.job.ids.rowRes ≤ Config.physRows := hrows.trans (by decide)
  simp [canRestore, freeJobSlot_empty hjobs, rowsReserved_empty hjobs, hplane, this]

/-- Nothing is dealt before the context. -/
theorem jobResume_eq (s : State) (x : Saved) (hnext : nextSaved s x.core = some x) (hslot : freeJobSlot s x.core = some 0)
    (hqueue : (getCore s x.core).localQueue = []) (hstop : stopped s x.job.ids.part = false) :
    exec (.jobResume x.core) s = .next (if (getCluster s (clusterOf x.core)).gated then requestWake s (clusterOf x.core)
      else if x.inMemory then (bringIn s x).getD s else restore s x 0) := by
  change execJobResume x.core s = _
  simp only [execJobResume, hnext, hslot, hqueue, hstop, Bool.not_true, Bool.or_self, Bool.false_eq_true, if_false]

/-- A flip that waits sends the oldest context of the plane to the area. -/
theorem contextSpill_moves (s : State) (x : Saved) (rest : List Saved) (hsaved : s.saved = x :: rest)
    (hplane : x.inMemory = false) (hwaits : flipWaits s x.core = true)
    (hroom : inArea s x.job.ids.part < areaSlots s x.job.ids.part) :
    exec (.contextSpill x.core) s = .next { s with saved := { x with inMemory := true } :: rest } := by
  have hin : inPlane s x.core = x :: rest.filter fun y => y.core == x.core && !y.inMemory := by
    rw [inPlane, hsaved, List.filter_cons_of_pos (by simp [hplane])]
  change execContextSpill x.core s = _
  simp only [execContextSpill, hin, hwaits, hroom, decide_true, Bool.and_self, if_true, moveSaved, hsaved, changeFirst,
    beq_self_eq_true]

theorem contextSpill_stays (s : State) (core : Nat) (hwaits : flipWaits s core = false) :
    exec (.contextSpill core) s = .next s := by
  change execContextSpill core s = _
  rw [execContextSpill]
  split <;> simp [hwaits]

/-! ### The restored context (R370) -/

theorem bitOf_zero (w : Word) : bitOf w 0 = decide (w.toNat % 2 = 1) := by
  rw [bitOf, BitVec.getLsbD, Nat.testBit_zero]

theorem bitOf_one (w : Word) : bitOf w 1 = decide (w.toNat / 2 % 2 = 1) := by
  rw [bitOf, BitVec.getLsbD, Nat.testBit_succ, Nat.testBit_zero]

/-- PREREQ of a job that is restored: REQ 0, and whether it was forced. -/
theorem bitOf_restored (w : Word) (b : Bool) : bitOf (setBits (setBits w 0 1 0) 1 1 (b2n b)) 0 = false
    ∧ bitOf (setBits (setBits w 0 1 0) 1 1 (b2n b)) 1 = b := by
  have hw := w.isLt
  have h0 : (setBits w 0 1 0).toNat = w.toNat - w.toNat % 2 := by
    simp only [setBits, bitsOf, BitVec.toNat_ofNat]
    omega
  generalize setBits w 0 1 0 = u at h0 ⊢
  have h1 : (setBits u 1 1 (b2n b)).toNat = u.toNat - u.toNat / 2 % 2 * 2 + b2n b * 2 := by
    have hb : b2n b < 2 := by cases b <;> decide
    simp only [setBits, bitsOf, BitVec.toNat_ofNat]
    omega
  rw [bitOf_zero, bitOf_one, h1]
  refine ⟨decide_eq_false (by omega), ?_⟩
  cases b <;> simp only [b2n, if_true, Bool.false_eq_true, if_false] <;> simp only [decide_eq_true_eq, decide_eq_false_iff_not] <;> omega

theorem strmIdx_injective {t u : Strm} (h : strmIdx t = strmIdx u) : t = u := by
  cases t <;> cases u <;> simp_all [strmIdx]

theorem hartKey_ne (core slot : Nat) {t u : Strm} (h : t ≠ u) : hartKey ⟨core, slot, t⟩ ≠ hartKey ⟨core, slot, u⟩ := by
  have : strmIdx t ≠ strmIdx u := fun e => h (strmIdx_injective e)
  simp only [hartKey, jobKey]
  omega

/-- A table with the three streams of a slot. -/
def withStreams (t : Tab Stream) (core slot : Nat) (f : Strm → Stream) : Tab Stream :=
  Tab.set (Tab.set (Tab.set t (hartKey ⟨core, slot, .l⟩) (f .l)) (hartKey ⟨core, slot, .c⟩) (f .c))
    (hartKey ⟨core, slot, .s⟩) (f .s)

theorem getD_withStreams (t : Tab Stream) (core slot : Nat) (f : Strm → Stream) (x : Strm) (d : Stream) :
    Tab.getD (withStreams t core slot f) (hartKey ⟨core, slot, x⟩) d = f x := by
  have hne {t u : Strm} (h : t ≠ u) := hartKey_ne core slot h
  cases x with
  | l => rw [withStreams, Tab.getD_set_ne _ _ _ _ _ (hne (by decide)), Tab.getD_set_ne _ _ _ _ _ (hne (by decide)),
      Tab.getD_set_self]
  | c => rw [withStreams, Tab.getD_set_ne _ _ _ _ _ (hne (by decide)), Tab.getD_set_self]
  | s => rw [withStreams, Tab.getD_set_self]

/-- The streams of a saved context. -/
def savedStream (x : Saved) : Strm → Stream
  | .l => x.l
  | .c => x.c
  | .s => x.s

theorem getStream_restore (s : State) (x : Saved) (t : Strm) :
    getStream (restore s x 0) ⟨x.core, 0, t⟩ = savedStream x t :=
  getD_withStreams s.strs x.core 0 (savedStream x) t _

theorem restore_spec (s : State) (x : Saved) (hsaved : s.saved = [x]) :
    ∃ j, (restore s x 0).saved = [] ∧ Tab.get? (restore s x 0).jobs (4 * x.core) = some j
      ∧ j = { x.job with phase := .resuming x.forced, prereq := j.prereq }
      ∧ bitOf j.prereq 0 = false ∧ bitOf j.prereq 1 = x.forced := by
  refine ⟨_, ?_, Tab.get?_set_self _ _ _, rfl, (bitOf_restored _ _).1, (bitOf_restored _ _).2⟩
  simp [restore, hsaved]

/-! ### From the area (R370) -/

/-- The lowest number of contexts that must leave a plane with room. -/
theorem spillsFor_room (s : State) (core : Nat) (hlen : (inPlane s core).length ≤ 4)
    (hrows : ((inPlane s core).map fun x => residentRows x.job).sum ≤ Config.physRows) : spillsFor s core [] = 0 := by
  rw [spillsFor, List.range_succ_eq_map, List.find?_cons_of_pos]
  · rfl
  · simpa [reserved] using ⟨hlen, hrows⟩

theorem leavers_none (s : State) (core : Nat) (h : ∀ e ∈ s.jobs, leaving e.2 = false) : leavers s core = [] := by
  rw [leavers, List.map_eq_nil_iff, List.filter_eq_nil_iff]
  intro e he
  obtain ⟨k, -, hk⟩ := List.mem_filterMap.1 he
  obtain ⟨j, hj, rfl⟩ := Option.map_eq_some_iff.1 hk
  simpa using h _ (Tab.mem_of_get? _ _ _ hj)

theorem inPlane_single (s : State) (x : Saved) (hsaved : s.saved = [x]) (core : Nat) :
    (inPlane s core).length ≤ 1 ∧ ((inPlane s core).map fun x => residentRows x.job).sum ≤ residentRows x.job := by
  rw [inPlane, hsaved, List.filter_singleton]
  cases x.core == core && !x.inMemory <;> simp

/-- The one context, in the plane, leaves the area its slots. -/
theorem spillFor_single (s : State) (x y : Saved) (hsaved : s.saved = [x]) (hplane : x.inMemory = false)
    (hrows : residentRows x.job ≤ 1024) (hleave : ∀ e ∈ s.jobs, leaving e.2 = false) (core n : Nat) :
    spillFor s core y (n + 1) = some s := by
  have hsum (c : Nat) : ((inPlane s c).map fun x => residentRows x.job).sum ≤ Config.physRows :=
    ((inPlane_single s x hsaved c).2.trans hrows).trans (by decide)
  have hlen (c : Nat) : (inPlane s c).length ≤ 4 := (inPlane_single s x hsaved c).1.trans (by decide)
  have hroom : planeRoom s core 0 0 = true := by simpa [planeRoom] using ⟨hlen core, hsum core⟩
  have harea (p : Nat) : inArea s p = 0 := by simp [inArea, hsaved, hplane]
  have hslots (p : Nat) : slotsFor s p core (leavers s core) = true := by
    have hzero : ((coresOfPart s p).map fun c => spillsFor s c (if c = core then leavers s core else leavers s c)).sum = 0 := by
      refine List.sum_eq_zero fun k hk => ?_
      obtain ⟨c, -, rfl⟩ := List.mem_map.1 hk
      simp only [leavers_none s _ hleave, ite_self, spillsFor_room s c (hlen c) (hsum c)]
    simp [slotsFor, harea, hzero]
  rw [spillFor, hroom, hslots]
  rfl

/-- The state with its one context in the area. -/
def inAreaOnly (s : State) (x : Saved) : State := { s with saved := [{ x with inMemory := true }] }

theorem bringIn_single (s : State) (x : Saved) (hsaved : s.saved = [x]) (hplane : x.inMemory = false)
    (hrows : residentRows x.job ≤ 1024) (hleave : ∀ e ∈ s.jobs, leaving e.2 = false) :
    bringIn (inAreaOnly s x) { x with inMemory := true } = some s := by
  have hx : { x with inMemory := false } = x := by rw [← hplane]
  have hmove : moveSaved (inAreaOnly s x) x.job.ids.jobid false = s := by
    simp only [moveSaved, inAreaOnly, changeFirst, beq_self_eq_true, if_true, hx, ← hsaved]
  rw [bringIn]
  change spillFor (moveSaved (inAreaOnly s x) x.job.ids.jobid false) x.core _ (4 + 1) = _
  rw [hmove]
  exact spillFor_single s x _ hsaved hplane hrows hleave x.core 4

theorem jobResume_fromArea (s : State) (x : Saved) (hsaved : s.saved = [x]) (hplane : x.inMemory = false)
    (hjobs : ∀ e ∈ s.jobs, e.1 / 4 ≠ x.core) (hqueue : (getCore s x.core).localQueue = []) (hres : x.job.ids.rowRes ≤ 1024)
    (hpower : Say.powered s x.core x.job.ids.part) (hrows : residentRows x.job ≤ 1024)
    (hleave : ∀ e ∈ s.jobs, leaving e.2 = false) :
    exec (.jobResume x.core) (inAreaOnly s x) = .next s := by
  obtain ⟨-, hgate, hstop⟩ := hpower
  have hbring := bringIn_single s x hsaved hplane hrows hleave
  have hcan : canRestore (inAreaOnly s x) { x with inMemory := true } = true := by
    have hjobs' : ∀ e ∈ (inAreaOnly s x).jobs, e.1 / 4 ≠ x.core := hjobs
    have : x.job.ids.rowRes ≤ Config.physRows := hres.trans (by decide)
    simp [canRestore, freeJobSlot_empty hjobs', rowsReserved_empty hjobs', hbring, this]
  refine (jobResume_eq (inAreaOnly s x) { x with inMemory := true } (nextSaved_single _ _ rfl hcan)
    (freeJobSlot_empty (s := inAreaOnly s x) hjobs) hqueue hstop).trans ?_
  have hgate' : (getCluster (inAreaOnly s x) (clusterOf x.core)).gated = false := hgate
  rw [if_neg (by rw [hgate']; decide), if_pos rfl, hbring]
  rfl

theorem savedContexts_hold : Say.SavedContexts := by
  intro s core x rest hsaved hcore hplane
  subst hcore
  refine ⟨contextSpill_moves s x rest hsaved hplane, contextSpill_stays s _, ?_, ?_, ?_⟩
  · intro hrest hjobs hqueue hres hpower _ _
    subst hrest
    obtain ⟨-, hgate, hstop⟩ := hpower
    obtain ⟨j, h1, h2, h3, h4, h5⟩ := restore_spec s x hsaved
    refine ⟨restore s x 0, j, ?_, h1, h2, h3, h4, h5, getStream_restore s x .l, getStream_restore s x .c,
      getStream_restore s x .s, rfl⟩
    rw [jobResume_eq s x (nextSaved_single s x hsaved (canRestore_inPlane s x hjobs hres hplane))
      (freeJobSlot_empty hjobs) hqueue hstop, hgate, hplane]
    rfl
  · intro hrest hjobs hqueue hres hpower hrows hleave
    subst hrest
    exact jobResume_fromArea s x hsaved hplane hjobs hqueue hres hpower hrows hleave
  · intro hrest hjobs hqueue hres hstop hgate hwake hnot
    subst hrest
    rw [jobResume_eq s x (nextSaved_single s x hsaved (canRestore_inPlane s x hjobs hres hplane))
      (freeJobSlot_empty hjobs) hqueue hstop, if_pos hgate, requestWake]
    simp [hgate, hwake, hnot]

/-! ### WAITTMO (R28, R142, R182) -/

theorem waitExpired_iff (s : State) (h : Hart) (w : Wait) : waitExpired s h w = true ↔
    live s h = true ∧ stopped s (seenJob s h (getJob s (jobKey h))).ids.part = false
      ∧ (seenJob s h (getJob s (jobKey h))).waittmo ≠ 0
      ∧ w.since + (seenJob s h (getJob s (jobKey h))).waittmo.toNat ≤ cycleOf s h.core := by
  simp only [waitExpired, Bool.and_eq_true, Bool.not_eq_true', bne_iff_ne, decide_eq_true_eq, and_assoc]

theorem waittmoExpiry_eq {s : State} {h : Hart} {w : Wait} (hwait : (getStream s h).wait = some w) :
    exec (.waittmoExpiry h) s = .next (if waitExpired s h w then timeOut s h w.kind else s) := by
  change execWaittmoExpiry h s = _
  rw [execWaittmoExpiry, hwait]

theorem blockedInstr_fetch {s : State} {h : Hart} {i : Instr} (hstand : (getStream s h).stand = none)
    (hfetch : fetch s h = .ok i) : blockedInstr s h = .ok i := by
  rw [blockedInstr, hstand]
  exact hfetch

/-- The stream that gives up a wait on a word is left as a completed instruction leaves it. -/
theorem endInstr_advance (i : Instr) (s s' : State) (hk : Keeps s s' i.size) :
    endInstr s (advance s' i) = retire i.size s' := by
  obtain ⟨-, -, -, -, hmon, -⟩ := (quiet_iff s').1 hk.quiet
  have hstep : (getStream (retire i.size s') s.cur).stepping = false := by
    rw [← hk.cur]
    exact retire_stepping s' _ hk.quiet
  rw [advance_eq s' i hk.quiet hk.plain, endInstr, sampleQueues_off _ _ _ _ (by rw [← hk.part]; exact hmon), endStep, hstep]
  rfl

theorem record_quiet (s : State) (i : Instr) (off : Bool) (hq : quiet s = true) : record s i off = s := by
  rw [record, traceInstr_off]
  exact ((quiet_iff _).1 hq).2.2.1

theorem expire_eq (s : State) (h : Hart) (i : Instr) (d : Reg) (v : Word) (hq : quiet { s with cur := h } = true)
    (hp : plain { s with cur := h } i.size = true) :
    expire s h i d v
      = retire i.size (modCurStream (wr { s with cur := h } d v) fun st => { st with arrived := none }) := by
  have hwr := keeps_wr { s with cur := h } i.size d v hq hp
  have hk := hwr.trans (keeps_modCurStream _ i.size (fun st => { st with arrived := none }) hwr.quiet hwr.plain
    (fun _ => rfl) (fun _ => rfl) (fun _ => rfl) (fun _ => rfl))
  have hsettle := settle_advance i _ _ hq hk false
  rw [record_quiet _ i false hk.quiet] at hsettle
  rw [expire, record_quiet { s with cur := h } i false hq]
  split
  · exact endInstr_advance i _ _ hk
  · exact hsettle

/-! ### Two streams that wait on each other (R143) -/

theorem strs_sampleWait (s : State) (h : Hart) : (sampleWait s h).strs = s.strs := by
  unfold sampleWait
  split
  · rfl
  · unfold sampleFlag sample
    dsimp only
    split
    · split <;> rfl
    · rfl

theorem strs_traceMarker (s : State) (h : Hart) (t : Nat) (bs : List Byte) : (traceMarker s h t bs).strs = s.strs := by
  unfold traceMarker
  dsimp only
  split <;> rfl

/-- A trap that enters the handler changes the streams of no other hart. -/
theorem getStream_takeTrap_ne (s : State) (h k : Hart) (t : TrapInfo) (ha : trapActive (getStream s h) = false)
    (hv : (getStream s h).trap.vec ≠ 0) (hne : hartKey k ≠ hartKey h) :
    getStream (takeTrap s h t) k = getStream s k := by
  have hv' : ((getStream s h).trap.vec == 0) = false := beq_eq_false_iff_ne.2 hv
  rw [takeTrap, ha, hv', Bool.or_self, if_neg Bool.false_ne_true, getStream_modStream_ne _ _ _ _ hne, getStream, getStream,
    strs_sampleWait, strs_traceMarker]

/-- L waits for C to read b0 (QCODE 8), C for L to write to the queue it reads (QCODE 10), and S on nothing: the first
two wait on each other. -/
theorem deadlockSet_pair (s : State) (core slot : Nat) (w u : Wait)
    (hl : (getStream s ⟨core, slot, .l⟩).wait = some w) (hlk : w.kind = .queue 8)
    (hls : (getStream s ⟨core, slot, .l⟩).stand = none)
    (hc : (getStream s ⟨core, slot, .c⟩).wait = some u) (hck : u.kind = .queue 10)
    (hcs : (getStream s ⟨core, slot, .c⟩).stand = none)
    (hs : (getStream s ⟨core, slot, .s⟩).wait = none) (hss : (getStream s ⟨core, slot, .s⟩).stand = none) :
    deadlockSet s core slot = [⟨core, slot, .l⟩, ⟨core, slot, .c⟩] := by
  obtain ⟨since, k⟩ := w
  obtain ⟨since', k'⟩ := u
  obtain rfl : k = .queue 8 := hlk
  obtain rfl : k' = .queue 10 := hck
  have wl : waitsOn s ⟨core, slot, .l⟩ = some [.c] := by simp [waitsOn, hl, hls, otherEnd, queueEnds]
  have wc : waitsOn s ⟨core, slot, .c⟩ = some [.l] := by simp [waitsOn, hc, hcs, otherEnd, queueEnds]
  have ws : waitsOn s ⟨core, slot, .s⟩ = none := by simp [waitsOn, hs, hss]
  have hfirst : closedPart s (hartsOf core slot) = [⟨core, slot, .l⟩, ⟨core, slot, .c⟩] := by
    simp [closedPart, hartsOf, allStrms, wl, wc, ws]
  have hfixed : closedPart s [⟨core, slot, .l⟩, ⟨core, slot, .c⟩] = [⟨core, slot, .l⟩, ⟨core, slot, .c⟩] := by
    simp [closedPart, wl, wc]
  rw [deadlockSet, hfirst, hfixed, hfixed]

theorem deadlockTrap_eq (s : State) (h : Hart) (i : Instr) (w : Wait) (c : Nat) (hw : (getStream s h).wait = some w)
    (hk : w.kind = .queue c) (hs : (getStream s h).stand = none) (hi : fetch s h = .ok i) :
    deadlockTrap s h = queueTrapAt s h i (c + 256) := by
  obtain ⟨since, k⟩ := w
  obtain rfl : k = .queue c := hk
  rw [deadlockTrap, blockedInstr_fetch hs hi, hs, hw]
  rfl

theorem waitLimits_hold : Say.WaitLimits := by
  intro s h w hwait hlive
  dsimp only
  intro hstop
  refine ⟨?_, ?_, ?_, ?_⟩
  · intro c i hk hs hi htmo hdue
    rw [waittmoExpiry_eq hwait, if_pos ((waitExpired_iff s h w).2 ⟨hlive, hstop, htmo, hdue⟩)]
    rcases hk with hk | ⟨more, hk⟩ <;> simp only [hk, timeOut, blockedInstr_fetch hs hi]
  · intro h0
    have hexp : ¬ waitExpired s h w = true := fun he => by
      obtain ⟨-, -, htmo, hdue⟩ := (waitExpired_iff s h w).1 he
      exact h0.elim htmo fun hlt => absurd hdue (Nat.not_le.2 hlt)
    rw [waittmoExpiry_eq hwait, if_neg hexp]
  · intro d v x i hk hs hi htmo hdue hq hp
    rw [waittmoExpiry_eq hwait, if_pos ((waitExpired_iff s h w).2 ⟨hlive, hstop, htmo, hdue⟩),
      ← expire_eq s h i d v hq hp]
    simp only [hk, timeOut, blockedInstr_fetch hs hi]
  · intro i k u hl hk hs hi hvec hact hsw hss hcw hck hcs hfetch
    obtain ⟨core, slot, t⟩ := h
    obtain rfl : t = .l := hl
    have hstream : getStream (queueTrapAt s ⟨core, slot, .l⟩ i (8 + 256)) ⟨core, slot, .c⟩ = getStream s ⟨core, slot, .c⟩ :=
      getStream_takeTrap_ne s _ _ _ hact hvec (hartKey_ne core slot (by decide))
    have hstop' : stopped s (getJob s (slotKey core slot)).ids.part = false := by
      have : (seenJob s ⟨core, slot, .l⟩ (getJob s (slotKey core slot))).ids = (getJob s (slotKey core slot)).ids := by
        unfold seenJob
        split <;> rfl
      rw [← this]
      exact hstop
    change execDeadlockDetect core slot s = _
    rw [execDeadlockDetect, deadlockSet_pair s core slot w u hwait hk hs hcw hck hcs hsw hss, hlive, hstop']
    simp only [Bool.not_false, Bool.and_self, if_true, List.foldl_cons, List.foldl_nil]
    rw [deadlockTrap_eq s _ i w 8 hwait hk hs hi, deadlockTrap_eq _ _ k u 10 (by rw [hstream, hcw]) hck
      (by rw [hstream, hcs]) hfetch]

/-- Settles O55: the contexts of a plane and of its area, and the four ends of a wait. -/
theorem savedContexts : Obligations.SavedContexts := ⟨savedContexts_hold, waitLimits_hold⟩

end Sys2Proof.Proofs
end

section
/-! PROOFS. The allotting of records to cores, and their dealing as jobs (R34, R346, R347, R494). -/

namespace Sys2Proof.Proofs

open Sys2Proof Sys2Proof.Machine

/-! ### The fields of a launch (R341) -/

theorem bitsOf_setBits_zero (w : Word) (n v : Nat) (hn : n ≤ 64) : bitsOf (setBits w 0 n v) 0 n = v % 2 ^ n := by
  have hw := w.isLt
  have hpow : 2 ^ 64 = 2 ^ (64 - n) * 2 ^ n := by rw [← Nat.pow_add, Nat.sub_add_cancel hn]
  have hdiv : w.toNat - w.toNat % 2 ^ n = w.toNat / 2 ^ n * 2 ^ n := by
    have := Nat.div_add_mod' w.toNat (2 ^ n)
    omega
  simp only [bitsOf, setBits, pow_zero, Nat.div_one, Nat.mul_one, BitVec.toNat_ofNat]
  rw [hdiv, hpow, Nat.mul_comm (2 ^ (64 - n)), Nat.mod_mul_right_mod, Nat.mul_add_mod_self_right, Nat.mod_mod]

theorem state_putState (l : Launch) (v : Nat) : (l.put 0 1 v).state = v % 256 := by
  have hword : (l.put 0 1 v).words.getD 0 0 = setBits (l.words.getD 0 0) 0 8 v := by
    simp [Launch.put, setField, Vector.getD, Array.getD]
  rw [Launch.state, Launch.get, fieldOf]
  exact (congrArg (bitsOf · 0 8) hword).trans (bitsOf_setBits_zero _ 8 v (by decide))

theorem count_putState (l : Launch) (v : Nat) : (l.put 0 1 v).count = l.count := by
  have hword : (l.put 0 1 v).words.getD 3 0 = l.words.getD 3 0 := by
    simp [Launch.put, setField, Vector.getD, Array.getD]
  exact congrArg (bitsOf · 0 32) hword

/-! ### A pool of one launch -/

theorem getLaunch_single {s : State} {i : Nat} {l : Launch} (h : s.pool = [(i, l)]) : getLaunch s i = l := by
  simp [getLaunch, h, Tab.getD, Tab.get?]

theorem modLaunch_single {s : State} {i : Nat} {l : Launch} (h : s.pool = [(i, l)]) (f : Launch → Launch) :
    modLaunch s i f = { s with pool := [(i, f l)] } := by
  simp [modLaunch, h, Tab.upd, Tab.getD, Tab.get?, Tab.set]

/-- A launch that is ready and has records left neither becomes ready nor retires. -/
theorem settlePool_busy {s : State} {i : Nat} {l : Launch} (h : s.pool = [(i, l)]) (hsince : l.since.isSome = true)
    (hleft : l.retired < l.count) : settlePool s = s := by
  have hlaunch : settleLaunch s i = s := by
    have hready : l.since.isNone = false := by simpa using hsince
    have hret : allRetired l = false := by simp [allRetired, Nat.not_le.2 hleft]
    unfold settleLaunch
    split
    · rfl
    · simp only [getLaunch_single h, hready, Bool.and_false, Bool.false_and, Bool.false_eq_true, if_false, hret]
  simp only [settlePool, h, List.length_singleton, List.map_cons, List.map_nil, List.range_one, List.foldl_cons,
    List.foldl_nil, hlaunch]

/-! ### What an allotment notes of the launches it considers -/

theorem noteCards_read (s : State) (p : Nat) (h : ∀ i ∈ candidates s p, (getLaunch s i).card.isSome = true) :
    noteCards s p = s := by
  unfold noteCards
  generalize candidates s p = l at h
  induction l with
  | nil => rfl
  | cons i l ih =>
    have hpage : cardPage s p i = none := by rw [cardPage, if_pos (h i (List.mem_cons_self ..))]
    rw [List.foldl_cons, hpage]
    exact ih fun k hk => h k (List.mem_cons_of_mem _ hk)

/-- A launch without a deadline has positive slack. -/
theorem slack_noDeadline (s : State) (p i : Nat) (h : (getLaunch s i).deadline = 0) : ¬ (launchKey s p i).2.1 < 0 := by
  simp only [launchKey, dealKey, slackOf, h, if_true]
  decide

theorem noteSlack_noDeadline (s : State) (p : Nat) (h : ∀ i ∈ candidates s p, (getLaunch s i).deadline = 0) :
    noteSlack s p = s := by
  unfold noteSlack
  generalize candidates s p = l at h
  induction l with
  | nil => rfl
  | cons i l ih =>
    rw [List.foldl_cons, if_neg (slack_noDeadline s p i (h i (List.mem_cons_self ..)))]
    exact ih fun k hk => h k (List.mem_cons_of_mem _ hk)

/-! ### Allotment (R346) -/

theorem launchAllot_none (s : State) (p : Nat) (h : stopped s p = true ∨ candidates s p = []) :
    exec (.launchAllot p) s = .next s := by
  change execLaunchAllot p s = _
  unfold execLaunchAllot
  split
  · rfl
  · rename_i hs
    have hnone : candidates s p = [] := h.resolve_left hs
    simp [hnone, firstBy, noteCards]

theorem firstBy_mem {α : Type} (before : α → α → Bool) (l : List α) (hl : l ≠ []) : ∃ x ∈ l, firstBy before l = some x := by
  obtain ⟨x, xs, rfl⟩ := List.exists_cons_of_ne_nil hl
  refine ⟨_, ?_, rfl⟩
  have hin : ∀ (ys : List α) (b : α), b ∈ x :: xs → (∀ y ∈ ys, y ∈ x :: xs) →
      ys.foldl (fun b y => if before y b then y else b) b ∈ x :: xs := by
    intro ys
    induction ys with
    | nil => exact fun b hb _ => hb
    | cons y ys ih =>
      intro b hb hys
      rw [List.foldl_cons]
      refine ih _ ?_ fun z hz => hys z (List.mem_cons_of_mem _ hz)
      split
      · exact hys y (List.mem_cons_self ..)
      · exact hb
  exact hin xs x (List.mem_cons_self ..) fun y hy => List.mem_cons_of_mem _ hy

theorem chunkCores_subset {s : State} {p i : Nat} (h : ∀ c ∈ (getLaunch s i).cores, c ∈ coresOfPart s p) :
    ∀ c ∈ chunkCores s p i, c ∈ coresOfPart s p := by
  intro c hc
  have hall := (List.mem_filter.1 hc).1
  split at hall
  · exact h c hall
  · split at hall
    · exact (List.mem_filter.1 hall).1
    · exact hall

section
variable {s : State} {p i : Nat} {l : Launch} {card : Card} (hpool : s.pool = [(i, l)])
  (hstate : l.state = 2 ∨ l.state = 3) (hsince : l.since.isSome = true) (hdead : l.deadline = 0) (hshare : inShare s p i = true)
  (hnext : l.next < l.count) (hcard : l.card = some card)
include hpool

theorem candidates_single (hstate : l.state = 2 ∨ l.state = 3) (hsince : l.since.isSome = true)
    (hshare : inShare s p i = true) (hnext : l.next < l.count) : candidates s p = [i] := by
  rw [candidates, hpool, List.map_singleton, List.filter_singleton, getLaunch_single hpool]
  rcases hstate with h | h <;> simp [h, hsince, hshare, hnext]

include hstate hsince hdead hshare hnext hcard in
/-- The one launch of the pool is dealt with: its chunk goes to the core that is first in the order of R363. -/
theorem launchAllot_single (hstop : stopped s p = false) (hun : Say.unmeasured s p) (hcores : chunkCores s p i ≠ []) :
    ∃ core ∈ chunkCores s p i, exec (.launchAllot p) s = .next (allotTo s p i card core) := by
  have hcand := candidates_single hpool hstate hsince hshare hnext
  have hlaunch := getLaunch_single hpool
  have hpage : cardPage s p i = none := by simp [cardPage, hlaunch, hcard]
  have hnote : noteCards s p = s := noteCards_read s p (by simp [hcand, hlaunch, hcard])
  have hslack : noteSlack s p = s := noteSlack_noDeadline s p (by simp [hcand, hlaunch, hdead])
  have hsame : modLaunch s i (fun l => { l with card := some card }) = s := by
    have hl : { l with card := some card } = l := by rw [← hcard]
    rw [modLaunch_single hpool, hl, ← hpool]
  obtain ⟨core, hmem, hcore⟩ := firstBy_mem (fun a b => listBefore (coreKey s card a) (coreKey s card b)) _ hcores
  refine ⟨core, hmem, ?_⟩
  change execLaunchAllot p s = _
  have hfirst : firstBy (fun a b => keyBefore (launchKey s p a) (launchKey s p b))
      ((candidates s p).filter fun i => !(chunkCores s p i).isEmpty && (cardPage s p i).isNone) = some i := by
    simp [hcand, hpage, hcores, firstBy]
  unfold execLaunchAllot
  rw [hstop, if_neg Bool.false_ne_true, hfirst]
  simp only [hnote, hslack, sample_off s p 4 0 _ hun, hlaunch, hcard, hsame, hcore]

end

/-- A request to wake a cluster changes its queue alone. -/
theorem requestWake_eq (s : State) (cl : Nat) : ∃ q, requestWake s cl = { s with wakeQueue := q } := by
  unfold requestWake
  dsimp only
  split
  · exact ⟨_, rfl⟩
  · exact ⟨s.wakeQueue, rfl⟩

/-- A chunk goes to the end of a core's queue. -/
def queueChunk (x : Nat × Nat × Nat) (c : Core) : Core := { c with localQueue := c.localQueue ++ [x] }

/-- A launch once a chunk of it has been allotted. -/
def allotted (s : State) (n core : Nat) (l : Launch) : Launch :=
  { l.put 0 1 3 with next := l.next + n, since := some s.time, cores := if l.cores.isEmpty then [core] else l.cores }

theorem allotTo_spec {s : State} {p i : Nat} {l : Launch} (card : Card) (core : Nat) (hpool : s.pool = [(i, l)])
    (hleft : l.retired < l.count) :
    let n := chunkSize (l.count - l.next) card.minChunk card.divisor (widthOf s p l)
    let t := allotTo s p i card core
    (getCore t core).localQueue = (getCore s core).localQueue ++ [(i, l.next, n)]
      ∧ (∀ k, k ≠ core → getCore t k = getCore s k)
      ∧ (getLaunch t i).next = l.next + n ∧ (getLaunch t i).state = 3 ∧ t.jobs = s.jobs ∧ t.ms = s.ms := by
  intro n t
  have hlaunch := getLaunch_single hpool
  obtain ⟨q, hq⟩ := requestWake_eq (modLaunch (modCore s core (queueChunk (i, l.next, n)))
    i (allotted s n core)) (clusterOf core)
  have hpool' : (modLaunch (modCore s core (queueChunk (i, l.next, n)))
      i (allotted s n core)).pool = [(i, allotted s n core l)] := by
    rw [modLaunch_single (s := modCore s core _) hpool]
  have ht : t = { modLaunch (modCore s core (queueChunk (i, l.next, n)))
      i (allotted s n core) with wakeQueue := q } := by
    rw [← hq]
    refine Eq.trans ?_ (settlePool_busy (i := i) (l := allotted s n core l) ?_ rfl ?_)
    · change allotTo s p i card core = _
      rw [allotTo, hlaunch]
      rfl
    · rw [hq]
      exact hpool'
    · rw [allotted]
      exact hleft.trans_eq (count_putState l 3).symm
  have hl : getLaunch t i = allotted s n core l := getLaunch_single (by rw [ht]; exact hpool')
  refine ⟨?_, fun k hk => ?_, by rw [hl]; rfl, by rw [hl]; exact state_putState l 3, by rw [ht]; rfl, by rw [ht]; rfl⟩
  · rw [ht]
    exact congrArg Core.localQueue (getCore_modCore_self s core (queueChunk (i, l.next, n)))
  · rw [ht]
    exact getCore_modCore_ne s core k (queueChunk (i, l.next, n)) hk

theorem allotment_holds : Say.Allotment := by
  intro s p i l card hun
  refine ⟨launchAllot_none s p, ?_⟩
  intro honly hshare hstop hnext hcard _ hcores hin left w least d
  obtain ⟨hpool, hstate, hsince, hleft, hdead⟩ := honly
  obtain ⟨core, hmem, hexec⟩ := launchAllot_single hpool hstate hsince hdead hshare hnext hcard hstop hun hcores
  obtain ⟨h1, h2, h3, h4, h5, h6⟩ := allotTo_spec (p := p) card core hpool (Nat.lt_of_succ_lt hleft)
  exact ⟨allotTo s p i card core, core, _, hexec,
    chunkCores_subset (by rw [getLaunch_single hpool]; exact hin) core hmem, rfl, h1, h2, h3, h4, h5, h6⟩

/-! ### What the device's own accesses leave as it is (R388) -/

/-- The second state is the first but for the memory system, the free choices taken and what the partitions hold. -/
def DevOnly (s t : State) : Prop := t = { s with ms := t.ms, fresh := t.fresh, parts := t.parts }

theorem DevOnly.refl (s : State) : DevOnly s s := rfl

theorem DevOnly.trans {s t u : State} (a : DevOnly s t) (b : DevOnly t u) : DevOnly s u := by
  rw [DevOnly] at *
  rw [b, a]

theorem MsOnly.dev {s t : State} (h : MsOnly s t) : DevOnly s t := by
  rw [DevOnly, show t = { s with ms := t.ms } from h]

section
variable {s t : State} (h : DevOnly s t)
include h

theorem DevOnly.jobs : t.jobs = s.jobs := by rw [show t = { s with ms := t.ms, fresh := t.fresh, parts := t.parts } from h]
theorem DevOnly.strs : t.strs = s.strs := by rw [show t = { s with ms := t.ms, fresh := t.fresh, parts := t.parts } from h]
theorem DevOnly.pool : t.pool = s.pool := by rw [show t = { s with ms := t.ms, fresh := t.fresh, parts := t.parts } from h]
theorem DevOnly.cores : t.cores = s.cores := by rw [show t = { s with ms := t.ms, fresh := t.fresh, parts := t.parts } from h]
theorem DevOnly.nextJob : t.nextJob = s.nextJob := by
  rw [show t = { s with ms := t.ms, fresh := t.fresh, parts := t.parts } from h]
theorem DevOnly.clusterOwner : t.clusterOwner = s.clusterOwner := by
  rw [show t = { s with ms := t.ms, fresh := t.fresh, parts := t.parts } from h]

end

theorem devOnly_usedRefusal (s : State) (w : Waiter) : DevOnly s (usedRefusal s w) := by
  unfold usedRefusal
  split <;> rfl

theorem devOnly_noteWaiting (s : State) (w : Waiter) (page : Option Nat) : DevOnly s (noteWaiting s w page) := by
  unfold noteWaiting
  split
  · rfl
  · split <;> rfl

theorem devOnly_useFresh (s : State) (pa n : Nat) : DevOnly s (useFresh s pa n) := by
  unfold useFresh
  split <;> rfl

theorem devOnly_queueFault (s : State) (p : Nat) (r : List Byte) : DevOnly s (queueFault s p r) := rfl

/-- An access that acts for no job and no operation. -/
structure Bulk.Plain (b : Bulk) : Prop where
  job : b.ag.job = none
  tok : b.tok = none

theorem plain_dispatcher (p pasid item : Nat) : Bulk.Plain (dispatcher p pasid item) := ⟨rfl, rfl⟩

theorem foldl_bind_error {ε α β : Type} (f : β → α → Except ε β) (l : List α) (e : ε) :
    l.foldl (fun r a => Except.bind r fun x => f x a) (Except.error e) = .error e := by
  induction l with
  | nil => rfl
  | cons a l ih => exact ih

/-- What each step of a fold that may fail keeps, the fold keeps. -/
theorem foldl_bind_keeps {ε α β : Type} (P : β → Prop) (f : β → α → Except ε β) (hf : ∀ x a y, P x → f x a = .ok y → P y)
    (l : List α) (x y : β) (hx : P x) (h : l.foldl (fun r a => Except.bind r fun x => f x a) (Except.ok x) = .ok y) :
    P y := by
  induction l generalizing x with
  | nil =>
    obtain rfl := Except.ok.inj h
    exact hx
  | cons a l ih =>
    rw [List.foldl_cons] at h
    change l.foldl _ (f x a) = _ at h
    cases hfx : f x a with
    | error e =>
      rw [hfx, foldl_bind_error] at h
      cases h
    | ok z =>
      rw [hfx] at h
      exact ih z (hf x a z hx hfx) h

theorem Except.of_bind_ok {ε α β : Type} {f : α → Except ε β} {x : Except ε α} {y : β} (h : (x >>= f) = .ok y) :
    ∃ z, x = .ok z ∧ f z = .ok y := by
  cases x with
  | error e => cases h
  | ok z => exact ⟨z, rfl, h⟩

theorem Except.of_map_ok {ε α β : Type} {f : α → β} {x : Except ε α} {y : β} (h : x.map f = .ok y) :
    ∃ z, x = .ok z ∧ f z = y := by
  cases x with
  | error e => cases h
  | ok z => exact ⟨z, rfl, Except.ok.inj h⟩

section
variable {b : Bulk} (hb : Bulk.Plain b)
include hb

theorem spad_plain (off n : Nat) : b.ag.spad off n = none := by rw [Agent.spad, hb.job]

theorem keepRead_plain (s : State) (va : Nat) (bs : List Byte) : keepRead s b va bs = s := by
  rw [keepRead, hb.tok]
  split
  · simp_all
  · rfl

theorem devOnly_readPiece {s t : State} {va : Word} {n : Nat} {bs : List Byte} (h : readPiece s b va n = .ok (t, bs)) :
    DevOnly s t := by
  unfold readPiece at h
  split at h
  · rw [spad_plain hb] at h
    cases h
  · split at h
    · cases h
    · split at h
      · cases h
      · obtain ⟨rfl, -⟩ := Prod.mk.inj (Except.ok.inj h)
        rw [keepRead_plain hb]
        exact (msOnly_readSeen ..).dev.trans (devOnly_useFresh ..)

theorem devOnly_readRange {s t : State} {va : Word} {n : Nat} {bs : List Byte} (h : readRange s b va n = .ok (t, bs)) :
    DevOnly s t := by
  refine foldl_bind_keeps (fun x : State × List Byte => DevOnly s x.1) _ ?_ _ (s, []) (t, bs) (.refl s) h
  intro x p y hx hy
  obtain ⟨⟨u, us⟩, hu, rfl⟩ := Except.of_map_ok hy
  exact hx.trans (devOnly_readPiece hb hu)

theorem devOnly_writeXl (s : State) (va : Nat) (x : Xl) (bs : List Byte) : DevOnly s (writeXl s b va x bs) := by
  have hnote : noteOpWrite s b x = s := by rw [noteOpWrite, hb.tok]
  unfold writeXl
  rw [hnote]
  split
  · split
    · rfl
    · exact (msOnly_foldl _ (fun _ _ => msOnly_writeWet ..) _ _).dev
  · exact (msOnly_foldl _ (fun _ _ => msOnly_writePa ..) _ _).dev

theorem devOnly_writePiece {s t : State} {va : Word} {bs : List Byte} (h : writePiece s b va bs = .ok t) : DevOnly s t := by
  unfold writePiece at h
  dsimp only at h
  split at h
  · rw [spad_plain hb] at h
    cases h
  · split at h
    · cases h
    · split at h
      · cases h
      · obtain rfl := Except.ok.inj h
        exact devOnly_writeXl hb ..

theorem devOnly_writeRange (w : Written) (va : Word) (bs : List Byte) : DevOnly w.st (writeRange w b va bs).st := by
  refine foldl_keeps (fun x : Written => DevOnly w.st x.st) _ (fun x p hx => ?_) _ w (.refl _)
  unfold writePieces
  split
  · exact hx
  · split
    · rename_i hs
      exact hx.trans (devOnly_writePiece hb hs)
    · exact hx

theorem devOnly_writeAll {s t : State} {va : Word} {bs : List Byte} (h : writeAll s b va bs = .ok t) : DevOnly s t := by
  unfold writeAll at h
  dsimp only at h
  split at h
  · obtain rfl := Except.ok.inj h
    exact devOnly_writeRange hb ⟨s, none⟩ va bs
  · cases h

theorem devOnly_sinkWrite {s t : State} {sink : Word} {r : List Byte} (h : sinkWrite s b sink r = .ok t) : DevOnly s t := by
  obtain ⟨⟨u, bs⟩, hu, h⟩ := Except.of_bind_ok h
  refine (devOnly_readRange hb hu).trans ?_
  dsimp only at h
  split at h
  · obtain ⟨x, hx, h⟩ := Except.of_bind_ok h
    exact (devOnly_writeAll hb hx).trans (devOnly_writeAll hb h)
  · exact devOnly_writeAll hb h

theorem devOnly_faultTo {s t : State} {sink : Word} {r : List Byte} (h : faultTo s b sink r = .ok t) : DevOnly s t := by
  unfold faultTo at h
  split at h
  · obtain rfl := Except.ok.inj h
    exact devOnly_queueFault ..
  · split at h
    · rename_i hw
      obtain rfl := Except.ok.inj h
      exact (devOnly_sinkWrite hb hw).trans (devOnly_usedRefusal ..)
    · cases h
    · obtain rfl := Except.ok.inj h
      exact (devOnly_usedRefusal ..).trans (devOnly_queueFault ..)

end

/-! ### The place of a job (R17, R30) -/

/-- A group without grants has room at its start. -/
theorem placeHalf_empty (lo half : Nat) (h : half ≤ Config.groupSplit) : placeHalf [] lo half = some lo := by
  rw [placeHalf, List.range_succ_eq_map, List.map_cons, List.find?_cons_of_pos]
  · rfl
  · simpa using h

section
variable {s : State} {core : Nat} (hsaved : s.saved = []) (hjobs : ∀ e ∈ s.jobs, e.1 / 4 ≠ core)
include hsaved hjobs

theorem placeGrant_empty (bytes : Nat) (h : bytes ≤ 2 ^ 20) :
    placeGrant s core bytes = some ⟨bytes / 2, 0, Config.groupSplit⟩ := by
  have hhalf : bytes / 2 ≤ Config.groupSplit := by
    have : Config.groupSplit = 2 ^ 19 := rfl
    omega
  have hgrants : grantsOn s core = [] := by rw [grantsOn, jobsOn_empty hjobs, hsaved]; rfl
  simp [placeGrant, hgrants, placeHalf_empty _ _ hhalf]

theorem fitsNow_empty (rows bytes : Nat) (hrows : rows ≤ 1024) (hbytes : bytes ≤ 2 ^ 20) :
    fitsNow s core rows bytes = true := by
  have : rows ≤ Config.physRows := hrows.trans (by decide)
  simp [fitsNow, freeJobSlot_empty hjobs, rowsReserved_empty hjobs, placeGrant_empty hsaved hjobs bytes hbytes, this]

end

/-! ### Dealing (R34, R347) -/

/-- The registers of R34. -/
theorem startRegs_get (s : State) (p i r core n : Nat) (hn : n < 32) :
    (startRegs s p i r core)[n] = BitVec.ofNat 64 (Say.firstReg s p i r core n) := by
  have hrange : List.range 5 = [0, 1, 2, 3, 4] := rfl
  simp only [startRegs, hrange, List.foldl_cons, List.foldl_nil, Vector.getElem_setIfInBounds, Vector.getElem_replicate]
  interval_cases n <;> rfl

/-- The first PCs of R34. -/
theorem entryPcs_getD (entry : Word) (bs : List Byte) (k : Nat) (hk : k < 3) :
    (entryPcs entry bs).getD k 0 = entry + BitVec.ofNat 64 (4 * k)
      + (BitVec.ofNat 32 (ofLe ((bs.drop (4 * k)).take 4))).signExtend 64 := by
  simp only [entryPcs, List.getD_eq_getElem?_getD, List.getElem?_map, List.getElem?_range hk, Option.map_some,
    Option.getD_some]
  rfl

/-- A record has been dealt. -/
def dealtOne (l : Launch) : Launch := { l with dealt := l.dealt + 1 }

/-- The streams of a new job. -/
def firstStream (s : State) (p i r core : Nat) (pcs : List Word) (x : Strm) : Stream :=
  { Stream.start (pcs.getD (strmIdx x) 0) with regs := startRegs s p i r core }

/-- A job in the lowest slot of a core. -/
def startedJob (s : State) (p core i r : Nat) (card : Card) (g : Grant) (pcs : List Word) : State :=
  { s with
    nextJob := s.nextJob + 1
    jobs := Tab.set s.jobs (4 * core) (Job.start (startIds s p i r card) (startCtl s p (getLaunch s i)) g)
    strs := withStreams s.strs core 0 (firstStream s p i r core pcs) }

theorem startJob_eq {s : State} {p core i r : Nat} {l : Launch} (card : Card) (g : Grant) (pcs : List Word)
    (hpool : s.pool = [(i, l)]) (hsince : l.since.isSome = true) (hleft : l.retired < l.count) :
    startJob s p core 0 i r card g pcs = modLaunch (startedJob s p core i r card g pcs) i dealtOne :=
  settlePool_busy (s := modLaunch (startedJob s p core i r card g pcs) i dealtOne)
    (congrArg State.pool (modLaunch_single (s := startedJob s p core i r card g pcs) hpool dealtOne)) hsince hleft

/-- Nothing keeps a powered core where no context waits from dealing the head of its queue. -/
theorem deals_powered {s : State} {core p : Nat} (i : Nat) (hpower : Say.powered s core p) (hsaved : s.saved = []) :
    (stopped s p || (getCluster s (clusterOf core)).gated || savedFirst s p core i) = false := by
  obtain ⟨-, hgate, hstop⟩ := hpower
  have hfirst : savedFirst s p core i = false := by simp [savedFirst, nextSaved, hsaved, firstBy]
  rw [hstop, hgate, hfirst]
  rfl

/-- The state in which a record has been dealt: what was read for it, its queue, its job. -/
def dealt (s t : State) (p core i r : Nat) (card : Card) (g : Grant) (pcs : List Word) : Prop :=
  DevOnly s t ∧ exec (.jobDeal core) s = .next (modLaunch (startedJob (popHead t core) p core i r card g pcs) i dealtOne)

section
variable {s : State} {core p i r n : Nat} {rest : List (Nat × Nat × Nat)} {l : Launch} {card : Card}
  (hpower : Say.powered s core p) (hqueue : (getCore s core).localQueue = (i, r, n) :: rest) (hpool : s.pool = [(i, l)])
  (hsince : l.since.isSome = true) (hleft : l.retired + 1 < l.count)
  (hcard : l.card = some card) (hsaved : s.saved = [])
include hpower hqueue hpool hsince hleft hcard hsaved

theorem jobDeal_starts (hjobs : ∀ e ∈ s.jobs, e.1 / 4 ≠ core) (hbad : card.bad = none) (hrows : card.rows ≤ 1024)
    (hbytes : card.grant ≤ 2 ^ 20) (s' : State) (bs : List Byte)
    (hread : readRange s (dispatcher p l.armedPasid.toNat i) card.entry 12 = .ok (s', bs))
    (hpcs : ∀ k < 3, ((entryPcs card.entry bs).getD k 0).toNat % 4 = 0) :
    dealt s (usedRefusal s' (.device p i)) p core i r card ⟨card.grant / 2, 0, Config.groupSplit⟩ (entryPcs card.entry bs) := by
  have hdev := (devOnly_readRange (plain_dispatcher ..) hread).trans (devOnly_usedRefusal s' (.device p i))
  refine ⟨hdev, ?_⟩
  have hfind : (entryPcs card.entry bs).find? (fun pc => pc.toNat % 4 != 0) = none := by
    refine List.find?_eq_none.2 fun pc hpc => ?_
    obtain ⟨k, hk, rfl⟩ := List.getElem_of_mem hpc
    have hlen : (entryPcs card.entry bs).length = 3 := by simp [entryPcs]
    have := hpcs k (by omega)
    rw [List.getD_eq_getElem _ _ hk] at this
    simpa using this
  change execJobDeal core s = _
  simp only [execJobDeal, hpower.1, hqueue, deals_powered i hpower hsaved, getLaunch_single hpool, hcard, hbad, hread,
    fitsNow_empty hsaved hjobs _ _ hrows hbytes, Bool.not_true, Bool.false_eq_true, if_false, hfind,
    freeJobSlot_empty hjobs, placeGrant_empty hsaved hjobs _ hbytes]
  have hp : (popHead (usedRefusal s' (.device p i)) core).pool = [(i, l)] := hdev.pool.trans hpool
  exact congrArg _ (startJob_eq card _ _ hp hsince (Nat.lt_of_succ_lt hleft))

theorem jobDeal_retires (c : Cause) (a : Word) (hbad : card.bad = some (c, a)) (u : State)
    (hfault : faultTo s (dispatcher p l.armedPasid.toNat i) l.sink (unstartedRecord c a i r) = .ok u) :
    DevOnly s u ∧ exec (.jobDeal core) s = .next (modLaunch (popHead u core) i fun l =>
      { l with dealt := l.dealt + 1, retired := l.retired + 1, opened := l.opened + 1 }) := by
  have hdev := devOnly_faultTo (plain_dispatcher ..) hfault
  refine ⟨hdev, ?_⟩
  have hp : (popHead u core).pool = [(i, l)] := hdev.pool.trans hpool
  change execJobDeal core s = _
  simp only [execJobDeal, hpower.1, hqueue, deals_powered i hpower hsaved, getLaunch_single hpool, hcard, hbad,
    Bool.false_eq_true, if_false, retireUnstarted, hfault]
  exact congrArg _ (settlePool_busy (congrArg State.pool (modLaunch_single hp _)) hsince hleft)

omit hsince hleft in
theorem jobDeal_waits (c : Cause) (a : Word) (hbad : card.bad = some (c, a)) (u : State)
    (hfault : faultTo s (dispatcher p l.armedPasid.toNat i) l.sink (unstartedRecord c a i r) = .error u) :
    exec (.jobDeal core) s = .next u := by
  change execJobDeal core s = _
  simp only [execJobDeal, hpower.1, hqueue, deals_powered i hpower hsaved, getLaunch_single hpool, hcard, hbad,
    Bool.false_eq_true, if_false, retireUnstarted, hfault]

end

theorem localQueue_popHead {s t : State} {core i r n : Nat} {rest : List (Nat × Nat × Nat)} (hdev : DevOnly s t)
    (hqueue : (getCore s core).localQueue = (i, r, n) :: rest) :
    (getCore (popHead t core) core).localQueue = if n ≤ 1 then rest else (i, r + 1, n - 1) :: rest := by
  have hcore : getCore t core = getCore s core := by rw [getCore, getCore, hdev.cores]
  rw [popHead, getCore_modCore_self, hcore, hqueue]
  rfl

/-- The registers of R34 are those of the state before the record was read. -/
theorem firstReg_dev {s t : State} (hdev : DevOnly s t) (p i r core n : Nat) :
    Say.firstReg (popHead t core) p i r core n = Say.firstReg s p i r core n := by
  have hlaunch : getLaunch (popHead t core) i = getLaunch s i := by
    simp only [getLaunch, popHead, modCore]
    rw [hdev.pool]
  have hcore : logicalCore (popHead t core) p core = logicalCore s p core := by
    simp only [logicalCore, clustersOfPart]
    rw [show (popHead t core).clusterOwner = s.clusterOwner from hdev.clusterOwner]
  simp only [Say.firstReg, hlaunch, hcore]

theorem dealing_holds : Say.Dealing := by
  intro s core p i r n rest l card hpower hqueue _ _ _ honly hcard hsaved hjobs
  obtain ⟨hpool, -, hsince, hleft, -⟩ := honly
  refine ⟨?_, fun c a hbad => ⟨jobDeal_waits hpower hqueue hpool hcard hsaved c a hbad, ?_⟩⟩
  · intro hbad hrows hbytes s' bs hread pc hpcs
    have hpc (k : Nat) (hk : k < 3) : (entryPcs card.entry bs).getD k 0 = pc k := entryPcs_getD card.entry bs k hk
    obtain ⟨hdev, hexec⟩ := jobDeal_starts hpower hqueue hpool hsince hleft hcard hsaved hjobs hbad hrows hbytes s' bs hread
      fun k hk => hpc k hk ▸ hpcs k hk
    generalize usedRefusal s' (.device p i) = t at hdev hexec
    have hlaunch : getLaunch t i = l := getLaunch_single (hdev.pool.trans hpool)
    refine ⟨_, Job.start (startIds (popHead t core) p i r card) (startCtl (popHead t core) p (getLaunch (popHead t core) i))
      ⟨card.grant / 2, 0, Config.groupSplit⟩, hexec, Tab.get?_set_self _ _ _, hdev.nextJob, ?_, rfl, rfl, rfl, ?_, rfl, rfl,
      rfl, fun x => ⟨?_, fun m => ?_⟩, ?_, ?_⟩
    · exact congrArg (· + 1) hdev.nextJob
    · exact congrArg (fun l : Launch => l.armedPasid.toNat) hlaunch
    · refine (congrArg Stream.pc (getD_withStreams _ core 0 _ x _)).trans ?_
      exact hpc (strmIdx x) (by cases x <;> decide)
    · refine (congrArg (fun st : Stream => st.regs[m.toNat]) (getD_withStreams _ core 0 _ x _)).trans ?_
      exact (startRegs_get _ p i r core m.toNat m.isLt).trans (congrArg _ (firstReg_dev hdev p i r core m.toNat))
    · exact localQueue_popHead hdev hqueue
    · rw [getLaunch_modLaunch_self]
      exact congrArg (fun l : Launch => l.dealt + 1) hlaunch
  · intro u hfault
    obtain ⟨hdev, hexec⟩ := jobDeal_retires hpower hqueue hpool hsince hleft hcard hsaved c a hbad u hfault
    have hlaunch : getLaunch u i = l := getLaunch_single (hdev.pool.trans hpool)
    refine ⟨_, hexec, hdev.jobs, hdev.nextJob, ?_, ?_, localQueue_popHead hdev hqueue⟩
    · rw [getLaunch_modLaunch_self]
      exact congrArg (fun l : Launch => l.retired + 1) hlaunch
    · rw [getLaunch_modLaunch_self]
      exact congrArg (fun l : Launch => l.dealt + 1) hlaunch

end Sys2Proof.Proofs

namespace Sys2Proof.Proofs.Dispatch
open Sys2Proof.Proofs

/-- Settles O52: what is read and written for a record changes the device alone (`DevOnly`), so that the job starts with
the registers its launch gave it. -/
theorem dispatcher : Obligations.Dispatcher := ⟨allotment_holds, dealing_holds⟩

end Sys2Proof.Proofs.Dispatch
end

section
/-! PROOFS. Vector numbers beside a queue that holds more than its 8 entries (R140, R141). -/

namespace Sys2Proof.Proofs
open Sys2Proof Sys2Proof.Machine

/-- The row of INT8 zeros under gain 0. -/
def zeroRow : Row := ⟨rowTag (mkTag 5 0) false false true, 0, 0, 0⟩

/-- VABS of row 0 onto itself, with the rounding mode 0, which no integer operation may name (R261). -/
def roundedAbs : VOp := ⟨0, 0, ⟨0, false⟩, 0, 0, false, false, Say.at_ 0, Say.at_ 0, .none, 0⟩

/-- A job with row 0, whose queue q0 holds 9 entries. -/
def longQueueJob : Job :=
  { probeJob with
    rows := [(0, zeroRow)]
    queues := { Queues.empty with q := Queues.empty.q.set 0 (List.replicate 9 ⟨rawTag, 0⟩) } }

/-- Its C-stream executes. -/
def longQueue : State := { probe State.reset [] .c with cur := ⟨0, 0, .c⟩, jobs := [(0, longQueueJob)] }

/-- Whether the executing stream waits after an outcome. -/
def leavesWait : Result → Bool
  | .next t => (curStream t).wait.isSome
  | _ => false

/-- The instruction waits on q0, though none of its operands is a queue. -/
theorem exec_vabs_longQueue : leavesWait (exec (.vabs roundedAbs) longQueue) = true := by decide +kernel

/-- The trap leaves the stream on no wait. -/
theorem trapNow_longQueue :
    leavesWait (.next (trapNow longQueue (.vabs roundedAbs) .illegal 0 0)) = false := by decide +kernel

theorem oneStep_longQueue : Say.oneStep longQueue roundedAbs :=
  ⟨rfl, by decide +kernel, ⟨rfl, by decide +kernel⟩, rfl, rfl⟩

theorem row_longQueue : Say.row longQueue 0 zeroRow := ⟨rfl, rfl, rfl, rfl⟩

/-- Refutes O47: `VectorInteger` does not ask that the queues hold at most 8 entries, and a longer queue counts as short
of room for every instruction (`shortQueues`, R141). The counterexample is a VABS on rows, with q0 at 9 entries: it waits
on q0 and takes no ILLEGAL. -/
theorem not_vectorNumbers : ¬ Obligations.VectorNumbers := by
  unfold Obligations.VectorNumbers
  rintro ⟨h, -, -⟩
  have htrap := (h (.vabs roundedAbs) longQueue roundedAbs false false _ 0 0 0 zeroRow zeroRow zeroRow rfl
    oneStep_longQueue rfl rfl rfl rfl rfl row_longQueue nofun row_longQueue rfl).2.1 nofun nofun (.inl (by decide))
  have hwait := exec_vabs_longQueue
  rw [htrap, trapNow_longQueue] at hwait
  exact absurd hwait (by decide)

end Sys2Proof.Proofs
end

section
/-! PROOFS. The end of a child operation, and what it leaves as it is: it owns no cluster and pushes no operation
(R154, R168). -/

namespace Sys2Proof.Proofs
open Sys2Proof Sys2Proof.Machine

/-! ### States in which no token has come to an empty table -/

/-- The clusters have their owners as before, and a token table that was empty is empty. -/
structure Calm (s t : State) : Prop where
  owner : t.clusterOwner = s.clusterOwner
  empty : ∀ c, tokens s c = [] → tokens t c = []

theorem Calm.refl (s : State) : Calm s s := ⟨rfl, fun _ h => h⟩

theorem Calm.trans {s t u : State} (a : Calm s t) (b : Calm t u) : Calm s u :=
  ⟨b.owner.trans a.owner, fun c h => b.empty c (a.empty c h)⟩

theorem Calm.of_eq {s t : State} (ho : t.clusterOwner = s.clusterOwner) (hc : t.cores = s.cores) : Calm s t :=
  ⟨ho, fun c h => by rwa [tokens, getCore, hc]⟩

theorem MsOnly.calm {s t : State} (h : MsOnly s t) : Calm s t :=
  .of_eq (by rw [show t = { s with ms := t.ms } from h]) h.cores

theorem Calm.ite {s t u : State} {c : Prop} [Decidable c] (a : Calm s t) (b : Calm s u) :
    Calm s (if c then t else u) := by
  split
  · exact a
  · exact b

theorem calm_foldl {α : Type} (f : State → α → State) (hf : ∀ s x, Calm s (f s x)) (l : List α) (s : State) :
    Calm s (l.foldl f s) :=
  foldl_keeps (Calm s) f (fun t x h => h.trans (hf t x)) l s (.refl s)

theorem calm_modCore (s : State) (core : Nat) (f : Core → Core) (hf : ∀ x : Core, x.tokens = [] → (f x).tokens = []) :
    Calm s (modCore s core f) := by
  refine ⟨rfl, fun c h => ?_⟩
  by_cases hc : c = core
  · subst hc
    rw [tokens, getCore_modCore_self]
    exact hf _ h
  · rw [tokens, getCore_modCore_ne s core c f hc]
    exact h

/-- A change of one entry. -/
theorem calm_modify (s : State) (core slot : Nat) (f : TokenEntry → TokenEntry) :
    Calm s (modCore s core fun c => { c with tokens := Tab.modify c.tokens slot f }) :=
  calm_modCore s core _ fun x h => by
    change Tab.modify x.tokens slot f = []
    rw [h]
    rfl

theorem calm_modTok (s : State) (core slot : Nat) (f : TokenEntry → TokenEntry) : Calm s (modTok s core slot f) :=
  calm_modify s core slot f

/-- A fold that may fail, over states with a value each. -/
theorem calm_foldl_bind {ε α β : Type} (f : State × β → α → Except ε (State × β))
    (hf : ∀ x a y, f x a = .ok y → Calm x.1 y.1) (l : List α) (x y : State × β)
    (h : l.foldl (fun r a => Except.bind r fun x => f x a) (.ok x) = .ok y) : Calm x.1 y.1 :=
  foldl_bind_keeps (fun z : State × β => Calm x.1 z.1) f (fun z a w hz hw => hz.trans (hf z a w hw)) l x y (.refl _) h

/-! ### Stash lines (R97) -/

theorem msOnly_fillLine {s t : State} {a : Agent} {w line : Nat} (h : fillLine s a w line = .ok t) : MsOnly s t := by
  unfold fillLine at h
  split at h
  · exact Except.ok.inj h ▸ .refl s
  · split at h
    · exact Except.ok.inj h ▸ .refl s
    · split at h
      · cases h
      · cases h
      · obtain rfl := Except.ok.inj h
        exact ((msOnly_readSeen ..).trans (msOnly_foldl _ (fun _ _ => msOnly_fillGranule ..) _ _)).trans (msOnly_modMs _ _)

theorem msOnly_fillRange {s t : State} {a : Agent} {win : Option (Nat × Nat)} {n : Nat}
    (h : fillRange s a win n = .ok t) : MsOnly s t := by
  unfold fillRange at h
  split at h
  · exact Except.ok.inj h ▸ .refl s
  · exact foldl_bind_keeps (MsOnly s) _ (fun _ _ _ hx hy => hx.trans (msOnly_fillLine hy)) _ s t (.refl s) h

theorem msOnly_dirtyRange (s : State) (a : Agent) (win : Option (Nat × Nat)) (n : Nat) : MsOnly s (dirtyRange s a win n) := by
  unfold dirtyRange
  split
  · exact msOnly_foldl _ (fun _ _ => msOnly_modMs ..) _ _
  · exact .refl s

theorem msOnly_writeSpad (s : State) (sp : Nat) (bs : List Byte) : MsOnly s (writeSpad s sp bs) := msOnly_modMs ..

/-! ### Ranges that an operation reads and writes (R202) -/

theorem calm_useFresh (s : State) (pa n : Nat) : Calm s (useFresh s pa n) := .ite (.of_eq rfl rfl) (.refl s)

theorem calm_noteOpLine (s : State) (p core slot ipa pa : Nat) : Calm s (noteOpLine s p core slot ipa pa) :=
  .ite (calm_modify ..) (.refl s)

theorem calm_keepRead (s : State) (b : Bulk) (va : Nat) (bs : List Byte) : Calm s (keepRead s b va bs) := by
  unfold keepRead
  split
  · exact calm_modify ..
  · exact .refl s

theorem calm_readPiece {s t : State} {b : Bulk} {va : Word} {n : Nat} {bs : List Byte}
    (h : readPiece s b va n = .ok (t, bs)) : Calm s t := by
  unfold readPiece at h
  split at h
  · split at h
    · cases h
    · split at h
      · cases h
      · cases h
      · rename_i hfill
        split at h
        · cases h
        · obtain ⟨rfl, -⟩ := Prod.mk.inj (Except.ok.inj h)
          exact (msOnly_fillRange hfill).calm.trans (calm_keepRead ..)
  · split at h
    · cases h
    · split at h
      · cases h
      · obtain ⟨rfl, -⟩ := Prod.mk.inj (Except.ok.inj h)
        exact ((msOnly_readSeen ..).calm.trans (calm_useFresh ..)).trans (calm_keepRead ..)

theorem calm_readRange {s t : State} {b : Bulk} {va : Word} {n : Nat} {bs : List Byte}
    (h : readRange s b va n = .ok (t, bs)) : Calm s t := by
  refine calm_foldl_bind _ ?_ _ (s, []) (t, bs) h
  intro x p y hy
  obtain ⟨⟨u, us⟩, hu, rfl⟩ := Except.of_map_ok hy
  exact calm_readPiece hu

theorem calm_noteOpWrite (s : State) (b : Bulk) (x : Xl) : Calm s (noteOpWrite s b x) := by
  unfold noteOpWrite
  split
  · exact .refl s
  · exact calm_noteOpLine ..

theorem calm_noteOpWin (s : State) (b : Bulk) (win : Option (Nat × Nat)) : Calm s (noteOpWin s b win) := by
  unfold noteOpWin
  split
  · split
    · exact calm_noteOpWrite ..
    · exact .refl s
  · exact .refl s

theorem calm_writeXl (s : State) (b : Bulk) (va : Nat) (x : Xl) (bs : List Byte) : Calm s (writeXl s b va x bs) :=
  .ite (.ite (.refl s) ((calm_noteOpWrite ..).trans (msOnly_foldl _ (fun _ _ => msOnly_writeWet ..) _ _).calm))
    ((calm_noteOpWrite ..).trans (msOnly_foldl _ (fun _ _ => msOnly_writePa ..) _ _).calm)

theorem calm_writePiece {s t : State} {b : Bulk} {va : Word} {bs : List Byte} (h : writePiece s b va bs = .ok t) :
    Calm s t := by
  unfold writePiece at h
  dsimp only at h
  split at h
  · split at h
    · cases h
    · split at h
      · cases h
      · split at h
        · cases h
        · cases h
        · rename_i hfill
          obtain rfl := Except.ok.inj h
          exact ((msOnly_fillRange hfill).calm.trans (calm_noteOpWin ..)).trans
            (msOnly_foldl _ (fun _ _ => (msOnly_writeSpad ..).trans (msOnly_dirtyRange ..)) _ _).calm
  · split at h
    · cases h
    · split at h
      · cases h
      · obtain rfl := Except.ok.inj h
        exact calm_writeXl ..

theorem calm_writeRange (w : Written) (b : Bulk) (va : Word) (bs : List Byte) : Calm w.st (writeRange w b va bs).st := by
  refine foldl_keeps (fun x : Written => Calm w.st x.st) _ (fun x p hx => ?_) _ w (.refl _)
  unfold writePieces
  split
  · exact hx
  · split
    · rename_i hs
      exact hx.trans (calm_writePiece hs)
    · exact hx

theorem calm_writeAll {s t : State} {b : Bulk} {va : Word} {bs : List Byte} (h : writeAll s b va bs = .ok t) : Calm s t := by
  unfold writeAll at h
  dsimp only at h
  split at h
  · obtain rfl := Except.ok.inj h
    exact calm_writeRange ⟨s, none⟩ b va bs
  · cases h

theorem calm_writeOff (w : Written) (o : OpRun) (off : Nat) (bs : List Byte) : Calm w.st (writeOff w o off bs).st := by
  unfold writeOff
  split
  · dsimp only
    split
    · exact calm_writeRange ..
    · exact calm_writeRange w o.b (offVa off) bs
  · exact .refl _

theorem atOffset_ok {α : Type} {x : Except BulkFail α} {a : α} (h : atOffset x = .ok a) : x = .ok a := by
  cases x with
  | ok b => exact h
  | error e => cases h

theorem calm_readOff {s t : State} {o : OpRun} {off n : Nat} {bs : List Byte} (h : readOff s o off n = .ok (t, bs)) :
    Calm s t := by
  unfold readOff at h
  split at h
  · exact calm_readRange (atOffset_ok h)
  · cases h

end Sys2Proof.Proofs
end

section
/-! PROOFS. Cancelled operations, and the cores whose table is emptied (R33, R154, R168). -/

namespace Sys2Proof.Proofs
open Sys2Proof Sys2Proof.Machine

/-! ### Sync words (R119, R203) -/

theorem calm_noteBy (s : State) (a : Agent) (ipa pa : Nat) : Calm s (noteBy s a ipa pa) := by
  unfold noteBy
  split
  · exact .ite (.of_eq rfl rfl) (.refl s)
  · exact calm_noteOpLine ..
  · exact .refl s
  · exact .refl s

theorem calm_dirtyWin (s : State) (a : Agent) (win : Option (Nat × Nat)) (n : Nat) : Calm s (dirtyWin s a win n) := by
  have hd := (msOnly_dirtyRange s a win n).calm
  unfold dirtyWin
  dsimp only
  split
  · split
    · split
      · exact hd.trans (calm_noteBy ..)
      · exact hd
    · exact hd
  · exact hd

theorem calm_cellWrite (s : State) (a : Agent) (c : Cell) (o : Nat) (bs : List Byte) : Calm s (cellWrite s a c o bs) := by
  cases c with
  | spad sp win => exact ((msOnly_writeSpad ..).trans (msOnly_dropEarly ..)).calm.trans (calm_dirtyWin ..)
  | glob x => exact (calm_noteBy ..).trans (msOnly_writePa ..).calm

theorem msOnly_performRange (s : State) (gs : List Nat) : MsOnly s (performRange s gs) :=
  msOnly_foldl _ (fun _ _ => msOnly_modMs ..) _ _

theorem msOnly_cellNow (s : State) (c : Cell) (n : Nat) : MsOnly s (cellNow s c n) := by
  cases c with
  | spad sp win => exact .refl s
  | glob x => exact msOnly_performRange ..

theorem calm_syncCount (s : State) (a : Agent) (c : Cell) (old new : SyncWord) : Calm s (syncCount s a c old new) :=
  Calm.trans (t := if new.count = old.count then s else _) (.ite (.refl s) (calm_cellWrite ..))
    (.ite (.refl _) (calm_cellWrite ..))

theorem calm_syncDone (o : OpRun) (c : Option Cell) (n : Nat) (s : State) : Calm s (syncDone o c n s) := by
  cases c with
  | none => exact .refl s
  | some c => exact .ite (.refl s) ((msOnly_cellNow ..).calm.trans (calm_syncCount ..))

theorem calm_syncAt {s t : State} {o : OpRun} {addr : Word} {c : Cell} (h : syncAt s o addr = .ok (t, c)) : Calm s t := by
  unfold syncAt at h
  split at h
  · cases h
  · split at h
    · cases h
    · split at h
      · split at h
        · cases h
        · split at h
          · cases h
          · rename_i hfill
            split at h
            · cases h
            · obtain ⟨rfl, -⟩ := Prod.mk.inj (Except.ok.inj h)
              exact (msOnly_fillRange hfill).calm
      · split at h
        · cases h
        · obtain ⟨rfl, -⟩ := Prod.mk.inj (Except.ok.inj h)
          exact .refl s

theorem calm_namedSync {s t : State} {o : OpRun} {r : Reg} {c : Option Cell} (h : namedSync s o r = .ok (t, c)) :
    Calm s t := by
  unfold namedSync at h
  split at h
  · obtain ⟨rfl, -⟩ := Prod.mk.inj (Except.ok.inj h)
    exact .refl s
  · obtain ⟨⟨u, d⟩, hu, hv⟩ := Except.of_map_ok h
    obtain ⟨rfl, -⟩ := Prod.mk.inj hv
    exact calm_syncAt hu

theorem calm_putSync {s t : State} {q : OpRun} {r : Reg} {off : Word} {c : Option Cell}
    (h : putSync s q r off = .ok (t, c)) : Calm s t := by
  unfold putSync at h
  split at h
  · obtain ⟨rfl, -⟩ := Prod.mk.inj (Except.ok.inj h)
    exact .refl s
  · split at h
    · cases h
    · split at h
      · cases h
      · obtain ⟨⟨u, d⟩, hu, hv⟩ := Except.of_map_ok (atOffset_ok h)
        obtain ⟨rfl, -⟩ := Prod.mk.inj hv
        exact calm_syncAt hu

/-! ### What the tearable operations read (R206, R216, R326 to R332) -/

theorem calm_readIndices {s t : State} {x : EngOp} {o : OpRun} {xs : List Nat} (h : readIndices s x o = .ok (t, xs)) :
    Calm s t := by
  unfold readIndices at h
  dsimp only at h
  split at h
  · cases h
  obtain ⟨⟨u, bs⟩, hu, h⟩ := Except.of_bind_ok h
  dsimp only at h
  split at h
  · cases h
  · obtain ⟨rfl, -⟩ := Prod.mk.inj (Except.ok.inj h)
    exact calm_readOff hu

theorem calm_readGathered {s t : State} {o : OpRun} {xs : List Nat} {bs : List Byte}
    (h : readGathered s o xs = .ok (t, bs)) : Calm s t := by
  refine calm_foldl_bind _ ?_ _ (s, []) (t, bs) h
  intro x v y hy
  obtain ⟨⟨u, us⟩, hu, rfl⟩ := Except.of_map_ok hy
  exact calm_readRange hu

theorem calm_readRows {s t : State} {o : OpRun} {line stride rows n : Nat} {l : List (List Byte)}
    (h : readRows s o line stride rows n = .ok (t, l)) : Calm s t := by
  refine calm_foldl_bind _ ?_ _ (s, []) (t, l) h
  intro x v y hy
  obtain ⟨⟨u, us⟩, hu, rfl⟩ := Except.of_map_ok hy
  exact calm_readOff hu

theorem calm_readScales {s t : State} {m : MatOp} {o : OpRun} {l : List (BitVec 32)}
    (h : readScales s m o = .ok (t, l)) : Calm s t := by
  obtain ⟨⟨u, us⟩, hu, hv⟩ := Except.of_map_ok h
  obtain ⟨rfl, -⟩ := Prod.mk.inj hv
  exact calm_readOff hu

theorem calm_heldPage {s t : State} {o : OpRun} {h : HeldEntry} {bs : List Byte} (e : heldPage s o h = .ok (t, bs)) :
    Calm s t := by
  unfold heldPage at e
  split at e
  · split at e
    · obtain ⟨rfl, -⟩ := Prod.mk.inj (Except.ok.inj e)
      exact .refl s
    · cases e
    · cases e
  · split at e
    · obtain ⟨rfl, -⟩ := Prod.mk.inj (Except.ok.inj e)
      exact .of_eq rfl rfl
    · exact calm_readRange e

theorem calm_matWriteRows (w : Written) (o : OpRun) (line stride : Nat) (rows : List (List Byte)) :
    Calm w.st (matWriteRows w o line stride rows).st :=
  foldl_keeps (fun x : Written => Calm w.st x.st) _ (fun _ _ hx => hx.trans (calm_writeOff ..)) _ w (.refl _)

/-! ### Runs (R154) -/

/-- Whatever a run comes to, its state is calm. -/
def CalmRun (s : State) : RunOut → Prop
  | .done t => Calm s t
  | .fault t _ _ => Calm s t
  | .wait _ => True

theorem CalmRun.after {α : Type} {s t : State} {x : Except BulkFail α} {k : α → RunOut} (ht : Calm s t)
    (hk : ∀ a, x = .ok a → CalmRun s (k a)) : CalmRun s (.after t x k) := by
  unfold RunOut.after
  split
  · exact hk _ rfl
  · exact ht
  · trivial

theorem CalmRun.check {s t : State} {b : Bool} {c : Cause} {addr : Word} {k : RunOut} (ht : Calm s t) (hk : CalmRun s k) :
    CalmRun s (.check t b c addr k) := by
  unfold RunOut.check
  split
  · exact hk
  · exact ht

theorem CalmRun.written {s : State} {w : Written} {k : State → State} (hw : Calm s w.st) (hk : ∀ t, Calm t (k t)) :
    CalmRun s (.written w k) := by
  unfold RunOut.written
  split
  · exact hw.trans (hk _)
  · exact hw
  · trivial

theorem calmRun_cpy (x : EngOp) (o : OpRun) (s : State) : CalmRun s (runCpy x o s) := by
  unfold runCpy
  dsimp only
  split
  · exact .refl s
  · refine .check (.refl s) (.check (.refl s) (.after (.refl s) fun r hr => .after (.refl s) fun c hc => ?_))
    exact .written (((calm_readRange hr).trans (calm_namedSync hc)).trans (calm_writeRange ⟨c.1, none⟩ ..)) (calm_syncDone _ _ _)

theorem calmRun_gath (x : EngOp) (o : OpRun) (s : State) : CalmRun s (runGath x o s) := by
  refine .after (.refl s) fun r hr => .after (.refl s) fun d hd => .after (.refl s) fun c hc => ?_
  have hread := (calm_readIndices hr).trans (calm_readGathered hd)
  exact .written ((hread.trans (calm_namedSync hc)).trans (calm_writeOff ⟨c.1, none⟩ ..)) (calm_syncDone _ _ _)

theorem calmRun_scat (x : EngOp) (o : OpRun) (s : State) : CalmRun s (runScat x o s) := by
  refine .after (.refl s) fun r hr => .after (.refl s) fun d hd => .after (.refl s) fun c hc => ?_
  have hread := ((calm_readIndices hr).trans (calm_readOff hd)).trans (calm_namedSync hc)
  exact .written (foldl_keeps (fun x : Written => Calm s x.st) _ (fun _ _ hx => hx.trans (calm_writeRange ..)) _ _ hread)
    (calm_syncDone _ _ _)

theorem calmRun_put (x : EngOp) (o : OpRun) (s : State) : CalmRun s (runPut x o s) := by
  refine .check (.refl s) ?_
  split
  · exact .refl s
  · exact .refl s
  · split
    · exact .refl s
    · refine .after (.refl s) fun d hd => .after (.refl s) fun c hc => ?_
      exact .written (((calm_readOff hd).trans (calm_putSync hc)).trans (calm_writeOff ⟨c.1, none⟩ ..)) (calm_syncDone _ _ _)

theorem calmRun_kvget (x : EngOp) (o : OpRun) (s : State) : CalmRun s (runKvget x o s) := by
  unfold runKvget
  split
  · refine .after (.refl s) fun pg hpg => .after (.refl s) fun c hc => ?_
    exact .written (((calm_heldPage hpg).trans (calm_namedSync hc)).trans (calm_writeOff ⟨c.1, none⟩ ..)) (calm_syncDone _ _ _)
  · trivial

theorem calmRun_accrd (m : MatOp) (o : OpRun) (s : State) : CalmRun s (runAccrd m o s) := by
  refine .after (.refl s) fun v _ => .written ?_ .refl
  dsimp only
  split
  · exact ((calm_matWriteRows ⟨s, none⟩ ..).trans (calm_writeOff ..)).trans (calm_writeOff ..)
  · exact calm_matWriteRows ⟨s, none⟩ ..

theorem calmRun_drnq (m : MatOp) (o : OpRun) (s : State) : CalmRun s (runDrnq m o s) := by
  refine .after (.refl s) fun bias hbias => .after (.refl s) fun mul hmul => .after (.refl s) fun shift hshift =>
    .check (.refl s) (.after (.refl s) fun v _ => .written ?_ .refl)
  exact (((calm_readOff hbias).trans (calm_readOff hmul)).trans (calm_readOff hshift)).trans (calm_matWriteRows ⟨shift.1, none⟩ ..)

theorem calmRun_mtrn (m : MatOp) (o : OpRun) (s : State) : CalmRun s (runMtrn m o s) :=
  .after (.refl s) fun r hr => .written ((calm_readRows hr).trans (calm_matWriteRows ⟨r.1, none⟩ ..)) .refl

theorem calmRun_qnt (m : MatOp) (o : OpRun) (s : State) : CalmRun s (runQnt m o s) := by
  refine .after (.refl s) fun r hr => .check (.refl s) ?_
  split
  · refine .after (.refl s) fun g hg => .check (.refl s) (.written ?_ .refl)
    exact ((calm_readRows hr).trans (calm_readScales hg)).trans (calm_matWriteRows ⟨g.1, none⟩ ..)
  · exact .written (((calm_readRows hr).trans (calm_matWriteRows ⟨r.1, none⟩ ..)).trans (calm_writeOff ..)) .refl

theorem calmRun_dqnt (m : MatOp) (o : OpRun) (s : State) : CalmRun s (runDqnt m o s) :=
  .after (.refl s) fun _ hr => .after (.refl s) fun g hg =>
    .written (((calm_readRows hr).trans (calm_readScales hg)).trans (calm_matWriteRows ⟨g.1, none⟩ ..)) .refl

theorem calmRun_tearable (o : OpRun) (s : State) (h : tearable o.e.instr = true) : CalmRun s (runOp o s) := by
  unfold runOp
  cases hi : o.e.instr with
  | cpy x => exact calmRun_cpy x o s
  | gath x => exact calmRun_gath x o s
  | scat x => exact calmRun_scat x o s
  | put x => exact calmRun_put x o s
  | kvget x => exact calmRun_kvget x o s
  | accrd m => exact calmRun_accrd m o s
  | drnq m => exact calmRun_drnq m o s
  | mtrn m => exact calmRun_mtrn m o s
  | qnt m => exact calmRun_qnt m o s
  | dqnt m => exact calmRun_dqnt m o s
  | _ => rw [hi] at h; exact absurd h Bool.false_ne_true

theorem calm_tornRun (s : State) (core slot : Nat) (e : TokenEntry) : Calm s (tornRun s core slot e) := by
  have hfresh : Calm s { s with fresh := s.fresh + 1 } := .of_eq rfl rfl
  unfold tornRun
  split
  · rename_i htear
    have hrun := calmRun_tearable (opRun { s with fresh := s.fresh + 1 } core slot e (some s.fresh))
      { s with fresh := s.fresh + 1 } htear
    dsimp only
    split
    · rename_i heq
      rw [heq] at hrun
      exact hfresh.trans hrun
    · rename_i heq
      rw [heq] at hrun
      exact hfresh.trans hrun
    · exact .refl s
  · exact .refl s

/-! ### What an operation holds (R203, R213, R214, R422) -/

theorem calm_metaWrite (s : State) (b : Bulk) (x : Xl) (o : Nat) (bs : List Byte) : Calm s (metaWrite s b x o bs) :=
  (msOnly_writePa ..).calm

theorem calm_returnPage {s t : State} {b : Bulk} {va : Word} {page : Nat} (h : returnPage s b va page = .ok t) :
    Calm s t := by
  obtain ⟨p, -, h⟩ := Except.of_bind_ok h
  obtain ⟨u, hu, h⟩ := Except.of_bind_ok h
  exact Except.ok.inj h ▸ (calm_writeAll hu).trans (calm_metaWrite ..)

theorem calm_clearRecord {s t : State} {b : Bulk} {va : Word} {i page : Nat} (h : clearRecord s b va i page = .ok t) :
    Calm s t := by
  obtain ⟨u, hu, h⟩ := Except.of_bind_ok h
  obtain ⟨p, -, h⟩ := Except.of_bind_ok h
  obtain ⟨w, hw, h⟩ := Except.of_bind_ok h
  obtain ⟨n, -, h⟩ := Except.of_bind_ok h
  exact Except.ok.inj h ▸ ((calm_returnPage hu).trans (calm_writeAll hw)).trans (calm_metaWrite ..)

theorem calm_releaseRecord {s t : State} {r : KvRecord} (h : releaseRecord s r = .ok t) : Calm s t := by
  obtain ⟨p, -, h⟩ := Except.of_bind_ok h
  obtain ⟨⟨u, bs⟩, hu, h⟩ := Except.of_bind_ok h
  dsimp only at h
  split at h
  · obtain ⟨w, hw, h⟩ := Except.of_bind_ok h
    exact Except.ok.inj h ▸ ((calm_readRange hu).trans (calm_clearRecord hw)).trans (msOnly_modMs ..).calm
  · exact (calm_readRange hu).trans (calm_writeAll h)

theorem calm_releaseReader (s : State) (b : Bulk) (h : HeldEntry) : Calm s (releaseReader s b h) := by
  have hp := (msOnly_performRange s (granules h.pa 32)).calm
  unfold releaseReader
  dsimp only
  split
  · exact hp
  · split
    · exact hp.trans (msOnly_writePa ..).calm
    · split
      · exact hp
      · split
        · rename_i hrel
          exact hp.trans (calm_releaseRecord hrel)
        · exact hp

theorem calm_releaseRemote (s : State) (o : OpRun) (h : HeldEntry) : Calm s (releaseRemote s o h) := by
  unfold releaseRemote
  split
  · exact .refl s
  · exact .ite (.of_eq rfl rfl) (.refl s)

theorem calm_releaseHeld (s : State) (o : OpRun) : Calm s (releaseHeld s o) :=
  calm_foldl _ (fun _ _ => .ite (calm_releaseRemote ..) (calm_releaseReader ..)) _ _

theorem calm_takeBack (s : State) (o : OpRun) : Calm s (takeBack s o) := by
  unfold takeBack
  dsimp only
  split
  · exact .refl s
  · split
    · rename_i hsync
      exact ((calm_namedSync hsync).trans (msOnly_cellNow ..).calm).trans (calm_syncCount ..)
    · exact .refl s

/-! ### What follows from the end of an operation (R154, R156, R225, R371) -/

theorem calm_sendFlag (s : State) (p chip target : Nat) (body : FlagBody) : Calm s (sendFlag s p chip target body) :=
  .ite (.ite (.of_eq rfl rfl) (.of_eq rfl rfl)) (.of_eq rfl rfl)

theorem calm_tellPeers (s : State) (p : Nat) (body : FlagBody) : Calm s (tellPeers s p body) :=
  calm_foldl _ (fun _ _ => calm_sendFlag ..) _ _

theorem calm_noteFailed (s : State) (core : Nat) (e : TokenEntry) : Calm s (noteFailed s core e) := by
  unfold noteFailed
  split
  · exact .refl s
  · dsimp only
    split
    · exact Calm.trans (t := dropRemote (modFailed s _ _) _ _) (.of_eq rfl rfl) (calm_tellPeers ..)
    · exact .of_eq rfl rfl

theorem calm_noteFailures (before : Tab TokenEntry) (s : State) (core : Nat) : Calm s (noteFailures before s core) :=
  calm_foldl _ (fun _ _ => calm_noteFailed ..) _ _

theorem calm_disownFailed (s : State) (core : Nat) : Calm s (disownFailed s core) := by
  refine calm_foldl _ (fun t e => ?_) _ s
  split
  · split
    · exact .of_eq rfl rfl
    · exact .refl t
  · exact .refl t

theorem calm_delTok (s : State) (core slot : Nat) :
    Calm s (modCore s core fun c => { c with tokens := Tab.del c.tokens slot }) :=
  calm_modCore s core _ fun x h => by
    change Tab.del x.tokens slot = []
    rw [h]
    rfl

theorem calm_releaseTok (s : State) (core slot : Nat) : Calm s (releaseTok s core slot) := by
  unfold releaseTok
  split
  · exact .refl s
  · refine Calm.trans ?_ (calm_delTok ..)
    exact .ite (.of_eq rfl rfl) (.refl s)

theorem calm_releaseSavedEnded (before : Tab TokenEntry) (s : State) (core : Nat) :
    Calm s (releaseSavedEnded before s core) := by
  refine calm_foldl _ (fun t e => ?_) _ s
  split
  · exact .ite (calm_releaseTok ..) (.refl t)
  · exact .refl t

theorem settleTable_nil (now n : Nat) : settleTable now n [] = [] := by
  induction n with
  | zero => rfl
  | succ n ih => exact ih

theorem calm_settleFrom (before : Tab TokenEntry) (s : State) (core : Nat) : Calm s (settleFrom before s core) := by
  refine Calm.trans (calm_modCore s core _ fun x h => ?_)
    (((calm_noteFailures ..).trans (calm_disownFailed ..)).trans (calm_releaseSavedEnded ..))
  change settleTable x.cycle x.tokens.length x.tokens = []
  rw [h]
  exact settleTable_nil ..

theorem calm_sweepSeen (s : State) (core jobid : Nat) : Calm s (sweepSeen s core jobid) := by
  unfold sweepSeen
  split
  · refine .ite (calm_modCore s core _ fun x h => ?_) (.refl s)
    change x.tokens.filter _ = []
    rw [h]
    rfl
  · exact .refl s

theorem calm_endTok (s : State) (core slot : Nat) (st : TokState) (f : Option (Cause × Word)) :
    Calm s (endTok s core slot st f) := by
  have h := (calm_modTok s core slot fun e =>
    { e with state := st, fault := f, endedAt := cycleOf s core, requests := [], held := none,
             faultName := f.map fun _ => (BitVec.ofNat 32 (tokenValue slot e.seq), e.strm) }).trans
    (calm_settleFrom (tokens s core) _ core)
  unfold endTok
  dsimp only
  split
  · exact h.trans (calm_sweepSeen ..)
  · exact h

theorem calm_cancelOp (s : State) (core slot : Nat) (e : TokenEntry) : Calm s (cancelOp s core slot e) := by
  unfold cancelOp
  split
  · have hdiscard (t : State) : Calm t (discardLayer t e.ids.jobid slot e.seq) := .ite (.refl t) (msOnly_modMs ..).calm
    exact ((((calm_tornRun ..).trans (hdiscard _)).trans (calm_takeBack ..)).trans (calm_releaseHeld ..)).trans
      (calm_endTok ..)
  · exact calm_endTok ..

/-! ### Cores that are reaped (R33, R168) -/

/-- The first half of reaping a core: what is in flight is cancelled. -/
def cancelOne (core : Nat) (s : State) (x : Nat × TokenEntry) : State :=
  match Tab.get? (tokens s core) x.1 with
  | some e => if e.state.inFlight then cancelOp s core x.1 e else s
  | none => s

/-- The second half: every entry is released. -/
def releaseAll (s : State) (core : Nat) : State := (tokens s core).foldl (fun s x => releaseTok s core x.1) s

theorem reapCore_eq (s : State) (core : Nat) :
    reapCore s core = releaseAll ((tokens s core).foldl (cancelOne core) s) core := rfl

theorem calm_cancelOne (core : Nat) (s : State) (x : Nat × TokenEntry) : Calm s (cancelOne core s x) := by
  unfold cancelOne
  split
  · exact .ite (calm_cancelOp ..) (.refl s)
  · exact .refl s

theorem calm_releaseAll (s : State) (core : Nat) : Calm s (releaseAll s core) :=
  calm_foldl _ (fun _ _ => calm_releaseTok ..) _ _

theorem calm_reapCore (s : State) (core : Nat) : Calm s (reapCore s core) :=
  (calm_foldl _ (calm_cancelOne core) _ s).trans (calm_releaseAll ..)

/-- Releasing the entry at the head of a table leaves the rest. -/
theorem tokens_releaseTok_head {s : State} {core : Nat} {x : Nat × TokenEntry} {t : Tab TokenEntry}
    (h : tokens s core = x :: t) : tokens (releaseTok s core x.1) core = t := by
  obtain ⟨k, e⟩ := x
  have hget : Tab.get? (tokens s core) k = some e := by rw [h, Tab.get?, if_pos rfl]
  have hdel : Tab.del (tokens s core) k = t := by rw [h, Tab.del, if_pos rfl]
  unfold releaseTok
  rw [hget]
  dsimp only
  rw [tokens, getCore_modCore_self]
  split
  · exact hdel
  · exact hdel

/-- An emptied table. -/
theorem tokens_releaseAll (s : State) (core : Nat) : tokens (releaseAll s core) core = [] := by
  unfold releaseAll
  generalize h : tokens s core = l
  induction l generalizing s with
  | nil => exact h
  | cons x l ih => exact ih (releaseTok s core x.1) (tokens_releaseTok_head h)

theorem tokens_reapCore (s : State) (core : Nat) : tokens (reapCore s core) core = [] := tokens_releaseAll ..

end Sys2Proof.Proofs
end

section
/-! PROOFS. What becomes of a unit, a cluster and a partition that change hands (R33, R185, R400, R401). -/

namespace Sys2Proof.Proofs
open Sys2Proof Sys2Proof.Machine

/-! ### Units (R400) -/

/-- No byte is listed at an address. -/
def Unlisted (m : Memory) (a : Nat) : Prop := ∀ e ∈ m, e.1 ≠ a

theorem Unlisted.byte {m : Memory} {a : Nat} (h : Unlisted m a) : Memory.byte m a = 0 := by
  induction m with
  | nil => rfl
  | cons e t ih =>
    obtain ⟨i, b⟩ := e
    rw [Memory.byte, if_neg (h (i, b) (List.mem_cons_self ..))]
    split
    · rfl
    · exact ih fun e he => h e (List.mem_cons_of_mem _ he)

theorem unlisted_dropRange (m : Memory) {lo n a : Nat} (hlo : lo ≤ a) (hhi : a < lo + n) :
    Unlisted (dropRange m lo n) a := by
  rintro e he rfl
  simp [dropRange, hlo, hhi] at he

theorem Unlisted.dropRange {m : Memory} {a : Nat} (h : Unlisted m a) (lo n : Nat) : Unlisted (dropRange m lo n) a :=
  fun e he => h e (List.mem_filter.1 he).1

theorem msOnly_scrubUnits (l : List Nat) (s : State) : MsOnly s (l.foldl scrubUnit s) :=
  msOnly_foldl scrubUnit (fun _ _ => rfl) l s

/-- The units that are scrubbed read zero. -/
theorem unlisted_scrubUnits {l : List Nat} {k a : Nat} (s : State) (hk : k ∈ l) (hlo : k * 2 ^ 30 ≤ a)
    (hhi : a < (k + 1) * 2 ^ 30) : Unlisted (l.foldl scrubUnit s).ms.mem a := by
  induction l generalizing s with
  | nil => cases hk
  | cons x l ih =>
    rcases List.mem_cons.1 hk with rfl | hk
    · exact foldl_keeps (fun t : State => Unlisted t.ms.mem a) scrubUnit (fun _ _ h => h.dropRange _ _) l _
        (unlisted_dropRange s.ms.mem hlo (by omega))
    · exact ih (scrubUnit s x) hk

/-! ### Cores (R33) -/

theorem mem_coresOfCluster {k cl : Nat} : k ∈ coresOfCluster cl ↔ clusterOf k = cl := by
  have hpos : 0 < Config.coresPerCluster := by decide
  simp only [coresOfCluster, clusterOf, List.mem_map, List.mem_range]
  constructor
  · rintro ⟨i, hi, rfl⟩
    rw [Nat.mul_add_div hpos, Nat.div_eq_of_lt hi, Nat.add_zero]
  · rintro rfl
    exact ⟨k % Config.coresPerCluster, Nat.mod_lt _ hpos, Nat.div_add_mod ..⟩

/-- What is done to each core of a list, and leaves its table empty, leaves all their tables empty. -/
theorem tokens_foldl {f : State → Nat → State} (hcalm : ∀ s c, Calm s (f s c)) (hown : ∀ s c, tokens (f s c) c = [])
    {l : List Nat} {c : Nat} (hc : c ∈ l) (s : State) : tokens (l.foldl f s) c = [] := by
  induction l generalizing s with
  | nil => cases hc
  | cons x l ih =>
    rcases List.mem_cons.1 hc with rfl | hc
    · exact (calm_foldl f hcalm l _).empty c (hown s c)
    · exact ih hc (f s x)

/-- A core's other state is zeroed. -/
def clearedCore (c : Core) : Core :=
  { c with tokens := [], localQueue := [], collectives := [], tracePend := [], traceSeq := .replicate 3 none, traceJob := none }

theorem calm_zeroCore (s : State) (core : Nat) : Calm s (zeroCore s core) :=
  ((calm_reapCore s core).trans (calm_modCore _ core clearedCore fun _ _ => rfl)).trans (.of_eq rfl rfl)

theorem tokens_zeroCore (s : State) (core : Nat) : tokens (zeroCore s core) core = [] :=
  congrArg Core.tokens (getCore_modCore_self (reapCore s core) core clearedCore)

theorem calm_zeroBarriers (s : State) (cl : Nat) : Calm s (zeroBarriers s cl) := .of_eq rfl rfl

theorem calm_zeroCluster (s : State) (cl : Nat) : Calm s (zeroCluster s cl) :=
  (calm_foldl zeroCore calm_zeroCore _ s).trans (calm_zeroBarriers ..)

theorem tokens_zeroCluster (s : State) {cl k : Nat} (hk : clusterOf k = cl) : tokens (zeroCluster s cl) k = [] :=
  (calm_zeroBarriers _ cl).empty k (tokens_foldl (f := zeroCore) calm_zeroCore tokens_zeroCore (mem_coresOfCluster.2 hk) s)

/-- Device memory, the jobs and the saved contexts are the same, and the second state is calm. -/
structure SameWork (s t : State) : Prop where
  mem : t.ms.mem = s.ms.mem
  jobs : t.jobs = s.jobs
  saved : t.saved = s.saved
  calm : Calm s t

theorem SameWork.refl (s : State) : SameWork s s := ⟨rfl, rfl, rfl, .refl s⟩

theorem SameWork.trans {s t u : State} (a : SameWork s t) (b : SameWork t u) : SameWork s u :=
  ⟨b.mem.trans a.mem, b.jobs.trans a.jobs, b.saved.trans a.saved, a.calm.trans b.calm⟩

/-- There is nothing to reap on a core without tokens. -/
theorem reapCore_nil {s : State} {core : Nat} (h : tokens s core = []) : reapCore s core = s := by
  rw [reapCore_eq, h]
  change releaseAll s core = s
  rw [releaseAll, h]
  rfl

theorem sameWork_zeroCore {s : State} {core : Nat} (h : tokens s core = []) : SameWork s (zeroCore s core) := by
  have hcalm := calm_zeroCore s core
  unfold zeroCore at hcalm ⊢
  rw [reapCore_nil h] at hcalm ⊢
  exact ⟨rfl, rfl, rfl, hcalm⟩

/-- What each step of a fold over cores with empty tables leaves. -/
theorem sameWork_foldl {f : State → Nat → State} {cores : Nat → List Nat}
    (hf : ∀ s x, (∀ c ∈ cores x, tokens s c = []) → SameWork s (f s x)) (l : List Nat) (s : State)
    (h : ∀ x ∈ l, ∀ c ∈ cores x, tokens s c = []) : SameWork s (l.foldl f s) := by
  induction l generalizing s with
  | nil => exact .refl s
  | cons x l ih =>
    have hx := hf s x (h x (List.mem_cons_self ..))
    exact hx.trans (ih (f s x) fun y hy c hc => hx.calm.empty c (h y (List.mem_cons_of_mem _ hy) c hc))

theorem sameWork_zeroBarriers (s : State) (cl : Nat) : SameWork s (zeroBarriers s cl) :=
  ⟨rfl, rfl, rfl, calm_zeroBarriers s cl⟩

theorem sameWork_zeroCluster {s : State} {cl : Nat} (h : ∀ c ∈ coresOfCluster cl, tokens s c = []) :
    SameWork s (zeroCluster s cl) := by
  have hcores := sameWork_foldl (f := zeroCore) (cores := fun c => [c])
    (fun _ _ hc => sameWork_zeroCore (hc _ (List.mem_singleton_self _))) (coresOfCluster cl) s
    fun x hx c hc => by rw [List.mem_singleton.1 hc]; exact h x hx
  exact hcores.trans (sameWork_zeroBarriers _ cl)

/-! ### Scratchpads (R33) -/

/-- Nothing is in flight on a core. -/
def Idle (s : State) (core : Nat) : Prop := ∀ e ∈ tokens s core, e.2.state.inFlight = false

/-- On an idle core there is nothing to cancel. -/
theorem reapCore_idle {s : State} {core : Nat} (h : Idle s core) : reapCore s core = releaseAll s core := by
  have hcancel : (tokens s core).foldl (cancelOne core) s = s := by
    refine foldl_keeps (· = s) _ (fun t x ht => ?_) _ s rfl
    subst ht
    unfold cancelOne
    split
    · rename_i hget
      rw [if_neg]
      rw [h _ (Tab.mem_of_get? _ _ _ hget)]
      exact Bool.false_ne_true
    · rfl
  rw [reapCore_eq, hcancel]

theorem ms_releaseTok (s : State) (core slot : Nat) : (releaseTok s core slot).ms = s.ms := by
  unfold releaseTok
  split
  · rfl
  · dsimp only
    split <;> rfl

theorem tokens_releaseTok_ne (s : State) {core c : Nat} (slot : Nat) (hc : c ≠ core) :
    tokens (releaseTok s core slot) c = tokens s c := by
  unfold releaseTok
  split
  · rfl
  · dsimp only
    rw [tokens, getCore_modCore_ne _ _ _ _ hc]
    split <;> rfl

theorem spad_zeroCore {s : State} {core : Nat} (h : Idle s core) :
    (zeroCore s core).ms.spad = dropRange s.ms.spad (core * Config.spadSpan) Config.spadSpan := by
  have hms : (releaseAll s core).ms = s.ms :=
    foldl_keeps (fun t : State => t.ms = s.ms) _ (fun t x ht => (ms_releaseTok t core x.1).trans ht) _ s rfl
  unfold zeroCore
  rw [reapCore_idle h]
  change dropRange (releaseAll s core).ms.spad _ _ = _
  rw [hms]

theorem tokens_zeroCore_ne {s : State} {core c : Nat} (h : Idle s core) (hc : c ≠ core) :
    tokens (zeroCore s core) c = tokens s c := by
  unfold zeroCore
  rw [reapCore_idle h]
  refine (congrArg Core.tokens (getCore_modCore_ne (releaseAll s core) core c clearedCore hc)).trans ?_
  exact foldl_keeps (fun t : State => tokens t c = tokens s c) _
    (fun t x ht => (tokens_releaseTok_ne t x.1 hc).trans ht) _ s rfl

theorem idle_zeroCore {s : State} {core c : Nat} (hcore : Idle s core) (hc : Idle s c) : Idle (zeroCore s core) c := by
  by_cases he : c = core
  · intro e hmem
    rw [he, tokens_zeroCore] at hmem
    cases hmem
  · rwa [Idle, tokens_zeroCore_ne hcore he]

/-- Each of some idle cores that are zeroed has a scratchpad of zeros. -/
theorem unlisted_zeroCores {l : List Nat} {k a : Nat} (s : State) (hidle : ∀ c ∈ l, Idle s c) (hk : k ∈ l)
    (hlo : k * Config.spadSpan ≤ a) (hhi : a < (k + 1) * Config.spadSpan) :
    Unlisted (l.foldl zeroCore s).ms.spad a := by
  have hkeep (l : List Nat) (s : State) (hidle : ∀ c ∈ l, Idle s c) (h : Unlisted s.ms.spad a) :
      Unlisted (l.foldl zeroCore s).ms.spad a := by
    induction l generalizing s with
    | nil => exact h
    | cons x l ih =>
      have hx := hidle x (List.mem_cons_self ..)
      refine ih _ (fun c hc => idle_zeroCore hx (hidle c (List.mem_cons_of_mem _ hc))) ?_
      rw [spad_zeroCore hx]
      exact h.dropRange _ _
  induction l generalizing s with
  | nil => cases hk
  | cons x l ih =>
    have hx := hidle x (List.mem_cons_self ..)
    have hl := fun c hc => idle_zeroCore hx (hidle c (List.mem_cons_of_mem _ hc))
    rcases List.mem_cons.1 hk with rfl | hk
    · refine hkeep l _ hl ?_
      rw [spad_zeroCore hx]
      exact unlisted_dropRange _ hlo (by rw [← Nat.succ_mul]; exact hhi)
    · exact ih (zeroCore s x) hl hk

theorem byte_zeroCluster {s : State} {cl k a : Nat} (hidle : ∀ k, clusterOf k = cl → Idle s k) (hk : clusterOf k = cl)
    (hlo : k * Config.spadSpan ≤ a) (hhi : a < (k + 1) * Config.spadSpan) :
    Memory.byte (zeroCluster s cl).ms.spad a = 0 :=
  (unlisted_zeroCores s (fun c hc => hidle c (mem_coresOfCluster.1 hc)) (mem_coresOfCluster.2 hk) hlo hhi).byte

/-! ### Barriers (R185) -/

theorem Tab.get?_map {α β : Type} (t : Tab α) (f : Nat × α → β) (k : Nat) :
    Tab.get? (t.map fun e => (e.1, f e)) k = (Tab.get? t k).map fun x => f (k, x) := by
  induction t with
  | nil => rfl
  | cons x t ih =>
    obtain ⟨i, y⟩ := x
    rw [List.map_cons, Tab.get?, Tab.get?]
    split
    · rename_i e
      subst e
      rfl
    · split
      · rfl
      · exact ih

/-- The instances that are left when a cluster is zeroed have another cluster of their partition in their domain. -/
theorem barriers_zeroCluster {s : State} {cl q : Nat} {b : Barrier}
    (hb : b ∈ (getPart (zeroCluster s cl) q).barriers) (hin : inDomain b cl = true) :
    ∃ c, c ≠ cl ∧ (c, q) ∈ s.clusterOwner ∧ inDomain b c = true := by
  have howner : ((coresOfCluster cl).foldl zeroCore s).clusterOwner = s.clusterOwner :=
    (calm_foldl zeroCore calm_zeroCore _ s).owner
  unfold zeroCluster at hb
  generalize (coresOfCluster cl).foldl zeroCore s = t at hb howner
  unfold zeroBarriers getPart Tab.getD at hb
  dsimp only at hb
  rw [Tab.get?_map] at hb
  cases hq : Tab.get? t.parts q with
  | none => rw [hq] at hb; cases hb
  | some x =>
    rw [hq] at hb
    obtain ⟨-, hstay⟩ := List.mem_filter.1 hb
    simp only [hin, Bool.not_true, Bool.false_or, ownedBy, List.any_eq_true, List.mem_map, List.mem_filter,
      Bool.and_eq_true, bne_iff_ne, beq_iff_eq] at hstay
    obtain ⟨c, ⟨⟨k, r⟩, ⟨hmem, hr⟩, hkc⟩, hne, hdom⟩ := hstay
    dsimp only at hr hkc
    subst hr hkc
    exact ⟨k, hne, howner ▸ hmem, hdom⟩

/-! ### Destroying a partition (R401) -/

/-- The partition is destroyed: no job, context, owner or byte of it is left. -/
theorem destroyPart_spec (s : State) (p : Nat) :
    getPart (destroyPart s p) p = Part.reset
      ∧ (∀ e ∈ (destroyPart s p).jobs, e.2.ids.part ≠ p) ∧ (∀ x ∈ (destroyPart s p).saved, x.job.ids.part ≠ p)
      ∧ (∀ e ∈ (destroyPart s p).unitOwner ++ (destroyPart s p).clusterOwner ++ (destroyPart s p).ownOwner, e.2 ≠ p)
      ∧ (∀ k a, (k, p) ∈ s.unitOwner → k * 2 ^ 30 ≤ a → a < (k + 1) * 2 ^ 30 →
        Memory.byte (destroyPart s p).ms.mem a = 0) := by
  have hreap (c : Nat) (hc : c ∈ (ownedBy s.clusterOwner p).flatMap coresOfCluster) :
      tokens (((ownedBy s.clusterOwner p).flatMap coresOfCluster).foldl reapCore s) c = [] :=
    tokens_foldl calm_reapCore tokens_reapCore hc s
  unfold destroyPart
  extract_lets units clusters s1 s2 s3 s4 s5
  have hscrub : MsOnly s3 (units.foldl scrubUnit s3) := msOnly_scrubUnits units s3
  have hcores : (units.foldl scrubUnit s3).cores = s1.cores := hscrub.cores
  have hwork : SameWork (units.foldl scrubUnit s3) s4 := by
    refine sameWork_foldl (f := zeroCluster) (cores := coresOfCluster) (fun _ _ h => sameWork_zeroCluster h) clusters _ ?_
    intro x hx c hc
    rw [tokens, getCore, hcores]
    exact hreap c (List.mem_flatMap.2 ⟨x, hx, hc⟩)
  refine ⟨Tab.getD_set_self .., ?_, ?_, ?_, ?_⟩
  · intro e he
    change e ∈ s4.jobs at he
    rw [hwork.jobs, hscrub.jobs] at he
    simpa using (List.mem_filter.1 he).2
  · intro x hx
    change x ∈ s4.saved at hx
    rw [hwork.saved, show units.foldl scrubUnit s3 = { s3 with ms := _ } from hscrub] at hx
    simpa using (List.mem_filter.1 hx).2
  · intro e he
    simp only [List.mem_append, List.mem_filter, bne_iff_ne] at he
    rcases he with (h | h) | h <;> exact h.2
  · intro k a hk hlo hhi
    refine Unlisted.byte ?_
    change Unlisted s4.ms.mem a
    rw [hwork.mem]
    refine unlisted_scrubUnits s3 (List.mem_map.2 ⟨(k, p), List.mem_filter.2 ⟨hk, ?_⟩, rfl⟩) hlo hhi
    simp

end Sys2Proof.Proofs
end

section
/-! PROOFS. Quotes: their length and signature, and the window that asks for them (R405, R406). -/

namespace Sys2Proof.Proofs
open Sys2Proof Sys2Proof.Machine

/-! ### Lengths (R405, R406) -/

@[simp] theorem length_leBytes (n v : Nat) : (leBytes n v).length = n := by
  induction n generalizing v with
  | zero => rfl
  | succ n ih => rw [leBytes, List.length_cons, ih]

@[simp] theorem length_beBytes (n v : Nat) : (beBytes n v).length = n := by
  induction n with
  | zero => rfl
  | succ n ih => rw [beBytes, List.length_cons, ih]

theorem ofLe_leBytes (n v : Nat) : ofLe (leBytes n v) = v % 256 ^ n := by
  induction n generalizing v with
  | zero => rw [leBytes, ofLe, Nat.pow_zero, Nat.mod_one]
  | succ n ih =>
    have hpow : 256 ^ (n + 1) = 256 * 256 ^ n := Nat.pow_succ'
    rw [leBytes, ofLe, ih, BitVec.toNat_ofNat, hpow, Nat.mod_mul]

theorem length_shaRound (v : List Word) (k w : Word) (h : v.length = 8) : (shaRound v k w).length = 8 := by
  unfold shaRound
  split
  · rfl
  · exact h

theorem length_shaRounds (ks w v : List Word) (h : v.length = 8) : (shaRounds ks w v).length = 8 := by
  induction ks generalizing w v with
  | nil => exact h
  | cons k ks ih => exact ih _ _ (length_shaRound v k _ h)

theorem length_shaBlocks (n : Nat) (bs : List Byte) (h : List Word) (hh : h.length = 8) : (shaBlocks n bs h).length = 8 := by
  induction n generalizing bs h with
  | zero => exact hh
  | succ n ih =>
    refine ih _ _ ?_
    rw [shaBlock, List.length_map, List.length_zip, hh, length_shaRounds shaK _ h hh]
    rfl

/-- A digest has 64 bytes. -/
@[simp] theorem length_sha512 (m : List Byte) : (sha512 m).length = 64 := by
  rw [sha512, List.length_flatMap]
  simp [length_shaBlocks, shaInit]

theorem length_quoteBody (s : State) (p : Nat) (nonce : List Byte) (h : nonce.length = 64) :
    (quoteBody s p nonce).length = 512 := by
  simp only [quoteBody, bytes512, List.length_append, length_leBytes, length_sha512, List.length_replicate, h]

theorem length_identitySign (msg : List Byte) : (identitySign msg).length = 512 := by
  rw [identitySign, List.length_reverse, length_leBytes]

theorem length_quoteBytes (s : State) (p : Nat) (nonce : List Byte) (h : nonce.length = 64) :
    (quoteBytes s p nonce).length = 1024 := by
  rw [quoteBytes, List.length_append, length_quoteBody s p nonce h, length_identitySign]

/-! ### The signature (R406) -/

/-- Modular powers, where the fuel covers the bits of the exponent. -/
theorem powMod_eq (n fuel b e : Nat) (he : e < 2 ^ fuel) : powMod n fuel b e = b ^ e % n := by
  induction fuel generalizing b e with
  | zero =>
    obtain rfl : e = 0 := by omega
    rw [powMod, Nat.pow_zero]
  | succ fuel ih =>
    have hsq : powMod n fuel (b * b % n) (e / 2) = b ^ (2 * (e / 2)) % n := by
      rw [ih _ _ (by omega), ← Nat.pow_mod, ← Nat.pow_two, ← Nat.pow_mul]
    rw [powMod, hsq]
    split
    · rename_i hodd
      rw [Nat.mul_mod_mod, ← Nat.pow_succ', show (2 * (e / 2)).succ = e by omega]
    · rw [show 2 * (e / 2) = e by omega]

/-- Words that are laid side by side. -/
theorem sum_words_lt (f : Nat → Word) (n : Nat) : ((List.range n).map fun i => (f i).toNat * 2 ^ (64 * i)).sum < 2 ^ (64 * n) := by
  induction n with
  | zero => simp
  | succ n ih =>
    rw [List.range_succ, List.map_append, List.sum_append, List.map_singleton, List.sum_singleton, Nat.mul_succ, Nat.pow_add]
    have hword : (f n).toNat + 1 ≤ 2 ^ 64 := (f n).isLt
    calc _ < 2 ^ (64 * n) + (f n).toNat * 2 ^ (64 * n) := Nat.add_lt_add_right ih _
      _ = ((f n).toNat + 1) * 2 ^ (64 * n) := by ring
      _ ≤ 2 ^ 64 * 2 ^ (64 * n) := Nat.mul_le_mul_right _ hword
      _ = 2 ^ (64 * n) * 2 ^ 64 := Nat.mul_comm ..

theorem sum_words_lt_bytes (f : Nat → Word) {n k : Nat} (hk : 8 * n = k) :
    ((List.range n).map fun i => (f i).toNat * 2 ^ (64 * i)).sum < 256 ^ k := by
  have hpow : (256 : Nat) ^ k = 2 ^ (64 * n) := by
    rw [← hk, show 256 = 2 ^ 8 from rfl, ← Nat.pow_mul, ← Nat.mul_assoc]
  exact hpow ▸ sum_words_lt f n

theorem ofLe_identitySign (msg : List Byte) (he : Config.identityExponent < 2 ^ 4096) (hn : 0 < identityModulus) :
    ofLe (identitySign msg).reverse
      = ofLe (encodedMessage msg).reverse ^ Config.identityExponent % identityModulus := by
  have hlt : identityModulus < 256 ^ 512 := sum_words_lt_bytes Config.identityWord rfl
  rw [identitySign, List.reverse_reverse, ofLe_leBytes, powMod_eq _ _ _ _ he,
    Nat.mod_eq_of_lt ((Nat.mod_lt _ hn).trans hlt)]

/-! ### Accesses that the management window does not touch (R388, R402) -/

/-- The state with another management window. -/
def withMgmt (m : Mgmt) (s : State) : State := { s with mgmt := m }

section
variable (m : Mgmt)

theorem withMgmt_ite {c : Prop} [Decidable c] (s t : State) :
    withMgmt m (if c then s else t) = if c then withMgmt m s else withMgmt m t := apply_ite (withMgmt m) c s t

theorem withMgmt_foldl {α : Type} (f : State → α → State) (hf : ∀ s x, f (withMgmt m s) x = withMgmt m (f s x))
    (l : List α) (s : State) : l.foldl f (withMgmt m s) = withMgmt m (l.foldl f s) := by
  induction l generalizing s with
  | nil => rfl
  | cons x l ih => rw [List.foldl_cons, hf, ih, List.foldl_cons]

theorem noteOld_withMgmt (s : State) (jobs : List Nat) (g : Nat) (a b : Granule) :
    noteOld (withMgmt m s) jobs g a b = withMgmt m (noteOld s jobs g a b) := Eq.symm (withMgmt_ite m s _)

theorem noteMissed_withMgmt (s : State) (who : Nat × Nat) (pa n : Nat) :
    noteMissed (withMgmt m s) who pa n = withMgmt m (noteMissed s who pa n) := Eq.symm (withMgmt_ite m s _)

theorem readSeen_withMgmt (s : State) (v : Viewer) (pa n : Nat) :
    readSeen (withMgmt m s) v pa n = withMgmt m (readSeen s v pa n) := Eq.symm (withMgmt_ite m s _)

theorem useFresh_withMgmt (s : State) (pa n : Nat) : useFresh (withMgmt m s) pa n = withMgmt m (useFresh s pa n) :=
  Eq.symm (withMgmt_ite m _ s)

theorem writeGranule_withMgmt (s : State) (own : Option Nat) (cmp : Bool) (g o : Nat) (bs : List Byte) :
    writeGranule (withMgmt m s) own cmp g o bs = withMgmt m (writeGranule s own cmp g o bs) := by
  have hview : viewGranule (withMgmt m s) cmp g = viewGranule s cmp g := rfl
  have hids : residentIds (withMgmt m s) = residentIds s := rfl
  have hjob (t : State) (j : Nat) :
      jobGranule (withMgmt m t) (jobView (withMgmt m t) j) cmp g = jobGranule t (jobView t j) cmp g := rfl
  have hcomp (t : State) : compWrite (withMgmt m t) g o bs = withMgmt m (compWrite t g o bs) := rfl
  have hmod (t : State) (f : MemSys → MemSys) : modMs (withMgmt m t) f = withMgmt m (modMs t f) := rfl
  unfold writeGranule
  dsimp only
  rw [hview, hids, noteOld_withMgmt]
  cases own with
  | none => cases cmp <;> simp only [if_true, Bool.false_eq_true, if_false, hcomp, hmod]
  | some j =>
    simp only [hjob, noteOld_withMgmt]
    cases cmp <;> simp only [if_true, Bool.false_eq_true, if_false, hcomp, hmod]

theorem writePa_withMgmt (s : State) (who : Nat × Nat) (own : Option Nat) (cmp : Bool) (pa : Nat) (bs : List Byte) :
    writePa (withMgmt m s) who own cmp pa bs = withMgmt m (writePa s who own cmp pa bs) := by
  unfold writePa
  dsimp only
  rw [noteMissed_withMgmt, withMgmt_foldl m _ fun _ _ => writeGranule_withMgmt ..]
  rfl

/-- A fold that may fail goes through a map of what it folds over. -/
theorem foldl_bind_map {ε α β : Type} (φ : β → β) (f : β → α → Except ε β) (hf : ∀ x a, f (φ x) a = (f x a).map φ)
    (l : List α) (x : β) : l.foldl (fun r a => Except.bind r fun x => f x a) (.ok (φ x))
      = (l.foldl (fun r a => Except.bind r fun x => f x a) (.ok x)).map φ := by
  induction l generalizing x with
  | nil => rfl
  | cons a l ih =>
    rw [List.foldl_cons, List.foldl_cons]
    change l.foldl _ (f (φ x) a) = (l.foldl _ (f x a)).map φ
    rw [hf]
    cases f x a with
    | error e =>
      change l.foldl _ (Except.error e) = _
      rw [foldl_bind_error]
      rfl
    | ok y => exact ih y

/-- What has been read, with another window. -/
def readWith (x : State × List Byte) : State × List Byte := (withMgmt m x.1, x.2)

section
variable {b : Bulk} (hb : Bulk.Plain b)
include hb

theorem readPiece_withMgmt (s : State) (va : Word) (n : Nat) :
    readPiece (withMgmt m s) b va n = (readPiece s b va n).map (readWith m) := by
  unfold readPiece
  split
  · rw [spad_plain hb]
    rfl
  · rw [show agentXl (withMgmt m s) b.ag va .read = agentXl s b.ag va .read from rfl]
    split
    · rfl
    · rename_i x _
      rw [show jobPoison (withMgmt m s) b.ag.view = jobPoison s b.ag.view from rfl]
      split
      · rfl
      · dsimp only
        rw [keepRead_plain hb, keepRead_plain hb, readSeen_withMgmt, useFresh_withMgmt]
        rfl

theorem readRange_withMgmt (s : State) (va : Word) (n : Nat) :
    readRange (withMgmt m s) b va n = (readRange s b va n).map (readWith m) := by
  refine foldl_bind_map (readWith m) _ (fun x p => ?_) _ (s, [])
  rw [readWith, readPiece_withMgmt m hb]
  cases readPiece x.1 b (BitVec.ofNat 64 p.1) p.2 <;> rfl

theorem writeXl_withMgmt (hwet : b.wet = false) (s : State) (va : Nat) (x : Xl) (bs : List Byte) :
    writeXl (withMgmt m s) b va x bs = withMgmt m (writeXl s b va x bs) := by
  have hnote (t : State) : noteOpWrite t b x = t := by rw [noteOpWrite, hb.tok]
  simp only [writeXl, hwet, Bool.false_and, Bool.false_eq_true, if_false, hnote]
  exact withMgmt_foldl m _ (fun _ _ => writePa_withMgmt ..) _ s

theorem writePiece_withMgmt (hwet : b.wet = false) (s : State) (va : Word) (bs : List Byte) :
    writePiece (withMgmt m s) b va bs = (writePiece s b va bs).map (withMgmt m) := by
  unfold writePiece
  dsimp only
  split
  · rw [spad_plain hb]
    rfl
  · rw [show agentXl (withMgmt m s) b.ag va .write = agentXl s b.ag va .write from rfl]
    split
    · rfl
    · simp only [hwet, Bool.false_and, Bool.false_eq_true, if_false, writeXl_withMgmt m hb hwet]
      rfl

/-- A write as far as it has gone, with another window. -/
def writtenWith (w : Written) : Written := ⟨withMgmt m w.st, w.fail⟩

theorem writePieces_withMgmt (hwet : b.wet = false) (va : Nat) (bs : List Byte) (w : Written) (p : Nat × Nat) :
    writePieces b va bs (writtenWith m w) p = writtenWith m (writePieces b va bs w p) := by
  unfold writePieces
  simp only [writtenWith, writePiece_withMgmt m hb hwet]
  split
  · rfl
  · cases writePiece w.st b (BitVec.ofNat 64 p.1) (slice bs (p.1 - va) p.2) <;> rfl

theorem writeRange_withMgmt (hwet : b.wet = false) (w : Written) (va : Word) (bs : List Byte) :
    writeRange (writtenWith m w) b va bs = writtenWith m (writeRange w b va bs) := by
  unfold writeRange
  generalize pieces va.toNat bs.length = l
  induction l generalizing w with
  | nil => rfl
  | cons p l ih => rw [List.foldl_cons, writePieces_withMgmt m hb hwet, ih, List.foldl_cons]

theorem writeAll_withMgmt (hwet : b.wet = false) (s : State) (va : Word) (bs : List Byte) :
    writeAll (withMgmt m s) b va bs = (writeAll s b va bs).map (withMgmt m) := by
  unfold writeAll
  rw [show (⟨withMgmt m s, none⟩ : Written) = writtenWith m ⟨s, none⟩ from rfl, writeRange_withMgmt m hb hwet]
  dsimp only [writtenWith]
  split <;> rfl

end

/-- QUOTE, with another window. -/
theorem ctlQuote_withMgmt {s s' u : State} {p : Nat} {v : Word} {bs : List Byte} (hv : v.toNat % 256 = 0)
    (hread : readRange s (dispatcher p 0) (v + 16) 64 = .ok (s', bs))
    (hwrite : writeAll s' (dispatcher p 0) v (quoteBytes s' p bs) = .ok u) :
    ctlQuote (withMgmt m s) p (dispatcher p 0) v = .ok (withMgmt m u, ctlDone) := by
  have hb := plain_dispatcher p 0 noPred
  have hv' : (v.toNat % 256 != 0) = false := by rw [hv]; rfl
  unfold ctlQuote
  rw [hv', if_neg Bool.false_ne_true, readRange_withMgmt m hb, hread]
  change (writeAll (withMgmt m s') _ v (quoteBytes s' p bs)).map _ = _
  rw [writeAll_withMgmt m hb rfl, hwrite]
  rfl

end

end Sys2Proof.Proofs
end

section
/-! PROOFS. The life of a partition under the host's control operations (R399 to R406). -/

namespace Sys2Proof.Proofs
open Sys2Proof Sys2Proof.Machine

/-! ### The management window (R402, R403) -/

/-- A field of an operation word. -/
theorem toNat_mgmtWord {op part index : Nat} (wrt : Bool) (hop : op < 256) (hpart : part < 8) (hindex : index < 65536) :
    (mgmtWord op part index wrt).toNat = op + b2n wrt * 2 ^ 8 + part * 2 ^ 9 + 2 ^ 12 + index * 2 ^ 16 := by
  have hw : b2n wrt ≤ 1 := by cases wrt <;> decide
  rw [mgmtWord, BitVec.toNat_ofNat, Nat.mod_eq_of_lt hpart]
  exact Nat.mod_eq_of_lt (by omega)

theorem bitOf_eq (w : Word) (i : Nat) : bitOf w i = decide (w.toNat / 2 ^ i % 2 = 1) := by
  rw [bitOf, BitVec.getLsbD, Nat.testBit_eq_decide_div_mod_eq]

section
variable {op part index : Nat} (wrt : Bool) (hop : op < 256) (hpart : part < 8) (hindex : index < 65536)
include hop hpart hindex

/-- The word says what the host asks for. -/
theorem ctlOf_mgmtWord (arg : Word) : ctlOf (mgmtWord op part index wrt) arg = ⟨op, wrt, index, arg⟩ := by
  have hn := toNat_mgmtWord wrt hop hpart hindex
  have hw : b2n wrt ≤ 1 := by cases wrt <;> decide
  have h0 : bitsOf (mgmtWord op part index wrt) 0 8 = op := by
    rw [bitsOf, hn]
    omega
  have h8 : bitOf (mgmtWord op part index wrt) 8 = wrt := by
    have hb : (mgmtWord op part index wrt).toNat / 2 ^ 8 % 2 = b2n wrt := by
      rw [hn]
      omega
    rw [bitOf_eq, hb]
    cases wrt <;> rfl
  have h16 : bitsOf (mgmtWord op part index wrt) 16 16 = index := by
    rw [bitsOf, hn]
    omega
  rw [ctlOf, h0, h8, h16]

theorem mgmtWord_names : ctlWordOk (mgmtWord op part index wrt) = true ∧ bitOf (mgmtWord op part index wrt) 12 = true
    ∧ bitsOf (mgmtWord op part index wrt) 9 3 = part := by
  have hn := toNat_mgmtWord wrt hop hpart hindex
  have hw : b2n wrt ≤ 1 := by cases wrt <;> decide
  have h12 : bitOf (mgmtWord op part index wrt) 12 = true := by
    rw [bitOf_eq, hn, decide_eq_true_eq]
    omega
  refine ⟨?_, h12, ?_⟩
  · simp only [ctlWordOk, h12, bitsOf, hn, Bool.true_or, Bool.and_true, Bool.and_eq_true, beq_iff_eq]
    constructor <;> omega
  · rw [bitsOf, hn]
    omega

end

/-! ### What the host may do with a partition that is not sealed (R404) -/

theorem isSealed_eq_false {s : State} (hs : Say.served s) (q : Nat) : isSealed s q = false := by
  rw [isSealed, beq_eq_false_iff_ne]
  exact hs.2 q

theorem sealedStop_eq_false {s : State} (hs : Say.served s) (p : Nat) (c : CtlOp) : sealedStop s p c = false := by
  have howner (q : Option Nat) : sealedOwner s q = false := by
    cases q with
    | none => rfl
    | some q => exact isSealed_eq_false hs q
  unfold sealedStop
  split <;> simp only [isSealed_eq_false hs, howner, Bool.or_false, Bool.and_false]

/-- An operation that reaches memory it cannot reach is refused (log 88). -/
def orRefused (s : State) : Except BulkFail (State × Word) → State × Word
  | .ok r => r
  | .error _ => (s, BitVec.ofNat 64 ctlRefused)

/-- The host's operations of R403 below EXTEND and QUOTE are those of PCTL. -/
theorem hostPerform_ctl {s : State} {p : Nat} {c : CtlOp} (hs : Say.served s) (hop : c.op < 0x1A) (h5 : c.op ≠ 0x05)
    (hlegal : ctlLegal s p c = true) :
    hostPerform s p c = orRefused s (ctlPerform s p (dispatcher p 0) c) := by
  have hmode : (s.platform.mode == .recovery) = false := by rw [hs.1]; rfl
  have h1A : c.op ≠ 0x1A := by omega
  have h22 : c.op ≠ 0x22 := by omega
  have h23 : c.op ≠ 0x23 := by omega
  have hdebug : debugOp c.op = false := by
    rw [debugOp, decide_eq_false (by omega), Bool.false_and]
  have h5' : (c.op == 0x05) = false := beq_eq_false_iff_ne.2 h5
  have hhost : hostLegal s p c = true := by
    rw [hostLegal, if_neg h1A, if_neg h22, if_neg h23, hdebug, if_neg Bool.false_ne_true, hlegal]
  unfold hostPerform
  simp only [hmode, hhost, h5', sealedStop_eq_false hs, hdebug, h1A, h22, h23, Bool.false_and, Bool.not_true,
    Bool.or_false, Bool.false_eq_true, if_false]
  rfl

/-- An operation is performed with itself in the window, and leaves the window idle with its result. -/
theorem answers_of_perform {i : Instr} {s : State} {o : HostOp} {op index : Nat} {wrt : Bool}
    (hexec : exec i s = hostOp op index wrt o s) (hs : Say.served s) (hop : op < 256) (hpart : o.part < 8)
    (hindex : index < 65536) :
    ∃ m, Say.answers i s (hostPerform (withMgmt m s) o.part ⟨op, wrt, index, o.arg⟩).1
      (hostPerform (withMgmt m s) o.part ⟨op, wrt, index, o.arg⟩).2 := by
  obtain ⟨hok, h12, hp⟩ := mgmtWord_names wrt hop hpart hindex
  have hc := ctlOf_mgmtWord wrt hop hpart hindex o.arg
  have hmode : s.platform.mode ≠ .starting := by
    rw [hs.1]
    exact nofun
  unfold Say.answers
  rw [hexec, hostOp, if_neg hmode]
  generalize mgmtWord op o.part index wrt = w at hok h12 hp hc
  let m : Mgmt := ⟨w, o.arg, s.mgmt.res, 1⟩
  refine ⟨m, (hostPerform (withMgmt m s) o.part ⟨op, wrt, index, o.arg⟩).1.mgmt.op,
    (hostPerform (withMgmt m s) o.part ⟨op, wrt, index, o.arg⟩).1.mgmt.arg, congrArg Host.Outcome.next ?_⟩
  unfold performMgmt
  dsimp only
  rw [hc, hok, h12, hp, Bool.true_or, Bool.and_true, if_pos rfl]
  rfl

/-- A write that is one of R403. -/
theorem answers_of_write {i : Instr} {s : State} {o : HostOp} {op index : Nat}
    (hexec : exec i s = hostOp op index true o s) (hs : Say.served s) (hpart : o.part < 8) (hindex : index < 65536)
    (hop : op < 0x1A) (h5 : op ≠ 0x05) (h14 : op ≠ 0x14) (h15 : op ≠ 0x15)
    (hlegal : ctlLegal s o.part ⟨op, true, index, o.arg⟩ = true) :
    ∃ m, Say.answers i s (ctlWrite (withMgmt m s) o.part ⟨op, true, index, o.arg⟩).1
      (BitVec.ofNat 64 (ctlWrite (withMgmt m s) o.part ⟨op, true, index, o.arg⟩).2) := by
  obtain ⟨m, h⟩ := answers_of_perform hexec hs (by omega) hpart hindex
  refine ⟨m, ?_⟩
  rw [hostPerform_ctl (s := withMgmt m s) hs hop h5 hlegal, ctlPerform] at h
  simp only [Bool.not_true, Bool.false_eq_true, if_false, h14, h15] at h
  exact h

/-! ### Opening, destroying, sealing (R399 to R401, R404) -/

section
variable {s : State} {o : HostOp} (hs : Say.served s) (hpart : o.part < 8)
include hs hpart

/-- A write of PCREATE, PDESTROY or SEAL. -/
theorem answers_of_life {i : Instr} {index : Nat} (hexec : exec i s = hostOp 0x12 index true o s) (hindex : index < 3) :
    ∃ m, Say.answers i s (writeLife (withMgmt m s) o.part index o.arg).1
      (BitVec.ofNat 64 (writeLife (withMgmt m s) o.part index o.arg).2) :=
  answers_of_write hexec hs hpart (by omega) (by decide) (by decide) (by decide) (by decide)
    (by simp [ctlLegal, ctlIndexOk, ctlDirs, hindex])

theorem pcreate_opens (hv : o.arg = 0) (hfree : (getPart s o.part).state = .free) :
    Say.answers (.pcreate o) s (modPart s o.part fun t =>
      { t with state := .opened, measurement := 0, measCount := 0, cfgDigest := 0, barriers := [] }) 0 := by
  obtain ⟨m, h⟩ := answers_of_life hs hpart (i := .pcreate o) rfl (by decide)
  rw [writeLife, ctlRule, if_pos (beq_iff_eq.2 hv)] at h
  rw [if_pos (show (getPart (withMgmt m s) o.part).state = .free from hfree)] at h
  exact h

theorem pcreate_busy (hv : o.arg = 0) (hstate : (getPart s o.part).state ≠ .free) : Say.answers (.pcreate o) s s 2 := by
  obtain ⟨m, h⟩ := answers_of_life hs hpart (i := .pcreate o) rfl (by decide)
  rw [writeLife, ctlRule, if_pos (beq_iff_eq.2 hv)] at h
  rw [if_neg (show ¬(getPart (withMgmt m s) o.part).state = .free from hstate)] at h
  exact h

theorem pdestroy_busy (hv : o.arg = 0) (hfree : (getPart s o.part).state = .free) : Say.answers (.pdestroy o) s s 2 := by
  obtain ⟨m, h⟩ := answers_of_life hs hpart (i := .pdestroy o) rfl (by decide)
  rw [writeLife, ctlRule, if_pos (beq_iff_eq.2 hv)] at h
  rw [if_pos (show (getPart (withMgmt m s) o.part).state = .free from hfree)] at h
  exact h

theorem pdestroy_destroys (hv : o.arg = 0) (hstate : (getPart s o.part).state ≠ .free) :
    ∃ m, Say.answers (.pdestroy o) s (destroyPart (withMgmt m s) o.part) 0 := by
  obtain ⟨m, h⟩ := answers_of_life hs hpart (i := .pdestroy o) rfl (by decide)
  rw [writeLife, ctlRule, if_pos (beq_iff_eq.2 hv)] at h
  rw [if_neg (show ¬(getPart (withMgmt m s) o.part).state = .free from hstate)] at h
  exact ⟨m, h⟩

omit hs hpart in
theorem writeLife_seal (s : State) (p : Nat) (v : Word) : writeLife s p 2 v
    = ctlRule (v == 0) s (if sealable s p then (sealPart s p, ctlDone) else (s, ctlBusy)) := rfl

theorem seal_seals (hv : o.arg = 0) (hok : sealable s o.part = true) :
    ∃ m, Say.answers (.sealPartition o) s (sealPart (withMgmt m s) o.part) 0 := by
  obtain ⟨m, h⟩ := answers_of_life hs hpart (i := .sealPartition o) rfl (by decide)
  rw [writeLife_seal, ctlRule, if_pos (beq_iff_eq.2 hv)] at h
  rw [show sealable (withMgmt m s) o.part = true from hok, if_pos rfl] at h
  exact ⟨m, h⟩

theorem seal_busy (hv : o.arg = 0) (hok : sealable s o.part = false) : Say.answers (.sealPartition o) s s 2 := by
  obtain ⟨m, h⟩ := answers_of_life hs hpart (i := .sealPartition o) rfl (by decide)
  rw [writeLife_seal, ctlRule, if_pos (beq_iff_eq.2 hv)] at h
  rw [show sealable (withMgmt m s) o.part = false from hok, if_neg Bool.false_ne_true] at h
  exact h

/-- An argument of one of the three that is not 0 is refused. -/
theorem life_refused {i : Instr} {index : Nat} (hexec : exec i s = hostOp 0x12 index true o s) (hindex : index < 3)
    (hv : o.arg ≠ 0) : Say.answers i s s 1 := by
  obtain ⟨m, h⟩ := answers_of_life hs hpart hexec hindex
  unfold writeLife at h
  rw [ctlRule, if_neg (fun e => hv (beq_iff_eq.1 e))] at h
  exact h

end

/-- One more entry of a measurement (R405). -/
theorem extendMeasure_spec (s : State) (p type : Nat) (d : List Byte) :
    (getPart (extendMeasure s p type d) p).measCount = (getPart s p).measCount + 1
      ∧ (getPart (extendMeasure s p type d) p).measurement
        = BitVec.ofNat 512 (ofLe (sha512 (leBytes 64 (getPart s p).measurement.toNat ++ leBytes 8 type ++ d))) := by
  constructor
  · exact congrArg Part.measCount (getPart_modPart_self ..)
  · exact congrArg Part.measurement (getPart_modPart_self ..)

theorem sealPart_spec (s : State) (p : Nat) :
    (getPart (sealPart s p) p).state = .sealed
      ∧ (getPart (sealPart s p) p).measCount = (getPart s p).measCount + 1
      ∧ (getPart (sealPart s p) p).measurement = BitVec.ofNat 512 (ofLe (sha512 (leBytes 64 (getPart s p).measurement.toNat
        ++ leBytes 8 2 ++ sha512 (configRecord s p)))) := by
  obtain ⟨hcount, hmeas⟩ := extendMeasure_spec s p 2 (sha512 (configRecord s p))
  refine ⟨?_, ?_, ?_⟩
  · exact congrArg Part.state (getPart_modPart_self ..)
  · exact (congrArg Part.measCount (getPart_modPart_self ..)).trans hcount
  · exact (congrArg Part.measurement (getPart_modPart_self ..)).trans hmeas

end Sys2Proof.Proofs
end

section
/-! PROOFS. Measurements and quotes, units and clusters, and requests to leave (R365, R399, R403 to R406). -/

namespace Sys2Proof.Proofs
open Sys2Proof Sys2Proof.Machine

section
variable {s : State} {o : HostOp} (hs : Say.served s) (hpart : o.part < 8) (hwrt : o.wrt = true)
include hs hpart hwrt

/-! ### Measurements and quotes (R405, R406) -/

theorem measure_measures {bs : List Byte} (hopen : (getPart s o.part).state = .opened) (hindex : 1 ≤ o.index.toNat)
    (hpage : o.arg.toNat % 4096 = 0) (hread : readSound s o.part o.arg.toNat (4096 * o.index.toNat) = some bs) :
    ∃ m, Say.answers (.measure o) s (extendMeasure (withMgmt m s) o.part 1 (sha512 bs)) 0 := by
  have hexec : exec (.measure o) s = hostOp 0x13 o.index.toNat true o s := hwrt ▸ rfl
  obtain ⟨m, h⟩ := answers_of_write hexec hs hpart o.index.isLt (by decide) (by decide) (by decide) (by decide)
    (by simp [ctlLegal, ctlIndexOk, ctlDirs, hindex])
  have hstate : ((getPart (withMgmt m s) o.part).state != .opened) = false := by
    rw [show (getPart (withMgmt m s) o.part).state = .opened from hopen]
    rfl
  have hpage' : (o.arg.toNat % 4096 != 0) = false := by
    rw [hpage]
    rfl
  change Say.answers (.measure o) s (writeMeasure (withMgmt m s) o.part o.index.toNat o.arg).1
    (BitVec.ofNat 64 (writeMeasure (withMgmt m s) o.part o.index.toNat o.arg).2) at h
  rw [writeMeasure, hstate, hpage', if_neg Bool.false_ne_true, if_neg Bool.false_ne_true,
    show readSound (withMgmt m s) o.part o.arg.toNat (4096 * o.index.toNat) = some bs from hread] at h
  exact ⟨m, h⟩

theorem extend_refused (hindex : o.index = 0) : Say.answers (.extend o) s s 1 := by
  have hexec : exec (.extend o) s = hostOp 0x14 0 true o s := by
    change hostOp 0x14 o.index.toNat o.wrt o s = _
    rw [hindex, hwrt]
    rfl
  obtain ⟨m, h⟩ := answers_of_perform hexec hs (by decide) hpart (by decide)
  rw [hostPerform_ctl (s := withMgmt m s) hs (by decide : (0x14 : Nat) < 0x1A) (by decide : (0x14 : Nat) ≠ 0x05) rfl] at h
  change Say.answers _ _ (orRefused _ (Except.map _ (ctlExtend (withMgmt m s) o.part _ o.arg))).1
    (orRefused _ (Except.map _ (ctlExtend (withMgmt m s) o.part _ o.arg))).2 at h
  rw [ctlExtend, isSealed_eq_false (s := withMgmt m s) hs, if_neg Bool.false_ne_true] at h
  exact h

theorem quote_quotes {s' u : State} {bs : List Byte} (hindex : o.index = 0) (hv : o.arg.toNat % 256 = 0)
    (hread : readRange s (dispatcher o.part 0) (o.arg + 16) 64 = .ok (s', bs))
    (hwrite : writeAll s' (dispatcher o.part 0) o.arg (quoteBytes s' o.part bs) = .ok u) :
    Say.answers (.quote o) s u 0 := by
  have hexec : exec (.quote o) s = hostOp 0x15 0 true o s := by
    change hostOp 0x15 o.index.toNat o.wrt o s = _
    rw [hindex, hwrt]
    rfl
  obtain ⟨m, h⟩ := answers_of_perform hexec hs (by decide) hpart (by decide)
  rw [hostPerform_ctl (s := withMgmt m s) hs (by decide : (0x15 : Nat) < 0x1A) (by decide : (0x15 : Nat) ≠ 0x05) rfl] at h
  change Say.answers _ _ (orRefused _ (Except.map _ (ctlQuote (withMgmt m s) o.part _ o.arg))).1
    (orRefused _ (Except.map _ (ctlQuote (withMgmt m s) o.part _ o.arg))).2 at h
  rw [ctlQuote_withMgmt m hv hread hwrite] at h
  exact h

/-! ### Owners (R399, R400) -/

omit hs hpart hwrt in
theorem newOwner_rule {v : Word} (hv : v.toNat < 16) (s : State) (w : CtlWrite) :
    ctlRule (bitsOf v 4 60 == 0) s w = w := by
  refine if_pos ?_
  rw [bitsOf, Nat.div_eq_of_lt (show v.toNat < 2 ^ 4 from hv)]
  rfl

omit hs hpart hwrt in
/-- The owner that an owner word names. -/
theorem newOwner_ownerIs {t : Tab Nat} {k : Nat} (h : ∀ q, Tab.get? t k = some q → q < 8) :
    newOwner (Say.ownerIs t k) = Tab.get? t k := by
  unfold Say.ownerIs
  cases hq : Tab.get? t k with
  | none => rfl
  | some q =>
    have := h q hq
    interval_cases q <;> rfl

theorem answers_of_unit (hv : o.arg.toNat < 16) (hindex : o.index.toNat < 384) :
    ∃ m, Say.answers (.unit o) s
      (if Tab.get? s.unitOwner o.index.toNat = newOwner o.arg then withMgmt m s
        else { scrubUnit (withMgmt m s) o.index.toNat with
          unitOwner := setOwner s.unitOwner o.index.toNat (newOwner o.arg) }) 0 := by
  have hexec : exec (.unit o) s = hostOp 0x0F o.index.toNat true o s := hwrt ▸ rfl
  obtain ⟨m, h⟩ := answers_of_write hexec hs hpart o.index.isLt (by decide) (by decide) (by decide) (by decide)
    (by simp [ctlLegal, ctlIndexOk, ctlDirs, Config.numUnits, hindex])
  refine ⟨m, ?_⟩
  change Say.answers _ _ (writeUnit (withMgmt m s) o.index.toNat o.arg).1
    (BitVec.ofNat 64 (writeUnit (withMgmt m s) o.index.toNat o.arg).2) at h
  rw [writeUnit, newOwner_rule hv] at h
  by_cases hsame : Tab.get? s.unitOwner o.index.toNat = newOwner o.arg
  · rw [if_pos (show Tab.get? (withMgmt m s).unitOwner o.index.toNat = newOwner o.arg from hsame)] at h
    rw [if_pos hsame]
    exact h
  · rw [if_neg (show ¬Tab.get? (withMgmt m s).unitOwner o.index.toNat = newOwner o.arg from hsame)] at h
    rw [if_neg hsame]
    exact h

theorem unit_kept (hv : o.arg.toNat < 16) (hindex : o.index.toNat < 384)
    (hsame : Say.ownerIs s.unitOwner o.index.toNat = o.arg)
    (howner : ∀ q, Tab.get? s.unitOwner o.index.toNat = some q → q < 8) : Say.answers (.unit o) s s 0 := by
  obtain ⟨m, h⟩ := answers_of_unit hs hpart hwrt hv hindex
  rw [if_pos (by rw [← hsame, newOwner_ownerIs howner])] at h
  exact h

theorem unit_moved (hv : o.arg.toNat < 16) (hown : bitOf o.arg 0 = true) (hindex : o.index.toNat < 384)
    (hnew : Tab.get? s.unitOwner o.index.toNat ≠ some (bitsOf o.arg 1 3)) :
    ∃ u, Say.answers (.unit o) s u 0 ∧ Tab.get? u.unitOwner o.index.toNat = some (bitsOf o.arg 1 3)
      ∧ ∀ a, o.index.toNat * 2 ^ 30 ≤ a → a < (o.index.toNat + 1) * 2 ^ 30 → Memory.byte u.ms.mem a = 0 := by
  have howner : newOwner o.arg = some (bitsOf o.arg 1 3) := if_pos hown
  obtain ⟨m, h⟩ := answers_of_unit hs hpart hwrt hv hindex
  rw [howner, if_neg hnew] at h
  exact ⟨_, h, Tab.get?_set_self .., fun a hlo hhi =>
    (unlisted_scrubUnits (withMgmt m s) (List.mem_singleton_self _) hlo hhi).byte⟩

theorem answers_of_cluster (hv : o.arg.toNat < 16) (hown : bitOf o.arg 0 = true) (hindex : o.index.toNat < 28)
    (hnew : Tab.get? s.clusterOwner o.index.toNat ≠ some (bitsOf o.arg 1 3)) :
    ∃ m, Say.answers (.cluster o) s
      (if clusterInUse s o.index.toNat then withMgmt m s
        else { zeroCluster (withMgmt m s) o.index.toNat with
          clusterOwner := Tab.set (zeroCluster (withMgmt m s) o.index.toNat).clusterOwner o.index.toNat (bitsOf o.arg 1 3) })
      (if clusterInUse s o.index.toNat then 2 else 0) := by
  have hexec : exec (.cluster o) s = hostOp 0x10 o.index.toNat true o s := hwrt ▸ rfl
  have howner : newOwner o.arg = some (bitsOf o.arg 1 3) := if_pos hown
  obtain ⟨m, h⟩ := answers_of_write hexec hs hpart o.index.isLt (by decide) (by decide) (by decide) (by decide)
    (by simp [ctlLegal, ctlIndexOk, ctlDirs, Config.numClusters, hindex])
  refine ⟨m, ?_⟩
  change Say.answers _ _ (writeCluster (withMgmt m s) o.index.toNat o.arg).1
    (BitVec.ofNat 64 (writeCluster (withMgmt m s) o.index.toNat o.arg).2) at h
  rw [writeCluster, newOwner_rule hv, howner,
    if_neg (show Tab.get? (withMgmt m s).clusterOwner o.index.toNat ≠ some (bitsOf o.arg 1 3) from hnew),
    show clusterInUse (withMgmt m s) o.index.toNat = clusterInUse s o.index.toNat from rfl] at h
  split at h
  · rename_i hbusy
    rw [if_pos hbusy, if_pos hbusy]
    exact h
  · rename_i hfree
    rw [if_neg hfree, if_neg hfree]
    exact h

theorem cluster_busy (hv : o.arg.toNat < 16) (hown : bitOf o.arg 0 = true) (hindex : o.index.toNat < 28)
    (hnew : Tab.get? s.clusterOwner o.index.toNat ≠ some (bitsOf o.arg 1 3))
    (hbusy : clusterInUse s o.index.toNat = true) : Say.answers (.cluster o) s s 2 := by
  obtain ⟨m, h⟩ := answers_of_cluster hs hpart hwrt hv hown hindex hnew
  rw [if_pos hbusy, if_pos hbusy] at h
  exact h

theorem cluster_moved (hv : o.arg.toNat < 16) (hown : bitOf o.arg 0 = true) (hindex : o.index.toNat < 28)
    (hnew : Tab.get? s.clusterOwner o.index.toNat ≠ some (bitsOf o.arg 1 3))
    (hfree : clusterInUse s o.index.toNat = false) :
    ∃ u, Say.answers (.cluster o) s u 0 ∧ Tab.get? u.clusterOwner o.index.toNat = some (bitsOf o.arg 1 3)
      ∧ ((∀ k, clusterOf k = o.index.toNat → ∀ e ∈ tokens s k, e.2.state.inFlight = false) →
        ∀ k a, clusterOf k = o.index.toNat → k * Config.spadSpan ≤ a →
          a < (k + 1) * Config.spadSpan → Memory.byte u.ms.spad a = 0)
      ∧ (∀ k, clusterOf k = o.index.toNat → tokens u k = [])
      ∧ ∀ q, ∀ b ∈ (getPart u q).barriers, inDomain b o.index.toNat = true →
          ∃ c, c ≠ o.index.toNat ∧ (c, q) ∈ s.clusterOwner ∧ inDomain b c = true := by
  obtain ⟨m, h⟩ := answers_of_cluster hs hpart hwrt hv hown hindex hnew
  rw [hfree, if_neg Bool.false_ne_true, if_neg Bool.false_ne_true] at h
  have hspad (hidle : ∀ k, clusterOf k = o.index.toNat → Idle s k) (k a : Nat) (hk : clusterOf k = o.index.toNat) :=
    byte_zeroCluster (s := withMgmt m s) (a := a) hidle hk
  have htokens (k : Nat) (hk : clusterOf k = o.index.toNat) := tokens_zeroCluster (withMgmt m s) hk
  have hbarriers (q : Nat) (b : Barrier) := barriers_zeroCluster (s := withMgmt m s) (cl := o.index.toNat) (q := q) (b := b)
  generalize zeroCluster (withMgmt m s) o.index.toNat = z at h hspad htokens hbarriers
  exact ⟨_, h, Tab.get?_set_self .., hspad, htokens, hbarriers⟩

/-! ### Requests to leave (R365) -/

theorem answers_of_preq (hindex : o.index = 0) :
    ∃ m, Say.answers (.preq o) s (writePreq (withMgmt m s) o.part o.arg).1
      (BitVec.ofNat 64 (writePreq (withMgmt m s) o.part o.arg).2) := by
  have hexec : exec (.preq o) s = hostOp 0x0A 0 true o s := by
    change hostOp 0x0A o.index.toNat o.wrt o s = _
    rw [hindex, hwrt]
    rfl
  exact answers_of_write hexec hs hpart (by decide) (by decide) (by decide) (by decide) (by decide) rfl

theorem preq_asks {k : Nat} {j : Job} (hindex : o.index = 0) (hjobs : s.jobs = [(k, j)]) (hp : j.ids.part = o.part)
    (hid : j.ids.jobid = o.arg.toNat) (hrun : j.phase = .running) (hreq : bitOf j.prereq 0 = false) :
    (canSave s (k / 4) j = true → Say.answers (.preq o) s
      { s with jobs := [(k, { j with prereq := j.prereq ||| 1, reqAt := some (cycleOf s (k / 4)) })] } 0)
    ∧ (canSave s (k / 4) j = false → Say.answers (.preq o) s s 2) := by
  obtain ⟨m, h⟩ := answers_of_preq hs hpart hwrt hindex
  have hfind : ((withMgmt m s).jobs.find? fun e => e.2.ids.part == o.part && e.2.ids.jobid == o.arg.toNat) = some (k, j) := by
    rw [show (withMgmt m s).jobs = [(k, j)] from hjobs]
    simp [hp, hid]
  have hgo : (decide (j.phase = .running) && !requested j) = true := by
    rw [requested, hreq, decide_eq_true hrun]
    rfl
  have hkey : slotKey (k / 4) (k % 4) = k := Nat.div_add_mod k 4
  have hasked : requestJob (withMgmt m s) (k / 4) (k % 4) = { withMgmt m s with
      jobs := [(k, { j with prereq := j.prereq ||| 1, reqAt := some (cycleOf s (k / 4)) })] } := by
    rw [requestJob, hkey, modJob, show (withMgmt m s).jobs = [(k, j)] from hjobs, Tab.modify, if_pos rfl, if_pos hgo]
    rfl
  rw [writePreq, hfind] at h
  dsimp only at h
  rw [if_pos hgo, show canSave (withMgmt m s) (k / 4) j = canSave s (k / 4) j from rfl] at h
  constructor
  · intro hsave
    rw [if_pos hsave, hasked] at h
    exact h
  · intro hsave
    rw [hsave, if_neg Bool.false_ne_true] at h
    exact h

theorem preq_none (hindex : o.index = 0) (hjobs : s.jobs = []) (hsaved : s.saved = []) : Say.answers (.preq o) s s 4 := by
  obtain ⟨m, h⟩ := answers_of_preq hs hpart hwrt hindex
  rw [writePreq, show (withMgmt m s).jobs = [] from hjobs, show (withMgmt m s).saved = [] from hsaved] at h
  exact h

end

/-- Settles O19: the host's operations run on the state with the operation in the window, which none of them reads;
reaping a core that a destroyed partition owned fills no table again (`Calm`). -/
theorem partitionLife : Obligations.PartitionLife := by
  intro s o hs hpart p t v measured
  refine ⟨pcreate_opens hs hpart, pcreate_busy hs hpart, pdestroy_busy hs hpart, fun hv hopen => ?_, fun hv => ?_,
    fun hv hok => ?_, seal_busy hs hpart, fun bs hwrt hopen hindex hpage hread => ?_,
    fun hwrt hindex => extend_refused hs hpart hwrt hindex, fun s' bs u hwrt hindex hpage hlen hread hwrite => ?_,
    fun hwrt hv hindex hsame howner => unit_kept hs hpart hwrt hv hindex hsame howner,
    fun hwrt hv hown hindex hnew => unit_moved hs hpart hwrt hv hown hindex hnew,
    fun hwrt hv hown hindex hnew => ⟨cluster_busy hs hpart hwrt hv hown hindex hnew,
      cluster_moved hs hpart hwrt hv hown hindex hnew⟩,
    fun k j hwrt hindex hjobs hp hid hrun hreq => preq_asks hs hpart hwrt hindex hjobs hp hid hrun hreq,
    fun hwrt hindex hjobs hsaved => preq_none hs hpart hwrt hindex hjobs hsaved⟩
  · obtain ⟨m, h⟩ := pdestroy_destroys hs hpart hv (by rw [hopen]; exact nofun)
    exact ⟨_, h, destroyPart_spec (withMgmt m s) p⟩
  · exact ⟨life_refused hs hpart rfl (by decide) hv, life_refused hs hpart rfl (by decide) hv,
      life_refused hs hpart rfl (by decide) hv⟩
  · obtain ⟨m, h⟩ := seal_seals hs hpart hv hok
    obtain ⟨hstate, hmeasured⟩ := sealPart_spec (withMgmt m s) p
    exact ⟨_, h, hstate, hmeasured, rfl⟩
  · obtain ⟨m, h⟩ := measure_measures hs hpart hwrt hopen hindex hpage hread
    exact ⟨_, h, extendMeasure_spec (withMgmt m s) p 1 (sha512 bs), rfl⟩
  · refine ⟨quote_quotes hs hpart hwrt hindex hpage hread hwrite, length_quoteBytes s' p bs hlen, fun he hn => ?_⟩
    have hbody := length_quoteBody s' p bs hlen
    rw [quoteBytes, List.drop_append_of_le_length hbody.ge, List.drop_of_length_le hbody.le, List.nil_append,
      List.take_append_of_le_length hbody.ge, List.take_of_length_le hbody.le]
    exact ofLe_identitySign _ he hn

end Sys2Proof.Proofs
end

section
/-! PROOFS. The fields of a word, and what the decoder asks of its candidate (R39 to R49). -/

namespace Sys2Proof.Proofs

open Sys2Proof

/-! ### Fields -/

theorem bitsAt_eq {n w lo : Nat} {x : BitVec n} (h : w / 2 ^ lo % 2 ^ n = x.toNat) : bitsAt n w lo = x :=
  BitVec.eq_of_toNat_eq h

theorem flag_eq {w lo : Nat} {b : Bool} (h : w / 2 ^ lo % 2 = b.toNat) : flag w lo = b := by
  rw [flag, h]
  cases b <;> rfl

/-! ### The decoder: what it asks of a candidate -/

theorem decode_ok_iff (p : Nat) (rest : List Nat) (i : Instr) :
    decode (p :: rest) = .ok i ↔
      parcelCount p ≠ 0 ∧ parcelCount p ≤ (p :: rest).length
        ∧ candidate ((p :: rest).take (parcelCount p)) = some i ∧ i.wf = true
        ∧ encode i = (p :: rest).take (parcelCount p) := by
  unfold decode
  dsimp only
  by_cases h0 : parcelCount p = 0
  · simp [h0]
  by_cases hlen : (p :: rest).length < parcelCount p
  · rw [if_neg h0, if_pos hlen]
    simp only [reduceCtorEq, false_iff]
    omega
  rw [if_neg h0, if_neg hlen]
  have hle : parcelCount p ≤ (p :: rest).length := by omega
  cases hc : candidate ((p :: rest).take (parcelCount p)) with
  | none => simp
  | some k =>
    dsimp only
    split
    · rename_i h
      simp only [Bool.and_eq_true, beq_iff_eq] at h
      simp only [Except.ok.injEq, Option.some.injEq]
      exact ⟨fun e => e ▸ ⟨h0, hle, rfl, h⟩, fun e => e.2.2.1⟩
    · rename_i h
      simp only [Bool.and_eq_true, beq_iff_eq] at h
      simp only [reduceCtorEq, Option.some.injEq, false_iff]
      rintro ⟨-, -, rfl, h'⟩
      exact h h'

/-- The parcels of a word whose class asks for that many, and that is the candidate's own, decode to it. -/
theorem decode_encode_append {i : Instr} {p : Nat} {ps : List Nat} (rest : List Nat) (hwf : i.wf = true)
    (he : encode i = p :: ps) (hlen : parcelCount p = (p :: ps).length) (hc : candidate (p :: ps) = some i) :
    decode (encode i ++ rest) = .ok i := by
  have htake : (p :: (ps ++ rest)).take (parcelCount p) = p :: ps := by
    rw [hlen, ← List.cons_append, List.take_left' rfl]
  rw [he, List.cons_append]
  refine (decode_ok_iff ..).2 ⟨by rw [hlen]; simp, by rw [hlen]; simp, ?_, hwf, ?_⟩
  · rw [htake, hc]
  · rw [htake, he]

/-- What decodes is well formed, and its parcels are as many of those read as the class of the first asks for. -/
theorem decodeSound_holds : Say.DecodeSound := by
  intro ps i h
  cases ps with
  | nil => cases h
  | cons p rest =>
    obtain ⟨-, -, -, hwf, he⟩ := (decode_ok_iff p rest i).1 h
    exact ⟨hwf, (p :: rest).drop (parcelCount p), by rw [he, List.take_append_drop]⟩

theorem parcelCount_of_ne_zero {p : Nat} (h : parcelCount p ≠ 0) :
    p % 4 ≠ 3 ∧ 4 * parcelCount p = if p % 4 = 0 then 4 else if p % 4 = 1 then 12 else 24 := by
  have hlt : p % 4 < 4 := Nat.mod_lt _ (by decide)
  unfold parcelCount at *
  generalize p % 4 = c at *
  interval_cases c <;> simp_all

theorem classLengths_holds : Say.ClassLengths := by
  intro p rest i h
  obtain ⟨h0, hle, -, -, he⟩ := (decode_ok_iff p rest i).1 h
  have hsize : i.size = 4 * parcelCount p := by rw [Instr.size, Instr.parcels, he, List.length_take_of_le hle]
  rw [hsize]
  exact parcelCount_of_ne_zero h0

/-- Settles O26: both parts are read off what the decoder asks of its candidate. -/
theorem decodeSound : Obligations.DecodeSound := ⟨decodeSound_holds, classLengths_holds⟩

end Sys2Proof.Proofs
end

section
/-! PROOFS. The S-class words: their fields and their codes (R43, R44). -/

namespace Sys2Proof.Proofs

open Sys2Proof

/-- The layout of a word. -/
def layout : SWord → Layout
  | .sr .. => .sr
  | .si .. => .si
  | .su .. => .su
  | .sb .. => .sb
  | .sx .. => .sx

/-- The opcode of a word. -/
def opcode : SWord → Nat
  | .sr op .. | .si op .. | .su op .. | .sb op .. | .sx op .. => op

/-- The function code of a word; 0 where its layout has none. -/
def function : SWord → Nat
  | .sr _ fn .. => fn
  | _ => 0

/-- The instruction that a word of these fields may be. -/
def wordCandidate : SWord → Option Instr
  | .sr op fn g d a b => srCandidate op fn g d a b
  | .si op d a i => siCandidate op d a i
  | .su op d i => suCandidate op d i
  | .sb op g ht o => sbCandidate op g ht o
  | .sx op d a c => sxCandidate op d a c

/-- The codes of a word fit their fields, and the opcode is one of its layout. -/
structure Fits (w : SWord) : Prop where
  op_lt : opcode w < 128
  fn_lt : function w < 8
  layout_eq : layoutOf (opcode w) = layout w

theorem pack_mod_four (w : SWord) : w.pack % 4 = 0 := by
  cases w <;> simp only [SWord.pack] <;> omega

theorem fld_pack (w : SWord) (h : opcode w < 128) : fld w.pack 2 7 = opcode w := by
  cases w <;> simp only [SWord.pack, fld, opcode] at * <;> omega

section
variable (op : Nat) (g : Guard) (d a b : Reg) (hop : op < 128)
include hop

theorem srCandidate_pack {fn : Nat} (hfn : fn < 8) :
    let w := (SWord.sr op fn g d a b).pack
    srCandidate op (fld w 29 3) ⟨bitsAt 4 w 24, flag w 28⟩ (bitsAt 5 w 9) (bitsAt 5 w 14) (bitsAt 5 w 19)
      = srCandidate op fn g d a b := by
  intro w
  have hp := g.p.isLt
  have hpn := Bool.toNat_lt g.pn
  have hfn : fld w 29 3 = fn := by simp only [w, SWord.pack, fld]; omega
  have hgp : bitsAt 4 w 24 = g.p := bitsAt_eq (by simp only [w, SWord.pack]; omega)
  have hgn : flag w 28 = g.pn := flag_eq (by simp only [w, SWord.pack]; omega)
  have hd : bitsAt 5 w 9 = d := bitsAt_eq (by simp only [w, SWord.pack]; omega)
  have ha : bitsAt 5 w 14 = a := bitsAt_eq (by simp only [w, SWord.pack]; omega)
  have hb : bitsAt 5 w 19 = b := bitsAt_eq (by simp only [w, SWord.pack]; omega)
  rw [hfn, hgp, hgn, hd, ha, hb]

theorem siCandidate_pack (k : BitVec 13) :
    let w := (SWord.si op d a k).pack
    siCandidate op (bitsAt 5 w 9) (bitsAt 5 w 14) (bitsAt 13 w 19) = siCandidate op d a k := by
  intro w
  have hd : bitsAt 5 w 9 = d := bitsAt_eq (by simp only [w, SWord.pack]; omega)
  have ha : bitsAt 5 w 14 = a := bitsAt_eq (by simp only [w, SWord.pack]; omega)
  have hk : bitsAt 13 w 19 = k := bitsAt_eq (by simp only [w, SWord.pack]; omega)
  rw [hd, ha, hk]

theorem suCandidate_pack (k : BitVec 18) :
    let w := (SWord.su op d k).pack
    suCandidate op (bitsAt 5 w 9) (bitsAt 18 w 14) = suCandidate op d k := by
  intro w
  have hd : bitsAt 5 w 9 = d := bitsAt_eq (by simp only [w, SWord.pack]; omega)
  have hk : bitsAt 18 w 14 = k := bitsAt_eq (by simp only [w, SWord.pack]; omega)
  rw [hd, hk]

theorem sbCandidate_pack (ht : Bool) (o : BitVec 17) :
    let w := (SWord.sb op g ht o).pack
    sbCandidate op ⟨bitsAt 4 w 9, flag w 13⟩ (flag w 14) (bitsAt 17 w 15) = sbCandidate op g ht o := by
  intro w
  have hpn := Bool.toNat_lt g.pn
  have hht := Bool.toNat_lt ht
  have hgp : bitsAt 4 w 9 = g.p := bitsAt_eq (by simp only [w, SWord.pack]; omega)
  have hgn : flag w 13 = g.pn := flag_eq (by simp only [w, SWord.pack]; omega)
  have hh : flag w 14 = ht := flag_eq (by simp only [w, SWord.pack]; omega)
  have ho : bitsAt 17 w 15 = o := bitsAt_eq (by simp only [w, SWord.pack]; omega)
  rw [hgp, hgn, hh, ho]

theorem sxCandidate_pack (c : BitVec 12) :
    let w := (SWord.sx op d a c).pack
    sxCandidate op (bitsAt 5 w 9) (bitsAt 5 w 14) (bitsAt 12 w 19) = sxCandidate op d a c := by
  intro w
  have hd : bitsAt 5 w 9 = d := bitsAt_eq (by simp only [w, SWord.pack]; omega)
  have ha : bitsAt 5 w 14 = a := bitsAt_eq (by simp only [w, SWord.pack]; omega)
  have hc : bitsAt 12 w 19 = c := bitsAt_eq (by simp only [w, SWord.pack]; omega)
  rw [hd, ha, hc]

end

theorem sCandidate_pack {w : SWord} (h : Fits w) : sCandidate w.pack = wordCandidate w := by
  obtain ⟨hop, hfn, hlayout⟩ := h
  simp only [sCandidate, fld_pack w hop, hlayout]
  cases w with
  | sr op fn g d a b => exact srCandidate_pack op g d a b hop hfn
  | si op d a k => exact siCandidate_pack op d a hop k
  | su op d k => exact suCandidate_pack op d hop k
  | sb op g ht o => exact sbCandidate_pack op g hop ht o
  | sx op d a c => exact sxCandidate_pack op d a hop c

theorem setWidth_wide {n : Nat} (hn : n ≤ 5) (x : BitVec n) : (wide x).setWidth n = x := by
  rw [wide, BitVec.setWidth_setWidth_of_le _ hn, BitVec.setWidth_eq]

theorem fits_sWord {i : Instr} {w : SWord} (h : i.sWord = some w) : Fits w := by
  cases i with
  | sqpush g f a => cases h; exact ⟨by simp [opcode], Nat.lt_trans f.isLt (by decide), rfl⟩
  | sqpop g f d => cases h; exact ⟨by simp [opcode], Nat.lt_trans f.isLt (by decide), rfl⟩
  | rdq g f d a b => cases h; exact ⟨by simp [opcode], f.isLt, rfl⟩
  | wrq g f d a => cases h; exact ⟨by simp [opcode], f.isLt, rfl⟩
  | lputPatch g f a b => cases h; exact ⟨by simp [opcode], f.isLt, rfl⟩
  | _ => cases h <;> exact ⟨by simp [opcode], by simp [function], rfl⟩

/-- A function code that is an operand of the instruction is read back, where each of its values is. -/
theorem candidate_of_code {n : Nat} (lo : Nat) (k : Nat → Option Instr) (c : BitVec n → Instr)
    (h : ∀ m, lo ≤ m → m < 2 ^ n → k m = some (c (BitVec.ofNat n m))) (f : BitVec n) (hf : lo ≤ f.toNat) :
    k f.toNat = some (c f) := by
  rw [h f.toNat hf f.isLt, BitVec.ofNat_toNat, BitVec.setWidth_eq]

theorem srCandidate_patch (g : Guard) (d a b : Reg) (f : BitVec 3) (h : 3 ≤ f.toNat) :
    srCandidate 0x69 f.toNat g d a b = some (.lputPatch g f a b) :=
  candidate_of_code 3 (srCandidate 0x69 · g d a b) (.lputPatch g · a b)
    (fun m hlo hhi => by interval_cases m <;> rfl) f h

theorem srCandidate_sqpush (g : Guard) (d a b : Reg) (f : BitVec 2) :
    srCandidate 0x54 f.toNat g d a b = some (.sqpush g f a) :=
  candidate_of_code 0 (srCandidate 0x54 · g d a b) (.sqpush g · a)
    (fun m _ hhi => by interval_cases m <;> rfl) f (Nat.zero_le _)

theorem srCandidate_sqpop (g : Guard) (d a b : Reg) (f : BitVec 2) :
    srCandidate 0x55 f.toNat g d a b = some (.sqpop g f d) :=
  candidate_of_code 0 (srCandidate 0x55 · g d a b) (.sqpop g · d)
    (fun m _ hhi => by interval_cases m <;> rfl) f (Nat.zero_le _)

theorem scopeAcq_guard (q : ScopeAcq) : q.guard.scopeAcq = q := rfl

/-- BRQ names its queue by one bit in the place of p. -/
theorem getLsbD_queueBit (q : Bool) : (if q then 1 else 0 : BitVec 4).getLsbD 0 = q := by
  cases q <;> decide

/-- The candidate is found by its codes; a narrow operand is then read back from the place of a wide one. -/
theorem wordCandidate_sWord {i : Instr} {w : SWord} (h : i.sWord = some w) (hok : i.sOk = true) :
    wordCandidate w = some i := by
  cases i with
  | lputPatch g f a b => cases h; exact srCandidate_patch g 0 a b f (by simpa [Instr.sOk] using hok)
  | sqpush g f a => cases h; exact srCandidate_sqpush g 0 a 0 f
  | sqpop g f d => cases h; exact srCandidate_sqpop g d 0 0 f
  | _ =>
    cases h
    all_goals change some _ = _
    all_goals simp only [setWidth_wide, scopeAcq_guard, getLsbD_queueBit, Nat.reduceLeDiff, BitVec.ofNat_toNat,
      BitVec.setWidth_eq, BitVec.setWidth_setWidth_of_le]

end Sys2Proof.Proofs
end

section
/-! PROOFS. The V-class words: their descriptors, their fields and their codes (R45, R46, R49). -/

namespace Sys2Proof.Proofs

open Sys2Proof

theorem code_lt (l : Lane) : l.code < 4 := by cases l <;> decide

theorem ofCode_code (l : Lane) : Lane.ofCode l.code = l := by cases l <;> rfl

theorem pack_lt (x : Desc) : x.pack < 2 ^ 20 := by
  cases x with
  | row index stride rot neg lane =>
    have hrot := Bool.toNat_lt rot
    have hneg := Bool.toNat_lt neg
    have hlane := code_lt lane
    simp only [Desc.pack]
    omega
  | queue q neg lane =>
    have hneg := Bool.toNat_lt neg
    have hlane := code_lt lane
    simp only [Desc.pack]
    omega
  | scalar r neg =>
    have hneg := Bool.toNat_lt neg
    simp only [Desc.pack]
    omega
  | imm v => simp only [Desc.pack]; omega
  | none => simp only [Desc.pack]; omega

theorem ofCode_fld {x : Nat} {l : Lane} (h : x / 2 ^ 18 % 2 ^ 2 = l.code) : Lane.ofCode (fld x 18 2) = l := by
  rw [fld, h, ofCode_code]

theorem ofBits_pack (x : Desc) : Desc.ofBits x.pack = x := by
  cases x with
  | row index stride rot neg lane =>
    have hrot := Bool.toNat_lt rot
    have hneg := Bool.toNat_lt neg
    have hlane := code_lt lane
    generalize hw : (Desc.row index stride rot neg lane).pack = w
    simp only [Desc.pack] at hw
    have hclass : w % 4 = 0 := by omega
    have h1 : bitsAt 10 w 2 = index := bitsAt_eq (by omega)
    have h2 : bitsAt 4 w 12 = stride := bitsAt_eq (by omega)
    have h3 : flag w 16 = rot := flag_eq (by omega)
    have h4 : flag w 17 = neg := flag_eq (by omega)
    have h5 : Lane.ofCode (fld w 18 2) = lane := ofCode_fld (by omega)
    simp only [Desc.ofBits, hclass, h1, h2, h3, h4, h5]
  | queue q neg lane =>
    have hneg := Bool.toNat_lt neg
    have hlane := code_lt lane
    generalize hw : (Desc.queue q neg lane).pack = w
    simp only [Desc.pack] at hw
    have hclass : w % 4 = 1 := by omega
    have h1 : bitsAt 3 w 2 = q := bitsAt_eq (by omega)
    have h2 : flag w 17 = neg := flag_eq (by omega)
    have h3 : Lane.ofCode (fld w 18 2) = lane := ofCode_fld (by omega)
    simp only [Desc.ofBits, hclass, h1, h2, h3]
  | scalar r neg =>
    have hneg := Bool.toNat_lt neg
    generalize hw : (Desc.scalar r neg).pack = w
    simp only [Desc.pack] at hw
    have hclass : w % 4 = 2 := by omega
    have h1 : bitsAt 5 w 2 = r := bitsAt_eq (by omega)
    have h2 : flag w 17 = neg := flag_eq (by omega)
    simp only [Desc.ofBits, hclass, h1, h2]
  | imm v =>
    generalize hw : (Desc.imm v).pack = w
    simp only [Desc.pack] at hw
    have hclass : w % 4 = 3 := by omega
    have h1 : flag w 16 = false := flag_eq (by simp only [Bool.toNat_false]; omega)
    have h2 : bitsAt 14 w 2 = v := bitsAt_eq (by omega)
    simp only [Desc.ofBits, hclass, h1, h2, Bool.false_eq_true, if_false]
  | none => rfl

theorem ofParcels_packV {op : Nat} (hop : op < 128) (v : VOp) {p0 p1 p2 : Nat} (h : v.pack op = [p0, p1, p2]) :
    fld p0 2 7 = op ∧ p0 % 4 = 1 ∧ VOp.ofParcels p0 p1 p2 = v := by
  obtain ⟨fmt, k, ⟨p, pn⟩, fn, rnd, sat, ftz, D, A, B, n⟩ := v
  simp only [VOp.pack, List.cons.injEq, and_true] at h
  obtain ⟨h0, h1, h2⟩ := h
  have hpn := Bool.toNat_lt pn
  have hsat := Bool.toNat_lt sat
  have hftz := Bool.toNat_lt ftz
  have hD := pack_lt D
  have hA := pack_lt A
  have hB := pack_lt B
  refine ⟨by rw [fld]; omega, by omega, ?_⟩
  have hd : fld p1 0 20 = D.pack := by rw [fld]; omega
  have ha : fld p1 20 12 + fld p2 0 8 * 2 ^ 12 = A.pack := by simp only [fld]; omega
  have hb : fld p2 8 20 = B.pack := by rw [fld]; omega
  rw [VOp.ofParcels, hd, ha, hb, ofBits_pack, ofBits_pack, ofBits_pack]
  congr
  · exact bitsAt_eq (by omega)
  · exact bitsAt_eq (by omega)
  · exact bitsAt_eq (by omega)
  · exact flag_eq (by omega)
  · exact bitsAt_eq (by omega)
  · exact bitsAt_eq (by omega)
  · exact flag_eq (by omega)
  · exact flag_eq (by omega)
  · exact bitsAt_eq (by omega)

theorem opcode_lt_vParts {i : Instr} {op : Nat} {r : VRow} {v : VOp} (h : i.vParts = some (op, r, v)) : op < 128 := by
  cases i with
  | _ => cases h <;> decide

theorem wf_vParts {i : Instr} {op : Nat} {r : VRow} {v : VOp} (h : i.vParts = some (op, r, v)) (hwf : i.wf = true) :
    r.ok v = true := by
  simp only [Instr.wf, h, Bool.and_eq_true] at hwf
  obtain ⟨⟨⟨-, hv⟩, -⟩, -⟩ := hwf
  exact hv

theorem fn_ok_of_row {r : VRow} {v : VOp} (h : r.ok v = true) : r.fn.ok v.fn = true := by
  simp only [VRow.ok, Bool.and_eq_true] at h
  simp only [h]

/-- The two forms of VCMP share an opcode, and their function codes tell them apart. -/
theorem vCandidate_vParts {i : Instr} {op : Nat} {r : VRow} {v : VOp} (h : i.vParts = some (op, r, v))
    (hfn : r.fn.ok v.fn = true) : vCandidate op v = some i := by
  cases i with
  | vcmp x =>
    cases h
    have : v.fn.toNat ≤ 5 := by simpa [VRow.cmp, FnRule.ok] using hfn
    exact if_pos (by omega)
  | vcmpPush x =>
    cases h
    have : 8 ≤ v.fn.toNat ∧ v.fn.toNat ≤ 13 := by simpa [VRow.cmpPush, FnRule.ok] using hfn
    exact if_neg (by omega)
  | _ => cases h <;> rfl

end Sys2Proof.Proofs
end

section
/-! PROOFS. The M-class words, and the decoding of what is encoded (R39 to R52, R76, R200, R313). -/

namespace Sys2Proof.Proofs

open Sys2Proof

/-! ### M-class words (R50, R52, R76, R200, R313) -/

theorem ofParcel_packHead {op : Nat} (hop : op < 128) (h : MHead) :
    fld (h.pack op) 2 7 = op ∧ h.pack op % 4 = 2 ∧ MHead.ofParcel (h.pack op) = h := by
  generalize hw : h.pack op = w
  obtain ⟨fmt, td, ta, tb, prio, det⟩ := h
  simp only [MHead.pack] at hw
  have hdet := Bool.toNat_lt det
  refine ⟨by rw [fld]; omega, by omega, ?_⟩
  rw [MHead.ofParcel]
  congr
  · exact bitsAt_eq (by omega)
  · exact bitsAt_eq (by omega)
  · exact bitsAt_eq (by omega)
  · exact bitsAt_eq (by omega)
  · exact bitsAt_eq (by omega)
  · exact flag_eq (by omega)

theorem ofParcels_packE {op : Nat} (hop : op < 128) (e : EngOp) {p0 p1 p2 p3 p4 p5 : Nat}
    (h : e.pack op = [p0, p1, p2, p3, p4, p5]) :
    fld p0 2 7 = op ∧ p0 % 4 = 2 ∧ EngOp.ofParcels p0 p1 p2 p3 = e := by
  obtain ⟨head, ra, rb, rc, rd, re, rw', ln, ln2, cnt, code, lvl⟩ := e
  simp only [EngOp.pack, List.cons.injEq, and_true] at h
  obtain ⟨h0, h1, h2, h3, -, -⟩ := h
  obtain ⟨hfld, hclass, hhead⟩ := ofParcel_packHead hop head
  rw [h0] at hfld hclass hhead
  refine ⟨hfld, hclass, ?_⟩
  rw [EngOp.ofParcels, hhead]
  congr
  all_goals exact bitsAt_eq (by omega)

theorem ofParcels_packM {op : Nat} (hop : op < 128) (o : MatOp) {p0 p1 p2 p3 p4 p5 : Nat}
    (h : o.pack op = [p0, p1, p2, p3, p4, p5]) :
    fld p0 2 7 = op ∧ p0 % 4 = 2 ∧ MatOp.ofParcels p0 p1 p2 p3 p4 p5 = o := by
  obtain ⟨head, la, lb, acc, sa, sb, m, n, kb, lc, rnd, sat, norm, side, causal, scsrc, prior, srcfmt, ra, rb, rc, rd⟩
    := o
  simp only [MatOp.pack, List.cons.injEq, and_true] at h
  obtain ⟨h0, h1, h2, h3, h4, h5⟩ := h
  obtain ⟨hfld, hclass, hhead⟩ := ofParcel_packHead hop head
  rw [h0] at hfld hclass hhead
  refine ⟨hfld, hclass, ?_⟩
  have hsat := Bool.toNat_lt sat
  have hnorm := Bool.toNat_lt norm
  have hside := Bool.toNat_lt side
  have hcausal := Bool.toNat_lt causal
  have hscsrc := Bool.toNat_lt scsrc
  have hprior := Bool.toNat_lt prior
  have hflags : flag p4 15 = sat ∧ flag p4 16 = norm ∧ flag p4 17 = side ∧ flag p4 18 = causal
      ∧ flag p4 19 = scsrc ∧ flag p4 20 = prior :=
    ⟨flag_eq (by omega), flag_eq (by omega), flag_eq (by omega), flag_eq (by omega), flag_eq (by omega),
      flag_eq (by omega)⟩
  obtain ⟨f1, f2, f3, f4, f5, f6⟩ := hflags
  rw [MatOp.ofParcels, hhead, f1, f2, f3, f4, f5, f6]
  congr
  all_goals exact bitsAt_eq (by omega)

/-- Two rotating values share a parcel. -/
theorem ofBits_packRot (x y : RotField) :
    RotField.ofBits (x.pack + y.pack * 2 ^ 16) 0 = x ∧ RotField.ofBits (x.pack + y.pack * 2 ^ 16) 16 = y := by
  obtain ⟨xb, xl⟩ := x
  obtain ⟨yb, yl⟩ := y
  simp only [RotField.ofBits, RotField.pack, RotField.mk.injEq]
  exact ⟨⟨bitsAt_eq (by omega), bitsAt_eq (by omega)⟩, bitsAt_eq (by omega), bitsAt_eq (by omega)⟩

theorem ofParcels_packLoop (o : LoopOp) {p0 p1 p2 p3 p4 p5 : Nat} (h : o.pack = [p0, p1, p2, p3, p4, p5]) :
    fld p0 2 7 = 0x40 ∧ p0 % 4 = 2 ∧ LoopOp.ofParcels p0 p1 p2 p3 p4 p5 = o := by
  obtain ⟨st, trip, sp, body, r0, r1, r2, r3, r4, r5, r6, r7⟩ := o
  simp only [LoopOp.pack, List.cons.injEq, and_true] at h
  obtain ⟨h0, h1, rfl, rfl, rfl, rfl⟩ := h
  refine ⟨by rw [fld]; omega, by omega, ?_⟩
  simp only [LoopOp.ofParcels, ofBits_packRot]
  congr
  all_goals exact bitsAt_eq (by omega)

theorem opcode_lt_eParts {i : Instr} {op : Nat} {r : ERow} {e : EngOp} (h : i.eParts = some (op, r, e)) : op < 128 := by
  cases i with
  | _ => cases h <;> decide

theorem opcode_lt_mParts {i : Instr} {op : Nat} {r : MRow} {o : MatOp} (h : i.mParts = some (op, r, o)) : op < 128 := by
  cases i with
  | _ => cases h <;> decide

theorem wf_eParts {i : Instr} {op : Nat} {r : ERow} {e : EngOp} (h : i.eParts = some (op, r, e)) (hwf : i.wf = true) :
    r.ok e = true := by
  simp only [Instr.wf, h, Bool.and_eq_true] at hwf
  obtain ⟨⟨-, he⟩, -⟩ := hwf
  exact he

theorem ops_of_row {r : ERow} {e : EngOp} (h : r.ok e = true) : r.ops.contains e.op.toNat = true := by
  simp only [ERow.ok, Bool.and_eq_true] at h
  simp only [h]

theorem mCandidate_eParts {i : Instr} {op : Nat} {r : ERow} {e : EngOp} {p0 p1 p2 p3 p4 p5 : Nat}
    (h : i.eParts = some (op, r, e)) (hops : r.ops.contains e.op.toNat = true) (hop : fld p0 2 7 = op)
    (he : EngOp.ofParcels p0 p1 p2 p3 = e) : mCandidate p0 p1 p2 p3 p4 p5 = some i := by
  unfold mCandidate
  dsimp only
  rw [hop, he]
  cases i with
  | fradvPub x =>
    cases h
    have hform : e.op.toNat = 0 := by simpa [ERow.fradv] using hops
    simp only [hform]
  | fradvPin x =>
    cases h
    have hform : e.op.toNat = 1 := by simpa [ERow.fradv] using hops
    simp only [hform]
  | fradvUnpin x =>
    cases h
    have hform : e.op.toNat = 2 := by simpa [ERow.fradv] using hops
    simp only [hform]
  | _ => cases h <;> rfl

theorem mCandidate_mParts {i : Instr} {op : Nat} {r : MRow} {o : MatOp} {p0 p1 p2 p3 p4 p5 : Nat}
    (h : i.mParts = some (op, r, o)) (hop : fld p0 2 7 = op) (ho : MatOp.ofParcels p0 p1 p2 p3 p4 p5 = o) :
    mCandidate p0 p1 p2 p3 p4 p5 = some i := by
  unfold mCandidate
  dsimp only
  rw [hop, ho]
  cases i with
  | _ => cases h <;> rfl

/-! ### Encoding, then decoding -/

/-- The parcels by the layout that has a word for the instruction. -/
inductive Encoded (i : Instr) : Prop where
  | s (w : SWord) (h : i.sWord = some w) (he : encode i = [w.pack])
  | v (op : Nat) (r : VRow) (x : VOp) (h : i.vParts = some (op, r, x)) (he : encode i = x.pack op)
  | e (op : Nat) (r : ERow) (x : EngOp) (h : i.eParts = some (op, r, x)) (he : encode i = x.pack op)
  | m (op : Nat) (r : MRow) (x : MatOp) (h : i.mParts = some (op, r, x)) (he : encode i = x.pack op)
  | loop (x : LoopOp) (h : i = .loop x) (he : encode i = x.pack)

theorem encoded_of_ne_nil {i : Instr} (h : encode i ≠ []) : Encoded i := by
  cases hs : i.sWord with
  | some w => exact .s w hs (by simp only [encode, hs])
  | none =>
  cases hv : i.vParts with
  | some x => exact .v _ _ _ hv (by simp only [encode, hs, hv])
  | none =>
  cases he : i.eParts with
  | some x => exact .e _ _ _ he (by simp only [encode, hs, hv, he])
  | none =>
  cases hm : i.mParts with
  | some x => exact .m _ _ _ hm (by simp only [encode, hs, hv, he, hm])
  | none =>
    cases i with
    | loop o => exact .loop o rfl rfl
    | _ => simp [encode, hs, hv, he, hm] at h

theorem parcelCount_scalar {p : Nat} (h : p % 4 = 0) : parcelCount p = 1 := by rw [parcelCount, h]; rfl

theorem parcelCount_vector {p : Nat} (h : p % 4 = 1) : parcelCount p = 3 := by rw [parcelCount, h]; rfl

theorem parcelCount_multi {p : Nat} (h : p % 4 = 2) : parcelCount p = 6 := by rw [parcelCount, h]; rfl

/-- Settles O1: by the layout, the fields of a word are read back from its parcels, and its codes name the
instruction. -/
theorem encodeDecode : Obligations.EncodeDecode := by
  intro i rest hwf hne
  cases encoded_of_ne_nil hne with
  | s w h he =>
    have hok : i.sOk = true := by
      simp only [Instr.wf, Bool.and_eq_true] at hwf
      simp only [hwf]
    exact decode_encode_append rest hwf he (parcelCount_scalar (pack_mod_four w))
      ((sCandidate_pack (fits_sWord h)).trans (wordCandidate_sWord h hok))
  | v op r x h he =>
    obtain ⟨hop, hclass, hx⟩ := ofParcels_packV (opcode_lt_vParts h) x rfl
    refine decode_encode_append rest hwf he (parcelCount_vector hclass) ?_
    rw [candidate, hop, hx]
    exact vCandidate_vParts h (fn_ok_of_row (wf_vParts h hwf))
  | e op r x h he =>
    obtain ⟨hop, hclass, hx⟩ := ofParcels_packE (opcode_lt_eParts h) x rfl
    refine decode_encode_append rest hwf he (parcelCount_multi hclass) ?_
    exact mCandidate_eParts h (ops_of_row (wf_eParts h hwf)) hop hx
  | m op r x h he =>
    obtain ⟨hop, hclass, hx⟩ := ofParcels_packM (opcode_lt_mParts h) x rfl
    exact decode_encode_append rest hwf he (parcelCount_multi hclass) (mCandidate_mParts h hop hx)
  | loop x h he =>
    obtain ⟨hop, hclass, hx⟩ := ofParcels_packLoop x rfl
    refine decode_encode_append rest hwf he (parcelCount_multi hclass) ?_
    rw [h, candidate, mCandidate, hop, hx]
    rfl

end Sys2Proof.Proofs
end

section
/-! PROOFS. The instructions that write predicates (R44, R70). -/

namespace Sys2Proof.Proofs

open Sys2Proof Sys2Proof.Machine

/-! ### Predicates after a write -/

theorem rp_wp {s : State} (p q : BitVec 4) (b : Bool) (hq : quiet s = true) :
    rp (wp s p b) q = if q = 0 then true else if q = p then b else rp s q := by
  rw [rp, wp, curStream_modCurStream _ (quiet_stream hq), streamPred_setStreamPred]
  rfl

/-- A change of the executing stream is known by what becomes of that stream. -/
theorem modCurStream_congr {s : State} {f g : Stream → Stream} (hq : quiet s = true)
    (h : f (curStream s) = g (curStream s)) : modCurStream s f = modCurStream s g := by
  obtain ⟨st, e⟩ := Option.isSome_iff_exists.1 (quiet_stream hq)
  have hst : curStream s = st := by simp [curStream, getStream, Tab.getD, e]
  rw [hst] at h
  rw [modCurStream, modCurStream, modStream, modStream, Tab.modify_eq_set _ _ f _ e, Tab.modify_eq_set _ _ g _ e, h]

theorem simple_next (i : Instr) (g : Guard) (f : State → State) (s : State) (h : ready s i.size (some g) = true)
    (hk : Keeps s (f s) i.size) : simple i (some g) f s = .next (retire i.size (f s)) := by
  obtain ⟨hq, hp, hg⟩ := (ready_iff _ _ _).1 h
  exact issue_next i _ (some g) _ _ s _ hq hp (allStrms_contains _) rfl hg rfl hk

/-- An instruction that always completes, and only writes a predicate. -/
theorem simple_wp (i : Instr) (g : Guard) (f : State → State) (p : BitVec 4) (v : Bool) (s : State)
    (h : ready s i.size (some g) = true) (hf : f s = wp s p v) :
    simple i (some g) f s = .next (retire i.size (wp s p v)) := by
  obtain ⟨hq, hp, -⟩ := (ready_iff _ _ _).1 h
  rw [← hf]
  exact simple_next i g f s h (by rw [hf]; exact keeps_wp s _ p v hq hp)

theorem pset_completes (i : Instr) (g : Guard) (d : BitVec 4) (a b : Reg) (f : Word → Word → Bool) (v : Bool) (s : State)
    (h : ready s i.size (some g) = true) (hv : f (rd s a) (rd s b) = v) :
    pset i g d a b f s = .next (retire i.size (wp s d v)) :=
  simple_wp i g _ d v s h (by rw [hv])

theorem plog_completes (i : Instr) (g : Guard) (d a b : BitVec 4) (f : Bool → Bool → Bool) (v : Bool) (s : State)
    (h : ready s i.size (some g) = true) (hv : f (rp s a) (rp s b) = v) :
    plog i g d a b f s = .next (retire i.size (wp s d v)) :=
  simple_wp i g _ d v s h (by rw [hv])

/-! ### PSET, PLOG and PMOV -/

theorem truth_completes (i : Instr) (s : State) (g : Guard) (p : BitVec 4) (v : Bool) (h : Say.truth s i = some (g, p, v))
    (hready : ready s 4 (some g) = true) : exec i s = .next (retire 4 (wp s p v)) := by
  cases i with
  | psetEq => cases h; exact pset_completes _ _ _ _ _ _ _ s hready rfl
  | psetNe => cases h; exact pset_completes _ _ _ _ _ (· != ·) _ s hready (by simp [bne, Bool.beq_eq_decide_eq])
  | psetLt => cases h; exact pset_completes _ _ _ _ _ (fun x y => decide (x.toInt < y.toInt)) _ s hready (by rw [BitVec.slt])
  | psetLtu => cases h; exact pset_completes _ _ _ _ _ (fun x y => decide (x.toNat < y.toNat)) _ s hready (by rw [BitVec.ult])
  | psetGe =>
    cases h
    exact pset_completes _ _ _ _ _ (fun x y => decide (y.toInt ≤ x.toInt)) _ s hready (by simp [BitVec.slt, ← decide_not])
  | psetGeu =>
    cases h
    exact pset_completes _ _ _ _ _ (fun x y => decide (y.toNat ≤ x.toNat)) _ s hready (by simp [BitVec.ult, ← decide_not])
  | plogAnd => cases h; exact plog_completes _ _ _ _ _ _ _ s hready rfl
  | plogOr => cases h; exact plog_completes _ _ _ _ _ _ _ s hready rfl
  | plogXor => cases h; exact plog_completes _ _ _ _ _ _ _ s hready rfl
  | plogAndn => cases h; exact plog_completes _ _ _ _ _ (fun x y => x && !y) _ s hready rfl
  | pmov _ d a =>
    cases h
    exact simple_wp _ _ (fun s => wp s p (rd s a != 0)) _ (decide (rd s a ≠ 0)) s hready
      (by simp [bne, Bool.beq_eq_decide_eq])
  | _ => cases h

theorem predicateResults_holds : Say.PredicateResults := fun i s g p v h hready =>
  ⟨truth_completes i s g p v h hready, fun q => rp_wp p q v ((ready_iff _ _ _).1 hready).1⟩

/-! ### PMOV.PUT -/

/-- Bits 15 to 1 of a word, with bit 0 of the predicates there were. -/
def putBits (v : Word) (ps : BitVec 16) : BitVec 16 := (v.setWidth 16 &&& 0xFFFE) ||| (ps &&& 1)

theorem getLsbD_putBits (v : Word) (ps : BitVec 16) (q : BitVec 4) (hq : q ≠ 0) :
    (putBits v ps).getLsbD q.toNat = v.getLsbD q.toNat := by
  have hpos : q.toNat ≠ 0 := fun h => hq (BitVec.eq_of_toNat_eq h)
  have hlt : q.toNat < 16 := q.isLt
  generalize q.toNat = n at hpos hlt
  simp only [putBits, BitVec.getLsbD_or, BitVec.getLsbD_and, BitVec.getLsbD_setWidth]
  interval_cases n <;> simp_all

theorem predicatesPut_holds : Say.PredicatesPut := by
  intro s g a hready
  obtain ⟨hq, hp, -⟩ := (ready_iff _ _ _).1 hready
  have hconst : (modCurStream s fun st => { st with preds := putBits (rd s a) st.preds })
      = modCurStream s fun st => { st with preds := putBits (rd s a) (curStream s).preds } := modCurStream_congr hq rfl
  refine ⟨modCurStream s fun st => { st with preds := putBits (rd s a) st.preds }, ?_, fun q => ?_, _, hconst⟩
  · exact simple_next (.pmovPut g a) g (fun s => modCurStream s fun st => { st with preds := putBits (rd s a) st.preds }) s
      hready (keeps_modCurStream s 4 _ hq hp (fun _ => rfl) (fun _ => rfl) (fun _ => rfl) fun _ => rfl)
  · rw [rp, curStream_modCurStream _ (quiet_stream hq), streamPred]
    by_cases h0 : q = 0
    · simp [h0]
    · rw [if_neg h0, beq_false_of_ne h0, Bool.false_or]
      exact getLsbD_putBits _ _ q h0

/-- Settles O27: each form writes the predicate that it computes; PMOV.PUT takes all of them from one word. -/
theorem predicates : Obligations.Predicates := ⟨predicateResults_holds, predicatesPut_holds⟩

end Sys2Proof.Proofs
end

section
/-! PROOFS. The push of an engine operation where the token table is empty (R154, R155, R163, R200, R223). -/

namespace Sys2Proof.Proofs

open Sys2Proof Sys2Proof.Machine

/-! ### Placing an entry that takes no accumulator, outside the C-stream (R155) -/

/-- The cores of `t` alone may differ from those of `s`; its executing core holds the same table and goes on at the same
sequence number. -/
structure BesideTable (s t : State) : Prop where
  frame : ExecFrame s t
  ms : t.ms = s.ms
  saved : t.saved = s.saved
  tokens : tokens t s.cur.core = tokens s s.cur.core
  nextSeq : (getCore t s.cur.core).nextSeq = (getCore s s.cur.core).nextSeq

theorem BesideTable.refl (s : State) : BesideTable s s := ⟨.refl s, rfl, rfl, rfl, rfl⟩

/-- Counting the pushes of a collective id touches the core alone (R223). -/
theorem besideTable_countColl (s : State) (x : EngOp) : BesideTable s (countColl s x) := by
  refine ⟨frame_modCore .., rfl, rfl, ?_, ?_⟩
  · rw [tokens, countColl, modCurCore, getCore_modCore_self]
    rfl
  · rw [countColl, modCurCore, getCore_modCore_self]

/-- The table with a new entry in this slot. -/
def addEntry (slot : Nat) (e : TokenEntry) (seq : Nat) (c : Core) : Core :=
  { c with tokens := Tab.set c.tokens slot e, nextSeq := nextSeqAfter seq }

/-- The state in which the new entry stands in the table, its edges not yet followed. -/
def entered (s : State) (p : PushSpec) (slot : Nat) (fs : List FootPart) (edges ordered : List (Nat × Nat)) : State :=
  let t := drainWc s s.cur
  p.after (modCore t s.cur.core (addEntry slot (newEntry t p (curCore s).nextSeq fs edges ordered) (curCore s).nextSeq))

/-- The new entry as a failed predecessor leaves it (R156). -/
def enteredBad (s : State) (slot : Nat) : State :=
  modTok s s.cur.core slot fun e => e.failed slot (cycleOf s s.cur.core) (.async, 0)

theorem ownNone_eq (s : State) (fs : List FootPart) (owner : Nat × Nat) (hfs : NoAcc fs) :
    (modCurJob s fun j => { j with accs := Vector.ofFn fun i : Fin 8 =>
        if (footAccsWritten fs).contains i.val then { j.accs[i] with owner := some owner, buffer := none } else j.accs[i] })
      = s := by
  refine modCurJob_eq_self s _ ?_
  rw [hfs.footAccsWritten]
  simp

theorem place_engine (s : State) (p : PushSpec) (slot : Nat) (fs : List FootPart) (edges ordered : List (Nat × Nat))
    (bad : Bool) (hc : s.cur.strm ≠ .c) (hfs : NoAcc fs) (hafter : ∀ t, BesideTable t (p.after t)) :
    place s p slot fs edges ordered bad =
      let x := entered s p slot fs edges ordered
      let y := if bad then enteredBad x slot else x
      wr (sweepSeen (settleFrom (tokens x s.cur.core) y s.cur.core) s.cur.core (curJob y).ids.jobid) p.head.td
        (BitVec.ofNat 64 (tokenValue slot (curCore s).nextSeq)) := by
  have hm := msOnly_drainWc s s.cur
  have hcore : getCore (drainWc s s.cur) s.cur.core = curCore s := by rw [curCore, getCore, getCore, hm.cores]
  have hcur : (entered s p slot fs edges ordered).cur = s.cur := (hafter _).frame.cur.trans hm.frame.cur
  have hnc : (decide (s.cur.strm = .c) && !isPrior p.i) = false := by rw [decide_eq_false hc, Bool.false_and]
  unfold place
  dsimp only
  rw [hm.frame.cur, hnc, hcore]
  simp only [Bool.false_eq_true, if_false, ownNone_eq _ fs _ hfs, enteredBad, hcur]
  rfl

theorem frame_entered (s : State) (p : PushSpec) (slot : Nat) (fs : List FootPart) (edges ordered : List (Nat × Nat))
    (hafter : ∀ t, BesideTable t (p.after t)) : ExecFrame s (entered s p slot fs edges ordered) :=
  ((msOnly_drainWc s s.cur).frame.trans (frame_modCore ..)).trans (hafter _).frame

theorem ms_entered (s : State) (p : PushSpec) (slot : Nat) (fs : List FootPart) (edges ordered : List (Nat × Nat))
    (hafter : ∀ t, BesideTable t (p.after t)) : (entered s p slot fs edges ordered).ms = (drainWc s s.cur).ms :=
  (hafter _).ms

theorem saved_msOnly {s t : State} (h : MsOnly s t) : t.saved = s.saved := by rw [show t = { s with ms := t.ms } from h]

theorem saved_entered (s : State) (p : PushSpec) (slot : Nat) (fs : List FootPart) (edges ordered : List (Nat × Nat))
    (hafter : ∀ t, BesideTable t (p.after t)) : (entered s p slot fs edges ordered).saved = s.saved :=
  (hafter _).saved.trans ((modCore_saved ..).trans (saved_msOnly (msOnly_drainWc s s.cur)))

theorem core_entered (s : State) (p : PushSpec) (slot : Nat) (fs : List FootPart) (edges ordered : List (Nat × Nat))
    (hafter : ∀ t, BesideTable t (p.after t)) :
    tokens (entered s p slot fs edges ordered) s.cur.core
        = Tab.set (curCore s).tokens slot (newEntry (drainWc s s.cur) p (curCore s).nextSeq fs edges ordered)
      ∧ (getCore (entered s p slot fs edges ordered) s.cur.core).nextSeq = nextSeqAfter (curCore s).nextSeq := by
  have hm := msOnly_drainWc s s.cur
  have hcore : getCore (drainWc s s.cur) s.cur.core = curCore s := by rw [curCore, getCore, getCore, hm.cores]
  have hb := hafter (modCore (drainWc s s.cur) s.cur.core (addEntry slot (newEntry (drainWc s s.cur) p (curCore s).nextSeq
    fs edges ordered) (curCore s).nextSeq))
  have ht := hb.tokens
  have hn := hb.nextSeq
  rw [modCore_cur, hm.cur] at ht hn
  rw [tokens, tokens, getCore_modCore_self, hcore] at ht
  rw [getCore_modCore_self] at hn
  exact ⟨ht, hn⟩

/-! ### The first entry -/

/-- The state in which the token of the first entry is put in S(td). -/
def placedAlone (s : State) (p : PushSpec) (fs : List FootPart) : State :=
  let x := entered s p 0 fs [] []
  sweepSeen (modCore x s.cur.core (oneEntry (firstReady s p fs))) s.cur.core (curJob x).ids.jobid

theorem place_alone (s : State) (p : PushSpec) (fs : List FootPart) (hc : s.cur.strm ≠ .c) (hfs : NoAcc fs)
    (hafter : ∀ t, BesideTable t (p.after t)) (hempty : (curCore s).tokens = []) :
    place s p 0 fs [] [] false = wr (placedAlone s p fs) p.head.td (BitVec.ofNat 64 (curCore s).nextSeq) := by
  have htok : tokens (entered s p 0 fs [] []) s.cur.core = [(0, newEntry (drainWc s s.cur) p (curCore s).nextSeq fs [] [])] := by
    rw [(core_entered s p 0 fs [] [] hafter).1, hempty]
    rfl
  rw [place_engine s p 0 fs [] [] false hc hfs hafter]
  dsimp only
  rw [if_neg Bool.false_ne_true, settleFrom_single _ _ _ _ htok rfl rfl]
  simp only [tokenValue, Nat.zero_mul, Nat.zero_add]
  rfl

theorem frame_placedAlone (s : State) (p : PushSpec) (fs : List FootPart) (hafter : ∀ t, BesideTable t (p.after t)) :
    ExecFrame s (placedAlone s p fs) :=
  ((frame_entered s p 0 fs [] [] hafter).trans (frame_modCore ..)).trans (frame_sweepSeen ..)

theorem oneMore_placedAlone (s : State) (p : PushSpec) (fs : List FootPart) (hafter : ∀ t, BesideTable t (p.after t)) :
    Say.oneMore s (placedAlone s p fs) (firstReady s p fs) := by
  have hkeep := tokens_sweepSeen_ready
    (modCore (entered s p 0 fs [] []) s.cur.core (oneEntry (firstReady s p fs))) s.cur.core
    (curJob (entered s p 0 fs [] [])).ids.jobid (firstReady s p fs) (by rw [getCore_modCore_self, oneEntry]) rfl
  rw [Say.oneMore, curCore, (frame_placedAlone s p fs hafter).cur]
  refine ⟨hkeep.1, hkeep.2.trans ?_⟩
  rw [getCore_modCore_self]
  exact (core_entered s p 0 fs [] [] hafter).2

/-! ### What the push of an engine operation does -/

theorem push_alone (p : PushSpec) (s : State) (fs : List FootPart) (hs : p.strms.contains s.cur.strm = true)
    (hc : s.cur.strm ≠ .c) (hsize : p.i.size = 24) (hmay : Say.mayPush s p.head) (hchecks : p.checks s = .ok fs)
    (hfs : NoAcc fs) (hafter : ∀ t, BesideTable t (p.after t)) :
    ∃ u e, push p s = .next (retire 24 (wr u p.head.td (BitVec.ofNat 64 (curCore s).nextSeq)))
      ∧ Say.pushed s p.i p.head e ∧ Say.oneMore s u e ∧ u.ms = (drainWc s s.cur).ms ∧ u.jobs = s.jobs ∧ u.strs = s.strs := by
  obtain ⟨hready, hempty, hta, htb, -⟩ := hmay
  obtain ⟨hq, hp, -⟩ := (ready_iff _ _ _).1 hready
  have hf := frame_placedAlone s p fs hafter
  refine ⟨placedAlone s p fs, firstReady s p fs, ?_, pushed_firstReady s p fs, oneMore_placedAlone s p fs hafter,
    (ms_sweepSeen _ _ _).trans (ms_entered s p 0 fs [] [] hafter), hf.jobs, hf.strs⟩
  rw [← hsize] at hp ⊢
  have hk := hf.keeps hq hp
  refine issue_next p.i p.strms none free (pushBody p) s _ hq hp hs rfl rfl ?_
    (hk.trans (keeps_wr _ p.i.size p.head.td _ hk.quiet hk.plain))
  rw [pushBody_ok p s fs hempty hta htb hchecks, place_alone s p fs hc hfs hafter hempty]

/-- The first entry of an engine operation, as the spec says of its push. -/
def Pushes (i : Instr) (s : State) (x : EngOp) : Prop :=
  ∃ u e, exec i s = .next (retire 24 (wr u x.h.td (BitVec.ofNat 64 (curCore s).nextSeq)))
    ∧ Say.pushed s i x.h e ∧ Say.oneMore s u e ∧ u.ms = (drainWc s s.cur).ms ∧ u.jobs = s.jobs ∧ u.strs = s.strs

/-- What the spec says of the push of `i`: a collective without a member is ILLEGAL, every other operation is placed. -/
def EngineSettled (i : Instr) (s : State) (x : EngOp) : Prop :=
  ((∀ y, Say.collective i = some y → collSize (curJob s).ids y ≠ 0) → Pushes i s x)
    ∧ ∀ y, Say.collective i = some y → collSize (curJob s).ids y = 0 → exec i s = .next (trapNow s i .illegal 0 0)

theorem noAcc_append {xs ys : List FootPart} (hx : NoAcc xs) (hy : NoAcc ys) : NoAcc (xs ++ ys) :=
  fun a w h => (List.mem_append.1 h).elim (hx a w) (hy a w)

theorem noAcc_linesPart (l n : Nat) (write : Bool) : NoAcc (linesPart l n write) := by
  intro a w
  unfold linesPart
  split <;> simp

theorem noAcc_syncPart (s : State) (r : Reg) : NoAcc (syncPart s r) := by
  unfold syncPart
  split
  · exact noAcc_nil
  · exact noAcc_rangeParts _ _ _ _

theorem noAcc_moved (j : Job) (va vb : Word) (m n : Nat) (s : State) (r : Reg) :
    NoAcc (rangeParts j va m false ++ rangeParts j vb n true ++ syncPart s r) :=
  noAcc_append (noAcc_append (noAcc_rangeParts _ _ _ _) (noAcc_rangeParts _ _ _ _)) (noAcc_syncPart s r)

/-- What a collective reads and writes (R223). -/
def collFoot (i : Instr) (x : EngOp) (s : State) : List FootPart :=
  let l := collLengths (collKind i) (collSize (curJob s).ids x) x ((rd s x.rc).toNat % 2 ^ 32)
  rangeParts (viewedJob s) (rd s x.ra) l.1 false ++ rangeParts (viewedJob s) (rd s x.rb) l.2 true ++ syncPart s x.rw

/-- The push of a collective. -/
def collSpec (i : Instr) (x : EngOp) : PushSpec :=
  { i := i, head := x.h, strms := [.l, .s], ordinal := fun s => pushCount s x, after := fun s => countColl s x
    checks := fun s => do
      check (collSize (curJob s).ids x != 0) .illegal
      .ok (collFoot i x s) }

theorem collPush_eq (i : Instr) (x : EngOp) (s : State) : collPush i x s = push (collSpec i x) s := rfl

theorem contains_strm_engine {t : Strm} (h : t ≠ .c) : [Strm.l, .s].contains t = true := by
  cases t with
  | c => exact absurd rfl h
  | _ => rfl

section
variable (s : State) (x : EngOp) (i : Instr) (hmay : Say.mayPush s x.h) (hc : s.cur.strm ≠ .c) (hsize : i.size = 24)
include hmay hc hsize

theorem pushes_engine (foot : State → List FootPart) (hexec : exec i s = enginePush i x foot s) (hfoot : NoAcc (foot s)) :
    Pushes i s x := by
  rw [Pushes, hexec]
  exact push_alone { i := i, head := x.h, strms := [.l, .s], checks := fun s => .ok (foot s) } s (foot s)
    (contains_strm_engine hc) hc hsize hmay rfl hfoot .refl

theorem pushes_collective (hexec : exec i s = collPush i x s) (hmembers : collSize (curJob s).ids x ≠ 0) :
    Pushes i s x := by
  rw [Pushes, hexec, collPush_eq]
  refine push_alone (collSpec i x) s (collFoot i x s) (contains_strm_engine hc) hc hsize hmay ?_ (noAcc_moved _ _ _ _ _ _ _)
    fun t => besideTable_countColl t x
  simp only [collSpec, check, bne_iff_ne.2 hmembers]
  rfl

theorem collective_illegal (hexec : exec i s = collPush i x s) (hnone : collSize (curJob s).ids x = 0) :
    exec i s = .next (trapNow s i .illegal 0 0) := by
  rw [hexec, collPush_eq]
  refine push_trap (collSpec i x) s .illegal 0 0 (contains_strm_engine hc) hsize hmay ?_
  simp only [collSpec, check, hnone]
  rfl

theorem engine_settled (foot : State → List FootPart) (hexec : exec i s = enginePush i x foot s) (hfoot : NoAcc (foot s))
    (hnot : Say.collective i = none) : EngineSettled i s x :=
  ⟨fun _ => pushes_engine s x i hmay hc hsize foot hexec hfoot, fun y hy => by rw [hnot] at hy; cases hy⟩

theorem collective_settled (hexec : exec i s = collPush i x s) (hcoll : Say.collective i = some x) :
    EngineSettled i s x := by
  refine ⟨fun h => pushes_collective s x i hmay hc hsize hexec (h x hcoll), fun y hy h0 => ?_⟩
  obtain rfl : x = y := Option.some.inj (hcoll.symm.trans hy)
  exact collective_illegal s x i hmay hc hsize hexec h0

end

theorem enginePush_holds : Say.EnginePush := by
  intro i s n r x hi hmay hc
  have hrange {j : Job} {va : Word} {m : Nat} {w : Bool} : NoAcc (rangeParts j va m w) := noAcc_rangeParts j va m w
  have hlines {l m : Nat} {w : Bool} : NoAcc (linesPart l m w) := noAcc_linesPart l m w
  cases i with
  | cpy => cases hi; exact engine_settled s x _ hmay hc rfl _ rfl (noAcc_moved _ _ _ _ _ _ _) rfl
  | gath =>
    cases hi
    exact engine_settled s x _ hmay hc rfl _ rfl (noAcc_append (noAcc_append (noAcc_append hlines hlines) hrange)
      (noAcc_syncPart s _)) rfl
  | scat =>
    cases hi
    exact engine_settled s x _ hmay hc rfl _ rfl (noAcc_append (noAcc_append (noAcc_append hlines hlines) hrange)
      (noAcc_syncPart s _)) rfl
  | put => cases hi; exact engine_settled s x _ hmay hc rfl _ rfl hlines rfl
  | dcmp => cases hi; exact engine_settled s x _ hmay hc rfl _ rfl (noAcc_append hrange (noAcc_syncPart s _)) rfl
  | pfch => cases hi; exact engine_settled s x _ hmay hc rfl _ rfl noAcc_nil rfl
  | kvapp => cases hi; exact engine_settled s x _ hmay hc rfl _ rfl (noAcc_append (noAcc_append hlines hrange) hrange) rfl
  | kvget =>
    cases hi
    exact engine_settled s x _ hmay hc rfl _ rfl (noAcc_append (noAcc_append hrange hlines) (noAcc_syncPart s _)) rfl
  | kvevt => cases hi; exact engine_settled s x _ hmay hc rfl _ rfl (noAcc_append hrange hrange) rfl
  | dirlk => cases hi; exact engine_settled s x _ hmay hc rfl _ rfl hrange rfl
  | dirpub => cases hi; exact engine_settled s x _ hmay hc rfl _ rfl hrange rfl
  | kvfet => cases hi; exact engine_settled s x _ hmay hc rfl _ rfl (noAcc_append (noAcc_append hrange hrange) hrange) rfl
  | enqf => cases hi; exact engine_settled s x _ hmay hc rfl _ rfl hlines rfl
  | fradvPub => cases hi; exact engine_settled s x _ hmay hc rfl _ rfl (noAcc_append hrange hrange) rfl
  | fradvPin => cases hi; exact engine_settled s x _ hmay hc rfl _ rfl (noAcc_append hrange hrange) rfl
  | fradvUnpin => cases hi; exact engine_settled s x _ hmay hc rfl _ rfl (noAcc_append hrange hrange) rfl
  | cred => cases hi; exact collective_settled s x _ hmay hc rfl rfl rfl
  | cbc => cases hi; exact collective_settled s x _ hmay hc rfl rfl rfl
  | cgth => cases hi; exact collective_settled s x _ hmay hc rfl rfl rfl
  | crsc => cases hi; exact collective_settled s x _ hmay hc rfl rfl rfl
  | _ => cases hi

end Sys2Proof.Proofs
end

section
/-! PROOFS. Token tables of two entries, and the states that an edge between them leaves (R154, R156). -/

namespace Sys2Proof.Proofs

open Sys2Proof Sys2Proof.Machine

/-! ### Tables of two entries -/

/-- The table holds the entry `p` in `slot`, the entry `e` in `k`, and no other. -/
def TwoEntries (t : Tab TokenEntry) (slot : Nat) (p : TokenEntry) (k : Nat) (e : TokenEntry) : Prop :=
  slot ≠ k ∧ (t = [(k, e), (slot, p)] ∨ slot < k ∧ t = [(slot, p), (k, e)])

section
variable {t : Tab TokenEntry} {slot k : Nat} {p e : TokenEntry} (h : TwoEntries t slot p k e)
include h

theorem TwoEntries.length_eq : t.length = 2 := by
  obtain ⟨-, rfl | ⟨-, rfl⟩⟩ := h <;> rfl

theorem TwoEntries.mem_iff {x : Nat × TokenEntry} : x ∈ t ↔ x = (slot, p) ∨ x = (k, e) := by
  obtain ⟨-, rfl | ⟨-, rfl⟩⟩ := h
  · simp [or_comm]
  · simp

theorem TwoEntries.map (f : Nat × TokenEntry → TokenEntry) :
    TwoEntries (t.map fun x => (x.1, f x)) slot (f (slot, p)) k (f (k, e)) := by
  obtain ⟨hne, rfl | ⟨hlt, rfl⟩⟩ := h
  · exact ⟨hne, .inl rfl⟩
  · exact ⟨hne, .inr ⟨hlt, rfl⟩⟩

/-- The second entry is found whatever becomes of the first. -/
theorem TwoEntries.get?_filter (keep : Nat × TokenEntry → Bool) (hk : keep (k, e) = true) :
    Tab.get? (t.filter keep) k = some e := by
  obtain ⟨hne, rfl | ⟨hlt, rfl⟩⟩ := h
  · simp [List.filter_cons, hk, Tab.get?]
  · by_cases hp : keep (slot, p) = true
    · simp [hk, hp, Tab.get?, hne, Nat.not_lt.2 hlt.le]
    · simp [hk, hp, Tab.get?]

theorem TwoEntries.modify (f : TokenEntry → TokenEntry) : TwoEntries (Tab.modify t k f) slot p k (f e) := by
  obtain ⟨hne, rfl | ⟨hlt, rfl⟩⟩ := h
  · exact ⟨hne, .inl (by simp [Tab.modify])⟩
  · exact ⟨hne, .inr ⟨hlt, by simp [Tab.modify, hne, Nat.not_lt.2 hlt.le]⟩⟩

end

/-- The lowest slot that is free beside one that is taken. -/
def freeBeside (slot : Nat) : Nat := if slot = 0 then 1 else 0

theorem freeBeside_ne (slot : Nat) : slot ≠ freeBeside slot := by
  unfold freeBeside
  split <;> omega

theorem freeSlot_beside {s : State} {core slot : Nat} {p : TokenEntry} (ht : tokens s core = [(slot, p)]) :
    freeSlot s core = some (freeBeside slot) := by
  have hrange : List.range Config.tokenSlots = 0 :: 1 :: List.range' 2 254 := by
    rw [List.range_eq_range', show Config.tokenSlots = 254 + 1 + 1 from rfl, List.range'_succ, List.range'_succ]
  rw [freeSlot, ht, hrange, freeBeside]
  by_cases h0 : slot = 0
  · simp [h0, Tab.get?]
  · simp [h0, Tab.get?]

theorem twoEntries_set (slot : Nat) (p e : TokenEntry) :
    TwoEntries (Tab.set [(slot, p)] (freeBeside slot) e) slot p (freeBeside slot) e := by
  refine ⟨freeBeside_ne slot, ?_⟩
  unfold freeBeside
  split
  · rename_i h0
    exact .inr ⟨by omega, by simp [h0, Tab.set]⟩
  · rename_i h0
    exact .inl (by simp [Tab.set, h0, Nat.pos_of_ne_zero h0])

/-! ### The states that edges leave (R154, R156) -/

/-- Whether an operation has failed or been cancelled. -/
def failed (x : TokState) : Bool := x == .faulted || x == .cancelled

/-- The state of a new operation whose one predecessor is in this state. -/
def stateAfter : TokState → TokState
  | .done => .ready
  | .faulted | .cancelled => .faulted
  | _ => .pending

theorem stateAfter_of_failed {x : TokState} (h : failed x = true) :
    stateAfter x = .faulted ∧ x ≠ .pending ∧ x.inFlight = false := by
  revert h
  cases x <;> decide

theorem stateAfter_of_inFlight {x : TokState} (h : x.inFlight = true) :
    stateAfter x = .pending ∧ failed x = false ∧ x ≠ .done := by
  revert h
  cases x <;> decide

/-- An operation that is not in flight has failed or is DONE. -/
theorem inFlight_of_ne {x : TokState} (hfail : failed x = false) (hdone : x ≠ .done) : x.inFlight = true := by
  revert hfail hdone
  cases x <;> decide

theorem settleEntry_of_ne (t : Tab TokenEntry) (now slot : Nat) (e : TokenEntry) (h : e.state ≠ .pending) :
    settleEntry t now slot e = e := by simp [settleEntry, h]

/-- A pending entry is READY or stays as it is where nothing in the table has failed. -/
theorem settleEntry_of_none_failed (t : Tab TokenEntry) (now slot : Nat) (e : TokenEntry)
    (h : ∀ x ∈ t, failed x.2.state = false) :
    settleEntry t now slot e = e ∨ e.state = .pending ∧ settleEntry t now slot e = { e with state := .ready } := by
  by_cases hp : e.state = .pending
  · have hany : ((t.filter (isPred e.preds)).any fun x => x.2.state == .faulted || x.2.state == .cancelled) = false :=
      List.any_eq_false.2 fun x hx => Bool.eq_false_iff.1 (h x (List.mem_filter.1 hx).1)
    simp only [settleEntry, hp, hany, Bool.false_eq_true, if_false, bne_self_eq_false]
    split
    · exact .inr ⟨trivial, rfl⟩
    · exact .inl rfl
  · exact .inl (settleEntry_of_ne t now slot e hp)

theorem settleTable_of_ne (now n : Nat) (t : Tab TokenEntry) (h : ∀ x ∈ t, x.2.state ≠ .pending) :
    settleTable now n t = t := by
  have hround : (t.map fun x => (x.1, settleEntry t now x.1 x.2)) = t := by
    refine (List.map_congr_left fun x hx => ?_).trans (List.map_id t)
    rw [settleEntry_of_ne t now x.1 x.2 (h x hx)]
    rfl
  induction n with
  | zero => rfl
  | succ n ih => rw [settleTable, hround, ih]

section
variable {t : Tab TokenEntry} {slot k : Nat} {p e : TokenEntry} (h : TwoEntries t slot p k e)
  (hpreds : e.preds = [(slot, p.seq)])
include h hpreds

theorem TwoEntries.filter_preds : t.filter (isPred e.preds) = [(slot, p)] := by
  obtain ⟨hne, rfl | ⟨-, rfl⟩⟩ := h <;> simp [isPred, hpreds, Ne.symm hne]

/-- The predecessor of the new entry is in flight: so it stays, and the new entry is PENDING (R156). -/
theorem settleTable_inFlight (now n : Nat) (he : e.state = .pending) (hp : p.state.inFlight = true) :
    ∃ q, TwoEntries (settleTable now n t) slot q k e ∧ q.state.inFlight = true ∧ q.holder = p.holder := by
  induction n generalizing t p with
  | zero => exact ⟨p, h, hp, rfl⟩
  | succ n ih =>
    have hnone : ∀ x ∈ t, failed x.2.state = false := by
      intro x hx
      rcases h.mem_iff.1 hx with rfl | rfl
      · exact (stateAfter_of_inFlight hp).2.1
      · simp [failed, he]
    have hround := h.map fun x => settleEntry t now x.1 x.2
    have hnew : settleEntry t now k e = e := by
      obtain ⟨-, -, hdone⟩ := stateAfter_of_inFlight hp
      have hfail : (p.state == .faulted || p.state == .cancelled) = false := hnone (slot, p) (h.mem_iff.2 (.inl rfl))
      simp [settleEntry, he, h.filter_preds hpreds, hdone, hfail]
    rw [hnew] at hround
    rcases settleEntry_of_none_failed t now slot p hnone with hold | ⟨-, hready⟩
    · rw [hold] at hround
      exact ih hround hpreds hp
    · rw [hready] at hround
      exact ih (p := { p with state := .ready }) hround hpreds rfl

/-- The predecessor of the new entry is DONE: the new entry is READY. -/
theorem settleTable_done (now n : Nat) (he : e.state = .pending) (hp : p.state = .done) :
    TwoEntries (settleTable now (n + 1) t) slot p k { e with state := .ready } := by
  have hround := h.map fun x => settleEntry t now x.1 x.2
  have hnew : settleEntry t now k e = { e with state := .ready } := by
    simp [settleEntry, he, h.filter_preds hpreds, hp]
  rw [hnew, settleEntry_of_ne t now slot p (by simp [hp])] at hround
  rw [settleTable, settleTable_of_ne]
  · exact hround
  · intro x hx
    rcases hround.mem_iff.1 hx with rfl | rfl
    · simp [hp]
    · simp

end

/-! ### What follows from the new entry (R154, R318, R371) -/

/-- The jobs of `t` alone may differ from those of `s`, and not in what a launch gave them. -/
structure SameIds (s t : State) : Prop where
  only : t = { s with jobs := t.jobs }
  ids : ∀ k, (Tab.get? t.jobs k).map (·.ids) = (Tab.get? s.jobs k).map (·.ids)

theorem SameIds.refl (s : State) : SameIds s s := ⟨rfl, fun _ => rfl⟩

theorem SameIds.trans {s t u : State} (a : SameIds s t) (b : SameIds t u) : SameIds s u :=
  ⟨by rw [b.only, a.only], fun k => (b.ids k).trans (a.ids k)⟩

theorem SameIds.keeps {s t : State} {n : Nat} (h : SameIds s t) (hq : quiet s = true) (hp : plain s n = true) :
    Keeps s t n := by
  have hcur : t.cur = s.cur := by rw [h.only]
  have hstrs : t.strs = s.strs := by rw [h.only]
  have hstream : curStream t = curStream s := by rw [curStream, curStream, getStream, getStream, hcur, hstrs]
  have hids := h.ids (jobKey s.cur)
  obtain ⟨j, hj⟩ := Option.isSome_iff_exists.1 (quiet_job hq)
  rw [hj, Option.map_some, Option.map_eq_some_iff] at hids
  obtain ⟨i, hi, hij⟩ := hids
  refine keeps_of s t n hq hp hcur (by rw [h.only]) (by rw [hstrs]; exact quiet_stream hq) (by rw [hi]; rfl) ?_ ?_ ?_ ?_ ?_
  · simp only [curPart, curJob, getJob, Tab.getD, hcur, hi, hj, Option.getD_some, hij]
  all_goals rw [hstream]

theorem sameIds_modJobId (s : State) (jobid : Nat) (f : Job → Job) (hf : ∀ j, (f j).ids = j.ids) :
    SameIds s (modJobId s jobid f) := by
  refine ⟨rfl, fun k => ?_⟩
  have hmap : (modJobId s jobid f).jobs = s.jobs.map fun e => (e.1, if e.2.ids.jobid = jobid then f e.2 else e.2) :=
    List.map_congr_left fun e _ => by split <;> rfl
  rw [hmap, Tab.get?_map, Option.map_map]
  congr 1
  funext j
  simp only [Function.comp_apply]
  split
  · exact hf j
  · rfl

theorem sameIds_disownFailed (s : State) (core : Nat) : SameIds s (disownFailed s core) := by
  refine foldl_keeps (SameIds s) _ (fun t e ht => ?_) _ s (.refl s)
  split
  · split
    · exact ht.trans (sameIds_modJobId t _ _ fun _ => rfl)
    · exact ht
  · exact ht

theorem foldl_eq_self {α σ : Type} (f : σ → α → σ) (s : σ) (l : List α) (h : ∀ x ∈ l, f s x = s) : l.foldl f s = s := by
  induction l with
  | nil => rfl
  | cons x l ih =>
    rw [List.foldl_cons, h x (List.mem_cons_self ..)]
    exact ih fun y hy => h y (List.mem_cons_of_mem _ hy)

/-- Nothing is noted where each entry is no collective, has not failed, or had ended before. -/
theorem noteFailures_eq_self (before : Tab TokenEntry) (s : State) (core : Nat)
    (h : ∀ x ∈ tokens s core, collOp x.2.instr = none ∨ failed x.2.state = false
      ∨ ∀ b, Tab.get? before x.1 = some b → b.state.inFlight = false) :
    noteFailures before s core = s := by
  refine foldl_eq_self _ s _ fun x hx => ?_
  obtain ⟨hmem, hend⟩ := List.mem_filter.1 hx
  obtain ⟨hfailed, hbefore⟩ := Bool.and_eq_true_iff.1 hend
  rcases h x hmem with hnone | hgood | hended
  · rw [noteFailed, hnone]
  · exact absurd (hgood.symm.trans hfailed) Bool.false_ne_true
  · cases hb : Tab.get? before x.1 with
    | none => simp [hb] at hbefore
    | some b => simp [hb, hended b hb] at hbefore

/-- Nothing is released where no entry is held by a saved job. -/
theorem releaseSavedEnded_eq_self (before : Tab TokenEntry) (s : State) (core : Nat)
    (h : ∀ x ∈ tokens s core, ∀ id, x.2.holder = some id → ∀ y ∈ s.saved, y.job.ids.jobid ≠ id) :
    releaseSavedEnded before s core = s := by
  refine foldl_eq_self _ s _ fun x hx => ?_
  split
  · rename_i id hid
    have hsaved : (s.saved.any fun y => y.job.ids.jobid == id) = false :=
      List.any_eq_false.2 fun y hy => by simpa using h x hx id hid y hy
    rw [hsaved, Bool.and_false, if_neg Bool.false_ne_true]
  · rfl

/-- A core whose table has been settled. -/
def settledCore (c : Core) : Core := { c with tokens := settleTable c.cycle c.tokens.length c.tokens }

theorem tokens_settledCore (s : State) (core : Nat) : tokens (modCore s core settledCore) core
    = settleTable (cycleOf s core) (tokens s core).length (tokens s core) := by
  rw [tokens, getCore_modCore_self]
  rfl

theorem tokens_sameIds {s t : State} (h : SameIds s t) (core : Nat) : tokens t core = tokens s core := by
  have hcores : t.cores = s.cores := by rw [h.only]
  rw [tokens, tokens, getCore, getCore, hcores]

theorem settleFrom_eq (before : Tab TokenEntry) (s : State) (core : Nat)
    (hnote : noteFailures before (modCore s core settledCore) core = modCore s core settledCore)
    (hrelease : ∀ x ∈ tokens (modCore s core settledCore) core, ∀ id, x.2.holder = some id →
      ∀ y ∈ s.saved, y.job.ids.jobid ≠ id) :
    settleFrom before s core = disownFailed (modCore s core settledCore) core := by
  change releaseSavedEnded before (disownFailed (noteFailures before (modCore s core settledCore) core) core) core = _
  rw [hnote]
  have hsame := sameIds_disownFailed (modCore s core settledCore) core
  have hsaved : (disownFailed (modCore s core settledCore) core).saved = s.saved := by
    rw [hsame.only]
    rfl
  refine releaseSavedEnded_eq_self _ _ _ ?_
  rw [tokens_sameIds hsame, hsaved]
  exact hrelease

/-- The second of two entries, where it is not DONE, is not released. -/
theorem get?_sweepSeen {s : State} {core slot k : Nat} {p e : TokenEntry} (jobid : Nat)
    (h : TwoEntries (tokens s core) slot p k e) (he : e.state ≠ .done) :
    Tab.get? (tokens (sweepSeen s core jobid) core) k = some e := by
  have hsame : Tab.get? (tokens s core) k = some e := by
    simpa using h.get?_filter (fun _ => true) rfl
  unfold sweepSeen
  split
  · split
    · rw [tokens, getCore_modCore_self]
      exact h.get?_filter _ (by simp [he])
    · exact hsame
  · exact hsame

end Sys2Proof.Proofs
end

section
/-! PROOFS. The push of an engine operation beside one other: the edge to it, and the overlap with it (R154 to R156,
R161). -/

namespace Sys2Proof.Proofs

open Sys2Proof Sys2Proof.Machine

/-! ### The new entry beside its predecessor -/

/-- What stands in the table beside `p` once its edge is followed: the new entry `e` but for its state, and for the fault
that it takes from a failed predecessor. -/
structure Follows (p e f : TokenEntry) : Prop where
  instr : f.instr = e.instr
  preds : f.preds = e.preds
  holder : f.holder = e.holder
  reported : f.reported = e.reported
  state : f.state = stateAfter p.state
  fault : f.state = .faulted → f.fault = some (.async, 0)

/-- The state in which the new entry stands beside `p`, FAULTED from the start where `p` has failed (R156). -/
def enteredBeside (x : State) (k : Nat) (p : TokenEntry) : State := if failed p.state then enteredBad x k else x

/-- Following the edge. -/
theorem settleTable_beside {x : State} {slot k : Nat} {p e : TokenEntry} (h : TwoEntries (tokens x x.cur.core) slot p k e)
    (hpreds : e.preds = [(slot, p.seq)]) (he : e.state = .pending) (now : Nat) :
    ∃ q f, TwoEntries (settleTable now (tokens (enteredBeside x k p) x.cur.core).length
        (tokens (enteredBeside x k p) x.cur.core)) slot q k f
      ∧ Follows p e f ∧ q.holder = p.holder ∧ (failed q.state = true → p.state.inFlight = false) := by
  unfold enteredBeside
  by_cases hfail : failed p.state = true
  · obtain ⟨hafter, hne, hflight⟩ := stateAfter_of_failed hfail
    have hbad := h.modify fun e => e.failed k (cycleOf x x.cur.core) (.async, 0)
    rw [if_pos hfail, show tokens (enteredBad x k) x.cur.core
      = Tab.modify (tokens x x.cur.core) k fun e => e.failed k (cycleOf x x.cur.core) (.async, 0) by
        rw [tokens, enteredBad, modTok, getCore_modCore_self]; rfl]
    rw [settleTable_of_ne]
    · exact ⟨p, _, hbad, ⟨rfl, rfl, rfl, rfl, hafter.symm, fun _ => rfl⟩, rfl, fun _ => hflight⟩
    · intro y hy
      rcases hbad.mem_iff.1 hy with rfl | rfl
      · exact hne
      · exact nofun
  · rw [if_neg hfail, h.length_eq]
    by_cases hdone : p.state = .done
    · refine ⟨p, _, settleTable_done h hpreds now 1 he hdone, ⟨rfl, rfl, rfl, rfl, ?_, nofun⟩, rfl, fun hf => absurd hf hfail⟩
      rw [hdone]
      rfl
    · have hflight := inFlight_of_ne (Bool.eq_false_iff.2 hfail) hdone
      obtain ⟨hafter, -, -⟩ := stateAfter_of_inFlight hflight
      obtain ⟨q, hq, hqflight, hqholder⟩ := settleTable_inFlight h hpreds now 2 he hflight
      refine ⟨q, e, hq, ⟨rfl, rfl, rfl, rfl, he.trans hafter.symm, fun hf => ?_⟩, hqholder, fun hf => ?_⟩
      · rw [he] at hf
        cases hf
      · rw [(stateAfter_of_inFlight hqflight).2.1] at hf
        cases hf

theorem TwoEntries.eq_of_get? {t : Tab TokenEntry} {slot k : Nat} {p e b : TokenEntry} (h : TwoEntries t slot p k e)
    (hb : Tab.get? t slot = some b) : b = p := by
  rcases h.mem_iff.1 (Tab.mem_of_get? t slot b hb) with hbp | hbe
  · exact (Prod.mk.inj hbp).2
  · exact absurd (Prod.mk.inj hbe).1 h.1

/-- The state in which the token of an operation with one predecessor is put in S(td). -/
def placedBeside (x : State) (k : Nat) (p : TokenEntry) : State :=
  let y := enteredBeside x k p
  sweepSeen (settleFrom (tokens x x.cur.core) y x.cur.core) x.cur.core (curJob y).ids.jobid

theorem frame_enteredBeside (x : State) (k : Nat) (p : TokenEntry) : ExecFrame x (enteredBeside x k p) :=
  .ite (frame_modCore ..) (.refl x)

theorem settleFrom_beside {x : State} {slot k : Nat} {p e : TokenEntry} {jobid : Nat}
    (h : TwoEntries (tokens x x.cur.core) slot p k e) (hpreds : e.preds = [(slot, p.seq)]) (he : e.state = .pending)
    (hcoll : collOp e.instr = none) (hp : p.holder = some jobid) (hholder : e.holder = some jobid)
    (hsaved : ∀ y ∈ x.saved, y.job.ids.jobid ≠ jobid) :
    let z := modCore (enteredBeside x k p) x.cur.core settledCore
    settleFrom (tokens x x.cur.core) (enteredBeside x k p) x.cur.core = disownFailed z x.cur.core
      ∧ ∃ q f, TwoEntries (tokens z x.cur.core) slot q k f ∧ Follows p e f := by
  intro z
  obtain ⟨q, f, ht, hfollow, hqholder, hqended⟩ :=
    settleTable_beside h hpreds he (cycleOf (enteredBeside x k p) x.cur.core)
  rw [← tokens_settledCore] at ht
  have hsame : (enteredBeside x k p).saved = x.saved := by
    unfold enteredBeside
    split <;> rfl
  refine ⟨settleFrom_eq _ _ _ (noteFailures_eq_self _ _ _ fun y hy => ?_) fun y hy id hid => ?_, q, f, ht, hfollow⟩
  · rcases ht.mem_iff.1 hy with rfl | rfl
    · by_cases hf : failed q.state = true
      · exact .inr (.inr fun b hb => by rw [h.eq_of_get? hb]; exact hqended hf)
      · exact .inr (.inl (Bool.eq_false_iff.2 hf))
    · exact .inl (by rw [hfollow.instr]; exact hcoll)
  · have hjob : y.2.holder = some jobid := by
      rcases ht.mem_iff.1 hy with rfl | rfl
      · exact hqholder.trans hp
      · exact hfollow.holder.trans hholder
    obtain rfl : jobid = id := Option.some.inj (hjob.symm.trans hid)
    rw [hsame]
    exact hsaved

/-- The new entry, and what is left of the state but for its cores and the accumulators of its jobs. -/
theorem placedBeside_spec {x : State} {slot k : Nat} {p e : TokenEntry} {jobid : Nat}
    (h : TwoEntries (tokens x x.cur.core) slot p k e) (hpreds : e.preds = [(slot, p.seq)]) (he : e.state = .pending)
    (hcoll : collOp e.instr = none) (hp : p.holder = some jobid) (hholder : e.holder = some jobid)
    (hsaved : ∀ y ∈ x.saved, y.job.ids.jobid ≠ jobid) :
    (∃ f, Tab.get? (tokens (placedBeside x k p) x.cur.core) k = some f ∧ Follows p e f)
      ∧ (placedBeside x k p).ms = x.ms ∧ (placedBeside x k p).strs = x.strs
      ∧ ∀ n, quiet x = true → plain x n = true → Keeps x (placedBeside x k p) n := by
  obtain ⟨hsettle, q, f, ht, hfollow⟩ := settleFrom_beside h hpreds he hcoll hp hholder hsaved
  have hframe := (frame_enteredBeside x k p).trans (frame_modCore _ x.cur.core settledCore)
  have hms : (modCore (enteredBeside x k p) x.cur.core settledCore).ms = x.ms := by
    unfold enteredBeside
    split <;> rfl
  unfold placedBeside
  dsimp only
  rw [hsettle]
  generalize modCore (enteredBeside x k p) x.cur.core settledCore = z at ht hframe hms
  have hown := sameIds_disownFailed z x.cur.core
  have hsweep := frame_sweepSeen (disownFailed z x.cur.core) x.cur.core (curJob (enteredBeside x k p)).ids.jobid
  refine ⟨⟨f, get?_sweepSeen _ (by rwa [tokens_sameIds hown]) ?_, hfollow⟩, ?_, ?_, fun n hq hp => ?_⟩
  · rw [hfollow.state]
    cases p.state <;> exact nofun
  · rw [ms_sweepSeen, hown.only]
    exact hms
  · rw [hsweep.strs, hown.only]
    exact hframe.strs
  · have h1 := hframe.keeps hq hp
    have h2 := hown.keeps h1.quiet h1.plain
    exact (h1.trans h2).trans (hsweep.keeps h2.quiet h2.plain)

/-! ### The push (R155, R161) -/

/-- A register whose token is LIVE names its operation as a predecessor. -/
theorem predEdge_live {s : State} {a : Reg} {e : TokenEntry} (h : Say.liveTok s a e) :
    predEdge s ((rd s a).toNat % 2 ^ 32) = .ok [(Say.slotOf (rd s a), e.seq)] := by
  obtain ⟨hne, hget, hseq, hholder⟩ := h
  have hslot : (rd s a).toNat % 2 ^ 32 / 2 ^ 24 % 256 = Say.slotOf (rd s a) := by
    simp only [Say.slotOf, BitVec.extractLsb'_toNat, Nat.shiftRight_eq_div_pow]
    omega
  have hnum : (rd s a).toNat % 2 ^ 32 % 2 ^ 24 = Say.seqOf (rd s a) := by
    simp only [Say.seqOf, BitVec.extractLsb'_toNat, Nat.shiftRight_eq_div_pow]
    omega
  have hzero : (rd s a).toNat % 2 ^ 32 ≠ 0 := by
    intro h0
    rw [h0] at hnum
    exact hne hnum.symm
  have hlive : judgeCur s ((rd s a).toNat % 2 ^ 32) = .live (Say.slotOf (rd s a)) e := by
    rw [judgeCur, judge, if_neg hzero]
    dsimp only
    rw [hslot, hnum, if_neg hne, show tokens s s.cur.core = (curCore s).tokens from rfl, hget]
    dsimp only
    rw [if_pos hseq, if_pos hholder]
  rw [predEdge, hlive]

/-- An empty footprint meets nothing. -/
theorem partsMeet_against_nil (s : State) (i : Instr) (x : Nat × TokenEntry) :
    partsMeet (partsAgainst s i [] x) x.2.foot = false := by
  unfold partsAgainst
  split <;> rfl

theorem pushOverlap_nil (s : State) (i : Instr) (ordered : List (Nat × Nat)) : pushOverlap s i [] ordered = .ok () := by
  unfold pushOverlap
  dsimp only
  split
  · rfl
  · simp only [partsMeet_against_nil, Bool.and_false, List.filter_false]
    rfl

/-- Outside the C-stream a push passes no commit point. -/
theorem pushWaits_engine {s : State} (p : PushSpec) (fs : List FootPart) (edges : List (Nat × Nat)) (hc : s.cur.strm ≠ .c) :
    pushWaits s p fs edges = false := by
  rw [pushWaits, beq_false_of_ne hc, Bool.false_and, Bool.false_and]

/-- One operation leaves room in the share of its job (R157). -/
theorem room_beside {s : State} {slot : Nat} {e : TokenEntry} (ht : tokens s s.cur.core = [(slot, e)]) :
    room s = .ready s (freeBeside slot) := by
  have hheld : (heldBy s s.cur.core (curJob s).ids.jobid).length < Config.tokenShare := by
    refine Nat.lt_of_le_of_lt (List.length_filter_le _ _) ?_
    rw [ht, List.length_singleton]
    decide
  simp only [room, hheld, if_true, roomAfter, freeSlot_beside ht]

/-- The push of an operation of no footprint, outside the C-stream, beside the operation that it names. -/
theorem pushBody_beside {p : PushSpec} {s : State} {slot : Nat} {e : TokenEntry} (hc : s.cur.strm ≠ .c)
    (htok : (curCore s).tokens = [(slot, e)]) (hlive : Say.liveTok s p.head.ta e)
    (htb : (rd s p.head.tb).toNat % 2 ^ 32 = 0) (hchecks : p.checks s = .ok []) :
    ∃ ordered, pushBody p s
      = .ok (.next (place s p (freeBeside slot) [] [(slot, e.seq)] ordered (failed e.state))) := by
  have ht : tokens s s.cur.core = [(slot, e)] := htok
  have hslot : Say.slotOf (rd s p.head.ta) = slot := by
    have hget := hlive.2.1
    rw [htok] at hget
    simpa using Tab.mem_of_get? _ _ _ hget
  have hbad : anyFailed s s.cur.core [(slot, e.seq)] = failed e.state := by simp [anyFailed, ht, failed]
  have hsingle : [(slot, e.seq)].eraseDups = [(slot, e.seq)] := by simp [List.eraseDups_cons]
  refine ⟨withAncestors s s.cur.core [(slot, e.seq)], ?_⟩
  unfold pushBody
  rw [predEdge_live hlive, htb, predEdge_none, hchecks, hslot]
  simp only [bind, Except.bind, partsMeet_against_nil, Bool.and_false, List.filter_false, List.map_nil, List.append_nil,
    hsingle, pushOverlap_nil, pushWaits_engine p [] _ hc, Bool.not_false, waitFor, if_true, room_beside ht, hbad]

theorem place_beside {p : PushSpec} {s : State} (slot : Nat) (e : TokenEntry) (ordered : List (Nat × Nat))
    (hc : s.cur.strm ≠ .c) (hafter : ∀ t, BesideTable t (p.after t)) :
    place s p (freeBeside slot) [] [(slot, e.seq)] ordered (failed e.state)
      = wr (placedBeside (entered s p (freeBeside slot) [] [(slot, e.seq)] ordered) (freeBeside slot) e) p.head.td
        (BitVec.ofNat 64 (tokenValue (freeBeside slot) (curCore s).nextSeq)) := by
  have hcur := (frame_entered s p (freeBeside slot) [] [(slot, e.seq)] ordered hafter).cur
  rw [place_engine s p _ [] _ ordered _ hc noAcc_nil hafter]
  simp only [placedBeside, hcur]
  rfl

/-- The table once the new entry stands beside the one that it names. -/
theorem twoEntries_entered {p : PushSpec} {s : State} {slot : Nat} {e : TokenEntry} (fs : List FootPart)
    (edges ordered : List (Nat × Nat)) (htok : (curCore s).tokens = [(slot, e)]) (hafter : ∀ t, BesideTable t (p.after t)) :
    TwoEntries (tokens (entered s p (freeBeside slot) fs edges ordered)
        (entered s p (freeBeside slot) fs edges ordered).cur.core)
      slot e (freeBeside slot) (newEntry (drainWc s s.cur) p (curCore s).nextSeq fs edges ordered) := by
  rw [(frame_entered s p (freeBeside slot) fs edges ordered hafter).cur,
    (core_entered s p (freeBeside slot) fs edges ordered hafter).1, htok]
  exact twoEntries_set ..

/-- The push of PFCH and of PUT. -/
def pfchSpec (x : EngOp) : PushSpec := { i := .pfch x, head := x.h, strms := [.l, .s], checks := fun _ => .ok [] }

def putSpec (x : EngOp) : PushSpec :=
  { i := .put x, head := x.h, strms := [.l, .s], checks := fun _ => .ok (linesPart x.ln.toNat x.cnt.toNat false) }

theorem pfch_edge {s : State} {x : EngOp} {slot : Nat} {p : TokenEntry} (hready : ready s 24 none = true)
    (hc : s.cur.strm ≠ .c) (htok : (curCore s).tokens = [(slot, p)]) (hp : p.holder = some (curJob s).ids.jobid)
    (htb : (rd s x.h.tb).toNat % 2 ^ 32 = 0) (hsaved : ∀ y ∈ s.saved, y.job.ids.jobid ≠ (curJob s).ids.jobid)
    (hlive : Say.liveTok s x.h.ta p) :
    ∃ u k e, exec (.pfch x) s = .next (retire 24 (wr u x.h.td (BitVec.ofNat 64 (k * 2 ^ 24 + (curCore s).nextSeq))))
      ∧ k ≠ slot ∧ Tab.get? (curCore u).tokens k = some e ∧ e.instr = .pfch x ∧ e.preds = [(slot, p.seq)]
      ∧ e.state = stateAfter p.state ∧ (e.state = .faulted → e.fault = some (.async, 0) ∧ e.reported = false)
      ∧ u.ms = (drainWc s s.cur).ms ∧ u.strs = s.strs := by
  obtain ⟨hq, hplain, -⟩ := (ready_iff _ _ _).1 hready
  obtain ⟨ordered, hbody⟩ := pushBody_beside (p := pfchSpec x) hc htok hlive htb rfl
  rw [place_beside slot p ordered hc .refl] at hbody
  have hm := msOnly_drainWc s s.cur
  have hframe := frame_entered s (pfchSpec x) (freeBeside slot) [] [(slot, p.seq)] ordered .refl
  have htwo := twoEntries_entered (p := pfchSpec x) [] [(slot, p.seq)] ordered htok .refl
  have hmem := ms_entered s (pfchSpec x) (freeBeside slot) [] [(slot, p.seq)] ordered .refl
  have hsame := saved_entered s (pfchSpec x) (freeBeside slot) [] [(slot, p.seq)] ordered .refl
  generalize entered s (pfchSpec x) (freeBeside slot) [] [(slot, p.seq)] ordered = y at hbody hframe htwo hmem hsame
  obtain ⟨⟨f, hget, hfollow⟩, hms, hstrs, hkeeps⟩ := placedBeside_spec htwo rfl rfl rfl hp
    (by rw [← hm.frame.curJob]; rfl) (by rw [hsame]; exact hsaved)
  have hk1 := hframe.keeps hq hplain
  have hk := hk1.trans (hkeeps 24 hk1.quiet hk1.plain)
  refine ⟨placedBeside y (freeBeside slot) p, freeBeside slot, f, ?_, (freeBeside_ne slot).symm, ?_, hfollow.instr,
    hfollow.preds, hfollow.state, fun hf => ⟨hfollow.fault hf, hfollow.reported⟩, hms.trans hmem, hstrs.trans hframe.strs⟩
  · exact issue_next (.pfch x) [.l, .s] none free (pushBody (pfchSpec x)) s _ hq hplain (contains_strm_engine hc) rfl rfl
      hbody (hk.trans (keeps_wr _ 24 x.h.td _ hk.quiet hk.plain))
  · rw [curCore, hk.cur, ← hframe.cur]
    exact hget

/-! ### The overlap (R161) -/

/-- Lines `a` to `b`, read, against lines, written, among which `a` is: `a` is the first that they share. -/
theorem firstOverlap_spad {l m a b : Nat} (hlo : l ≤ a) (hhi : a ≤ m) (hb : a ≤ b) :
    partsMeet [.spad a b false] [.spad l m true] = true
      ∧ firstOverlap [.spad a b false] [.spad l m true] = BitVec.ofNat 64 (256 * a) := by
  have hmeet : FootPart.meets (.spad a b false) (.spad l m true) = true := by
    simp only [FootPart.meets, Bool.and_eq_true, decide_eq_true_eq, Bool.or_true, and_true]
    omega
  have hparts : partsMeet [.spad a b false] [.spad l m true] = true := by simp [partsMeet, hmeet]
  refine ⟨hparts, ?_⟩
  rw [firstOverlap, List.filter_cons_of_pos rfl, List.filter_nil, hparts, if_pos rfl]
  simp [firstShared, hmeet, hlo]

section
variable {s : State} {i : Instr} {fs : List FootPart} {slot : Nat} {p : TokenEntry} (ht : tokens s s.cur.core = [(slot, p)])
  (hp : p.holder = some (curJob s).ids.jobid)
include ht hp

theorem heldBy_single : heldBy s s.cur.core (curJob s).ids.jobid = [(slot, p)] := by simp [heldBy, ht, hp]

/-- The one operation in the table, of another stream, that nothing orders before the push and whose footprint meets it. -/
theorem pushOverlap_single (hprior : isPrior i = false) (hdet : detMode (curJob s) = true)
    (hflight : p.state.inFlight = true) (hseen : p.seen.getLsbD (strmIdx s.cur.strm) = false)
    (hmeet : partsMeet fs p.foot = true) :
    pushOverlap s i fs [] = .error (.trap .overlap (firstOverlap fs p.foot) (BitVec.ofNat 64 (tokenValue slot p.seq))) := by
  obtain ⟨hfaulted, hcancelled⟩ := Bool.or_eq_false_iff.1 (stateAfter_of_inFlight hflight).2.1
  have hagainst : partsAgainst s i fs (slot, p) = fs := by simp [partsAgainst, hcancelled, hprior]
  unfold pushOverlap
  dsimp only
  rw [hdet, heldBy_single ht hp]
  simp [bne, hcancelled, hfaulted, hseen, hagainst, hmeet, oldest]

end

theorem put_overlap {s : State} {x : EngOp} {slot l m : Nat} {p : TokenEntry} (hready : ready s 24 none = true)
    (hc : s.cur.strm ≠ .c) (htok : (curCore s).tokens = [(slot, p)]) (hp : p.holder = some (curJob s).ids.jobid)
    (hta : (rd s x.h.ta).toNat % 2 ^ 32 = 0) (htb : (rd s x.h.tb).toNat % 2 ^ 32 = 0) (hdet : detMode (curJob s) = true)
    (hstrm : p.strm ≠ s.cur.strm) (hflight : p.state.inFlight = true) (hseen : p.seen.getLsbD (strmIdx s.cur.strm) = false)
    (hfoot : p.foot = [.spad l m true]) (hlo : l ≤ x.ln.toNat) (hhi : x.ln.toNat ≤ m) (hcnt : x.cnt ≠ 0) :
    exec (.put x) s = .next (trapNow s (.put x) .overlap (BitVec.ofNat 64 (256 * x.ln.toNat))
      (BitVec.ofNat 64 (slot * 2 ^ 24 + p.seq))) := by
  obtain ⟨-, hplain, -⟩ := (ready_iff _ _ _).1 hready
  have hn : x.cnt.toNat ≠ 0 := fun h => hcnt (BitVec.eq_of_toNat_eq h)
  obtain ⟨hmeet, hfirst⟩ := firstOverlap_spad (b := x.ln.toNat + x.cnt.toNat - 1) hlo hhi (by omega)
  rw [← hfoot] at hmeet hfirst
  have hover := pushOverlap_single (i := .put x) htok hp rfl hdet hflight hseen hmeet
  rw [hfirst] at hover
  refine issue_trap (.put x) [.l, .s] none free (pushBody (putSpec x)) s hplain (contains_strm_engine hc) rfl rfl _ _ _ ?_
  unfold pushBody putSpec
  dsimp only
  rw [hta, htb, predEdge_none, heldBy_single htok hp, linesPart, if_neg hn]
  simp only [bind, Except.bind, beq_false_of_ne hstrm, Bool.false_and, List.filter_cons, List.filter_nil, List.map_nil,
    List.append_nil, List.eraseDups_nil, withAncestors, List.foldl_nil, hover, Bool.false_eq_true, if_false]
  rfl

theorem pushEdges_holds : Say.PushEdges := by
  intro s x slot p hready hc _ htok hp htb _ hsaved
  refine ⟨fun hlive => ?_, fun l m hta hdet hstrm hflight hseen hfoot hlo hhi hcnt =>
    put_overlap hready hc htok hp hta htb hdet hstrm hflight hseen hfoot hlo hhi hcnt⟩
  obtain ⟨u, k, e, hexec, hk, hget, hinstr, hpreds, hstate, hfault, hms, hstrs⟩ := pfch_edge hready hc htok hp htb hsaved hlive
  refine ⟨u, k, e, hexec, hk, hget, hinstr, hpreds, ?_, hfault, hms, hstrs⟩
  rw [hstate]
  cases p.state <;> rfl

/-- Settles O50: the first entry of an empty table, and the second beside the one that it names or overlaps. -/
theorem enginePush : Obligations.EnginePush := ⟨enginePush_holds, pushEdges_holds⟩

end Sys2Proof.Proofs
end

section
/-! PROOFS. NOP, SEL, division and the words that the spec writes out (R64, R66, R68, R430 to R453). -/

namespace Sys2Proof.Proofs

open Sys2Proof Sys2Proof.Machine

/-! ### Words (R39, R43) -/

/-- The one parcel of a well-formed instruction decodes to it. -/
theorem decode_of_encode {i : Instr} {w : Nat} (hwf : i.wf = true) (h : encode i = [w]) : decode [w] = .ok i := by
  have hdec := encodeDecode i [] hwf (by rw [h]; exact List.cons_ne_nil _ _)
  rwa [h] at hdec

/-! ### NOP (R64) -/

theorem encode_nop (g : Guard) :
    encode (.nop g) = [2 ^ 2 * 0x01 + 2 ^ 24 * g.p.toNat + 2 ^ 28 * g.pn.toNat] := by
  change [SWord.pack (.sr 0x01 0 g 0 0 0)] = _
  simp only [SWord.pack, show (0 : Reg).toNat = 0 from rfl, List.cons.injEq, and_true]
  ring

/-- Settles O5: with its guard false NOP takes its slot as every instruction does, and with it true its body changes
nothing. -/
theorem nopHasNoEffect : Obligations.NopHasNoEffect := by
  refine ⟨fun s g hq hp => ?_, fun g => decode_of_encode rfl (encode_nop g), by decide⟩
  change issue (.nop g) allStrms (some g) free (fun s => .ok (.next s)) s = _
  cases hg : guardOk s g with
  | false => exact issue_off (.nop g) _ g _ _ s hq hp (allStrms_contains _) rfl hg
  | true => exact issue_next (.nop g) _ (some g) _ _ s s hq hp (allStrms_contains _) rfl hg rfl (.refl s _ hq hp)

/-! ### SEL (R68) -/

theorem encode_sel (g : Guard) (d a b : Reg) :
    encode (.sel g d a b) = [2 ^ 2 * 0x0E + 2 ^ 9 * d.toNat + 2 ^ 14 * a.toNat + 2 ^ 19 * b.toNat + 2 ^ 24 * g.p.toNat
      + 2 ^ 28 * g.pn.toNat] := by
  change [SWord.pack (.sr 0x0E 0 g d a b)] = _
  simp only [SWord.pack, List.cons.injEq, and_true]
  ring

/-- Settles O6: SEL is one of the forms of `scalarResults`, with no guard. -/
theorem selSelectsByPredicate : Obligations.SelSelectsByPredicate := by
  refine fun g d a b => ⟨decode_of_encode rfl (encode_sel g d a b), fun s hq hp => ?_⟩
  have hsel := scalarResults (.sel g d a b) s Say.every none d _ rfl (by cases s.cur.strm <;> decide)
    ((ready_iff _ _ _).2 ⟨hq, hp, rfl⟩)
  exact ⟨fun h => by rw [hsel, if_pos h], fun h => by rw [hsel, if_neg (by rw [h]; decide)]⟩

/-! ### Division (R66) -/

section
variable {s : State} {g : Guard} {d a b : Reg} (h : ready s 4 (some g) = true)
include h

theorem exec_div : exec (.div g d a b) s = .next (retire 4 (wr s d (Say.quotient (rd s a) (rd s b)))) :=
  alu_completes (.div g d a b) g d a b divS _ s h (divS_eq_quotient _ _)

theorem exec_divu : exec (.divu g d a b) s = .next (retire 4 (wr s d (Say.quotientU (rd s a) (rd s b)))) :=
  alu_completes (.divu g d a b) g d a b divU _ s h (divU_eq_quotientU _ _)

theorem exec_rem :
    exec (.rem g d a b) s = .next (retire 4 (wr s d (rd s a - Say.quotient (rd s a) (rd s b) * rd s b))) :=
  alu_completes (.rem g d a b) g d a b remS _ s h (remS_eq _ _)

theorem exec_remu :
    exec (.remu g d a b) s = .next (retire 4 (wr s d (rd s a - Say.quotientU (rd s a) (rd s b) * rd s b))) :=
  alu_completes (.remu g d a b) g d a b remU _ s h (remU_eq _ _)

end

theorem quotient_zero (a : Word) : Say.quotient a 0 = 0xFFFFFFFFFFFFFFFF := by rw [Say.quotient, if_pos rfl]; rfl

theorem quotientU_zero (a : Word) : Say.quotientU a 0 = 0xFFFFFFFFFFFFFFFF := by rw [Say.quotientU, if_pos rfl]; rfl

/-- Only −2^63 / −1 leaves the range of a word. -/
theorem toInt_quotient {a b : Word} (hb : b ≠ 0) (h : ¬(a = 0x8000000000000000 ∧ b = 0xFFFFFFFFFFFFFFFF)) :
    (Say.quotient a b).toInt = a.toInt.tdiv b.toInt := by
  rw [← divS_eq_quotient, divS, if_neg hb]
  refine BitVec.toInt_sdiv_of_ne_or_ne a b ?_
  by_contra hc
  push Not at hc
  exact h ⟨hc.1, hc.2⟩

theorem toNat_quotientU {a b : Word} (hb : b ≠ 0) : (Say.quotientU a b).toNat = a.toNat / b.toNat := by
  rw [← divU_eq_quotientU, divU, if_neg hb, BitVec.toNat_udiv]

/-- Settles O4: the four forms write the quotient and the remainder of `Say`, of which each row of R66 is a case. -/
theorem division : Obligations.Division := by
  intro s g d a b h
  refine ⟨fun hb => ?_, fun ha hb => ?_, fun hb hne => ?_, fun hb => ?_⟩
  · rw [exec_div h, exec_divu h, exec_rem h, exec_remu h, hb, quotient_zero, quotientU_zero]
    simp
  · rw [exec_div h, exec_rem h, ha, hb]
    exact ⟨rfl, rfl⟩
  · exact ⟨_, _, exec_div h, exec_rem h, toInt_quotient hb hne, rfl⟩
  · exact ⟨_, _, exec_divu h, exec_remu h, toNat_quotientU hb, rfl⟩

/-! ### The words of the spec (R218, R430 to R453) -/

/-- The CPY of R433. -/
def specCpy : EngOp := ⟨⟨0, 10, 0, 0, 0, false⟩, 4, 5, 6, 0, 0, 7, 0, 0, 0, 0, 0⟩

/-- Settles O24: by the decoder, run on each word. -/
theorem decodedWords : Obligations.DecodedWords := by
  refine ⟨by decide, by decide, by decide, by decide, by decide, by decide, by decide, by decide, by decide, by decide,
    by decide, by decide, specCpy, by decide, rfl, rfl, rfl, rfl, rfl⟩

end Sys2Proof.Proofs
end

section
/-! PROOFS. The mask pairs and the lane-mask stack (R71, R85). -/

namespace Sys2Proof.Proofs

open Sys2Proof Sys2Proof.Machine

/-! ### KSET (R71) -/

theorem part_setRowMask (j : Job) (k : BitVec 3) (v : BitVec 16) : (setRowMask j k v).ids.part = j.ids.part := by
  unfold setRowMask; split <;> rfl

theorem part_setColMask (j : Job) (k : BitVec 3) (v : BitVec 64) : (setColMask j k v).ids.part = j.ids.part := by
  unfold setColMask; split <;> rfl

/-- An instruction of the C-stream that changes only the job, of the same partition. -/
theorem simpleC_modCurJob (i : Instr) (g : Guard) (f : State → Job → Job) (s : State)
    (h : ready s i.size (some g) = true) (hc : s.cur.strm = .c) (hf : ∀ j, (f s j).ids.part = j.ids.part) :
    simpleC i (some g) (fun s => modCurJob s (f s)) s = .next (retire i.size (modCurJob s (f s))) := by
  obtain ⟨hq, hp, hg⟩ := (ready_iff _ _ _).1 h
  exact issue_next i _ (some g) _ _ s _ hq hp (by rw [hc]; rfl) rfl hg rfl (keeps_modCurJob s _ _ hq hp hf)

theorem maskPairs_holds : Say.MaskPairs := by
  intro s g k a b hc h
  have hlow : (rd s a).extractLsb' 0 16 = (rd s a).setWidth 16 := (BitVec.setWidth_eq_extractLsb' (by decide)).symm
  simp only [hlow]
  refine ⟨simpleC_modCurJob (.ksetRow g k a) g (fun s j => setRowMask j k ((rd s a).setWidth 16)) s h hc
      fun j => part_setRowMask ..,
    simpleC_modCurJob (.ksetCol g k a) g (fun s j => setColMask j k (rd s a)) s h hc fun j => part_setColMask .., ?_⟩
  have hboth : (fun j => if k = 0 then j else
        { j with rowMasks := j.rowMasks.set k.toNat ((rd s a).setWidth 16), colMasks := j.colMasks.set k.toNat (rd s b) })
      = fun j => setColMask (setRowMask j k ((rd s a).setWidth 16)) k (rd s b) := by
    funext j
    unfold setColMask setRowMask
    split <;> rfl
  rw [hboth]
  exact simpleC_modCurJob (.ksetBoth g k a b) g
    (fun s j => setColMask (setRowMask j k ((rd s a).setWidth 16)) k (rd s b)) s h hc
    fun j => (part_setColMask ..).trans (part_setRowMask ..)

/-! ### The stack (R85) -/

/-- A change of the executing job is known by what becomes of that job. -/
theorem modCurJob_congr {s : State} {f g : Job → Job} (hj : (Tab.get? s.jobs (jobKey s.cur)).isSome = true)
    (h : f (curJob s) = g (curJob s)) : modCurJob s f = modCurJob s g := by
  obtain ⟨j, e⟩ := Option.isSome_iff_exists.1 hj
  have hcur : curJob s = j := by simp [curJob, getJob, Tab.getD, e]
  rw [hcur] at h
  rw [modCurJob, modCurJob, modJob, modJob, Tab.modify_eq_set _ _ f _ e, Tab.modify_eq_set _ _ g _ e, h]

section
variable {i : Instr} {g : Guard} {body : State → Exec Effect} {s : State}
  (hc : s.cur.strm = .c) (h : ready s i.size (some g) = true)
include hc h

/-- An instruction of the C-stream that leaves the lane-mask stack so. -/
theorem issue_putMasks {l : List (BitVec 64)}
    (hb : body s = .ok (.next (modCurJob s fun j => { j with maskStack := l }))) :
    issue i [.c] (some g) free body s = .next (retire i.size (modCurJob s fun j => { j with maskStack := l })) := by
  obtain ⟨hq, hp, hg⟩ := (ready_iff _ _ _).1 h
  exact issue_next i _ (some g) _ _ s _ hq hp (by rw [hc]; rfl) rfl hg hb (keeps_modCurJob s _ _ hq hp fun _ => rfl)

/-- At a limit of the lane-mask stack: QUEUE with QCODE 19 (R142). -/
theorem issue_maskLimit (hb : body s = .error (queueTrap 19)) :
    issue i [.c] (some g) free body s = .next (trapNow s i .queue 19 0) := by
  obtain ⟨-, hp, hg⟩ := (ready_iff _ _ _).1 h
  exact issue_trap i _ (some g) _ _ s hp (by rw [hc]; rfl) rfl hg _ _ _ hb

end

/-- MPUSH in either form: with the top there is, and at most 15 entries below it, a push; else the limit. -/
theorem issue_pushMask {i : Instr} {g : Guard} {s : State} (hc : s.cur.strm = .c) (h : ready s i.size (some g) = true)
    (v : State → BitVec 64) {top : BitVec 64} {below : List (BitVec 64)} (hst : (curJob s).maskStack = top :: below) :
    issue i [.c] (some g) free (pushMask v) s = (if below.length < 15
      then .next (retire i.size (modCurJob s fun j => { j with maskStack := (top &&& v s) :: top :: below }))
      else .next (trapNow s i .queue 19 0)) := by
  split
  · refine issue_putMasks hc h ?_
    have hdepth : ¬16 ≤ (curJob s).maskStack.length := by rw [hst, List.length_cons]; omega
    rw [pushMask, if_neg hdepth]
    exact congrArg (fun t => Except.ok (Effect.next t))
      (modCurJob_congr (quiet_job ((ready_iff _ _ _).1 h).1) (by simp [maskTop, hst]))
  · refine issue_maskLimit hc h ?_
    have hdepth : 16 ≤ (curJob s).maskStack.length := by rw [hst, List.length_cons]; omega
    rw [pushMask, if_pos hdepth]

theorem maskStack_holds : Say.MaskStack := by
  intro s g a k top below hc h hst put full
  refine ⟨issue_pushMask (i := .mpush g a) hc h (fun s => rd s a) hst,
    issue_pushMask (i := .mpushPair g k) hc h (fun s => colMask (curJob s) k) hst, ?_, ?_⟩
  · change execMinv g s = _
    unfold execMinv
    cases below with
    | nil => exact issue_maskLimit (i := .minv g) hc h (by rw [hst])
    | cons u rest => exact issue_putMasks (i := .minv g) hc h (by rw [hst])
  · change execMpop g s = _
    unfold execMpop
    cases below with
    | nil => exact issue_maskLimit (i := .mpop g) hc h (by rw [hst])
    | cons u rest => exact issue_putMasks (i := .mpop g) hc h (by rw [hst])

/-- Settles O28: KSET by the pair it sets, and the stack by the entries it leaves or by its limit. -/
theorem masks : Obligations.Masks := ⟨maskPairs_holds, maskStack_holds⟩

end Sys2Proof.Proofs
end

section
/-! PROOFS. Branches and jumps, and the LOOPs they leave (R72, R73, R80, R85). -/

namespace Sys2Proof.Proofs

open Sys2Proof Sys2Proof.Machine

theorem target_eq {n : Nat} (s : State) (o : BitVec n) :
    target s o = (curStream s).pc + BitVec.ofInt 64 (o.toInt * 4) := by
  rw [target, sext_shiftLeft]
  rfl

/-- An instruction of one parcel whose body branches, in a quiet stream at no LOOP's end. -/
theorem issue_jumps (i : Instr) (strms : List Strm) (g : Option Guard) (body : State → Exec Effect) {s s' : State}
    {t : Word} (hsize : i.size = 4) (hq : quiet s = true) (hp : plain s 4 = true)
    (hs : strms.contains s.cur.strm = true) (hg : guardHolds s g = true) (hk : Keeps s s' 4)
    (hb : body s = .ok (.jump s' t)) : issue i strms g free body s = .next (retireTo t s') :=
  issue_jump i strms g free body s s' t hq (by rwa [hsize]) hs rfl hg hb (by rwa [hsize])

theorem jumps_holds : Say.Jumps := by
  intro s hq hp
  have hk := Keeps.refl s 4 hq hp
  refine ⟨fun g ht o hg => ?_, fun o => ?_, fun d o => ?_, fun d a i t ht => ?_, fun ht o hc => ?_⟩
  · rw [← target_eq]
    exact issue_jumps (.br g ht o) allStrms (some g) (fun s => .ok (.jump s (target s o))) rfl hq hp (allStrms_contains _)
      ((guardOk_eq_xor s g).trans hg) hk rfl
  · rw [← target_eq]
    exact issue_jumps (.jmp o) allStrms none (fun s => .ok (.jump s (target s o))) rfl hq hp (allStrms_contains _) rfl hk rfl
  · rw [← target_eq]
    exact issue_jumps (.jal d o) allStrms none (fun s => .ok (.jump (wr s d ((curStream s).pc + 4)) (target s o))) rfl hq hp
      (allStrms_contains _) rfl (keeps_wr s 4 d _ hq hp) rfl
  · have htarget : rd s a + sext i <<< 2 = t := by rw [ht, sext_shiftLeft]; rfl
    change execJalr d a i s = _
    unfold execJalr
    split
    · rename_i h
      refine issue_jumps (.jalr d a i) allStrms none _ rfl hq hp (allStrms_contains _) rfl (keeps_wr s 4 d _ hq hp) ?_
      simp only [htarget, if_pos h]
    · rename_i h
      refine issue_trap (.jalr d a i) allStrms none free _ s hp (allStrms_contains _) rfl rfl _ _ _ ?_
      simp only [htarget, if_neg h]
  · have hs : [Strm.c].contains s.cur.strm = true := by rw [hc]; rfl
    rw [← target_eq]
    change execBmz ht o s = _
    unfold execBmz
    split
    · rename_i h
      exact issue_jumps (.bmz ht o) [.c] none _ rfl hq hp hs rfl hk (by simp only [if_pos h])
    · rename_i h
      exact issue_next (.bmz ht o) [.c] none free _ s s hq hp hs rfl rfl (by simp only [if_neg h]) hk

/-! ### The LOOPs that a branch leaves (R80) -/

/-- The body of a LOOP holds an address. -/
def inBody (t : Word) (l : LoopState) : Bool := decide (l.start ≤ t) && decide (t < l.stop)

/-- Outside the handler a branch leaves the innermost LOOPs whose bodies do not hold its target. -/
theorem loopsAfterJump_eq_dropWhile (ls : List LoopState) (t : Word) :
    loopsAfterJump false ls t = ls.dropWhile fun l => !inBody t l := by
  induction ls with
  | nil => rfl
  | cons l ls ih =>
    by_cases h : inBody t l = true
    · have hbody : l.start ≤ t ∧ t < l.stop := by simpa [inBody] using h
      simp [loopsAfterJump, h, hbody]
    · have hbody : ¬(l.start ≤ t ∧ t < l.stop) := by simpa [inBody] using h
      simp [loopsAfterJump, h, hbody, ih]

theorem branchLeavesLoops_holds : Say.BranchLeavesLoops := by
  intro s t hq hactive
  have hin (l : LoopState) : inBody t l = true ↔ l.start ≤ t ∧ t < l.stop := by simp [inBody]
  refine ⟨(curStream s).loops.takeWhile fun l => !inBody t l, (curStream s).loops.dropWhile fun l => !inBody t l,
    List.takeWhile_append_dropWhile.symm, fun l hl => ?_, fun l hl => ?_, ?_⟩
  · rw [← hin]
    simpa using List.mem_takeWhile_imp hl
  · have hhead := List.head?_dropWhile_not (fun l => !inBody t l) (curStream s).loops
    rw [Option.mem_def] at hl
    rw [hl] at hhead
    rw [← hin]
    simpa using hhead
  · rw [retireTo, curStream_modCurStream _ (quiet_stream hq), hactive, loopsAfterJump_eq_dropWhile]

/-- Settles O30: each form ends in `retireTo` its target, which keeps the LOOPs about it. -/
theorem jumps : Obligations.Jumps := ⟨jumps_holds, branchLeavesLoops_holds⟩

end Sys2Proof.Proofs
end

section
/-! PROOFS. A LOOP beside an active LOOP that has no stage (R77). -/

namespace Sys2Proof.Proofs

open Sys2Proof Sys2Proof.Machine

/-- An active LOOP whose stage predicates begin at p3, and are none. -/
def stagelessLoop : LoopState :=
  { start := 0x100000, stop := 0x101000, stages := 0, sp := 3, rots := [], trips := 1, j := 0, inHandler := false }

/-- The L-stream stands within it. -/
def inStageless : State :=
  modCurStream { probe State.reset [] .l with cur := ⟨0, 0, .l⟩ } fun st => { st with loops := [stagelessLoop] }

/-- A LOOP of five stages from p1 on, over one parcel, of no trips. -/
def fiveStages : LoopOp := { (default : LoopOp) with st := 4, trip := 1, sp := 1, body := 1 }

/-- No stage predicate of the one is a stage predicate of the other, and no other case of R77 applies. -/
theorem loopLegal_inStageless : Say.LoopLegal inStageless fiveStages := by
  have hrings : Say.ringsOf fiveStages = [] := by decide
  have hloops : (curStream inStageless).loops = [stagelessLoop] := rfl
  refine ⟨by decide, by decide, by decide, by simp [hrings], by simp [hrings], by simp [hrings], by decide +kernel, ?_, ?_⟩
  · intro x hx _
    rw [hloops, List.mem_singleton] at hx
    subst hx
    decide +kernel
  · intro x hx _ _ k hk
    rw [hloops, List.mem_singleton] at hx
    subst hx
    simp only [stagelessLoop] at hk
    omega

/-- Where the executing stream stands after an outcome. -/
def pcAfter : Result → Option Word
  | .next t => some (curStream t).pc
  | _ => none

/-- The LOOP is taken to be ILLEGAL: its stream has not gone on. -/
theorem pcAfter_exec_loop_inStageless : pcAfter (exec (.loop fiveStages) inStageless) = some 0x100000 := by
  decide +kernel

/-- Refutes O32: `LoopEntry` does not ask that the active LOOPs have a stage each, and one without stages counts as meeting
the stage predicates on both sides of its first (`stagesMeet`, R77). The counterexample is a LOOP of no trips over p1 to
p5, within a LOOP of no stages at p3: it does not go on at its end. -/
theorem not_loops : ¬ Obligations.Loops := by
  unfold Obligations.Loops
  rintro ⟨h, -⟩
  have hend := (h inStageless fiveStages (by decide +kernel) (by decide +kernel)).2.2 loopLegal_inStageless
    (by decide +kernel) (by decide +kernel)
  have hpc := pcAfter_exec_loop_inStageless
  rw [hend] at hpc
  exact absurd hpc (by decide +kernel)

end Sys2Proof.Proofs
end

section
/-! PROOFS. The three streams of a job: what holds of each, and changes made to each of them in turn (R11, R81). -/

namespace Sys2Proof.Proofs

open Sys2Proof Sys2Proof.Machine

/-! ### A stream of the executing job -/

/-- The hart of a stream of the executing job. -/
def hartAs (s : State) (x : Strm) : Hart := { s.cur with strm := x }

theorem hartAs_self (s : State) : hartAs s s.cur.strm = s.cur := rfl

theorem as_self (s : State) : Say.as s s.cur.strm = s := rfl

theorem cur_as (s : State) (x : Strm) : (Say.as s x).cur = hartAs s x := rfl

theorem hartsOf_cur (s : State) : hartsOf s.cur.core s.cur.slot = allStrms.map (hartAs s) := rfl

theorem hartKey_hartAs_ne (s : State) {x y : Strm} (h : x ≠ y) : hartKey (hartAs s x) ≠ hartKey (hartAs s y) :=
  hartKey_ne s.cur.core s.cur.slot h

theorem hartAs_eq_cur_iff (s : State) (x : Strm) : hartAs s x = s.cur ↔ x = s.cur.strm :=
  ⟨fun h => congrArg Hart.strm h, fun h => by rw [h, hartAs_self]⟩

/-- The executing stream of another state that the same slot executes in. -/
theorem curStream_as (s : State) (x : Strm) : curStream (Say.as s x) = getStream s (hartAs s x) := rfl

theorem exists_stream {s : State} {x : Strm} (hq : quiet (Say.as s x) = true) :
    Tab.get? s.strs (hartKey (hartAs s x)) = some (curStream (Say.as s x)) := by
  obtain ⟨st, e⟩ := Option.isSome_iff_exists.1 (quiet_stream hq)
  have e' : Tab.get? s.strs (hartKey (hartAs s x)) = some st := e
  rw [e', curStream_as, getStream, Tab.getD, e']
  rfl

/-! ### Changes of the streams alone -/

theorem Tab.modify_modify {α : Type} (t : Tab α) (k : Nat) (f g : α → α) :
    Tab.modify (Tab.modify t k f) k g = Tab.modify t k (g ∘ f) := by
  induction t with
  | nil => rfl
  | cons y t ih =>
    obtain ⟨i, y⟩ := y
    by_cases hi : i = k
    · simp [Tab.modify, hi]
    · by_cases hlt : k < i
      · simp [Tab.modify, hi, hlt]
      · simp [Tab.modify, hi, hlt, ih]

theorem Tab.wfFrom_modify {α : Type} (t : Tab α) (k : Nat) (f : α → α) (lo : Nat) (h : Tab.wfFrom lo t = true) :
    Tab.wfFrom lo (Tab.modify t k f) = true := by
  induction t generalizing lo with
  | nil => rfl
  | cons y t ih =>
    obtain ⟨i, y⟩ := y
    simp only [Tab.wfFrom, Bool.and_eq_true] at h
    unfold Tab.modify
    split
    · simpa [Tab.wfFrom] using h
    · split
      · simpa [Tab.wfFrom] using h
      · simpa [Tab.wfFrom, ih _ h.2] using h.1

theorem modStream_modStream (s : State) (h : Hart) (f g : Stream → Stream) :
    modStream (modStream s h f) h g = modStream s h (g ∘ f) := by
  simp only [modStream, Tab.modify_modify]

/-- The second state is the first with each stream of the executing job changed by its function. -/
structure StreamsBy (s t : State) (f : Strm → Stream → Stream) : Prop where
  rest : t = { s with strs := t.strs }
  stream : ∀ x, Tab.get? t.strs (hartKey (hartAs s x)) = (Tab.get? s.strs (hartKey (hartAs s x))).map (f x)
  wf : Tab.wf s.strs = true → Tab.wf t.strs = true

namespace StreamsBy
variable {s t u : State} {f g : Strm → Stream → Stream}

theorem refl (s : State) : StreamsBy s s fun _ => id := ⟨rfl, fun x => by simp, id⟩

theorem cur (h : StreamsBy s t f) : t.cur = s.cur := by rw [h.rest]
theorem jobs (h : StreamsBy s t f) : t.jobs = s.jobs := by rw [h.rest]
theorem parts (h : StreamsBy s t f) : t.parts = s.parts := by rw [h.rest]
theorem cores (h : StreamsBy s t f) : t.cores = s.cores := by rw [h.rest]
theorem ms (h : StreamsBy s t f) : t.ms = s.ms := by rw [h.rest]

theorem hart (h : StreamsBy s t f) (x : Strm) : hartAs t x = hartAs s x := by rw [hartAs, h.cur, hartAs]

theorem trans (h : StreamsBy s t f) (k : StreamsBy t u g) : StreamsBy s u fun x => g x ∘ f x where
  rest := by rw [k.rest, h.rest]
  stream x := by
    have e := k.stream x
    rw [h.hart] at e
    rw [e, h.stream, Option.map_map]
  wf := k.wf ∘ h.wf

theorem congr (h : StreamsBy s t f) (e : ∀ x st, f x st = g x st) : StreamsBy s t g :=
  (funext fun x => funext fun st => e x st : f = g) ▸ h

theorem curStream (h : StreamsBy s t f) {x : Strm} (hq : quiet (Say.as s x) = true) :
    curStream (Say.as t x) = f x (curStream (Say.as s x)) := by
  rw [curStream_as, getStream, Tab.getD, h.hart, h.stream, exists_stream hq]
  rfl

theorem curJob (h : StreamsBy s t f) : curJob t = curJob s := by simp only [Machine.curJob, getJob, h.cur, h.jobs]

/-- A stream that is changed in nothing that tells whether it is observed. -/
theorem quiet (h : StreamsBy s t f) {x : Strm} (hf : ∀ st, (f x st).stepping = st.stepping)
    (hq : quiet (Say.as s x) = true) : quiet (Say.as t x) = true := by
  obtain ⟨-, hj, htrace, hbps, hmon, hstep, hchalk⟩ := (quiet_iff _).1 hq
  have hpart : curPart (Say.as t x) = curPart (Say.as s x) := by
    change (Machine.curJob t).ids.part = (Machine.curJob s).ids.part
    rw [h.curJob]
  have hparts : (Say.as t x).parts = (Say.as s x).parts := h.parts
  refine (quiet_iff _).2 ⟨?_, ?_, ?_, ?_, ?_, ?_, ?_⟩
  · change (Tab.get? t.strs (hartKey (hartAs t x))).isSome = true
    rw [h.hart, h.stream, exists_stream hq]
    rfl
  · change (Tab.get? t.jobs (jobKey t.cur)).isSome = true
    rw [h.cur, h.jobs]
    exact hj
  · simpa only [traceOn, getDebug, getPart, hpart, hparts] using htrace
  · simpa only [getDebug, getPart, hpart, hparts] using hbps
  · simpa only [getDebug, getPart, hpart, hparts] using hmon
  · rw [h.curStream hq, hf]
    exact hstep
  · simpa only [chalked, getDebug, getPart, hpart, hparts] using hchalk

/-- A stream that is changed in nothing that tells whether a LOOP ends there. -/
theorem plain (h : StreamsBy s t f) {x : Strm} {n : Nat} (hq : Machine.quiet (Say.as s x) = true)
    (hloops : ∀ st, (f x st).loops = st.loops) (hpc : ∀ st, (f x st).pc = st.pc) (htrap : ∀ st, (f x st).trap = st.trap)
    (hp : plain (Say.as s x) n = true) : plain (Say.as t x) n = true := by
  simpa only [Machine.plain, trapActive, h.curStream hq, hloops, hpc, htrap] using hp

end StreamsBy

/-- The change of one stream. -/
def onlyAt (x : Strm) (f : Stream → Stream) (y : Strm) : Stream → Stream := if y = x then f else id

theorem streamsBy_modStream (s : State) (x : Strm) (f : Stream → Stream) :
    StreamsBy s (modStream s (hartAs s x) f) (onlyAt x f) where
  rest := rfl
  stream y := by
    rw [modStream_strs, onlyAt]
    split
    · rename_i h
      rw [h, Tab.get?_modify_self]
    · rename_i h
      rw [Tab.get?_modify_ne _ _ _ _ (hartKey_hartAs_ne s h), Option.map_id]
      rfl
  wf := Tab.wfFrom_modify s.strs _ f 0

theorem onlyAt_ne {x y : Strm} (h : y ≠ x) (f : Stream → Stream) : onlyAt x f y = id := if_neg h

theorem onlyAt_self (x : Strm) (f : Stream → Stream) : onlyAt x f x = f := if_pos rfl

/-- The change of the streams of a list. -/
def onlyIn (l : List Strm) (F : Strm → Stream → Stream) (y : Strm) : Stream → Stream := if y ∈ l then F y else id

/-- A fold that changes, one after the other, the streams of a list: each by a function of its own, where a condition
holds that the changes of the others leave as it is. -/
theorem streamsBy_foldl {β : Type} {g : State → β → State} (C : State → Strm → Prop) (F : Strm → Stream → Stream)
    (e : Strm → β) (c : Hart)
    (hg : ∀ u x, u.cur = c → C u x → g u (e x) = modStream u (hartAs u x) (F x))
    (hC : ∀ u t f x, StreamsBy u t f → f x = id → C u x → C t x) (l : List Strm) (s : State) (hl : l.Nodup)
    (hcur : s.cur = c) (hs : ∀ x ∈ l, C s x) : StreamsBy s ((l.map e).foldl g s) (onlyIn l F) := by
  induction l generalizing s with
  | nil => exact (StreamsBy.refl s).congr fun x st => by simp [onlyIn]
  | cons x l ih =>
    obtain ⟨hx, hl⟩ := List.nodup_cons.1 hl
    have hfirst := streamsBy_modStream s x (F x)
    have hrest := ih (modStream s (hartAs s x) (F x)) hl hcur fun y hy =>
      hC s _ _ y hfirst (onlyAt_ne (fun (h : y = x) => hx (h ▸ hy)) _) (hs y (List.mem_cons_of_mem _ hy))
    rw [List.map_cons, List.foldl_cons, hg s x hcur (hs x (List.mem_cons_self ..))]
    refine (hfirst.trans hrest).congr fun y st => ?_
    by_cases hyx : y = x
    · subst hyx
      simp [onlyIn, onlyAt_self, hx]
    · simp [onlyIn, onlyAt_ne hyx, hyx]

end Sys2Proof.Proofs
end

section
/-! PROOFS. What a rendezvous does to the memory system does not depend on the streams (R82, R94, R113). -/

namespace Sys2Proof.Proofs

open Sys2Proof Sys2Proof.Machine

/-- The state with other streams. -/
def withStrs (S : Tab Stream) (s : State) : State := { s with strs := S }

section
variable (S : Tab Stream)

theorem withStrs_ite {c : Prop} [Decidable c] (s t : State) :
    withStrs S (if c then s else t) = if c then withStrs S s else withStrs S t := apply_ite (withStrs S) c s t

theorem modMs_withStrs (s : State) (f : MemSys → MemSys) : modMs (withStrs S s) f = withStrs S (modMs s f) := rfl

theorem noteOld_withStrs (s : State) (jobs : List Nat) (g : Nat) (a b : Granule) :
    noteOld (withStrs S s) jobs g a b = withStrs S (noteOld s jobs g a b) := Eq.symm (withStrs_ite S s _)

theorem noteMissed_withStrs (s : State) (who : Nat × Nat) (pa n : Nat) :
    noteMissed (withStrs S s) who pa n = withStrs S (noteMissed s who pa n) := Eq.symm (withStrs_ite S s _)

theorem dropEarly_withStrs (s : State) (h : Hart) (sel : EarlyPlace → Bool) :
    dropEarly (withStrs S s) h sel = withStrs S (dropEarly s h sel) := Eq.symm (withStrs_ite S s _)

theorem orderReads_withStrs (s : State) (h : Hart) : orderReads (withStrs S s) h = withStrs S (orderReads s h) :=
  Eq.symm (withStrs_ite S s _)

theorem holdBack_withStrs (s t : State) (p : Nat) (w : WetGranule) :
    holdBack (withStrs S s) (withStrs S t) p w = withStrs S (holdBack s t p w) := Eq.symm (withStrs_ite S _ t)

theorem writeGranule_withStrs (s : State) (own : Option Nat) (cmp : Bool) (g o : Nat) (bs : List Byte) :
    writeGranule (withStrs S s) own cmp g o bs = withStrs S (writeGranule s own cmp g o bs) := by
  have hview : viewGranule (withStrs S s) cmp g = viewGranule s cmp g := rfl
  have hids : residentIds (withStrs S s) = residentIds s := rfl
  have hjob (t : State) (j : Nat) :
      jobGranule (withStrs S t) (jobView (withStrs S t) j) cmp g = jobGranule t (jobView t j) cmp g := rfl
  have hcomp (t : State) : compWrite (withStrs S t) g o bs = withStrs S (compWrite t g o bs) := rfl
  unfold writeGranule
  dsimp only
  rw [hview, hids, noteOld_withStrs]
  cases own with
  | none => cases cmp <;> simp only [if_true, Bool.false_eq_true, if_false, hcomp, modMs_withStrs]
  | some j =>
    simp only [hjob, noteOld_withStrs]
    cases cmp <;> simp only [if_true, Bool.false_eq_true, if_false, hcomp, modMs_withStrs]

theorem writePa_withStrs (s : State) (who : Nat × Nat) (own : Option Nat) (cmp : Bool) (pa : Nat) (bs : List Byte) :
    writePa (withStrs S s) who own cmp pa bs = withStrs S (writePa s who own cmp pa bs) := by
  unfold writePa
  dsimp only
  rw [noteMissed_withStrs, List.foldl_hom (withStrs S) fun _ _ => writeGranule_withStrs ..]
  rfl

theorem wetGranuleWrite_withStrs (s : State) (w : WetWriter) (cmp : Bool) (g o : Nat) (bs : List Byte) :
    wetGranuleWrite (withStrs S s) w cmp g o bs = withStrs S (wetGranuleWrite s w cmp g o bs) := by
  unfold wetGranuleWrite
  dsimp only
  rw [noteOld_withStrs]
  rfl

theorem performWc_withStrs (s : State) (w : WcStore) : performWc (withStrs S s) w = withStrs S (performWc s w) := by
  unfold performWc writeWet
  rw [List.foldl_hom (withStrs S) fun _ _ => wetGranuleWrite_withStrs .., dropEarly_withStrs]

theorem flushWc_withStrs (s : State) (core : Nat) : flushWc (withStrs S s) core = withStrs S (flushWc s core) := by
  unfold flushWc
  rw [modMs_withStrs]
  exact List.foldl_hom (withStrs S) fun _ _ => performWc_withStrs ..

theorem orderJobReads_withStrs (s : State) (core slot : Nat) :
    orderJobReads (withStrs S s) core slot = withStrs S (orderJobReads s core slot) :=
  List.foldl_hom (withStrs S) fun _ _ => orderReads_withStrs ..

theorem cure_withStrs (s : State) (jobid : Nat) : cure (withStrs S s) jobid = withStrs S (cure s jobid) := by
  unfold cure
  dsimp only
  rw [modMs_withStrs]
  refine List.foldl_hom (withStrs S) fun t w => ?_
  have hpart : partOfJob (withStrs S s) jobid = partOfJob s jobid := rfl
  rw [hpart, writePa_withStrs, holdBack_withStrs]
  cases w.join <;> cases w.poison <;> rfl

end

/-! ### What is left wet -/

theorem wet_noteOld (s : State) (jobs : List Nat) (g : Nat) (a b : Granule) : (noteOld s jobs g a b).ms.wet = s.ms.wet := by
  unfold noteOld
  split <;> rfl

theorem wet_writeGranule (s : State) (cmp : Bool) (g o : Nat) (bs : List Byte) :
    (writeGranule s none cmp g o bs).ms.wet = s.ms.wet := by
  unfold writeGranule
  cases cmp <;> exact wet_noteOld ..

theorem wet_writePa (s : State) (who : Nat × Nat) (cmp : Bool) (pa : Nat) (bs : List Byte) :
    (writePa s who none cmp pa bs).ms.wet = s.ms.wet := by
  have hmissed : (noteMissed s who pa bs.length).ms.wet = s.ms.wet := by
    unfold noteMissed
    split <;> rfl
  exact foldl_keeps (fun t : State => t.ms.wet = s.ms.wet) _ (fun t g h => (wet_writeGranule ..).trans h) _ _ hmissed

/-- Nothing of a job is wet once its writes are cured (R113). -/
theorem wet_cure (s : State) (jobid : Nat) : (cure s jobid).ms.wet = s.ms.wet.filter fun w => w.job != jobid := by
  refine foldl_keeps (fun t : State => t.ms.wet = s.ms.wet.filter fun w => w.job != jobid) _ (fun t w h => ?_) _ _ rfl
  have hheld : (holdBack t (writePa t (partOfJob s jobid, jobid) none w.cmp (8 * w.granule) (leBytes 8 w.value.toNat))
      (partOfJob s jobid) w).ms.wet = t.ms.wet := by
    unfold holdBack
    split <;> exact wet_writePa ..
  dsimp only
  cases w.join <;> cases w.poison <;> exact hheld.trans h

theorem not_wet_of_cure (s : State) (jobid : Nat) : ∀ w ∈ (cure s jobid).ms.wet, w.job ≠ jobid := by
  intro w hw
  rw [wet_cure, List.mem_filter] at hw
  simpa using hw.2

end Sys2Proof.Proofs
end

section
/-! PROOFS. A stream that arrives at a rendezvous, and where the streams that stand there go on (R81, R144, R433). -/

namespace Sys2Proof.Proofs

open Sys2Proof Sys2Proof.Machine

/-! ### The rendezvous at which the streams stand -/

theorem meets_self (r : Rendezvous) : r.meets r = true := by cases r <;> simp [Rendezvous.meets]

theorem size_rendInstr (r : Rendezvous) : (rendInstr r).size = 4 := by cases r <;> rfl

/-- The executing stream stands at its rendezvous. -/
def stoodAt (s : State) (r : Rendezvous) : State := modCurStream s fun st => { st with stand := some r }

theorem streamsBy_stoodAt (s : State) (r : Rendezvous) :
    StreamsBy s (stoodAt s r) (onlyAt s.cur.strm fun st => { st with stand := some r }) :=
  streamsBy_modStream s s.cur.strm _

theorem quiet_stoodAt {s : State} (r : Rendezvous) {x : Strm} (hq : quiet (Say.as s x) = true) :
    quiet (Say.as (stoodAt s r) x) = true :=
  (streamsBy_stoodAt s r).quiet (fun st => by unfold onlyAt; split <;> rfl) hq

theorem plain_stoodAt {s : State} (r : Rendezvous) {x : Strm} {n : Nat} (hq : quiet (Say.as s x) = true)
    (hp : plain (Say.as s x) n = true) : plain (Say.as (stoodAt s r) x) n = true :=
  (streamsBy_stoodAt s r).plain hq (fun st => by unfold onlyAt; split <;> rfl) (fun st => by unfold onlyAt; split <;> rfl)
    (fun st => by unfold onlyAt; split <;> rfl) hp

/-- All three streams stand: the executing one once it has arrived, the others since before. -/
structure Stand (s : State) (r : Strm → Rendezvous) : Prop where
  quiet : ∀ x, quiet (Say.as s x) = true
  others : ∀ x, x ≠ s.cur.strm → (curStream (Say.as s x)).stand = some (r x)

theorem Stand.quiet_cur {s : State} {r : Strm → Rendezvous} (h : Stand s r) : Machine.quiet s = true := h.quiet s.cur.strm

theorem Stand.stand_stoodAt {s : State} {r : Strm → Rendezvous} (h : Stand s r) (x : Strm) :
    (curStream (Say.as (stoodAt s (r s.cur.strm)) x)).stand = some (r x) := by
  rw [(streamsBy_stoodAt s _).curStream (h.quiet x)]
  by_cases hx : x = s.cur.strm
  · rw [hx, onlyAt_self]
  · rw [onlyAt_ne hx]
    exact h.others x hx

/-- The streams of a slot with their rendezvous, as `standers` lists them. -/
def standList (s : State) (r : Strm → Rendezvous) (l : List Strm) : List (Hart × Rendezvous) :=
  l.map fun x => (hartAs s x, r x)

theorem standers_of_stand {s : State} {r : Strm → Rendezvous} (h : ∀ x, (curStream (Say.as s x)).stand = some (r x)) :
    standers s s.cur.core s.cur.slot = standList s r allStrms := by
  have hget (x : Strm) : (getStream s (hartAs s x)).stand = some (r x) := h x
  rw [standers, hartsOf_cur]
  simp [standList, allStrms, hget]

/-- Where a stream does not stand, fewer than three do. -/
theorem length_standers_lt {s : State} {x : Strm} (h : (curStream (Say.as s x)).stand = none) :
    (standers s s.cur.core s.cur.slot).length < 3 := by
  have hx : hartAs s x ∈ hartsOf s.cur.core s.cur.slot := by cases x <;> simp [hartsOf_cur, allStrms]
  have hnone : ((getStream s (hartAs s x)).stand.map fun r => (hartAs s x, r)) = none := by
    rw [show (getStream s (hartAs s x)).stand = none from h, Option.map_none]
  exact List.length_filterMap_lt_length_iff_exists.2 ⟨_, hx, by simpa using hnone⟩

/-! ### Where all three go on (R81) -/

/-- The rendezvous instruction of a standing stream issues: it goes on after it. -/
theorem issueStanding_eq {u : State} {x : Strm} (r : Rendezvous) (hq : quiet (Say.as u x) = true)
    (hp : plain (Say.as u x) 4 = true) : issueStanding u (hartAs u x, r) = modStream u (hartAs u x) Say.left := by
  have hadvance : advance (record (Say.as u x) (rendInstr r) false) (rendInstr r) = retire 4 (Say.as u x) := by
    rw [record_quiet _ _ _ hq, advance_eq _ _ hq (by rwa [size_rendInstr]), size_rendInstr]
  have hleft : modCurStream (retire 4 (Say.as u x)) (fun st => { st with stand := none })
      = modCurStream (Say.as u x) Say.left := modStream_modStream (Say.as u x) _ _ _
  have hasStream : asStream u (hartAs u x) (fun s => modCurStream (advance (record s (rendInstr r) false) (rendInstr r))
      fun st => { st with stand := none }) = modStream u (hartAs u x) Say.left := by
    change { modCurStream (advance (record (Say.as u x) (rendInstr r) false) (rendInstr r))
      (fun st => { st with stand := none }) with cur := u.cur } = _
    rw [hadvance, hleft]
    rfl
  have hstep : (getStream (modStream u (hartAs u x) Say.left) (hartAs u x)).stepping = false := by
    have hst := (streamsBy_modStream u x Say.left).curStream hq
    rw [onlyAt_self] at hst
    change (curStream (Say.as (modStream u (hartAs u x) Say.left) x)).stepping = false
    rw [hst]
    obtain ⟨-, -, -, -, -, hstep, -⟩ := (quiet_iff _).1 hq
    exact hstep
  unfold issueStanding
  dsimp only
  rw [hasStream, endStep, hstep]
  rfl

/-- The three streams go on after their rendezvous, one after the other. -/
theorem streamsBy_issueStanding {u : State} (r : Strm → Rendezvous) (hq : ∀ x, quiet (Say.as u x) = true)
    (hp : ∀ x, plain (Say.as u x) 4 = true) :
    StreamsBy u ((standList u r allStrms).foldl issueStanding u) fun _ => Say.left := by
  have hfold := streamsBy_foldl (g := issueStanding)
    (fun v x => quiet (Say.as v x) = true ∧ plain (Say.as v x) 4 = true) (fun _ => Say.left) (fun x => (hartAs u x, r x)) u.cur
    (fun v x hcur hv => ?_) (fun v t f x hvt hf hv => ?_) allStrms u (by decide) rfl fun x _ => ⟨hq x, hp x⟩
  · refine hfold.congr fun x st => ?_
    have hx : x ∈ allStrms := by cases x <;> decide
    rw [onlyIn, if_pos hx]
  · rw [show hartAs u x = hartAs v x by rw [hartAs, hartAs, hcur]]
    exact issueStanding_eq (r x) hv.1 hv.2
  · exact ⟨hvt.quiet (by simp [hf]) hv.1, hvt.plain hv.1 (by simp [hf]) (by simp [hf]) (by simp [hf]) hv.2⟩

/-- So they do from where the executing one has arrived. -/
theorem streamsBy_issueStood {s : State} {r : Strm → Rendezvous} (q : Rendezvous) (hq : ∀ x, quiet (Say.as s x) = true)
    (hp : ∀ x, plain (Say.as s x) 4 = true) :
    StreamsBy s ((standList s r allStrms).foldl issueStanding (stoodAt s q)) fun _ => Say.left := by
  have hfold := streamsBy_issueStanding (u := stoodAt s q) r (fun x => quiet_stoodAt q (hq x))
    fun x => plain_stoodAt q (hq x) (hp x)
  refine ((streamsBy_stoodAt s q).trans hfold).congr fun x st => ?_
  simp only [Function.comp_apply, onlyAt]
  split <;> rfl

/-! ### Where they do not go on (R142, R433) -/

/-- QUEUE with a QCODE, at an instruction (R142). -/
def queueInfo (pc : Word) (i : Instr) (q : Nat) : TrapInfo :=
  { cause := .queue, pc := pc, words := encode i, addr := BitVec.ofNat 64 q, token := 0 }

/-- A stream that has taken QUEUE with a QCODE at an instruction. -/
def queueTrapped (q : Nat) (i : Instr) (st : Stream) : Stream := enterHandler st (queueInfo st.pc i q)

/-- A stream that enters its handler where it takes a trap. -/
structure Enters (s : State) (x : Strm) : Prop where
  quiet : quiet (Say.as s x) = true
  outside : trapActive (curStream (Say.as s x)) = false
  handler : (curStream (Say.as s x)).trap.vec ≠ 0

theorem Enters.of_streamsBy {s t : State} {f : Strm → Stream → Stream} {x : Strm} (h : Enters s x) (hst : StreamsBy s t f)
    (hstep : ∀ st, (f x st).stepping = st.stepping) (htrap : ∀ st, (f x st).trap = st.trap) : Enters t x where
  quiet := hst.quiet hstep h.quiet
  outside := by
    rw [hst.curStream h.quiet, trapActive, htrap]
    exact h.outside
  handler := by
    rw [hst.curStream h.quiet, htrap]
    exact h.handler

theorem queueTrapAt_eq {u : State} {x : Strm} (h : Enters u x) (i : Instr) (q : Nat) :
    queueTrapAt u (hartAs u x) i q = modStream u (hartAs u x) (queueTrapped q i) := by
  obtain ⟨-, -, htrace, -, hmon, -⟩ := (quiet_iff _).1 h.quiet
  rw [queueTrapAt, takeTrap_enter u (hartAs u x) _ h.outside h.handler htrace hmon]
  exact congrArg (fun t : State => { t with cur := u.cur }) (modCurStream_congr (s := Say.as u x)
    (f := fun st => enterHandler st _) (g := queueTrapped q i) h.quiet rfl)

/-- What is left of each stream where all take QUEUE. -/
theorem queueTraps_of_streamsBy {s t : State} {q : Nat} {i : Strm → Instr} (hq : ∀ x, quiet (Say.as s x) = true)
    (h : StreamsBy s t fun x => queueTrapped q (i x)) : Say.queueTraps s t q := by
  intro x
  dsimp only
  rw [h.curStream (hq x)]
  have hcause : bitsOf (BitVec.ofNat 64 (0x14 + 0 * 2 ^ 8 + 2 ^ 9 + 0 * 2 ^ 10)) 0 8 = 0x14 := by decide
  exact ⟨rfl, rfl, rfl, hcause, rfl⟩

theorem streamsBy_trapStanders {u : State} {r : Strm → Rendezvous} (h : ∀ x, Enters u x) {l : List Strm} (hl : l.Nodup)
    (q : Nat) :
    StreamsBy u (trapStanders u (standList u r l) q) (onlyIn l fun x => queueTrapped q (rendInstr (r x))) := by
  refine streamsBy_foldl Enters _ (fun x => (hartAs u x, r x)) u.cur (fun v x hcur hv => ?_)
    (fun v t f x hvt hf hv => hv.of_streamsBy hvt (by simp [hf]) (by simp [hf])) l u hl rfl fun x _ => h x
  rw [show hartAs u x = hartAs v x by rw [hartAs, hartAs, hcur]]
  exact queueTrapAt_eq hv _ q

/-- The streams of the executing job other than the executing one. -/
def others (s : State) : List Strm := allStrms.filter (· ≠ s.cur.strm)

theorem mem_others {s : State} {x : Strm} : x ∈ others s ↔ x ≠ s.cur.strm := by
  have hx : x ∈ allStrms := by cases x <;> decide
  simp [others, hx]

/-- Every stream takes QUEUE at its rendezvous, the executing one last. -/
theorem streamsBy_queueTraps {s v : State} {r : Strm → Rendezvous} {q : Nat} (h : ∀ x, Enters s x)
    (hv : trapStanders (stoodAt s (r s.cur.strm)) (standList s r (others s)) q = v) :
    StreamsBy s (takeTrap v s.cur (queueInfo (curStream s).pc (rendInstr (r s.cur.strm)) q))
      fun x => queueTrapped q (rendInstr (r x)) := by
  have hstood := streamsBy_stoodAt s (r s.cur.strm)
  have henters (x : Strm) : Enters (stoodAt s (r s.cur.strm)) x :=
    (h x).of_streamsBy hstood (fun st => by unfold onlyAt; split <;> rfl) fun st => by unfold onlyAt; split <;> rfl
  have hothers : StreamsBy (stoodAt s (r s.cur.strm)) v (onlyIn (others s) fun x => queueTrapped q (rendInstr (r x))) := by
    rw [← hv]
    exact streamsBy_trapStanders henters ((by decide : allStrms.Nodup).filter _) q
  have hself : onlyIn (others s) (fun x => queueTrapped q (rendInstr (r x))) s.cur.strm = id :=
    if_neg fun hmem => mem_others.1 hmem rfl
  have hcur : hartAs v s.cur.strm = s.cur := by
    rw [hartAs, hothers.cur]
    rfl
  have hlast := queueTrapAt_eq ((henters s.cur.strm).of_streamsBy hothers (fun st => by rw [hself]; rfl)
    fun st => by rw [hself]; rfl) (rendInstr (r s.cur.strm)) q
  have hpc : (getStream v (hartAs v s.cur.strm)).pc = (curStream s).pc := by
    have hv := hothers.curStream (henters s.cur.strm).quiet
    have hs := hstood.curStream (h s.cur.strm).quiet
    rw [hself] at hv
    rw [onlyAt_self] at hs
    exact (congrArg Stream.pc hv).trans (congrArg Stream.pc hs :)
  have htrap : takeTrap v s.cur (queueInfo (curStream s).pc (rendInstr (r s.cur.strm)) q)
      = modStream v (hartAs v s.cur.strm) (queueTrapped q (rendInstr (r s.cur.strm))) := by
    rw [← hlast, queueTrapAt, hpc, hcur]
    rfl
  rw [htrap]
  refine ((hstood.trans hothers).trans (streamsBy_modStream v s.cur.strm _)).congr fun x st => ?_
  by_cases hx : x = s.cur.strm
  · rw [hx]
    simp only [Function.comp_apply, onlyAt_self, hself, id]
    rfl
  · simp only [Function.comp_apply, onlyAt_ne hx, onlyIn, if_pos (mem_others.2 hx), id]

end Sys2Proof.Proofs
end

section
/-! PROOFS. RDV, YIELD, RGN and END where their streams arrive, meet, or take QUEUE (R81 to R84, R142, R144, R433). -/

namespace Sys2Proof.Proofs

open Sys2Proof Sys2Proof.Machine

/-! ### The arrival (R81) -/

/-- In a stream that nothing observes, the end of a wait on a flag is no sample. -/
theorem sampleFlag_quiet {s : State} (hq : quiet s = true) : sampleFlag s s.cur = s := by
  obtain ⟨-, -, -, -, hmon, -⟩ := (quiet_iff s).1 hq
  unfold sampleFlag
  dsimp only
  split
  · exact sample_off s _ _ _ _ hmon
  · rfl

theorem noteOwn_quiet {s : State} (hq : quiet s = true) : noteOwn s = s := by
  obtain ⟨-, -, -, -, -, -, hchalk⟩ := (quiet_iff s).1 hq
  unfold noteOwn
  refine foldl_keeps (fun t => t = s) _ (fun t x h => ?_) _ s rfl
  rw [h, noteWaited, hchalk]
  rfl

/-- Where all three stand, what the arrival of the last does is decided by the rendezvous and the queues. -/
theorem arriveRdv_stand {s : State} {r : Strm → Rendezvous} (h : Stand s r) {q : Rendezvous} (hr : r s.cur.strm = q) :
    arriveRdv q s =
      (let trap (n : Nat) : Exec Effect := .ok (.trapTo (trapStanders (stoodAt s q) (standList s r (others s)) n)
          (queueInfo (curStream s).pc (rendInstr q) n))
       if !(allStrms.all fun x => (r x).meets q) then trap 17
       else if q != .rdv && !queuesEmpty (curJob s) then trap 18
       else if q = .ended then endBody (stoodAt s q) (standList s r allStrms)
       else .ok (.done (meet (stoodAt s q) (standList s r allStrms) q))) := by
  subst hr
  have hsample : sampleFlag (stoodAt s (r s.cur.strm)) s.cur = stoodAt s (r s.cur.strm) :=
    sampleFlag_quiet (quiet_stoodAt _ (h.quiet s.cur.strm))
  have hlist : standers (stoodAt s (r s.cur.strm)) s.cur.core s.cur.slot = standList s r allStrms :=
    standers_of_stand h.stand_stoodAt
  have hothers : (standList s r allStrms).filter (fun e => e.1 != s.cur) = standList s r (others s) := by
    rw [standList, List.filter_map, standList, others]
    congr 1
    exact List.filter_congr fun x _ => Bool.eq_iff_iff.2 (by simp [hartAs_eq_cur_iff])
  have hpc : (curStream (stoodAt s (r s.cur.strm))).pc = (curStream s).pc := by
    rw [stoodAt, curStream_modCurStream _ (quiet_stream h.quiet_cur)]
  have hjob : curJob (stoodAt s (r s.cur.strm)) = curJob s := rfl
  have hlen : (standList s r allStrms).length = 3 := rfl
  have hall : (standList s r allStrms).all (fun e => e.2.meets (r s.cur.strm))
      = allStrms.all fun x => (r x).meets (r s.cur.strm) := List.all_map
  have hstood : (modCurStream s fun st => { st with stand := some (r s.cur.strm) }) = stoodAt s (r s.cur.strm) := rfl
  have hcur : (stoodAt s (r s.cur.strm)).cur = s.cur := rfl
  unfold arriveRdv
  simp only [hstood, hcur, hlist, hothers, hpc, hjob, hlen, hall, hsample, ite_self]
  rfl

/-- Where the streams meet, each stands at a rendezvous that meets the executing one's. -/
theorem exists_stand_of_meeting {s : State} {q : Rendezvous} (h : Say.meeting s q) :
    ∃ r : Strm → Rendezvous, Stand s r ∧ r s.cur.strm = q ∧ ∀ x, (r x).meets q = true := by
  have hstand (x : Strm) : ∃ q', (x = s.cur.strm → q' = q) ∧ q'.meets q = true
      ∧ (x ≠ s.cur.strm → (curStream (Say.as s x)).stand = some q') := by
    by_cases hx : x = s.cur.strm
    · exact ⟨q, fun _ => rfl, meets_self q, fun hne => absurd hx hne⟩
    · obtain ⟨q', hq', hmeets⟩ := (h x).2.2 hx
      exact ⟨q', fun e => absurd e hx, hmeets, fun _ => hq'⟩
  choose r hself hmeets hothers using hstand
  exact ⟨r, ⟨fun x => (h x).1, hothers⟩, hself _ rfl, hmeets⟩

/-- Where each stream stands and may trap, each stands at some rendezvous. -/
theorem exists_stand_of_standing {s : State} (q : Rendezvous) (h : Say.standing s) :
    ∃ r : Strm → Rendezvous, Stand s r ∧ r s.cur.strm = q := by
  have hstand (x : Strm) : ∃ q', (x = s.cur.strm → q' = q)
      ∧ (x ≠ s.cur.strm → (curStream (Say.as s x)).stand = some q') := by
    by_cases hx : x = s.cur.strm
    · exact ⟨q, fun _ => rfl, fun hne => absurd hx hne⟩
    · obtain ⟨q', hq'⟩ := (h x).2.2.2.2 hx
      exact ⟨q', fun e => absurd e hx, fun _ => hq'⟩
  choose r hself hothers using hstand
  exact ⟨r, ⟨fun x => (h x).1, hothers⟩, hself _ rfl⟩

theorem enters_of_standing {s : State} (h : Say.standing s) (x : Strm) : Enters s x := by
  obtain ⟨hq, -, houtside, hvec, -⟩ := h x
  exact ⟨hq, houtside, hvec⟩

/-! ### QUEUE at the rendezvous (R142, R144, R433) -/

/-- The executing stream arrives, and every stream takes QUEUE. -/
theorem queueTraps_of_trapTo {s : State} {r : Strm → Rendezvous} {q : Rendezvous} (hstanding : Say.standing s)
    (hr : r s.cur.strm = q) (i : Instr) (n : Nat) {e : Exec Effect}
    (he : e = .ok (.trapTo (trapStanders (stoodAt s q) (standList s r (others s)) n)
      (queueInfo (curStream s).pc (rendInstr q) n))) :
    ∃ t, outcome i s e = .next t ∧ Say.queueTraps s t n := by
  subst hr
  rw [he]
  exact ⟨_, rfl, queueTraps_of_streamsBy (fun x => (hstanding x).1) (streamsBy_queueTraps (enters_of_standing hstanding) rfl)⟩

/-- Where the three rendezvous differ, the arrival of the last makes every stream take QUEUE with QCODE 17. -/
theorem arriveRdv_differs {s : State} {r : Strm → Rendezvous} {q : Rendezvous} (h : Stand s r) (hr : r s.cur.strm = q)
    {x : Strm} (hx : (r x).meets q = false) :
    arriveRdv q s = .ok (.trapTo (trapStanders (stoodAt s q) (standList s r (others s)) 17)
      (queueInfo (curStream s).pc (rendInstr q) 17)) := by
  have hall : (allStrms.all fun x => (r x).meets q) = false := by
    rw [List.all_eq_false]
    exact ⟨x, by cases x <;> decide, by simp [hx]⟩
  rw [arriveRdv_stand h hr]
  simp only [hall, Bool.not_false, if_true]

theorem all_meets {r : Strm → Rendezvous} {q : Rendezvous} (h : ∀ x, (r x).meets q = true) :
    (allStrms.all fun x => (r x).meets q) = true := List.all_eq_true.2 fun x _ => h x

/-- Where they are the same, and a queue holds entries at YIELD, RGN or END, with QCODE 18. -/
theorem arriveRdv_queued {s : State} {r : Strm → Rendezvous} {q : Rendezvous} (h : Stand s r) (hr : r s.cur.strm = q)
    (hmeets : ∀ x, (r x).meets q = true) (hne : q ≠ .rdv) (hqueues : queuesEmpty (curJob s) = false) :
    arriveRdv q s = .ok (.trapTo (trapStanders (stoodAt s q) (standList s r (others s)) 18)
      (queueInfo (curStream s).pc (rendInstr q) 18)) := by
  rw [arriveRdv_stand h hr]
  simp [all_meets hmeets, hne, hqueues]

/-- Where they are the same, with no entry in a queue but at RDV, they meet. -/
theorem arriveRdv_meets {s : State} {r : Strm → Rendezvous} {q : Rendezvous} (h : Stand s r) (hr : r s.cur.strm = q)
    (hmeets : ∀ x, (r x).meets q = true) (hqueues : q = .rdv ∨ queuesEmpty (curJob s) = true) :
    arriveRdv q s = if q = .ended then endBody (stoodAt s q) (standList s r allStrms)
      else .ok (.done (meet (stoodAt s q) (standList s r allStrms) q)) := by
  rw [arriveRdv_stand h hr]
  rcases hqueues with rfl | hqueues
  · simp [all_meets hmeets]
  · simp [all_meets hmeets, hqueues]

/-! ### What RGN, YIELD and END check before they arrive (R432) -/

section
variable {s : State} (hactive : trapActive (curStream s) = false) (hpending : ownPending s = false)
include hactive hpending

theorem beforeArrival_free (hfault : undelivered s = none) (k : Exec Effect) : beforeArrival s k = k := by
  simp only [beforeArrival, hactive, hpending, hfault]
  rfl

variable (hq : quiet s = true) (hp : plain s 4 = true)
include hq hp

theorem exec_rgn {n : BitVec 18} (hn : n ≠ 0) (hfault : undelivered s = none) :
    exec (.rgn n) s = outcome (.rgn n) s (arriveRdv (.rgn n) s) := by
  have hcheck : check (n != 0) .illegal = .ok () := if_pos (bne_iff_ne.2 hn)
  change execRgn n s = _
  unfold execRgn
  refine (issue_body (.rgn n) allStrms none free _ s hp (allStrms_contains _) rfl rfl).trans
    (congrArg (outcome (.rgn n) s) ?_)
  rw [hcheck, beforeArrival_free hactive hpending hfault, noteOwn_quiet hq]
  rfl

theorem exec_yield {g : Guard} (hg : guardOk s g = true) :
    exec (.yield_ g) s = outcome (.yield_ g) s (arriveRdv (.yield g) s) := by
  change execYield g s = _
  unfold execYield
  refine (issue_body (.yield_ g) allStrms (some g) free _ s hp (allStrms_contains _) rfl hg).trans
    (congrArg (outcome (.yield_ g) s) ?_)
  rw [hactive, hpending, noteOwn_quiet hq]
  rfl

theorem exec_end (hfault : undelivered s = none) : exec .end_ s = outcome .end_ s (arriveRdv .ended s) := by
  change execEnd s = _
  unfold execEnd
  refine (issue_body .end_ allStrms none free _ s hp (allStrms_contains _) rfl rfl).trans
    (congrArg (outcome .end_ s) ?_)
  rw [beforeArrival_free hactive hpending hfault, noteOwn_quiet hq]

end

theorem exec_rdv {s : State} (hp : plain s 4 = true) : exec .rdv s = outcome .rdv s (arriveRdv .rdv s) :=
  issue_body .rdv allStrms none free _ s hp (allStrms_contains _) rfl rfl

/-- Where another stream does not stand yet, the executing one waits at its RDV (R142). -/
theorem arriveRdv_first {s : State} {x : Strm} (hx : x ≠ s.cur.strm) (hstand : (curStream (Say.as s x)).stand = none) :
    arriveRdv .rdv s = .ok (.stay (stoodAt s .rdv) (.queue 16)) := by
  have hother : curStream (Say.as (stoodAt s .rdv) x) = curStream (Say.as s x) :=
    getStream_modStream_ne s s.cur (hartAs s x) _ (hartKey_hartAs_ne s (y := s.cur.strm) hx)
  exact if_pos (length_standers_lt (s := stoodAt s .rdv) (x := x) (by rw [hother, hstand]))

theorem rendezvousTraps_holds : Say.RendezvousTraps := by
  refine fun s => ⟨fun hready ⟨x, hx, hstand⟩ => ?_, fun hstanding ⟨x, q', hx, hq', hne⟩ => ?_,
    fun n hn hstanding hactive hpending hfault ⟨x, q', hx, hq', hne⟩ => ?_,
    fun hstanding hactive hpending hfault hqueues hmeeting => ?_⟩
  · obtain ⟨-, hp, -⟩ := (ready_iff _ _ _).1 hready
    rw [exec_rdv hp, arriveRdv_first hx hstand]
    rfl
  · obtain ⟨r, hstand, hr⟩ := exists_stand_of_standing .rdv hstanding
    have hrx : r x = q' := Option.some.inj ((hstand.others x hx).symm.trans hq')
    rw [exec_rdv (s := s) (hstanding s.cur.strm).2.1]
    exact queueTraps_of_trapTo hstanding hr _ _ (arriveRdv_differs hstand hr (by rw [hrx]; exact hne))
  · obtain ⟨r, hstand, hr⟩ := exists_stand_of_standing (.rgn n) hstanding
    have hrx : r x = q' := Option.some.inj ((hstand.others x hx).symm.trans hq')
    rw [exec_rgn hactive hpending hstand.quiet_cur (hstanding s.cur.strm).2.1 hn hfault]
    exact queueTraps_of_trapTo hstanding hr _ _ (arriveRdv_differs hstand hr (by rw [hrx]; exact hne))
  · obtain ⟨r, hstand, hr, hmeets⟩ := exists_stand_of_meeting hmeeting
    rw [exec_end hactive hpending hstand.quiet_cur (hstanding s.cur.strm).2.1 hfault]
    exact queueTraps_of_trapTo hstanding hr _ _ (arriveRdv_queued hstand hr hmeets (by decide) hqueues)

end Sys2Proof.Proofs
end

section
/-! PROOFS. Where the three streams meet: RDV, RGN, YIELD and END (R81 to R84, R113, R166, R435). -/

namespace Sys2Proof.Proofs

open Sys2Proof Sys2Proof.Machine

/-! ### The end of a meeting (R467) -/

/-- An instruction that has moved its streams itself ends there, where nothing observes the partition. -/
theorem outcome_done {i : Instr} {s s' : State} (k : State → State) (hq : quiet s = true) (hparts : s'.parts = s.parts)
    (hstep : (getStream s' s.cur).stepping = false) : outcome i s (.ok (.done s' k)) = .next (k s') := by
  obtain ⟨-, -, -, hbps, hmon, -⟩ := (quiet_iff s).1 hq
  rw [outcome, settleThen_eq i s s' k hbps (by simpa only [getDebug, getPart, hparts] using hmon) hstep]

/-- So it does where each stream has moved by a function that leaves a step of DBG alone. -/
theorem outcome_moved {i : Instr} {s t : State} {f : Stream → Stream} (hq : quiet s = true) (hparts : t.parts = s.parts)
    (hcur : t.cur = s.cur) (h : Say.streams s t f) (hf : ∀ st, (f st).stepping = st.stepping) :
    outcome i s (.ok (.done t)) = .next t := by
  refine outcome_done id hq hparts ?_
  have hst : getStream t s.cur = f (curStream s) := by
    rw [← as_self s, ← h s.cur.strm, curStream_as, hartAs, hcur]
    rfl
  obtain ⟨-, -, -, -, -, hstep, -⟩ := (quiet_iff s).1 hq
  rw [hst, hf, hstep]

/-! ### What a meeting does but for moving the streams -/

theorem frame_shareSeen (s : State) (core jobid : Nat) : ExecFrame s (shareSeen s core jobid) :=
  (frame_modCore ..).trans (frame_sweepSeen ..)

theorem ms_shareSeen (s : State) (core jobid : Nat) : (shareSeen s core jobid).ms = s.ms := ms_sweepSeen ..

theorem frame_releaseDone (s : State) (core : Nat) (j : Job) : ExecFrame s (releaseDone s core j) :=
  .ite (frame_modCore ..) (.refl s)

theorem ms_releaseDone (s : State) (core : Nat) (j : Job) : (releaseDone s core j).ms = s.ms := by
  unfold releaseDone
  split <;> rfl

theorem msOnly_orderJobReads (s : State) (core slot : Nat) : MsOnly s (orderJobReads s core slot) :=
  msOnly_foldl orderReads msOnly_orderReads _ s

theorem msOnly_cureRegion (s : State) (core jobid : Nat) : MsOnly s (cureRegion s core jobid) :=
  (msOnly_flushWc ..).trans (msOnly_cure ..)

/-- The streams after a change of them, and of what they do not tell. -/
theorem StreamsBy.streams {s u t : State} {f : Stream → Stream} (h : StreamsBy s u fun _ => f) (hf : ExecFrame u t)
    (hq : ∀ x, Machine.quiet (Say.as s x) = true) : Say.streams s t f := by
  intro x
  rw [← h.curStream (hq x), curStream_as, curStream_as, getStream, getStream, hf.strs, hartAs, hf.cur, hartAs]

/-- The buffered stores and the early reads of the job, where only streams have changed. -/
theorem StreamsBy.flushed {s u : State} {f : Strm → Stream → Stream} (h : StreamsBy s u f) :
    flushWc (orderJobReads u s.cur.core s.cur.slot) s.cur.core
      = withStrs u.strs (flushWc (orderJobReads s s.cur.core s.cur.slot) s.cur.core) := by
  rw [h.rest]
  exact (congrArg (flushWc · _) (orderJobReads_withStrs ..)).trans (flushWc_withStrs ..)

/-- What a meeting leaves of the job's writes, and of its entries, before a region begins. -/
def regionEnd (u : State) (core slot : Nat) (j : Job) : State :=
  releaseDone (shareSeen (cureRegion (orderJobReads u core slot) core j.ids.jobid) core j.ids.jobid) core j

theorem frame_regionEnd (u : State) (core slot : Nat) (j : Job) : ExecFrame u (regionEnd u core slot j) :=
  (((msOnly_orderJobReads ..).trans (msOnly_cureRegion ..)).frame.trans (frame_shareSeen ..)).trans (frame_releaseDone ..)

theorem ms_regionEnd {s u : State} {f : Strm → Stream → Stream} (h : StreamsBy s u f) (j : Job) :
    (regionEnd u s.cur.core s.cur.slot j).ms
      = (cure (flushWc (orderJobReads s s.cur.core s.cur.slot) s.cur.core) j.ids.jobid).ms := by
  rw [regionEnd, ms_releaseDone, ms_shareSeen, cureRegion, h.flushed, cure_withStrs]
  rfl

/-! ### The beginning of a region (R83, R435) -/

/-- The streams at a region's head. -/
def atHead (y : State) : State := (hartsOf y.cur.core y.cur.slot).foldl (fun s h => modStream s h latchHead) y

theorem streamsBy_atHead (y : State) : StreamsBy y (atHead y) fun _ => latchHead := by
  refine (streamsBy_foldl (g := fun s h => modStream s h latchHead) (fun _ _ => True) (fun _ => latchHead) (hartAs y) y.cur
    (fun u x hcur _ => by rw [hartAs, hartAs, hcur]) (fun _ _ _ _ _ _ h => h) allStrms y (by decide) rfl
    fun _ _ => trivial).congr fun x st => ?_
  have hx : x ∈ allStrms := by cases x <;> decide
  rw [onlyIn, if_pos hx]

theorem streams_beginRegion {y : State} (n : Option (BitVec 18)) (hq : ∀ x, quiet (Say.as y x) = true) :
    Say.streams y (beginRegion y y.cur.core y.cur.slot n) latchHead :=
  fun x => (streamsBy_atHead y).curStream (hq x)

/-- The region that a meeting names, or the one there was. -/
def regionOf (n : Option (BitVec 18)) (j : Job) : Word :=
  match n with
  | some n => n.setWidth 64
  | none => j.rgnid

/-- The entries of a core that a job holds when its region begins. -/
def atHeadCore (jobid : Nat) (c : Core) : Core :=
  { c with tokens := c.tokens.map fun e =>
      if e.2.holder == some jobid then (e.1, { e.2 with beforeHead := true }) else e }

theorem beginRegion_eq (y : State) (n : Option (BitVec 18)) :
    beginRegion y y.cur.core y.cur.slot n
      = modCurJob (modCore (atHead y) y.cur.core (atHeadCore (curJob (atHead y)).ids.jobid))
          fun j => Say.regionJob j (regionOf n j) := by
  cases n <;> rfl

/-- The second state is the first where three streams have gone on into a region. -/
structure RegionBegun (s : State) (n : Option (BitVec 18)) (t : State) : Prop where
  cur : t.cur = s.cur
  parts : t.parts = s.parts
  streams : Say.streams s t fun st => latchHead (Say.left st)
  jobs : (Tab.get? t.jobs (jobKey t.cur)).isSome = true
  job : curJob t = Say.regionJob (curJob s) (regionOf n (curJob s))

theorem regionBegun_beginRegion {s y : State} (n : Option (BitVec 18)) (hcur : y.cur = s.cur) (hparts : y.parts = s.parts)
    (hstreams : Say.streams s y Say.left) (hjob : curJob y = curJob s) (hq : ∀ x, quiet (Say.as y x) = true) :
    RegionBegun s n (beginRegion y s.cur.core s.cur.slot n) := by
  have hhead := streamsBy_atHead y
  have hsome : (Tab.get? (atHead y).jobs (jobKey (atHead y).cur)).isSome = true := by
    rw [hhead.jobs, hhead.cur]
    exact quiet_job (hq y.cur.strm)
  rw [← hcur, beginRegion_eq]
  refine ⟨hhead.cur.trans hcur, hhead.parts.trans hparts, fun x => ?_, isSome_modCurJob _ hsome, ?_⟩
  · exact (hhead.curStream (hq x)).trans (congrArg latchHead (hstreams x))
  · rw [curJob_modCurJob (s := modCore (atHead y) y.cur.core _) _ hsome]
    change Say.regionJob (curJob (atHead y)) (regionOf n (curJob (atHead y))) = _
    rw [hhead.curJob, hjob]

theorem ms_beginRegion {s y : State} (n : Option (BitVec 18)) (hcur : y.cur = s.cur) :
    (beginRegion y s.cur.core s.cur.slot n).ms = y.ms := by
  rw [← hcur, beginRegion_eq]
  exact (streamsBy_atHead y).ms

/-- Three streams that meet at RGN or YIELD, where a region begins. -/
def regionMet (s u : State) (n : Option (BitVec 18)) : State :=
  beginRegion (regionEnd u s.cur.core s.cur.slot (curJob s)) s.cur.core s.cur.slot n

section
variable {s u : State} (hu : StreamsBy s u fun _ => Say.left) (n : Option (BitVec 18))
include hu

theorem ms_regionMet : (regionMet s u n).ms
    = (cure (flushWc (orderJobReads s s.cur.core s.cur.slot) s.cur.core) (curJob s).ids.jobid).ms :=
  (ms_beginRegion n ((frame_regionEnd ..).cur.trans hu.cur)).trans (ms_regionEnd hu _)

theorem regionBegun_regionMet (hq : ∀ x, quiet (Say.as s x) = true) : RegionBegun s n (regionMet s u n) := by
  have hframe := frame_regionEnd u s.cur.core s.cur.slot (curJob s)
  refine regionBegun_beginRegion n (hframe.cur.trans hu.cur) (hframe.parts.trans hu.parts) (hu.streams hframe hq)
    (hframe.curJob.trans hu.curJob) fun x => ?_
  exact ExecFrame.keeps_quiet (s := Say.as u x)
    ⟨by rw [cur_as, cur_as, hartAs, hframe.cur, hartAs], hframe.strs, hframe.jobs, hframe.parts⟩
    (hu.quiet (fun _ => rfl) (hq x))

end

/-! ### RDV (R81, R82) -/

section
variable {s : State} {r : Strm → Rendezvous} (hstand : Stand s r) (hp : ∀ x, plain (Say.as s x) 4 = true)
include hstand hp

theorem rdv_meets (hr : r s.cur.strm = .rdv) (hmeets : ∀ x, (r x).meets .rdv = true) :
    ∃ t, exec .rdv s = .next t ∧ Say.streams s t Say.left ∧ curJob t = curJob s
      ∧ t.ms = (flushWc (orderJobReads s s.cur.core s.cur.slot) s.cur.core).ms := by
  have hu := streamsBy_issueStood (r := r) .rdv hstand.quiet hp
  generalize hfold : (standList s r allStrms).foldl issueStanding (stoodAt s .rdv) = u at hu
  have hmeet : meet (stoodAt s .rdv) (standList s r allStrms) .rdv
      = shareSeen (flushWc (orderJobReads u s.cur.core s.cur.slot) s.cur.core) s.cur.core (curJob s).ids.jobid := by
    rw [← hfold]
    rfl
  have hframe : ExecFrame u (meet (stoodAt s .rdv) (standList s r allStrms) .rdv) := by
    rw [hmeet]
    exact ((msOnly_orderJobReads ..).trans (msOnly_flushWc ..)).frame.trans (frame_shareSeen ..)
  have hstreams := hu.streams hframe hstand.quiet
  refine ⟨meet (stoodAt s .rdv) (standList s r allStrms) .rdv, ?_, hstreams, hframe.curJob.trans hu.curJob, ?_⟩
  · rw [exec_rdv (s := s) (hp s.cur.strm), arriveRdv_meets hstand hr hmeets (.inl rfl), if_neg (by decide)]
    exact outcome_moved hstand.quiet_cur (hframe.parts.trans hu.parts) (hframe.cur.trans hu.cur) hstreams fun _ => rfl
  · rw [hmeet, ms_shareSeen, hu.flushed]
    rfl

/-! ### RGN and YIELD (R83) -/

theorem rgn_meets {n : BitVec 18} (hn : n ≠ 0) (hr : r s.cur.strm = .rgn n) (hmeets : ∀ x, (r x).meets (.rgn n) = true)
    (hfree : Say.free s) :
    ∃ t, exec (.rgn n) s = .next t ∧ Say.streams s t (fun st => latchHead (Say.left st))
      ∧ curJob t = Say.regionJob (curJob s) (n.setWidth 64)
      ∧ t.ms = (cure (flushWc (orderJobReads s s.cur.core s.cur.slot) s.cur.core) (curJob s).ids.jobid).ms
      ∧ ∀ w ∈ t.ms.wet, w.job ≠ (curJob s).ids.jobid := by
  obtain ⟨hactive, hpending, hfault, hqueues⟩ := hfree
  have hu := streamsBy_issueStood (r := r) (.rgn n) hstand.quiet hp
  generalize hfold : (standList s r allStrms).foldl issueStanding (stoodAt s (.rgn n)) = u at hu
  have hmeet : meet (stoodAt s (.rgn n)) (standList s r allStrms) (.rgn n) = regionMet s u (some n) := by
    rw [← hfold]
    rfl
  have hbegun := regionBegun_regionMet hu (some n) hstand.quiet
  refine ⟨regionMet s u (some n), ?_, hbegun.streams, hbegun.job, ms_regionMet hu _, ?_⟩
  · rw [exec_rgn hactive hpending hstand.quiet_cur (hp s.cur.strm) hn hfault,
      arriveRdv_meets hstand hr hmeets (.inr hqueues), if_neg (by nofun), hmeet]
    exact outcome_moved hstand.quiet_cur hbegun.parts hbegun.cur hbegun.streams fun _ => rfl
  · rw [ms_regionMet hu]
    exact not_wet_of_cure _ _

omit hstand hp in
/-- The request that YIELD serves stays with the job where its region begins (R83, R367). -/
theorem requested_regionJob (j : Job) (n : Word) : requested (Say.regionJob j n) = bitOf j.prereq 0 := by
  simp [requested, Say.regionJob, bitOf]

/-- The job that YIELD leaves. -/
def yielded (j : Job) : Job := if requested j then { j with phase := .flipping false, reqAt := none } else j

theorem yield_meets {g : Guard} (hg : guardOk s g = true) (hr : r s.cur.strm = .yield g)
    (hmeets : ∀ x, (r x).meets (.yield g) = true) (hactive : trapActive (curStream s) = false)
    (hpending : ownPending s = false) (hqueues : queuesEmpty (curJob s) = true) :
    ∃ t, exec (.yield_ g) s = .next t ∧ Say.streams s t (fun st => latchHead (Say.left st))
      ∧ t.ms = (cure (flushWc (orderJobReads s s.cur.core s.cur.slot) s.cur.core) (curJob s).ids.jobid).ms
      ∧ curJob t = (if bitOf (curJob s).prereq 0
          then { Say.regionJob (curJob s) (curJob s).rgnid with phase := .flipping false, reqAt := none }
          else Say.regionJob (curJob s) (curJob s).rgnid) := by
  have hu := streamsBy_issueStood (r := r) (.yield g) hstand.quiet hp
  generalize hfold : (standList s r allStrms).foldl issueStanding (stoodAt s (.yield g)) = u at hu
  have hmeet : meet (stoodAt s (.yield g)) (standList s r allStrms) (.yield g)
      = deschedule (regionMet s u none) s.cur.core s.cur.slot := by
    rw [← hfold]
    rfl
  have hbegun := regionBegun_regionMet hu none hstand.quiet
  have hms := ms_regionMet hu none
  have hstreams : Say.streams s (modCurJob (regionMet s u none) yielded) (fun st => latchHead (Say.left st)) :=
    hbegun.streams
  generalize regionMet s u none = t at hmeet hbegun hms hstreams
  have hdeschedule : deschedule t s.cur.core s.cur.slot = modCurJob t yielded := by
    rw [← hbegun.cur]
    rfl
  refine ⟨modCurJob t yielded, ?_, hstreams, hms, ?_⟩
  · rw [exec_yield hactive hpending hstand.quiet_cur (hp s.cur.strm) hg,
      arriveRdv_meets hstand hr hmeets (.inr hqueues), if_neg (by nofun), hmeet, hdeschedule]
    exact outcome_moved (t := modCurJob t yielded) hstand.quiet_cur hbegun.parts hbegun.cur hstreams fun _ => rfl
  · rw [curJob_modCurJob _ hbegun.jobs, hbegun.job, yielded, requested_regionJob]
    rfl

end

end Sys2Proof.Proofs
end

section
/-! PROOFS. The last END of a job: the region is cured and the job leaves its slot (R84, R166). -/

namespace Sys2Proof.Proofs

open Sys2Proof Sys2Proof.Machine

/-! ### Entries that leave a table -/

theorem Tab.wfFrom_mono {α : Type} (t : Tab α) {a b : Nat} (h : Tab.wfFrom b t = true) (hab : a ≤ b) :
    Tab.wfFrom a t = true := by
  cases t with
  | nil => rfl
  | cons y t =>
    simp only [Tab.wfFrom, Bool.and_eq_true, decide_eq_true_eq] at h ⊢
    exact ⟨hab.trans h.1, h.2⟩

theorem Tab.wfFrom_del {α : Type} (t : Tab α) (k lo : Nat) (h : Tab.wfFrom lo t = true) :
    Tab.wfFrom lo (Tab.del t k) = true := by
  induction t generalizing lo with
  | nil => rfl
  | cons y t ih =>
    obtain ⟨i, y⟩ := y
    have hparts := h
    simp only [Tab.wfFrom, Bool.and_eq_true, decide_eq_true_eq] at hparts
    obtain ⟨hlo, ht⟩ := hparts
    unfold Tab.del
    split
    · exact Tab.wfFrom_mono t ht (Nat.le_succ_of_le hlo)
    · split
      · exact h
      · simp [Tab.wfFrom, hlo, ih _ ht]

/-- What is not in a table is not there either when another entry has left. -/
theorem Tab.get?_del_none {α : Type} (t : Tab α) (k l lo : Nat) (hwf : Tab.wfFrom lo t = true)
    (h : Tab.get? t l = none) : Tab.get? (Tab.del t k) l = none := by
  induction t generalizing lo with
  | nil => rfl
  | cons y t ih =>
    obtain ⟨i, y⟩ := y
    simp only [Tab.wfFrom, Bool.and_eq_true, decide_eq_true_eq] at hwf
    obtain ⟨-, ht⟩ := hwf
    have hne : i ≠ l := fun hi => by simp [Tab.get?, hi] at h
    have htail : Tab.get? t l = none := by
      by_cases hlt : l < i
      · exact Tab.get?_wfFrom_lt t (i + 1) l ht (Nat.lt_succ_of_lt hlt)
      · simpa [Tab.get?, hne, hlt] using h
    unfold Tab.del
    split
    · exact htail
    · split
      · exact h
      · simp [Tab.get?, hne, ih _ ht htail]

theorem Tab.get?_foldl_del {α β : Type} (key : β → Nat) (t : Tab α) (l : List β) (hwf : Tab.wf t = true) {x : β}
    (hx : x ∈ l) : Tab.get? (l.foldl (fun t y => Tab.del t (key y)) t) (key x) = none := by
  induction l generalizing t with
  | nil => cases hx
  | cons y l ih =>
    have hdel : Tab.wf (Tab.del t (key y)) = true := Tab.wfFrom_del t (key y) 0 hwf
    rcases List.mem_cons.1 hx with rfl | hx
    · refine (foldl_keeps (fun t : Tab α => Tab.wf t = true ∧ Tab.get? t (key x) = none) _ (fun t y h => ?_) l _
        ⟨hdel, Tab.get?_del_self t 0 (key x) hwf⟩).2
      exact ⟨Tab.wfFrom_del t _ 0 h.1, Tab.get?_del_none t _ _ 0 h.1 h.2⟩
    · exact ih _ hdel hx

/-! ### The job leaves its slot (R84) -/

/-- A counted release leaves the jobs, and the keys of the streams. -/
theorem countedRelease_jobs (s : State) : (countedRelease s).jobs = s.jobs := by
  unfold countedRelease
  dsimp only
  split <;> rfl

theorem countedRelease_wf {s : State} (h : Tab.wf s.strs = true) : Tab.wf (countedRelease s).strs = true := by
  unfold countedRelease
  dsimp only
  split <;> exact Tab.wfFrom_modify s.strs _ _ 0 h

/-- The streams' ENDs count as releases (R477). -/
def endReleased (s : State) (core slot : Nat) : State :=
  (hartsOf core slot).foldl (fun s h => asStream s h countedRelease) s

theorem endReleased_jobs (s : State) (core slot : Nat) : (endReleased s core slot).jobs = s.jobs :=
  foldl_keeps (fun t : State => t.jobs = s.jobs) (fun t h => asStream t h countedRelease)
    (fun _ _ h => (countedRelease_jobs _).trans h) _ s rfl

theorem endReleased_wf {s : State} (core slot : Nat) (h : Tab.wf s.strs = true) :
    Tab.wf (endReleased s core slot).strs = true :=
  foldl_keeps (fun t : State => Tab.wf t.strs = true) (fun t h => asStream t h countedRelease)
    (fun t c h => countedRelease_wf (s := { t with cur := c }) h) _ s h

theorem endJob_eq (s : State) (core slot : Nat) :
    endJob s core slot = recordRetired (removeJob (endReleased s core slot) core slot (getJob s (slotKey core slot)))
      (getJob s (slotKey core slot)).ids (getJob s (slotKey core slot)).signalled := by
  have hjob : getJob (endReleased s core slot) (slotKey core slot) = getJob s (slotKey core slot) := by
    rw [getJob, endReleased_jobs, getJob]
  rw [← hjob]
  rfl

theorem msOnly_leaveReads (s : State) (core slot : Nat) : MsOnly s (leaveReads s core slot) :=
  (msOnly_orderJobReads ..).trans (msOnly_finishStores ..)

theorem msOnly_stashDrop (s : State) (jobid : Nat) : MsOnly s (stashDrop s jobid) := msOnly_modMs s _

theorem msOnly_discardWet (s : State) (jobid : Nat) : MsOnly s (discardWet s jobid) := msOnly_modMs s _

/-- A state without the entries, the windows and the wet writes of a job. -/
def jobGone (s : State) (core slot : Nat) (jobid : Nat) : State :=
  discardWet (stashDrop (leaveReads (modCore s core fun c =>
    { c with
      tokens := c.tokens.filter fun e => e.2.holder != some jobid
      collectives := c.collectives.filter fun e => e.1.1 != jobid }) core slot) jobid) jobid

theorem frame_jobGone (s : State) (core slot jobid : Nat) : ExecFrame s (jobGone s core slot jobid) :=
  (frame_modCore ..).trans (((msOnly_leaveReads ..).trans (msOnly_stashDrop ..)).trans (msOnly_discardWet ..)).frame

section
variable (s : State) (core slot : Nat) (j : Job)

theorem removeJob_jobs : (removeJob s core slot j).jobs = Tab.del (jobGone s core slot j.ids.jobid).jobs (slotKey core slot) := by
  unfold removeJob
  rfl

theorem removeJob_strs : (removeJob s core slot j).strs
    = (hartsOf core slot).foldl (fun t h => Tab.del t (hartKey h)) (jobGone s core slot j.ids.jobid).strs := by
  unfold removeJob
  rfl

theorem removeJob_wet : (removeJob s core slot j).ms.wet = (jobGone s core slot j.ids.jobid).ms.wet := by
  unfold removeJob
  rfl

theorem removeJob_job (h : Tab.wf s.jobs = true) : Tab.get? (removeJob s core slot j).jobs (slotKey core slot) = none := by
  rw [removeJob_jobs, (frame_jobGone ..).jobs]
  exact Tab.get?_del_self _ 0 _ h

theorem removeJob_stream (h : Tab.wf s.strs = true) {c : Hart} (hc : c ∈ hartsOf core slot) :
    Tab.get? (removeJob s core slot j).strs (hartKey c) = none := by
  rw [removeJob_strs, (frame_jobGone ..).strs]
  exact Tab.get?_foldl_del hartKey s.strs _ h hc

theorem not_wet_of_removeJob : ∀ w ∈ (removeJob s core slot j).ms.wet, w.job ≠ j.ids.jobid := by
  intro w hw
  rw [removeJob_wet, jobGone, discardWet, modMs_ms, List.mem_filter] at hw
  simpa using hw.2

end

/-! ### The last END -/

/-- A core on which a job holds no entry. -/
theorem heldBy_nil {s : State} {core jobid : Nat} (h : ∀ e ∈ (getCore s core).tokens, e.2.holder ≠ some jobid) :
    heldBy s core jobid = [] :=
  List.filter_eq_nil_iff.2 fun e he => by simpa using h e he

/-- What the last END leaves of memory before the streams go on (R84). -/
def endCured (s : State) (j : Job) : State := stashWriteBack (cureRegion s s.cur.core j.ids.jobid) s.cur.core j

theorem msOnly_endCured (s : State) (j : Job) : MsOnly s (endCured s j) :=
  (msOnly_cureRegion ..).trans (msOnly_stashWriteBack ..)

/-- A job that holds no entry leaves its slot at its last END. -/
theorem endBody_noEntry {s : State} (l : List (Hart × Rendezvous)) (hq : quiet s = true)
    (h : ∀ e ∈ (curCore s).tokens, e.2.holder ≠ some (curJob s).ids.jobid) :
    endBody s l = .ok (.done (l.foldl issueStanding (endCured s (curJob s))) fun t => endJob t s.cur.core t.cur.slot) := by
  have hms := msOnly_endCured s (curJob s)
  have hheld : heldBy (endCured s (curJob s)) s.cur.core (curJob s).ids.jobid = [] :=
    heldBy_nil (by simpa only [getCore, hms.cores, curCore] using h)
  have hhanded : handedOn (endCured s (curJob s)) s.cur.core (curJob s) = [] := by rw [handedOn, hheld]; rfl
  have horphan : orphanSome (endCured s (curJob s)) s.cur.core (curJob s) = endCured s (curJob s) := by
    rw [orphanSome, hhanded]
    rfl
  have hsample := sampleFlag_quiet (hms.frame.keeps_quiet hq)
  have hcured : stashWriteBack (cureRegion s s.cur.core (curJob s).ids.jobid) s.cur.core (curJob s)
      = endCured s (curJob s) := rfl
  unfold endBody
  dsimp only
  rw [hcured, horphan, hhanded, hsample]
  rfl

theorem frame_endCured (s : State) (x : Strm) :
    ExecFrame (Say.as (stoodAt s .ended) x) (Say.as (endCured (stoodAt s .ended) (curJob s)) x) := by
  have hms := msOnly_endCured (stoodAt s .ended) (curJob s)
  exact ⟨by rw [cur_as, cur_as, hartAs, hms.cur, hartAs], hms.strs, hms.jobs, hms.parts⟩

section
variable {s : State} {r : Strm → Rendezvous} (hstand : Stand s r) (hp : ∀ x, plain (Say.as s x) 4 = true)
include hstand hp

omit hp in
theorem quiet_endCured (x : Strm) : quiet (Say.as (endCured (stoodAt s .ended) (curJob s)) x) = true :=
  (frame_endCured s x).keeps_quiet (quiet_stoodAt .ended (hstand.quiet x))

theorem plain_endCured (x : Strm) : plain (Say.as (endCured (stoodAt s .ended) (curJob s)) x) 4 = true :=
  ((frame_endCured s x).keeps (quiet_stoodAt .ended (hstand.quiet x)) (plain_stoodAt .ended (hstand.quiet x) (hp x))).plain

/-- Where the streams stand after the last END, as its job leaves. -/
theorem streamsBy_endCured : StreamsBy (endCured (stoodAt s .ended) (curJob s))
    ((standList s r allStrms).foldl issueStanding (endCured (stoodAt s .ended) (curJob s))) fun _ => Say.left := by
  have hlist : standList s r allStrms = standList (endCured (stoodAt s .ended) (curJob s)) r allStrms := by
    simp only [standList, hartAs, (msOnly_endCured ..).cur]
    rfl
  rw [hlist]
  exact streamsBy_issueStanding r (quiet_endCured hstand) (plain_endCured hstand hp)

theorem end_meets (hr : r s.cur.strm = .ended) (hmeets : ∀ x, (r x).meets .ended = true) (hfree : Say.free s)
    (hnone : ∀ e ∈ (curCore s).tokens, e.2.holder ≠ some (curJob s).ids.jobid) (hjobs : Tab.wf s.jobs = true)
    (hstrs : Tab.wf s.strs = true) :
    ∃ u, exec .end_ s = .next (recordRetired u (curJob s).ids (curJob s).signalled)
      ∧ Tab.get? u.jobs (jobKey s.cur) = none ∧ (∀ x : Strm, Tab.get? u.strs (hartKey { s.cur with strm := x }) = none)
      ∧ ∀ w ∈ u.ms.wet, w.job ≠ (curJob s).ids.jobid := by
  obtain ⟨hactive, hpending, hfault, hqueues⟩ := hfree
  have hms := msOnly_endCured (stoodAt s .ended) (curJob s)
  have hleft := streamsBy_endCured hstand hp
  have hbody := endBody_noEntry (s := stoodAt s .ended) (standList s r allStrms)
    (quiet_stoodAt .ended (hstand.quiet s.cur.strm)) hnone
  rw [show curJob (stoodAt s .ended) = curJob s from rfl, show (stoodAt s .ended).cur.core = s.cur.core from rfl] at hbody
  generalize (standList s r allStrms).foldl issueStanding (endCured (stoodAt s .ended) (curJob s)) = t at hleft hbody
  have htjobs : t.jobs = s.jobs := hleft.jobs.trans hms.jobs
  have htjob : getJob t (jobKey s.cur) = curJob s := by rw [getJob, htjobs]; rfl
  have hcur : t.cur = s.cur := hleft.cur.trans hms.cur
  have hstep : (getStream t s.cur).stepping = false := by
    have hq := quiet_endCured hstand s.cur.strm
    have hst := hleft.curStream (x := s.cur.strm) hq
    obtain ⟨-, -, -, -, -, hstep, -⟩ := (quiet_iff _).1 hq
    have hself : getStream t s.cur = curStream (Say.as t s.cur.strm) := by rw [curStream_as, hartAs, hcur]
    rw [hself, hst]
    exact hstep
  refine ⟨removeJob (endReleased t s.cur.core s.cur.slot) s.cur.core s.cur.slot (curJob s), ?_, ?_, fun x => ?_,
    not_wet_of_removeJob _ _ _ _⟩
  · rw [exec_end hactive hpending hstand.quiet_cur (hp s.cur.strm) hfault,
      arriveRdv_meets hstand hr hmeets (.inr hqueues), if_pos rfl, hbody,
      outcome_done _ hstand.quiet_cur (hleft.parts.trans hms.parts) hstep]
    rw [hcur, endJob_eq, show slotKey s.cur.core s.cur.slot = jobKey s.cur from rfl, htjob]
  · refine removeJob_job _ _ _ _ ?_
    rw [endReleased_jobs, htjobs]
    exact hjobs
  · refine removeJob_stream _ _ _ _ (endReleased_wf _ _ (hleft.wf ?_)) ?_
    · rw [hms.strs]
      exact Tab.wfFrom_modify s.strs _ _ 0 hstrs
    · cases x <;> simp [hartsOf_cur, allStrms, hartAs]

end

/-! ### The rendezvous of the three streams -/

theorem rendezvous_holds : Say.Rendezvous := by
  refine fun s => ⟨fun hmeeting => ?_, fun n hn hmeeting hfree => ?_, fun g hg hmeeting hactive hpending hqueues => ?_,
    fun hmeeting hfree hnone hjobs hstrs => ?_⟩
  all_goals
    obtain ⟨r, hstand, hr, hmeets⟩ := exists_stand_of_meeting hmeeting
    have hp (x : Strm) := (hmeeting x).2.1
  · exact rdv_meets hstand hp hr hmeets
  · exact rgn_meets hstand hp hn hr hmeets hfree
  · exact yield_meets hstand hp hg hr hmeets hactive hpending hqueues
  · exact end_meets hstand hp hr hmeets hfree hnone hjobs hstrs

/-- Settles O40: each rendezvous by what its meeting leaves of the three streams and of the job's writes, and the traps
by the list of the streams that stand. -/
theorem rendezvous : Obligations.Rendezvous := ⟨rendezvous_holds, rendezvousTraps_holds⟩

end Sys2Proof.Proofs
end

section
/-! PROOFS. The lines of a stash window, written back: each dirty granule reads in memory as the scratchpad holds it
(R99, R102). -/

namespace Sys2Proof.Proofs

open Sys2Proof Sys2Proof.Machine

/-! ### Granules of a line image -/

/-- Both images of a line, cut at a granule: what lies above it, the granule, what lies below it. -/
theorem toNat_setGranule (d : RowBits) {g : Nat} (hg : g < 32) (v : Granule) :
    (setGranule d g v).toNat
      = (d.toNat / (2 ^ (64 * g) * 2 ^ 64) * 2 ^ 64 + v.toNat) * 2 ^ (64 * g) + d.toNat % 2 ^ (64 * g) := by
  have hB : 0 < 2 ^ (64 * g) := Nat.two_pow_pos _
  have hfit : (2 : Nat) ^ 2048 = 2 ^ (64 * (31 - g)) * 2 ^ 64 * 2 ^ (64 * g) := by
    rw [← Nat.pow_add, ← Nat.pow_add]
    congr 1
    omega
  have hd := d.isLt
  have hv := v.isLt
  simp only [setGranule, granuleOf, BitVec.toNat_ofNat]
  rw [hfit] at hd ⊢
  generalize 2 ^ (64 * g) = B at *
  generalize 2 ^ (64 * (31 - g)) = K at *
  generalize d.toNat = D at *
  generalize v.toNat = w at *
  have hH : D / (B * 2 ^ 64) < K := Nat.div_lt_of_lt_mul (by rwa [Nat.mul_comm, Nat.mul_comm B, ← Nat.mul_assoc])
  have hD : D = (D / (B * 2 ^ 64) * 2 ^ 64 + D / B % 2 ^ 64) * B + D % B := by
    rw [← Nat.div_div_eq_div_mul, Nat.div_add_mod', Nat.div_add_mod']
  generalize D / B % 2 ^ 64 = m at hD ⊢
  generalize D / (B * 2 ^ 64) = H at hD hH ⊢
  have hr : D % B < B := Nat.mod_lt _ hB
  generalize D % B = r at hD hr ⊢
  have hcut : D - m * B + w * B = (H * 2 ^ 64 + w) * B + r := by
    rw [hD, Nat.add_mul, Nat.add_mul]
    omega
  have hlt : (H * 2 ^ 64 + w) * B + r < K * 2 ^ 64 * B :=
    calc (H * 2 ^ 64 + w) * B + r < (H * 2 ^ 64 + w + 1) * B := by rw [Nat.add_mul _ 1 B]; omega
      _ ≤ K * 2 ^ 64 * B := Nat.mul_le_mul_right B (by omega)
  rw [hcut, Nat.mod_eq_of_lt hlt]

theorem granuleOf_setGranule_self (d : RowBits) {g : Nat} (hg : g < 32) (v : Granule) :
    granuleOf (setGranule d g v) g = v := by
  have hB : 0 < 2 ^ (64 * g) := Nat.two_pow_pos _
  apply BitVec.eq_of_toNat_eq
  rw [granuleOf, toNat_setGranule d hg, BitVec.toNat_ofNat, Nat.mul_comm _ (2 ^ (64 * g)), Nat.mul_add_div hB,
    Nat.div_eq_of_lt (Nat.mod_lt _ hB), Nat.add_zero, Nat.mul_add_mod_self_right, Nat.mod_eq_of_lt v.isLt]

theorem granuleOf_setGranule_ne (d : RowBits) {g i : Nat} (hg : g < 32) (hi : i ≠ g) (v : Granule) :
    granuleOf (setGranule d g v) i = granuleOf d i := by
  have hB : 0 < 2 ^ (64 * g) := Nat.two_pow_pos _
  have hv := v.isLt
  apply BitVec.eq_of_toNat_eq
  simp only [granuleOf, toNat_setGranule d hg, BitVec.toNat_ofNat]
  rcases Nat.lt_or_gt_of_ne hi with hlt | hgt
  · have hdvd : 2 ^ (64 * i) * 2 ^ 64 ∣ 2 ^ (64 * g) := by
      rw [← Nat.pow_add]
      exact Nat.pow_dvd_pow 2 (by omega)
    obtain ⟨k, hk⟩ := hdvd
    rw [← Nat.mod_mul_right_div_self, ← Nat.mod_mul_right_div_self, hk, Nat.mul_left_comm, Nat.mul_add_mod,
      Nat.mod_mul_right_mod]
  · obtain ⟨k, rfl⟩ : ∃ k, i = g + 1 + k := ⟨i - (g + 1), by omega⟩
    have hpow : 2 ^ (64 * (g + 1 + k)) = 2 ^ (64 * g) * 2 ^ 64 * 2 ^ (64 * k) := by
      rw [← Nat.pow_add, ← Nat.pow_add]
      congr 1
      omega
    have habove : (d.toNat / (2 ^ (64 * g) * 2 ^ 64) * 2 ^ 64 + v.toNat) * 2 ^ (64 * g) + d.toNat % 2 ^ (64 * g)
        = 2 ^ (64 * g) * (2 ^ 64 * (d.toNat / (2 ^ (64 * g) * 2 ^ 64)) + v.toNat) + d.toNat % 2 ^ (64 * g) := by ring
    rw [hpow, ← Nat.div_div_eq_div_mul, ← Nat.div_div_eq_div_mul _ _ (2 ^ (64 * k)), habove,
      ← Nat.div_div_eq_div_mul (2 ^ (64 * g) * _ + _), Nat.mul_add_div hB, Nat.div_eq_of_lt (Nat.mod_lt _ hB), Nat.add_zero,
      Nat.mul_add_div (Nat.two_pow_pos 64), Nat.div_eq_of_lt hv, Nat.add_zero]

theorem granuleOf_foldl_setGranule (d : RowBits) (f : Nat → Granule) {n i : Nat} (hn : n ≤ 32) :
    granuleOf ((List.range n).foldl (fun d i => setGranule d i (f i)) d) i
      = if i < n then f i else granuleOf d i := by
  induction n with
  | zero => rfl
  | succ n ih =>
    rw [List.range_succ, List.foldl_append, List.foldl_cons, List.foldl_nil]
    by_cases hi : i = n
    · rw [hi, granuleOf_setGranule_self _ (by omega), if_pos (Nat.lt_succ_self n)]
    · rw [granuleOf_setGranule_ne _ (by omega) hi, ih (by omega)]
      exact if_congr (by omega) rfl rfl

/-! ### A granule written whole -/

/-- A granule's eight bytes take the place of the whole granule. -/
theorem patchGranule_whole (v : Granule) {bs : List Byte} (h : bs.length = 8) :
    patchGranule v 0 bs = BitVec.ofNat 64 (ofLe bs) := by
  have hover : overlay (leBytes 8 v.toNat) 0 bs = bs := by
    simp [overlay, h]
  rw [patchGranule, hover]

theorem granules_whole {pa : Nat} {bs : List Byte} (hpa : pa % 8 = 0) (h : bs.length = 8) :
    granules pa bs.length = [pa / 8] := by
  have hone : (pa + 8 - 1) / 8 - pa / 8 + 1 = 1 := by omega
  rw [granules, h, hone]
  rfl

theorem granulePart_whole {pa : Nat} {bs : List Byte} (hpa : pa % 8 = 0) (h : bs.length = 8) :
    granulePart pa bs (pa / 8) = (0, bs) := by
  have hself : 8 * (pa / 8) = pa := by omega
  rw [granulePart, hself, if_neg (Nat.lt_irrefl pa), Nat.sub_self, slice, List.drop_zero, List.take_of_length_le (by omega)]

/-! ### What tells how a granule reads -/

/-- Two states in which the agents read the same granules, but for the values of their wet entries. -/
structure SameView (s t : State) : Prop where
  mem : t.ms.mem = s.ms.mem
  comp : t.ms.comp = s.ms.comp
  fresh : t.fresh = s.fresh
  late : t.ms.late = s.ms.late
  wet : ∀ w ∈ t.ms.wet, ∃ u ∈ s.ms.wet, u.job = w.job ∧ u.granule = w.granule ∧ u.value = w.value

namespace SameView

theorem of_wet {s t : State} (hmem : t.ms.mem = s.ms.mem) (hcomp : t.ms.comp = s.ms.comp) (hfresh : t.fresh = s.fresh)
    (hlate : t.ms.late = s.ms.late) (hwet : t.ms.wet = s.ms.wet) : SameView s t :=
  ⟨hmem, hcomp, hfresh, hlate, fun w hw => ⟨w, hwet ▸ hw, rfl, rfl, rfl⟩⟩

theorem refl (s : State) : SameView s s := of_wet rfl rfl rfl rfl rfl

theorem trans {s t u : State} (h : SameView s t) (k : SameView t u) : SameView s u := by
  refine ⟨k.mem.trans h.mem, k.comp.trans h.comp, k.fresh.trans h.fresh, k.late.trans h.late, fun w hw => ?_⟩
  obtain ⟨x, hx, hjob, hgranule, hvalue⟩ := k.wet w hw
  obtain ⟨y, hy, hjob', hgranule', hvalue'⟩ := h.wet x hx
  exact ⟨y, hy, hjob'.trans hjob, hgranule'.trans hgranule, hvalue'.trans hvalue⟩

theorem plainGranule {s t : State} (h : SameView s t) (g : Nat) : plainGranule t g = plainGranule s g := by
  rw [Machine.plainGranule, h.mem, Machine.plainGranule]

theorem viewGranule {s t : State} (h : SameView s t) (cmp : Bool) (g : Nat) :
    viewGranule t cmp g = viewGranule s cmp g := by
  simp only [Machine.viewGranule, h.comp, h.fresh, h.plainGranule]

end SameView

theorem sameView_noteOld (s : State) (jobs : List Nat) (g : Nat) (a b : Granule) : SameView s (noteOld s jobs g a b) := by
  unfold noteOld
  split
  · exact .refl s
  · exact .of_wet rfl rfl rfl rfl rfl

theorem sameView_noteMissed (s : State) (who : Nat × Nat) (pa n : Nat) : SameView s (noteMissed s who pa n) := by
  unfold noteMissed
  split
  · exact .refl s
  · exact .of_wet rfl rfl rfl rfl rfl

theorem sameView_poisonGranule (s : State) (jobid g : Nat) : SameView s (poisonGranule s jobid g) := by
  refine ⟨rfl, rfl, rfl, rfl, fun w hw => ?_⟩
  obtain ⟨u, hu, rfl⟩ := List.mem_map.1 hw
  exact ⟨u, hu, by split <;> exact ⟨rfl, rfl, rfl⟩⟩

theorem sameView_finishStores (s : State) (sel : Hart → Bool) : SameView s (finishStores s sel) := by
  unfold finishStores
  split
  · exact .refl s
  · exact foldl_keeps (SameView s) (fun t (b : LateStore) => writeSpad t b.addr b.bytes)
      (fun t b h => h.trans (.of_wet rfl rfl rfl rfl rfl)) _ _ (.of_wet rfl rfl rfl rfl rfl)

/-! ### A granule that reads as written -/

/-- The granules that a job's line is made of may be written through the line's view. -/
structure Writable (cmp : Bool) (G : Nat) (s : State) : Prop where
  wf : s.ms.mem.wf = true
  plain : cmp = false → Tab.get? s.ms.comp (G / 32) = none

/-- Every agent that sees the job's wet writes, or none, reads this value of a granule. -/
structure ReadsAs (jobid : Nat) (cmp : Bool) (G : Nat) (X : Granule) (s : State) : Prop where
  wet : ∀ w ∈ s.ms.wet, w.job = jobid → w.granule = G → w.value = X
  late : ∀ e ∈ s.ms.late, e.granule ≠ G
  view : viewGranule s cmp G = X

theorem Writable.sameView {cmp : Bool} {G : Nat} {s t : State} (h : Writable cmp G s) (k : SameView s t) :
    Writable cmp G t :=
  ⟨by rw [k.mem]; exact h.wf, by rw [k.comp]; exact h.plain⟩

theorem ReadsAs.sameView {jobid : Nat} {cmp : Bool} {G : Nat} {X : Granule} {s t : State} (h : ReadsAs jobid cmp G X s)
    (k : SameView s t) : ReadsAs jobid cmp G X t := by
  refine ⟨fun w hw hjob hgranule => ?_, by rw [k.late]; exact h.late, by rw [k.viewGranule]; exact h.view⟩
  obtain ⟨u, hu, hjob', hgranule', hvalue⟩ := k.wet w hw
  rw [← hvalue]
  exact h.wet u hu (hjob'.trans hjob) (hgranule'.trans hgranule)

/-- Such an agent reads the value (R113). -/
theorem ReadsAs.jobGranule {jobid : Nat} {cmp : Bool} {G : Nat} {X : Granule} {s : State} (h : ReadsAs jobid cmp G X s)
    {v : Viewer} (hv : v.job = 0 ∨ v.job = jobid) : jobGranule s v cmp G = X := by
  have hlate : lateFor s v cmp G = none := by
    have hfold (l : List LateWrite) (hl : ∀ e ∈ l, e.granule ≠ G) :
        l.foldl (fun r e => if e.granule == G && e.cmp == cmp then (if e.seenBy v then none else r.or (some e)) else r) none
          = none := by
      induction l with
      | nil => rfl
      | cons e l ih =>
        have he : (e.granule == G) = false := beq_false_of_ne (hl e (List.mem_cons_self ..))
        simpa only [List.foldl_cons, he, Bool.false_and, Bool.false_eq_true, if_false] using
          ih fun x hx => hl x (List.mem_cons_of_mem _ hx)
    exact hfold _ h.late
  unfold Machine.jobGranule
  split
  · rename_i w hw
    have hmem := List.mem_of_getLast? hw
    simp only [List.mem_filter, Bool.and_eq_true, beq_iff_eq, Viewer.ownSight, bne_iff_ne] at hmem
    obtain ⟨hw, hgranule, ⟨hne, hjob⟩, -⟩ := hmem
    exact h.wet w hw (hjob.symm.trans (hv.resolve_left hne)) hgranule
  · rw [sharedGranule, hlate]
    exact h.view

/-! ### A write of one granule (R102, R104) -/

/-- A write through the compressed view leaves its line compressed, with the other granules as they read (R102). -/
theorem compWrite_comp (s : State) (g o : Nat) (bs : List Byte) :
    ∃ c, (compWrite s g o bs).ms.comp = Tab.set s.ms.comp (g / 32) c ∧ c.mixed = 0
      ∧ granuleOf c.data (g % 32) = patchGranule (viewGranule s true g) o bs
      ∧ ∀ i < 32, i ≠ g % 32 → granuleOf c.data i = viewGranule s true (32 * (g / 32) + i) := by
  have hg : g % 32 < 32 := Nat.mod_lt _ (by decide)
  refine ⟨_, rfl, rfl, ?_, fun i hi hne => ?_⟩
  · rw [granuleOf_setGranule_self _ hg, granuleOf_foldl_setGranule _ _ (Nat.le_refl 32), if_pos hg, Nat.div_add_mod]
  · rw [granuleOf_setGranule_ne _ hg hne, granuleOf_foldl_setGranule _ _ (Nat.le_refl 32), if_pos hi]

/-- A compressed line with no mixed granule reads through its view as it is stored. -/
theorem viewGranule_comp {s : State} {g : Nat} {c : CompLine} (h : Tab.get? s.ms.comp (g / 32) = some c)
    (hmixed : c.mixed = 0) : viewGranule s true g = granuleOf c.data (g % 32) := by
  simp [viewGranule, h, hmixed]

/-- A line that is not compressed reads through either view as memory. -/
theorem viewGranule_plain {s : State} {g : Nat} (h : Tab.get? s.ms.comp (g / 32) = none) (cmp : Bool) :
    viewGranule s cmp g = plainGranule s g := by
  simp [viewGranule, h]

theorem Memory.bytes_eq_of_byte {m m' : Memory} {a n : Nat} (h : ∀ i < n, Memory.byte m' (a + i) = Memory.byte m (a + i)) :
    Memory.bytes m' a n = Memory.bytes m a n := by
  induction n generalizing a with
  | zero => rfl
  | succ n ih =>
    have htail : Memory.bytes m' (a + 1) n = Memory.bytes m (a + 1) n :=
      ih fun i hi => by simpa only [Nat.add_assoc, Nat.add_comm 1] using h (i + 1) (by omega)
    rw [Memory.bytes, Memory.bytes, htail, show Memory.byte m' a = Memory.byte m a from h 0 (by omega)]

/-- What a write of a whole granule for a job does to what agents read. -/
structure GranuleWritten (s : State) (jobid : Nat) (cmp : Bool) (g : Nat) (bs : List Byte) (t : State) : Prop where
  fresh : t.fresh = s.fresh
  late : t.ms.late = s.ms.late.filter fun e => e.granule != g
  wet : ∀ w ∈ t.ms.wet, ∃ u ∈ s.ms.wet, u.job = w.job ∧ u.granule = w.granule
    ∧ w.value = if w.job = jobid ∧ w.granule = g then BitVec.ofNat 64 (ofLe bs) else u.value
  plain : cmp = false → t.ms.mem = Memory.putBytes s.ms.mem (8 * g) bs
    ∧ ∃ f, t.ms.comp = Tab.modify s.ms.comp (g / 32) f
  compressed : cmp = true → t.ms.mem = s.ms.mem
    ∧ ∃ c, t.ms.comp = Tab.set s.ms.comp (g / 32) c ∧ c.mixed = 0
      ∧ granuleOf c.data (g % 32) = BitVec.ofNat 64 (ofLe bs)
      ∧ ∀ i < 32, i ≠ g % 32 → granuleOf c.data i = viewGranule s true (32 * (g / 32) + i)

/-- The values that fetches of code may still return, noted before a write for a job (R146). -/
def notedOld (s : State) (jobid : Nat) (cmp : Bool) (g o : Nat) (bs : List Byte) : State :=
  let old := viewGranule s cmp g
  let u := noteOld s (residentIds s) g old (patchGranule old o bs)
  let v := jobGranule u (jobView u jobid) cmp g
  noteOld u [jobid] g v (patchGranule v o bs)

theorem sameView_notedOld (s : State) (jobid : Nat) (cmp : Bool) (g o : Nat) (bs : List Byte) :
    SameView s (notedOld s jobid cmp g o bs) := (sameView_noteOld ..).trans (sameView_noteOld ..)

/-- One granule's part of a job's cured write, once that is noted. -/
def granuleLanded (u : State) (jobid : Nat) (cmp : Bool) (g o : Nat) (bs : List Byte) : State :=
  modMs (if cmp then compWrite u g o bs
    else modMs u fun m =>
      { m with
        mem := Memory.putBytes m.mem (8 * g + o) bs
        comp := Tab.modify m.comp (g / 32) fun c => { c with mixed := c.mixed ||| (1#32 <<< (g % 32)) } }) fun m =>
    { m with
      late := m.late.filter fun e => e.granule != g
      memPoison := if bs.length = 8 then NatSet.del m.memPoison g else m.memPoison
      wet := m.wet.map fun w =>
        if w.job = jobid && w.granule = g then
          { w with value := patchGranule w.value o bs, poison := w.poison && bs.length != 8 }
        else w }

theorem writeGranule_own (s : State) (jobid : Nat) (cmp : Bool) (g o : Nat) (bs : List Byte) :
    writeGranule s (some jobid) cmp g o bs = granuleLanded (notedOld s jobid cmp g o bs) jobid cmp g o bs := rfl

theorem wet_granuleLanded (u : State) (jobid : Nat) (cmp : Bool) (g o : Nat) (bs : List Byte) :
    (granuleLanded u jobid cmp g o bs).ms.wet = u.ms.wet.map fun w =>
      if w.job = jobid && w.granule = g then
        { w with value := patchGranule w.value o bs, poison := w.poison && bs.length != 8 }
      else w := by cases cmp <;> rfl

theorem granuleWritten_granuleLanded (u : State) (jobid : Nat) (cmp : Bool) (g : Nat) {bs : List Byte}
    (h : bs.length = 8) : GranuleWritten u jobid cmp g bs (granuleLanded u jobid cmp g 0 bs) := by
  refine ⟨by cases cmp <;> rfl, by cases cmp <;> rfl, fun w hw => ?_, fun hcmp => ?_, fun hcmp => ?_⟩
  · rw [wet_granuleLanded] at hw
    obtain ⟨u, hu, rfl⟩ := List.mem_map.1 hw
    refine ⟨u, hu, ?_⟩
    by_cases hmine : u.job = jobid ∧ u.granule = g
    · simp [hmine, patchGranule_whole _ h]
    · have hother : ¬(decide (u.job = jobid) && decide (u.granule = g)) = true := by simpa using hmine
      rw [if_neg hother, if_neg hmine]
      exact ⟨rfl, rfl, rfl⟩
  · subst hcmp
    exact ⟨rfl, _, rfl⟩
  · subst hcmp
    obtain ⟨c, hcomp, hmixed, hself, hothers⟩ := compWrite_comp u g 0 bs
    rw [patchGranule_whole _ h] at hself
    exact ⟨rfl, c, hcomp, hmixed, hself, hothers⟩

theorem plainGranule_congr {s t : State} (G : Nat)
    (h : ∀ i < 8, Memory.byte t.ms.mem (8 * G + i) = Memory.byte s.ms.mem (8 * G + i)) :
    plainGranule t G = plainGranule s G := by
  rw [plainGranule, plainGranule, Memory.bytes_eq_of_byte h]

theorem viewGranule_congr {s t : State} (cmp : Bool) {G : Nat} (hfresh : t.fresh = s.fresh)
    (hcomp : Tab.get? t.ms.comp (G / 32) = Tab.get? s.ms.comp (G / 32)) (hplain : plainGranule t G = plainGranule s G) :
    viewGranule t cmp G = viewGranule s cmp G := by
  simp only [viewGranule, hfresh, hcomp, hplain]

section
variable {s t : State} {jobid : Nat} {cmp cmp' : Bool} {g G : Nat} {bs : List Byte} {X : Granule}
  (hwrite : GranuleWritten s jobid cmp' g bs t) (hG : Writable cmp G s)
include hwrite hG

theorem GranuleWritten.writable (hline : g / 32 ≠ G / 32 ∨ cmp' = cmp) : Writable cmp G t := by
  cases cmp' with
  | false =>
    obtain ⟨hmem, f, hcomp⟩ := hwrite.plain rfl
    refine ⟨by rw [hmem]; exact Memory.putBytes_wf _ _ _ hG.wf, fun hcmp => ?_⟩
    by_cases hsame : G / 32 = g / 32
    · rw [hcomp, hsame, Tab.get?_modify_self, ← hsame, hG.plain hcmp]
      rfl
    · rw [hcomp, Tab.get?_modify_ne _ _ _ _ hsame, hG.plain hcmp]
  | true =>
    obtain ⟨hmem, c, hcomp, -⟩ := hwrite.compressed rfl
    refine ⟨by rw [hmem]; exact hG.wf, fun hcmp => ?_⟩
    have hother : g / 32 ≠ G / 32 := hline.resolve_right (by simp [hcmp])
    rw [hcomp, Tab.get?_set_ne _ _ _ _ hother.symm, hG.plain hcmp]

/-- Another granule, of another line or written through the same view, reads as before. -/
theorem GranuleWritten.viewGranule_ne (hbs : bs.length = 8) (hline : g / 32 ≠ G / 32 ∨ cmp' = cmp) (hne : g ≠ G) :
    viewGranule t cmp G = viewGranule s cmp G := by
  cases cmp' with
  | false =>
    obtain ⟨hmem, f, hcomp⟩ := hwrite.plain rfl
    have hplain : plainGranule t G = plainGranule s G := plainGranule_congr G fun i hi => by
      rw [hmem]
      exact Memory.byte_putBytes_outside _ _ _ _ hG.wf (by omega)
    by_cases hsame : g / 32 = G / 32
    · have hcmp : cmp = false := (hline.resolve_left fun h => h hsame).symm
      rw [viewGranule_plain ((hwrite.writable hG hline).plain hcmp), viewGranule_plain (hG.plain hcmp), hplain]
    · refine viewGranule_congr cmp hwrite.fresh ?_ hplain
      rw [hcomp, Tab.get?_modify_ne _ _ _ _ (Ne.symm hsame)]
  | true =>
    obtain ⟨hmem, c, hcomp, hmixed, -, hothers⟩ := hwrite.compressed rfl
    by_cases hsame : g / 32 = G / 32
    · have hcmp : cmp = true := (hline.resolve_left fun h => h hsame).symm
      have hget : Tab.get? t.ms.comp (G / 32) = some c := by rw [hcomp, ← hsame, Tab.get?_set_self]
      have hself : 32 * (g / 32) + G % 32 = G := by omega
      rw [hcmp, viewGranule_comp hget hmixed, hothers _ (Nat.mod_lt _ (by decide)) (by omega), hself]
    · refine viewGranule_congr cmp hwrite.fresh ?_ (plainGranule_congr G fun i hi => by rw [hmem])
      rw [hcomp, Tab.get?_set_ne _ _ _ _ (Ne.symm hsame)]

/-- A granule that reads as a value does so still when another has been written for the job. -/
theorem GranuleWritten.readsAs_ne (hbs : bs.length = 8) (hline : g / 32 ≠ G / 32 ∨ cmp' = cmp) (hne : g ≠ G)
    (h : ReadsAs jobid cmp G X s) : ReadsAs jobid cmp G X t := by
  refine ⟨fun w hw hjob hgranule => ?_, fun e he => ?_, (hwrite.viewGranule_ne hG hbs hline hne).trans h.view⟩
  · obtain ⟨u, hu, hjob', hgranule', hvalue⟩ := hwrite.wet w hw
    rw [hvalue, if_neg fun hmine => hne (hmine.2.symm.trans hgranule)]
    exact h.wet u hu (hjob'.trans hjob) (hgranule'.trans hgranule)
  · rw [hwrite.late] at he
    exact h.late e (List.mem_filter.1 he).1

omit hG in
/-- A granule that has been written reads as written. -/
theorem GranuleWritten.readsAs (hbs : bs.length = 8) (hG : Writable cmp' g s) :
    ReadsAs jobid cmp' g (BitVec.ofNat 64 (ofLe bs)) t := by
  refine ⟨fun w hw hjob hgranule => ?_, fun e he => ?_, ?_⟩
  · obtain ⟨u, -, -, -, hvalue⟩ := hwrite.wet w hw
    rw [hvalue, if_pos ⟨hjob, hgranule⟩]
  · rw [hwrite.late] at he
    simpa using (List.mem_filter.1 he).2
  · cases cmp' with
    | false =>
      obtain ⟨hmem, -⟩ := hwrite.plain rfl
      rw [viewGranule_plain ((hwrite.writable hG (.inr rfl)).plain rfl), plainGranule, hmem]
      exact congrArg (fun l => BitVec.ofNat 64 (ofLe l)) (by rw [← hbs]; exact Memory.bytes_putBytes _ _ _ hG.wf)
    | true =>
      obtain ⟨-, c, hcomp, hmixed, hself, -⟩ := hwrite.compressed rfl
      rw [viewGranule_comp (by rw [hcomp, Tab.get?_set_self]) hmixed, hself]

end

/-! ### A line written back (R99) -/

/-- A fold that reaches a state in which `Q` holds: one of its steps makes it hold, and the others keep it. -/
theorem foldl_reaches {α σ : Type} {P Q : σ → Prop} {f : σ → α → σ} {l : List α} {s : σ} {x : α} (hx : x ∈ l)
    (hP : ∀ y ∈ l, ∀ t, P t → P (f t y)) (hQ : ∀ y ∈ l, ∀ t, P t → Q t → Q (f t y)) (hxQ : ∀ t, P t → Q (f t x))
    (hs : P s) : Q (l.foldl f s) := by
  obtain ⟨l₁, l₂, rfl⟩ := List.append_of_mem hx
  rw [List.foldl_append, List.foldl_cons]
  have hreach : P (l₁.foldl f s) :=
    List.foldlRecOn l₁ f hs fun t ht y hy => hP y (List.mem_append_left _ hy) t ht
  refine (List.foldlRecOn (motive := fun t => P t ∧ Q t) l₂ f ⟨hP x hx _ hreach, hxQ _ hreach⟩ fun t ht y hy => ?_).2
  have hmem := List.mem_append_right l₁ (List.mem_cons_of_mem x hy)
  exact ⟨hP y hmem t ht.1, hQ y hmem t ht.1 ht.2⟩

/-- One granule of a line, written back where it is dirty. -/
def writeBackGranule (j : Job) (l : StashLine) (a : Nat) (s : State) (g : Nat) : State :=
  if l.dirty.getLsbD g then
    let s' := writePa s (j.ids.part, j.ids.jobid) (some j.ids.jobid) l.cmp (l.pa + 8 * g)
      (Memory.bytes s.ms.spad (a + 8 * g) 8) (some l)
    if NatSet.has s.ms.spadPoison (a / 8 + g) then poisonGranule s' j.ids.jobid (l.pa / 8 + g) else s'
  else s

theorem writeBackLine_granted {core : Nat} {j : Job} {l : StashLine} {a : Nat}
    (h : grantAddr core j.grant (l.sline * 256) 256 = some a) (s : State) :
    writeBackLine s core j l
      = modStash ((List.range 32).foldl (writeBackGranule j l a) s) l fun l => { l with dirty := 0 } := by
  rw [writeBackLine, h]
  rfl

theorem writeBackLine_refused {core : Nat} {j : Job} {l : StashLine}
    (h : grantAddr core j.grant (l.sline * 256) 256 = none) (s : State) : writeBackLine s core j l = s := by
  rw [writeBackLine, h]

theorem Memory.length_bytes (m : Memory) (a n : Nat) : (Memory.bytes m a n).length = n := by
  induction n generalizing a with
  | zero => rfl
  | succ n ih => rw [Memory.bytes, List.length_cons, ih]

/-- A write of a whole granule for a job. -/
theorem exists_granuleWritten_writePa (s : State) (who : Nat × Nat) (jobid : Nat) (cmp : Bool) {pa : Nat} {bs : List Byte}
    (keep : Option StashLine) (hpa : pa % 8 = 0) (h : bs.length = 8) :
    ∃ u v, SameView s u ∧ GranuleWritten u jobid cmp (pa / 8) bs v
      ∧ SameView v (writePa s who (some jobid) cmp pa bs keep) := by
  refine ⟨_, _, (sameView_noteMissed s who pa bs.length).trans (sameView_notedOld _ jobid cmp (pa / 8) 0 bs),
    granuleWritten_granuleLanded _ jobid cmp (pa / 8) h, ?_⟩
  unfold writePa
  rw [granules_whole hpa h, List.foldl_cons, List.foldl_nil, granulePart_whole hpa h, writeGranule_own]
  exact .of_wet rfl rfl rfl rfl rfl

/-! ### The scratchpad stays (R99) -/

theorem spad_noteOld (s : State) (jobs : List Nat) (g : Nat) (a b : Granule) :
    (noteOld s jobs g a b).ms.spad = s.ms.spad := by
  unfold noteOld
  split <;> rfl

theorem spad_writeGranule (s : State) (jobid : Nat) (cmp : Bool) (g o : Nat) (bs : List Byte) :
    (writeGranule s (some jobid) cmp g o bs).ms.spad = s.ms.spad := by
  have hnoted : (notedOld s jobid cmp g o bs).ms.spad = s.ms.spad := (spad_noteOld ..).trans (spad_noteOld ..)
  rw [writeGranule_own, ← hnoted]
  generalize notedOld s jobid cmp g o bs = u
  cases cmp <;> rfl

theorem spad_writePa (s : State) (who : Nat × Nat) (jobid : Nat) (cmp : Bool) (pa : Nat) (bs : List Byte)
    (keep : Option StashLine) : (writePa s who (some jobid) cmp pa bs keep).ms.spad = s.ms.spad := by
  have hmissed : (noteMissed s who pa bs.length).ms.spad = s.ms.spad := by
    unfold noteMissed
    split <;> rfl
  exact foldl_keeps (fun t : State => t.ms.spad = s.ms.spad) _ (fun t g h => (spad_writeGranule ..).trans h) _ _ hmissed

theorem spad_poisonGranule (s : State) (jobid g : Nat) : (poisonGranule s jobid g).ms.spad = s.ms.spad := rfl

theorem spad_writeBackGranule (j : Job) (l : StashLine) (a : Nat) (s : State) (g : Nat) :
    (writeBackGranule j l a s g).ms.spad = s.ms.spad := by
  unfold writeBackGranule
  split
  · dsimp only
    split
    · exact (spad_poisonGranule ..).trans (spad_writePa ..)
    · exact spad_writePa ..
  · rfl

theorem spad_writeBackLine (s : State) (core : Nat) (j : Job) (l : StashLine) :
    (writeBackLine s core j l).ms.spad = s.ms.spad := by
  cases h : grantAddr core j.grant (l.sline * 256) 256 with
  | none => rw [writeBackLine_refused h]
  | some a =>
    rw [writeBackLine_granted h]
    exact foldl_keeps (fun t : State => t.ms.spad = s.ms.spad) _ (fun t g h => (spad_writeBackGranule ..).trans h) _ _ rfl

/-! ### The dirty granules of lines (R99) -/

/-- A dirty granule is written whole, with what the scratchpad holds. -/
theorem exists_granuleWritten_writeBack (j : Job) {l : StashLine} (a : Nat) (s : State) {g : Nat} (hpa : l.pa % 256 = 0)
    (hdirty : l.dirty.getLsbD g = true) :
    ∃ u v, SameView s u ∧ GranuleWritten u j.ids.jobid l.cmp (l.pa / 8 + g) (Memory.bytes s.ms.spad (a + 8 * g) 8) v
      ∧ SameView v (writeBackGranule j l a s g) := by
  have hgranule : (l.pa + 8 * g) / 8 = l.pa / 8 + g := by omega
  obtain ⟨u, v, hu, hv, hdone⟩ := exists_granuleWritten_writePa s (j.ids.part, j.ids.jobid) j.ids.jobid l.cmp
    (pa := l.pa + 8 * g) (some l) (by omega) (Memory.length_bytes s.ms.spad (a + 8 * g) 8)
  rw [hgranule] at hv
  refine ⟨u, v, hu, hv, hdone.trans ?_⟩
  rw [writeBackGranule, if_pos hdirty]
  dsimp only
  split
  · exact sameView_poisonGranule ..
  · exact .refl _

/-- A granule of a line may be written back, and the scratchpads hold this. -/
def BackReady (l : StashLine) (g : Nat) (spad : Memory) (s : State) : Prop :=
  Writable l.cmp (l.pa / 8 + g) s ∧ s.ms.spad = spad

/-- A granule of a line reads as the scratchpads hold it. -/
def IsBack (j : Job) (l : StashLine) (a g : Nat) (spad : Memory) (s : State) : Prop :=
  ReadsAs j.ids.jobid l.cmp (l.pa / 8 + g) (BitVec.ofNat 64 (ofLe (Memory.bytes spad (a + 8 * g) 8))) s

section
variable {j : Job} {l x : StashLine} {a b g i : Nat} {spad : Memory} {s : State} (hl : l.pa % 256 = 0) (hg : g < 32)

theorem isBack_of_dirty (hdirty : l.dirty.getLsbD g = true) (h : BackReady l g spad s) (hl : l.pa % 256 = 0) :
    IsBack j l a g spad (writeBackGranule j l a s g) := by
  obtain ⟨u, v, hu, hv, hdone⟩ := exists_granuleWritten_writeBack j a s hl hdirty
  rw [h.2] at hv
  exact (hv.readsAs (Memory.length_bytes ..) (h.1.sameView hu)).sameView hdone

variable (hx : x.pa % 256 = 0) (hi : i < 32) (hxl : x.pa = l.pa → x = l)
include hl hg hx hi hxl

/-- A granule of another line, or of the line itself, is written through the line's view or elsewhere. -/
theorem sameLine_or_sameView : (x.pa / 8 + i) / 32 ≠ (l.pa / 8 + g) / 32 ∨ x.cmp = l.cmp := by
  by_cases hpa : x.pa = l.pa
  · exact .inr (congrArg _ (hxl hpa))
  · exact .inl (by omega)

theorem backReady_writeBackGranule (h : BackReady l g spad s) : BackReady l g spad (writeBackGranule j x b s i) := by
  refine ⟨?_, (spad_writeBackGranule ..).trans h.2⟩
  by_cases hdirty : x.dirty.getLsbD i = true
  · obtain ⟨u, v, hu, hv, hdone⟩ := exists_granuleWritten_writeBack j b s hx hdirty
    exact (hv.writable (h.1.sameView hu) (sameLine_or_sameView hl hg hx hi hxl)).sameView hdone
  · rw [writeBackGranule, if_neg hdirty]
    exact h.1

theorem isBack_writeBackGranule (hab : x = l → b = a) (h : BackReady l g spad s) (hback : IsBack j l a g spad s) :
    IsBack j l a g spad (writeBackGranule j x b s i) := by
  by_cases hdirty : x.dirty.getLsbD i = true
  · by_cases hsame : x.pa / 8 + i = l.pa / 8 + g
    · obtain rfl : x = l := hxl (by omega)
      obtain rfl : i = g := by omega
      rw [hab rfl]
      exact isBack_of_dirty hdirty h hx
    · obtain ⟨u, v, hu, hv, hdone⟩ := exists_granuleWritten_writeBack j b s hx hdirty
      exact (hv.readsAs_ne (h.1.sameView hu) (Memory.length_bytes ..) (sameLine_or_sameView hl hg hx hi hxl) hsame
        (hback.sameView hu)).sameView hdone
  · rw [writeBackGranule, if_neg hdirty]
    exact hback

end

theorem sameView_modStash (s : State) (x : StashLine) (f : StashLine → StashLine) : SameView s (modStash s x f) :=
  .of_wet rfl rfl rfl rfl rfl

section
variable {core : Nat} {j : Job} {l x : StashLine} {a g : Nat} {spad : Memory} {s : State} (hl : l.pa % 256 = 0) (hg : g < 32)

theorem BackReady.sameView {t : State} (h : BackReady l g spad s) (k : SameView s t) (hspad : t.ms.spad = s.ms.spad) :
    BackReady l g spad t := ⟨h.1.sameView k, hspad.trans h.2⟩

include hl hg in
/-- A line writes its own dirty granules back. -/
theorem isBack_of_granted (hgrant : grantAddr core j.grant (l.sline * 256) 256 = some a) (hdirty : l.dirty.getLsbD g = true)
    (h : BackReady l g spad s) : IsBack j l a g spad (writeBackLine s core j l) := by
  rw [writeBackLine_granted hgrant]
  refine ReadsAs.sameView (foldl_reaches (P := BackReady l g spad) (Q := IsBack j l a g spad) (List.mem_range.2 hg)
    (fun i hi t ht => ?_) (fun i hi t ht hback => ?_) (fun t ht => isBack_of_dirty hdirty ht hl) h) (sameView_modStash ..)
  · exact backReady_writeBackGranule hl hg hl (List.mem_range.1 hi) (fun _ => rfl) ht
  · exact isBack_writeBackGranule hl hg hl (List.mem_range.1 hi) (fun _ => rfl) (fun _ => rfl) ht hback

variable (hx : x.pa % 256 = 0) (hxl : x.pa = l.pa → x = l)
include hl hg hx hxl

theorem backReady_writeBackLine (h : BackReady l g spad s) : BackReady l g spad (writeBackLine s core j x) := by
  cases hgrant : grantAddr core j.grant (x.sline * 256) 256 with
  | none => rwa [writeBackLine_refused hgrant]
  | some b =>
    rw [writeBackLine_granted hgrant]
    exact BackReady.sameView (List.foldlRecOn (motive := BackReady l g spad) _ _ h fun t ht i hi =>
      backReady_writeBackGranule hl hg hx (List.mem_range.1 hi) hxl ht) (sameView_modStash ..) rfl

theorem isBack_writeBackLine (hgrant : grantAddr core j.grant (l.sline * 256) 256 = some a) (h : BackReady l g spad s)
    (hback : IsBack j l a g spad s) : IsBack j l a g spad (writeBackLine s core j x) := by
  cases hx' : grantAddr core j.grant (x.sline * 256) 256 with
  | none => rwa [writeBackLine_refused hx']
  | some b =>
    have hab (e : x = l) : b = a := by
      subst e
      exact Option.some.inj (hx'.symm.trans hgrant)
    rw [writeBackLine_granted hx']
    refine ReadsAs.sameView (List.foldlRecOn
      (motive := fun t => BackReady l g spad t ∧ IsBack j l a g spad t) _ _ ⟨h, hback⟩ fun t ht i hi => ?_).2 (sameView_modStash ..)
    have hi := List.mem_range.1 hi
    exact ⟨backReady_writeBackGranule hl hg hx hi hxl ht.1, isBack_writeBackGranule hl hg hx hi hxl hab ht.1 ht.2⟩

end

/-- The lines of a list that `p` selects among those of the stash windows have been written back. -/
theorem writtenBack_foldl (s : State) (core : Nat) (j : Job) (sel : StashLine → Prop) (cores : Hart → Bool)
    (p : StashLine → Bool) (hp : ∀ x, p x = true ↔ x.job = j.ids.jobid ∧ sel x) {t : State}
    (hview : SameView ((s.ms.stash.filter p).foldl (fun s l => writeBackLine s core j l) (finishStores s cores)) t)
    (hspad : t.ms.spad = (finishStores s cores).ms.spad) : Say.WrittenBack s t core j sel := by
  intro l hl hjob hsel hmem halign honce hplain a g hgrant hg hdirty v hv
  have hwf : s.ms.mem.wf = true := by
    rw [memOk, Bool.and_eq_true] at hmem
    exact hmem.1
  have hpa := halign l hl
  have hline : (l.pa / 8 + g) / 32 = l.pa / 256 := by omega
  have hready : BackReady l g t.ms.spad (finishStores s cores) := by
    refine ⟨Writable.sameView ⟨hwf, fun hcmp => ?_⟩ (sameView_finishStores ..), hspad.symm⟩
    rw [hline]
    exact hplain.resolve_left (by simp [hcmp])
  have hselected (x : StashLine) (hx : x ∈ s.ms.stash.filter p) : x.pa % 256 = 0 ∧ (x.pa = l.pa → x = l) := by
    obtain ⟨hx, hpx⟩ := List.mem_filter.1 hx
    obtain ⟨hxjob, hxsel⟩ := (hp x).1 hpx
    exact ⟨halign x hx, honce x hx hxjob hxsel⟩
  have hback := foldl_reaches (P := BackReady l g t.ms.spad) (Q := IsBack j l a g t.ms.spad)
    (List.mem_filter.2 ⟨hl, (hp l).2 ⟨hjob, hsel⟩⟩)
    (fun x hx u hu => backReady_writeBackLine (core := core) (j := j) hpa hg (hselected x hx).1 (hselected x hx).2 hu)
    (fun x hx u hu hb => isBack_writeBackLine hpa hg (hselected x hx).1 (hselected x hx).2 hgrant hu hb)
    (fun u hu => isBack_of_granted hpa hg hgrant hdirty hu) hready
  exact (hback.sameView hview).jobGranule hv

end Sys2Proof.Proofs
end

section
/-! PROOFS. The CSRs that jobs write, and the stash windows that they map (R86 to R88, R96, R99, R425). -/

namespace Sys2Proof.Proofs

open Sys2Proof Sys2Proof.Machine

/-! ### Stash windows (R96) -/

theorem stashSizeOf_eq (s : State) (w : Fin 4) : stashSizeOf (curJob s) w = (Say.window s w).1 := by
  rw [stashSizeOf, vector_getD]
  rfl

theorem stashLineOf_eq (s : State) (w : Fin 4) : stashLineOf (curJob s) w * 256 = (Say.window s w).2.1 := by
  rw [stashLineOf, vector_getD]
  rfl

theorem stashVbase_eq (s : State) (w : Fin 4) : stashVbase (curJob s) w = (Say.window s w).2.2 := by
  rw [stashVbase, vector_getD]
  rfl

theorem stashSizeOk_iff (v : Word) : stashSizeOk v = true ↔ Say.SizeWord v := by
  simp [stashSizeOk, Say.SizeWord, and_assoc]

theorem rangesMeet_false_iff (a n b m : Nat) : rangesMeet a n b m = false ↔ a + n ≤ b ∨ b + m ≤ a := by
  simp only [rangesMeet, Bool.and_eq_false_iff, decide_eq_false_iff_not]
  omega

theorem grantAddr_isSome_iff (core : Nat) (g : Grant) (off n : Nat) :
    (grantAddr core g off n).isSome = true ↔ off + n ≤ g.half ∨ 0x80000 ≤ off ∧ off + n ≤ 0x80000 + g.half := by
  have hsplit : Config.groupSplit = 0x80000 := rfl
  rw [grantAddr, hsplit]
  by_cases hown : off + n ≤ g.half
  · simp [hown]
  · by_cases hgroup : 0x80000 ≤ off ∧ off + n ≤ 0x80000 + g.half <;> simp [hown, hgroup]

/-- Another window does not keep this range of the scratchpad and of virtual addresses from being mapped. -/
def windowClear (j : Job) (w off n va x : Nat) : Bool :=
  x == w || stashSizeOf j x == 0
    || (!rangesMeet off n (stashLineOf j x * 256) (stashSizeOf j x) && !rangesMeet va n (stashVbase j x) (stashSizeOf j x))

theorem windowClear_iff (s : State) (w x : Fin 4) (off n va : Nat) :
    windowClear (curJob s) w off n va x = true ↔ (x ≠ w → (Say.window s x).1 ≠ 0 →
      (off + n ≤ (Say.window s x).2.1 ∨ (Say.window s x).2.1 + (Say.window s x).1 ≤ off)
        ∧ (va + n ≤ (Say.window s x).2.2 ∨ (Say.window s x).2.2 + (Say.window s x).1 ≤ va)) := by
  rw [windowClear, stashSizeOf_eq, stashLineOf_eq, stashVbase_eq]
  simp only [Bool.or_eq_true, Bool.and_eq_true, Bool.not_eq_true', beq_iff_eq, rangesMeet_false_iff, ← Fin.ext_iff]
  generalize (off + n ≤ (Say.window s x).2.1 ∨ (Say.window s x).2.1 + (Say.window s x).1 ≤ off) = p
  generalize (va + n ≤ (Say.window s x).2.2 ∨ (Say.window s x).2.2 + (Say.window s x).1 ≤ va) = q
  tauto

theorem all_range_iff (n : Nat) (p : Nat → Bool) : (List.range n).all p = true ↔ ∀ x : Fin n, p x = true := by
  rw [List.all_eq_true]
  exact ⟨fun h x => h x (List.mem_range.2 x.isLt), fun h x hx => h ⟨x, List.mem_range.1 hx⟩⟩

/-- A window may be mapped where none of R96's cases refuses it. -/
theorem mapOk_iff (s : State) (w : Fin 4) (v : Word) :
    mapOk s.cur.core (curJob s) w v = true ↔ Say.Mappable s w v := by
  have hmap : mapOk s.cur.core (curJob s) w v
      = ((grantAddr s.cur.core (curJob s).grant (bitsOf v 32 12 * 256) (bitsOf v 0 20)).isSome
        && (List.range 4).all (windowClear (curJob s) w (bitsOf v 32 12 * 256) (bitsOf v 0 20) (stashVbase (curJob s) w))
        && decide (stashVbase (curJob s) w + bitsOf v 0 20 ≤ 2 ^ 47)) := rfl
  rw [hmap, stashVbase_eq, Bool.and_eq_true, Bool.and_eq_true, decide_eq_true_eq, grantAddr_isSome_iff, all_range_iff,
    and_assoc]
  simp only [windowClear_iff]
  rfl

/-! ### A write of a window's size (R96, R99) -/

theorem msOnly_clearWindow (s : State) (core : Nat) (j : Job) (w : Nat) : MsOnly s (clearWindow s core j w) := by
  unfold clearWindow
  exact ((msOnly_finishStores ..).trans (msOnly_foldl (fun t l => writeBackLine t core j l)
    (fun _ _ => msOnly_writeBackLine ..) _ _)).trans (msOnly_modMs _ _)

theorem spad_clearWindow (s : State) (core : Nat) (j : Job) (w : Nat) :
    (clearWindow s core j w).ms.spad = (finishStores s fun h => h.core == core).ms.spad :=
  foldl_keeps (fun t : State => t.ms.spad = (finishStores s fun h => h.core == core).ms.spad)
    (fun t l => writeBackLine t core j l) (fun _ _ h => (spad_writeBackLine ..).trans h) _ _ rfl

theorem finishStores_none {s : State} (h : s.ms.begun = []) (sel : Hart → Bool) : finishStores s sel = s := by
  rw [finishStores, h]
  rfl

theorem unmapped_clearWindow (s : State) (w : Nat) : Say.Unmapped s (clearWindow s s.cur.core (curJob s) w) w := by
  refine ⟨fun l hl hmine => ?_, fun hbegun => ?_, ?_⟩
  · have hkept := (List.mem_filter.1 hl).2
    simp [hmine] at hkept
  · rw [spad_clearWindow, finishStores_none hbegun]
  · exact writtenBack_foldl s s.cur.core (curJob s) _ (fun h => h.core == s.cur.core)
      (fun l => l.job == (curJob s).ids.jobid && l.win == w) (fun x => by simp) (.of_wet rfl rfl rfl rfl rfl)
      (spad_clearWindow ..)

/-- What the mapping's end leaves is left where the memory system is the same but for early reads. -/
theorem unmapped_congr {s t u : State} {w : Nat} (h : Say.Unmapped s t w) (hstash : u.ms.stash = t.ms.stash)
    (hspad : u.ms.spad = t.ms.spad) (hview : ∀ v cmp g, jobGranule u v cmp g = jobGranule t v cmp g) :
    Say.Unmapped s u w := by
  obtain ⟨hlines, hsame, hback⟩ := h
  refine ⟨by rwa [hstash], by rwa [hspad], ?_⟩
  simpa only [Say.WrittenBack, hview, hspad] using hback

/-- A size written, and what the stream had read of it early used up. -/
theorem remapped_writeStashSize {s : State} (hjob : (Tab.get? s.jobs (jobKey s.cur)).isSome = true) (w : Fin 4) (v : Word) :
    Say.Remapped s (writeStashSize s w v) w v := by
  have hms := msOnly_clearWindow s s.cur.core (curJob s) w
  refine ⟨?_, unmapped_congr (unmapped_clearWindow s w) rfl rfl fun _ _ _ => rfl, hms.strs⟩
  rw [writeStashSize, curJob_modCurJob _ (hms.frame.isSome_job hjob), hms.frame.curJob, vector_setIfInBounds]

theorem remapped_dropEarly {s t : State} {w : Fin 4} {v : Word} (h : Say.Remapped s t w v) (c : Hart)
    (sel : EarlyPlace → Bool) : Say.Remapped s (dropEarly t c sel) w v := by
  have hms := msOnly_dropEarly t c sel
  obtain ⟨hjob, hunmapped, hstrs⟩ := h
  refine ⟨hms.frame.curJob.trans hjob, ?_, hms.strs.trans hstrs⟩
  unfold dropEarly
  split
  · exact hunmapped
  · exact unmapped_congr hunmapped rfl rfl fun _ _ _ => rfl

theorem stashWindows_holds : Say.StashWindows := by
  intro s w v hjob hsize
  have hw : (BitVec.ofNat 2 w).toNat = w := by
    rw [BitVec.toNat_ofNat, Nat.mod_eq_of_lt w.isLt]
  have hok := (stashSizeOk_iff v).2 hsize
  have hmap (hne : bitsOf v 0 20 ≠ 0) : exec (.stashMap (BitVec.ofNat 2 w) v) s
      = .next (if mapOk s.cur.core (curJob s) w v then writeStashSize s w v else s) := by
    have hrun : exec (.stashMap (BitVec.ofNat 2 w) v) s = execStashMap (BitVec.ofNat 2 w) v s := rfl
    rw [hrun, execStashMap, hw, hok, bne_iff_ne.2 hne]
    rfl
  refine ⟨fun hne hmappable => ⟨_, ?_, remapped_writeStashSize hjob w v⟩,
    fun hzero => ⟨_, ?_, remapped_writeStashSize hjob w v⟩, fun hne hrefused => ?_⟩
  · rw [hmap hne, if_pos ((mapOk_iff s w v).2 hmappable)]
  · have hrun : exec (.stashUnmap (BitVec.ofNat 2 w) v) s = execStashUnmap (BitVec.ofNat 2 w) v s := rfl
    rw [hrun, execStashUnmap, hw, hok, beq_iff_eq.2 hzero]
    rfl
  · rw [hmap hne, if_neg (mt (mapOk_iff s w v).1 hrefused)]

/-! ### The CSRs that jobs write (R86 to R88, R425) -/

/-- A store in the trap registers that leaves ACTIVE of TRCAUSE. -/
theorem keeps_setTrap {s : State} {n : Nat} (f : TrapRegs → TrapRegs) (hf : ∀ r, bitOf (f r).cause 9 = bitOf r.cause 9)
    (hq : quiet s = true) (hp : plain s n = true) : Keeps s (setTrap s f) n := by
  have hst := curStream_modCurStream (fun st => { st with trap := f st.trap }) (quiet_stream hq)
  have hsome := isSome_modCurStream (fun st => { st with trap := f st.trap }) (quiet_stream hq)
  obtain ⟨-, hjob, htrace, hbps, hmon, hstep, hchalk⟩ := (quiet_iff s).1 hq
  refine ⟨rfl, rfl, (quiet_iff _).2 ⟨hsome, hjob, htrace, hbps, hmon, ?_, hchalk⟩, ?_⟩
  · rw [setTrap, hst]
    exact hstep
  · simpa only [plain, setTrap, hst, trapActive, hf] using hp

/-- Words merged by a mask, as a sum. -/
theorem and_not_or_and (v c m : Word) : (v &&& ~~~m) ||| (c &&& m) = v - (v &&& m) + (c &&& m) := by
  have hdisjoint (x : Word) : (v &&& ~~~m) &&& (x &&& m) = 0#64 := by
    ext i
    simp only [BitVec.getElem_and, BitVec.getElem_not, BitVec.getElem_zero]
    cases m[i] <;> simp
  have hrest : v &&& ~~~m = v - (v &&& m) := by
    rw [eq_sub_iff_add_eq, BitVec.add_eq_or_of_and_eq_zero _ _ (hdisjoint v)]
    ext i
    simp only [BitVec.getElem_or, BitVec.getElem_and, BitVec.getElem_not]
    cases m[i] <;> simp
  rw [← BitVec.add_eq_or_of_and_eq_zero _ _ (hdisjoint c), hrest]

/-- ACTIVE of TRCAUSE stays where the rest of it is written (R425). -/
theorem setBits_active (v c : Word) : setBits v 9 1 (bitsOf c 9 1) = (v &&& ~~~0x200) ||| (c &&& 0x200) := by
  have hbit (x : Word) : (x &&& 0x200).toNat = bitsOf x 9 1 * 2 ^ 9 := by
    rw [bitsOf, BitVec.toNat_and, show (0x200 : Word).toNat = 2 ^ 9 from rfl, Nat.and_two_pow, Nat.toNat_testBit, pow_one]
  have hle : (v &&& 0x200).toNat ≤ v.toNat := by
    rw [BitVec.toNat_and]
    exact Nat.and_le_left
  rw [and_not_or_and]
  apply BitVec.eq_of_toNat_eq
  rw [BitVec.toNat_add, BitVec.toNat_sub_of_le hle, hbit, hbit, setBits, BitVec.toNat_ofNat,
    Nat.mod_eq_of_lt (show bitsOf c 9 1 < 2 ^ 1 from Nat.mod_lt _ (by decide))]

theorem bitOf_active (v c : Word) : bitOf ((v &&& ~~~0x200) ||| (c &&& 0x200)) 9 = bitOf c 9 := by
  simp [bitOf]

theorem bitsOf_low_two (v : Word) : bitsOf v 0 2 = v.toNat % 4 := by
  rw [bitsOf, pow_zero, Nat.div_one]
  rfl

/-- A store that a CSR's rules accept, of one of the executing stream's trap registers or of its job's CSRs. -/
structure CsrStored (s : State) (n : Nat) (v : Word) (t : State) : Prop where
  writable : csrWritable n = true
  store : csrStore s n v = .ok t
  keeps : ∀ m, quiet s = true → plain s m = true → Keeps s t m

theorem csrStored_trap {s : State} {n : Nat} {v : Word} {f : TrapRegs → TrapRegs} (hn : csrWritable n = true)
    (hf : ∀ r, bitOf (f r).cause 9 = bitOf r.cause 9) (hstore : csrStore s n v = .ok (setTrap s f)) :
    CsrStored s n v (setTrap s f) := ⟨hn, hstore, fun _ hq hp => keeps_setTrap f hf hq hp⟩

theorem csrStored_job {s : State} {n : Nat} {v : Word} {f : Job → Job} (hn : csrWritable n = true)
    (hf : ∀ j, (f j).ids = j.ids) (hstore : csrStore s n v = .ok (modCurJob s f)) : CsrStored s n v (modCurJob s f) :=
  ⟨hn, hstore, fun _ hq hp => keeps_modCurJob s _ f hq hp fun j => congrArg _ (hf j)⟩

/-! The stores, an equation per CSR with rules of its own. -/

theorem csrStore_ctl (s : State) (v : Word) :
    csrStore s 0x000 v = (do
      check (bitsOf v 5 59 == 0 && bitsOf v 0 3 ≤ 4) .illegal
      check (bitOf v 4 == bitOf (curJob s).ctl 4) .priv
      .ok (modCurJob s fun j => { j with ctl := v })) := rfl

theorem csrStore_cause (s : State) (v : Word) :
    csrStore s 0x010 v = (do
      check (bitsOf v 11 53 == 0) .illegal
      .ok (setTrap s fun t => { t with cause := (v &&& ~~~0x200) ||| (t.cause &&& 0x200) })) := by
  simp only [← setBits_active]
  rfl

theorem csrStore_pc (s : State) (v : Word) :
    csrStore s 0x011 v = (do
      check (v.toNat % 4 == 0) .illegal
      .ok (setTrap s fun t => { t with pc := v })) := by
  rw [← bitsOf_low_two]
  rfl

theorem csrStore_vec (s : State) (v : Word) :
    csrStore s 0x01A v = (do
      check (v.toNat % 4 == 0) .illegal
      .ok (setTrap s fun t => { t with vec := v })) := by
  rw [← bitsOf_low_two]
  rfl

theorem csrStore_word (s : State) (k : Fin 6) (v : Word) :
    csrStore s (0x012 + k) v = .ok (setTrap s fun t => { t with words := t.words.set k v }) := by
  simp only [← vector_setIfInBounds]
  fin_cases k <;> rfl

theorem csrStore_base (s : State) (w : Fin 4) (v : Word) :
    csrStore s (0x050 + 2 * w) v = (do
      check (bitsOf v 0 12 == 0 && bitsOf v 48 16 == 0) .illegal
      check ((Say.window s w).1 == 0) .perm
      .ok (modCurJob s fun j => { j with stashBase := j.stashBase.set w v })) := by
  rw [← stashSizeOf_eq]
  simp only [← vector_setIfInBounds]
  fin_cases w <;> rfl

theorem csrStore_size (s : State) (w : Fin 4) (v : Word) :
    csrStore s (0x051 + 2 * w) v = (do
      check (stashSizeOk v) .illegal
      check (bitsOf v 0 20 == 0 || mapOk s.cur.core (curJob s) w v) .perm
      .ok (writeStashSize s w v)) := by
  fin_cases w <;> rfl

/-! What the rules accept. -/

theorem csrStored_word (s : State) (k : Fin 6) (v : Word) :
    CsrStored s (0x012 + k) v (setTrap s fun t => { t with words := t.words.set k v }) :=
  csrStored_trap (by fin_cases k <;> rfl) (fun _ => rfl) (csrStore_word s k v)

theorem csrStored_base {s t : State} (w : Fin 4) {v : Word}
    (h : Say.csrSet.base s v w (fun f => some (modCurJob s f)) = some t) : CsrStored s (0x050 + 2 * w) v t := by
  obtain ⟨⟨hlow, hhigh, hunmapped⟩, ht⟩ := Option.ite_none_right_eq_some.1 h
  rw [← Option.some.inj ht]
  refine csrStored_job (by fin_cases w <;> rfl) (fun _ => rfl) ?_
  rw [csrStore_base, hlow, hhigh, hunmapped]
  rfl

theorem csrStored_ctl {s : State} {v : Word} (hhigh : bitsOf v 5 59 = 0) (hmode : bitsOf v 0 3 ≤ 4)
    (hdet : bitOf v 4 = bitOf (curJob s).ctl 4) : CsrStored s 0x000 v (modCurJob s fun j => { j with ctl := v }) := by
  refine csrStored_job rfl (fun _ => rfl) ?_
  rw [csrStore_ctl, beq_iff_eq.2 hhigh, decide_eq_true hmode, beq_iff_eq.2 hdet]
  rfl

theorem csrStored_cause (s : State) {v : Word} (h : bitsOf v 11 53 = 0) :
    CsrStored s 0x010 v (setTrap s fun t => { t with cause := (v &&& ~~~0x200) ||| (t.cause &&& 0x200) }) := by
  refine csrStored_trap rfl (fun r => bitOf_active v r.cause) ?_
  rw [csrStore_cause, h]
  rfl

theorem csrStored_pc (s : State) {v : Word} (h : v.toNat % 4 = 0) :
    CsrStored s 0x011 v (setTrap s fun t => { t with pc := v }) := by
  refine csrStored_trap rfl (fun _ => rfl) ?_
  rw [csrStore_pc, h]
  rfl

theorem csrStored_vec (s : State) {v : Word} (h : v.toNat % 4 = 0) :
    CsrStored s 0x01A v (setTrap s fun t => { t with vec := v }) := by
  refine csrStored_trap rfl (fun _ => rfl) ?_
  rw [csrStore_vec, h]
  rfl

theorem csrStored_addr (s : State) (v : Word) : CsrStored s 0x018 v (setTrap s fun t => { t with addr := v }) :=
  csrStored_trap rfl (fun _ => rfl) rfl

theorem csrStored_token (s : State) (v : Word) : CsrStored s 0x019 v (setTrap s fun t => { t with token := v }) :=
  csrStored_trap rfl (fun _ => rfl) rfl

theorem csrStored_waittmo (s : State) (v : Word) : CsrStored s 0x030 v (modCurJob s fun j => { j with waittmo := v }) :=
  csrStored_job rfl (fun _ => rfl) rfl

theorem csrStored_of_csrSet {s t : State} {n : Nat} {v : Word} (h : Say.csrSet s n v = some t) : CsrStored s n v t := by
  unfold Say.csrSet at h
  dsimp only at h
  split at h
  case h_1 =>
    obtain ⟨⟨hhigh, hmode, hdet⟩, ht⟩ := Option.ite_none_right_eq_some.1 h
    exact Option.some.inj ht ▸ csrStored_ctl hhigh hmode hdet
  case h_2 =>
    obtain ⟨hhigh, ht⟩ := Option.ite_none_right_eq_some.1 h
    exact Option.some.inj ht ▸ csrStored_cause s hhigh
  case h_3 =>
    obtain ⟨haligned, ht⟩ := Option.ite_none_right_eq_some.1 h
    exact Option.some.inj ht ▸ csrStored_pc s haligned
  case h_4 => exact Option.some.inj h ▸ csrStored_word s 0 v
  case h_5 => exact Option.some.inj h ▸ csrStored_word s 1 v
  case h_6 => exact Option.some.inj h ▸ csrStored_word s 2 v
  case h_7 => exact Option.some.inj h ▸ csrStored_word s 3 v
  case h_8 => exact Option.some.inj h ▸ csrStored_word s 4 v
  case h_9 => exact Option.some.inj h ▸ csrStored_word s 5 v
  case h_10 => exact Option.some.inj h ▸ csrStored_addr s v
  case h_11 => exact Option.some.inj h ▸ csrStored_token s v
  case h_12 =>
    obtain ⟨haligned, ht⟩ := Option.ite_none_right_eq_some.1 h
    exact Option.some.inj ht ▸ csrStored_vec s haligned
  case h_13 => exact Option.some.inj h ▸ csrStored_waittmo s v
  case h_14 => exact csrStored_base 0 h
  case h_15 => exact csrStored_base 1 h
  case h_16 => exact csrStored_base 2 h
  case h_17 => exact csrStored_base 3 h
  case h_18 => cases h

/-! What they refuse. -/

/-- A CSR whose rules refuse a store: jobs only read it, or the store takes the cause. -/
theorem csrStore_refuses {s : State} {n : Nat} {v : Word} {e : Cause} (h : Say.CsrRefuses s n v e) :
    (csrWritable n = false ∧ e = .priv) ∨ (csrWritable n = true ∧ csrStore s n v = .error (.trap e 0 0)) := by
  cases h with
  | readOnly n v hn =>
    have hall : ∀ n ∈ Say.readOnlyCsrs, csrWritable n = false := by decide
    exact .inl ⟨hall n hn, rfl⟩
  | ctl v hv =>
    have hbad : (bitsOf v 5 59 == 0 && decide (bitsOf v 0 3 ≤ 4)) = false := by
      rcases hv with hv | hv
      · rw [beq_eq_false_iff_ne.2 hv, Bool.false_and]
      · rw [decide_eq_false (Nat.not_le_of_lt hv), Bool.and_false]
    refine .inr ⟨rfl, ?_⟩
    rw [csrStore_ctl, hbad]
    rfl
  | det v hhigh hmode hdet =>
    refine .inr ⟨rfl, ?_⟩
    rw [csrStore_ctl, beq_iff_eq.2 hhigh, decide_eq_true hmode, beq_eq_false_iff_ne.2 hdet]
    rfl
  | trcause v hv =>
    refine .inr ⟨rfl, ?_⟩
    rw [csrStore_cause, beq_eq_false_iff_ne.2 hv]
    rfl
  | trpc v hv =>
    refine .inr ⟨rfl, ?_⟩
    rw [csrStore_pc, beq_eq_false_iff_ne.2 hv]
    rfl
  | trvec v hv =>
    refine .inr ⟨rfl, ?_⟩
    rw [csrStore_vec, beq_eq_false_iff_ne.2 hv]
    rfl
  | baseBits w v hv =>
    have hbad : (bitsOf v 0 12 == 0 && bitsOf v 48 16 == 0) = false := by
      rcases hv with hv | hv
      · rw [beq_eq_false_iff_ne.2 hv, Bool.false_and]
      · rw [beq_eq_false_iff_ne.2 hv, Bool.and_false]
    refine .inr ⟨by fin_cases w <;> rfl, ?_⟩
    rw [csrStore_base, hbad]
    rfl
  | baseMapped w v hlow hhigh hmapped =>
    refine .inr ⟨by fin_cases w <;> rfl, ?_⟩
    rw [csrStore_base, beq_iff_eq.2 hlow, beq_iff_eq.2 hhigh, beq_eq_false_iff_ne.2 hmapped]
    rfl
  | sizeBits w v hv =>
    refine .inr ⟨by fin_cases w <;> rfl, ?_⟩
    rw [csrStore_size, Bool.eq_false_iff.2 (mt (stashSizeOk_iff v).1 hv)]
    rfl
  | sizeMaps w v hsize hne hrefused =>
    refine .inr ⟨by fin_cases w <;> rfl, ?_⟩
    rw [csrStore_size, (stashSizeOk_iff v).2 hsize, beq_eq_false_iff_ne.2 hne,
      Bool.eq_false_iff.2 (mt (mapOk_iff s w v).1 hrefused)]
    rfl

/-! ### CSRW, CSRS and CSRC (R86) -/

theorem csrStored_size {s : State} (w : Fin 4) {v : Word} (hsize : Say.SizeWord v)
    (hmap : bitsOf v 0 20 = 0 ∨ Say.Mappable s w v) : CsrStored s (0x051 + 2 * w) v (writeStashSize s w v) := by
  refine ⟨by fin_cases w <;> rfl, ?_, fun m hq hp => ?_⟩
  · have hok : (bitsOf v 0 20 == 0 || mapOk s.cur.core (curJob s) w v) = true := by
      rw [Bool.or_eq_true, beq_iff_eq, mapOk_iff]
      exact hmap
    rw [csrStore_size, (stashSizeOk_iff v).2 hsize, hok]
    rfl
  · have hclear := (msOnly_clearWindow s s.cur.core (curJob s) w).frame.keeps hq hp
    exact hclear.trans (keeps_modCurJob _ m _ hclear.quiet hclear.plain fun _ => rfl)

/-- An access that reads a CSR into a register and writes it (R86). -/
structure CsrAccess (i : Instr) (d : Reg) (n : Nat) (v : Word) (s : State) : Prop where
  size : i.size = 4
  run : ∃ lacks body, exec i s = issue i allStrms none lacks body s ∧ lacks s = !csrWritable n
    ∧ body s = csrUpdate s d n fun _ => v

/-- It gives what the CSR held, and stores what its rules accept. -/
theorem CsrAccess.stores {i : Instr} {d : Reg} {n : Nat} {v : Word} {s t : State} (h : CsrAccess i d n v s)
    (hready : ready s 4 none = true) (ht : CsrStored s n v t) :
    exec i s = .next (retire 4 (wr (dropEarly t s.cur (· == .csr n)) d (csrNow s n))) := by
  obtain ⟨hq, hp, -⟩ := (ready_iff _ _ _).1 hready
  obtain ⟨lacks, body, hrun, hlacks, hbody⟩ := h.run
  have hstore := ht.keeps 4 hq hp
  have hdrop := (msOnly_dropEarly t s.cur (· == .csr n)).frame.keeps hstore.quiet hstore.plain
  have hkeeps := (hstore.trans hdrop).trans (keeps_wr _ 4 d (csrNow s n) hdrop.quiet hdrop.plain)
  have hdone : body s = .ok (.next (wr (dropEarly t s.cur (· == .csr n)) d (csrNow s n))) := by
    rw [hbody, csrUpdate, csrWrite, ht.store, ← hstore.cur]
    rfl
  rw [hrun]
  rw [← h.size] at hp hkeeps ⊢
  exact issue_next i _ none _ _ s _ hq hp (allStrms_contains _) (by rw [hlacks, ht.writable]; rfl) rfl hdone hkeeps

/-- Where they refuse the store, it takes their cause. -/
theorem CsrAccess.refuses {i : Instr} {d : Reg} {n : Nat} {v : Word} {s : State} (h : CsrAccess i d n v s)
    (hready : ready s 4 none = true) {e : Cause} (he : Say.CsrRefuses s n v e) : exec i s = .next (trapNow s i e 0 0) := by
  obtain ⟨-, hp, -⟩ := (ready_iff _ _ _).1 hready
  obtain ⟨lacks, body, hrun, hlacks, hbody⟩ := h.run
  rw [← h.size] at hp
  rw [hrun]
  rcases csrStore_refuses he with ⟨hwritable, rfl⟩ | ⟨hwritable, hstore⟩
  · exact issue_priv i _ none _ _ s hp (allStrms_contains _) (by rw [hlacks, hwritable]; rfl)
  · have hfail : body s = .error (.trap e 0 0) := by
      rw [hbody, csrUpdate, csrWrite, hstore]
      rfl
    exact issue_trap i _ none _ _ s hp (allStrms_contains _) (by rw [hlacks, hwritable]; rfl) rfl _ _ _ hfail

theorem CsrAccess.put {i : Instr} {d : Reg} {n : Nat} {v : Word} {s : State} (h : CsrAccess i d n v s)
    (hready : ready s 4 none = true) :
    (∀ t, Say.csrSet s n v = some t →
        exec i s = .next (retire 4 (wr (dropEarly t s.cur (· == .csr n)) d (csrNow s n))))
      ∧ (∀ e, Say.CsrRefuses s n v e → exec i s = .next (trapNow s i e 0 0))
      ∧ ∀ w : Fin 4, n = 0x051 + 2 * w → Say.SizeWord v → bitsOf v 0 20 = 0 ∨ Say.Mappable s w v →
        ∃ t, exec i s = .next (retire 4 (wr t d (csrNow s n))) ∧ Say.Remapped s t w v := by
  refine ⟨fun t ht => h.stores hready (csrStored_of_csrSet ht), fun e he => h.refuses hready he,
    fun w hn hsize hmap => ?_⟩
  subst hn
  obtain ⟨hq, -, -⟩ := (ready_iff _ _ _).1 hready
  exact ⟨_, h.stores hready (csrStored_size w hsize hmap), remapped_dropEarly (remapped_writeStashSize (quiet_job hq) w v) ..⟩

theorem csrAccess_csrw (c : BitVec 12) (a : Reg) (s : State) : CsrAccess (.csrw c a) 0 c.toNat (rd s a) s :=
  ⟨rfl, fun _ => !csrWritable c.toNat, fun s => csrUpdate s 0 c.toNat fun _ => rd s a, rfl, rfl, rfl⟩

/-- CSRS and CSRC access their CSR where they name a register other than s0. -/
theorem csrAccess_csrBits {i : Instr} {d a : Reg} {c : BitVec 12} {f : Word → Word → Word} {s : State} (hsize : i.size = 4)
    (hrun : exec i s = csrBits i d a c f s) (ha : a ≠ 0) : CsrAccess i d c.toNat (f (csrNow s c.toNat) (rd s a)) s := by
  refine ⟨hsize, _, _, hrun, ?_, (if_neg ha).trans ?_⟩
  · rw [bne_iff_ne.2 ha, Bool.true_and]
  · rfl

/-- With s0 they only read it. -/
theorem csrBits_zero {i : Instr} {d : Reg} {c : BitVec 12} {f : Word → Word → Word} {s : State} (hsize : i.size = 4)
    (hrun : exec i s = csrBits i d 0 c f s) (hready : ready s 4 none = true) :
    exec i s = .next (retire 4 (wr s d (csrRead s c.toNat))) := by
  obtain ⟨hq, hp, -⟩ := (ready_iff _ _ _).1 hready
  rw [hrun]
  rw [← hsize] at hp ⊢
  exact issue_next i _ none _ _ s _ hq hp (allStrms_contains _) rfl rfl (if_pos rfl) (keeps_wr s _ d _ hq hp)

theorem csrWrites_holds : Say.CsrWrites := fun s _ a c hready =>
  ⟨(csrAccess_csrw c a s).put hready,
    fun ha => ⟨(csrAccess_csrBits (f := fun x y => x ||| y) rfl rfl ha).put hready,
      (csrAccess_csrBits (f := fun x y => x &&& ~~~y) rfl rfl ha).put hready⟩,
    csrBits_zero (f := fun x y => x ||| y) rfl rfl hready, csrBits_zero (f := fun x y => x &&& ~~~y) rfl rfl hready⟩

/-- Settles O45: the CSR accesses by what each CSR's store accepts and refuses, the windows by R96's cases and the lines
written back. -/
theorem controlRegisters : Obligations.ControlRegisters := ⟨csrWrites_holds, stashWindows_holds⟩

end Sys2Proof.Proofs
end

section
/-! PROOFS. A line load beside a queue that holds more than its 8 entries (R140, R141, R306). -/

namespace Sys2Proof.Proofs
open Sys2Proof Sys2Proof.Machine

/-- VLD of the line at job offset 0 to row 0, under the tag of format 1 and gain 0. -/
def lineLoad : VOp := { roundedAbs with D := Say.at_ 0, A := .scalar 0 false, B := .imm 1 }

/-- The load waits on q0, though none of its operands is a queue. -/
theorem exec_vld_longQueue : leavesWait (exec (.vld lineLoad) longQueue) = true := by decide +kernel

/-- A stream that has completed an instruction waits on nothing. -/
theorem leavesWait_retire {s : State} (n : Nat) (h : (Tab.get? s.strs (hartKey s.cur)).isSome = true) :
    leavesWait (.next (retire n s)) = false := by
  rw [leavesWait, curStream_retire n h]
  rfl

/-- Refutes O49: `VectorMemory` does not ask that the queues hold at most 8 entries, and a longer queue counts as short
of room for every instruction (`shortQueues`, R141). The counterexample is a VLD of the first line of the grant, with q0
at 9 entries: it waits on q0 and does not complete. -/
theorem not_vectorConversions : ¬ Obligations.VectorConversions := by
  unfold Obligations.VectorConversions
  rintro ⟨-, h⟩
  have hdone := ((h longQueue lineLoad 0 0 0 1 zeroRow zeroRow oneStep_longQueue rfl rfl row_longQueue
    row_longQueue (by decide +kernel) (by decide +kernel) rfl).1 rfl rfl rfl (by decide +kernel)).1 0 (by decide +kernel)
    (by decide +kernel) (by decide +kernel)
  have hwait := exec_vld_longQueue
  rw [hdone, leavesWait_retire 12 rfl] at hwait
  exact absurd hwait (by decide)

end Sys2Proof.Proofs
end

section
/-! PROOFS. The first access to a line of a stash window, where late writes of the line through both views wait
(R97, R102, R105). -/

namespace Sys2Proof.Proofs
open Sys2Proof Sys2Proof.Machine

/-- A job whose window 3 holds two lines of memory from 0x200000 on, at job offset 0x1000. -/
def windowJob : Job :=
  { probeJob with stashBase := probeJob.stashBase.set 3 0x200000, stashSize := probeJob.stashSize.set 3 0x1000000200 }

/-- Two writes of the window's first granule by a job of core 100, through the uncompressed and then the compressed view.
No release has performed the first; the second has been performed at device scope. -/
def bothViews : List LateWrite :=
  [⟨0x40000, 7, 100, 5, 0, false, 0x55, false, 0, [], []⟩, ⟨0x40000, 7, 100, 5, 0, true, 0x77, false, 5, [], []⟩]

/-- The job's L-stream, s1 holding an address in the first line of the window, beside those writes. -/
def beforeFill : State :=
  wr { probe State.reset [] .l with
    cur := ⟨0, 0, .l⟩, jobs := [(0, windowJob)], ms := { (probe State.reset [] .l).ms with late := bothViews } } 1 0x200008

/-- The line in memory, and where the access leads. -/
def windowLine : Xl := ⟨0x200000, 0x200000, 0, false⟩

theorem address_beforeFill : rd beforeFill 1 + BitVec.signExtend 64 (0 : BitVec 13) = 0x200008 := by decide +kernel

theorem reaches_beforeFill {k : AccKind} {va : Word} {x : Xl}
    (h : translate beforeFill (curPart beforeFill) (curJob beforeFill).ids.pasid va k beforeFill.cur.core = .ok x)
    (hdevice : isHostPa x.pa = false) : Say.Reaches beforeFill k va x := ⟨x, h, .inl ⟨hdevice, rfl⟩⟩

theorem inWindow_beforeFill {k : AccKind} (hk : k = .read ∨ k = .write) :
    Say.InWindow beforeFill k 0x200008 8 3 0x1008 0x1000 windowLine where
  aligned := by decide
  noOps := by decide +kernel
  global := by decide
  lt := by decide
  mapped := by decide +kernel
  holds := by decide +kernel
  one := by decide +kernel
  line := by decide +kernel
  byte := by decide +kernel
  access := ⟨{ windowLine with pa := 0x200008, ipa := 0x200008 },
    reaches_beforeFill (by rcases hk with rfl | rfl <;> decide +kernel) (by decide)⟩
  source := reaches_beforeFill (by decide +kernel) (by decide)
  whole := by decide
  inOrder := rfl
  memory := by decide +kernel

/-- The byte of the scratchpads at the head of the line, after an outcome. -/
def lineHead : Result → Option Byte
  | .next t => some (Memory.byte t.ms.spad 0x1000)
  | _ => none

theorem lineHead_load : lineHead (exec (.ldd 3 1 0) beforeFill) = some 0 := by decide +kernel

theorem lineHead_store : lineHead (exec (.std 3 1 0) beforeFill) = some 0 := by decide +kernel

/-- What the job reads there before the access: the value from before the first write, which it does not see. -/
theorem readPa_beforeFill :
    (readPa beforeFill (curAgent beforeFill).view windowLine.cmp windowLine.pa 256).getD 0 0 = 0x55 := by decide +kernel

/-- Refutes O34: the fill of a stash line first notes that the job has read the line (`readSeen`, R105). That performs,
with the writes that the job has seen, the earlier ones of their granules, through whichever view. Where the job had seen
the late write of a granule through the compressed view alone, the line is filled with what an earlier write through the
other view has stored, and not with what the job read before. -/
theorem not_loads : ¬ Obligations.Loads := by
  unfold Obligations.Loads
  rintro ⟨-, h, -⟩
  obtain ⟨u, hexec, hbytes, -⟩ := (h (.ldd 3 1 0) beforeFill none 3 0x200008 8 false none 3 0x1008 0x1000 windowLine
    (by rw [Say.loadForm, address_beforeFill]) (by decide +kernel) (inWindow_beforeFill (.inl rfl))).2 (by decide +kernel) (by decide +kernel)
  have hhead := lineHead_load
  have hread := readPa_beforeFill
  rw [← hbytes] at hread
  rw [hexec] at hhead
  exact absurd (hread.symm.trans (Option.some.inj hhead)) (by decide)

/-- Refutes O35: a store fills its line as a load does, so that the bytes beside those it writes are not what the job read
before either. -/
theorem not_stores : ¬ Obligations.Stores := by
  unfold Obligations.Stores
  rintro ⟨-, h, -⟩
  obtain ⟨u, hexec, -, hbeside, -⟩ := h (.std 3 1 0) beforeFill none 3 0x200008 8 none 3 0x1008 0x1000 windowLine
    (by rw [Say.storeForm, address_beforeFill]) (by decide +kernel) (inWindow_beforeFill (.inr rfl)) rfl rfl
  have hwas := hbeside 0x1000 (by decide) (by decide) (.inl (by decide))
  beta_reduce at hwas
  rw [if_neg (by decide +kernel)] at hwas
  have hhead := lineHead_store
  rw [hexec] at hhead
  exact absurd ((readPa_beforeFill.symm.trans hwas.symm).trans (Option.some.inj hhead)) (by decide)

end Sys2Proof.Proofs
end

section
/-! PROOFS. The binding table (R107, R181). -/

namespace Sys2Proof.Proofs
open Sys2Proof Sys2Proof.Machine

/-! ### Instructions that any stream may issue (R42) -/

section
variable {i : Instr} {g : Option Guard} {body : State → Exec Effect} {s : State} {r : Result}

/-- The state after the body is what the instruction leaves, once it is retired. -/
theorem any_next (hexec : r = issue i allStrms g free body s) (hsize : i.size = 4) (hready : ready s 4 g = true)
    {t : State} (hbody : body s = .ok (.next t)) (hk : Keeps s t 4) : r = .next (retire 4 t) := by
  obtain ⟨hq, hp, hg⟩ := (ready_iff _ _ _).1 hready
  rw [← hsize] at hp hk ⊢
  rw [hexec]
  exact issue_next i _ g _ _ s t hq hp (allStrms_contains _) rfl hg hbody hk

/-- An instruction that always completes. -/
theorem any_simple {f : State → State} (hsize : i.size = 4) (hready : ready s 4 g = true) (hk : Keeps s (f s) 4) :
    simple i g f s = .next (retire 4 (f s)) :=
  any_next rfl hsize hready rfl hk

/-- A first part done, its stream is blocked in the second. -/
theorem any_stay (hexec : r = issue i allStrms g free body s) (hsize : i.size = 4) (hready : ready s 4 g = true)
    {t : State} {k : WaitKind} (hbody : body s = .ok (.stay t k)) (hcur : t.cur = s.cur) : r = Say.blocked t k := by
  obtain ⟨-, hp, hg⟩ := (ready_iff _ _ _).1 hready
  rw [← hsize] at hp
  rw [hexec, issue_body i _ g _ _ s hp (allStrms_contains _) rfl hg, hbody, outcome, Say.blocked, hcur]

end

/-! ### BIND and UNBIND -/

/-- A region below 2^47 that shares no line with an entry of its PASID may be bound. -/
theorem bindFails_none {l : List Binding} {pasid : Nat} {base len : Word} (hlow : base.toNat + len.toNat ≤ 2 ^ 47)
    (hfree : ∀ x ∈ l, x.pasid = pasid →
      x.base.toNat + x.length.toNat ≤ base.toNat ∨ base.toNat + len.toNat ≤ x.base.toNat) :
    bindFails l pasid base len = none := by
  have hmeets : l.filter (fun x => bindingMeets x pasid base len) = [] := by
    rw [List.filter_eq_nil_iff]
    intro x hx hm
    simp only [bindingMeets, Bool.and_eq_true, beq_iff_eq, decide_eq_true_eq] at hm
    have := hfree x hx hm.1.1
    omega
  rw [bindFails, if_pos hlow, hmeets]
  rfl

/-- The first entry that is equal goes. -/
theorem unbindFrom_append {x : Binding} (l r : List Binding) (h : x ∉ l) : unbindFrom x (l ++ x :: r) = l ++ r := by
  induction l with
  | nil => simp [unbindFrom]
  | cons y l ih =>
    simp only [List.mem_cons, not_or] at h
    rw [List.cons_append, unbindFrom, if_neg h.1, ih h.2, List.cons_append]

/-- A change of a partition's bindings is known by what it makes of the entries there. -/
theorem modPart_bindings {s : State} {p : Nat} {f : List Binding → List Binding} {l : List Binding}
    (h : f (getPart s p).bindings = l) :
    (modPart s p fun q => { q with bindings := f q.bindings }) = modPart s p fun q => { q with bindings := l } := by
  simp only [modPart, Tab.upd]
  rw [← h, getPart]

/-- Settles O10: BIND passes its checks where no part of the region is refused, and UNBIND removes the first equal entry. -/
theorem bindings : Obligations.Bindings := by
  unfold Obligations.Bindings
  intro s d a b hready
  obtain ⟨hq, hp, -⟩ := (ready_iff _ _ _).1 hready
  constructor
  · intro hobj hbase hlen hne hlow hfree hroom
    change execBind d a b s = _
    refine any_next rfl rfl hready ?_ (keeps_modPart s _ 4 _ (fun _ => rfl) hq hp)
    have hlen0 : (rd s d != 0) = true := bne_iff_ne.2 hne
    simp only [hobj, hbase, hlen, hlen0, bindFails_none hlow hfree, hroom, check, exec_ok_bind, beq_self_eq_true,
      Bool.and_self, Option.isNone_none, decide_true, if_true]
  · intro l r hl hfirst
    rw [← modPart_bindings (f := unbindFrom _) (hl ▸ unbindFrom_append l r hfirst)]
    change execUnbind d a b s = _
    exact any_simple rfl hready (keeps_modPart s _ 4 _ (fun _ => rfl) hq hp)

end Sys2Proof.Proofs
end

section
/-! PROOFS. The executing stream's access to a cell that nothing keeps it from (R171, R172). -/

namespace Sys2Proof.Proofs
open Sys2Proof Sys2Proof.Machine

/-! ### The agent of the executing stream -/

theorem seenJob_ids (s : State) (h : Hart) (j : Job) : (seenJob s h j).ids = j.ids := by unfold seenJob; split <;> rfl

@[simp] theorem curAgent_part (s : State) : (curAgent s).part = curPart s := congrArg (·.part) (seenJob_ids s s.cur _)

@[simp] theorem curAgent_pasid (s : State) : (curAgent s).pasid = (curJob s).ids.pasid :=
  congrArg (·.pasid) (seenJob_ids s s.cur _)

@[simp] theorem curAgent_jobid (s : State) : (curAgent s).jobid = (curJob s).ids.jobid :=
  congrArg (·.jobid) (seenJob_ids s s.cur _)

theorem curAgent_job (s : State) : (curAgent s).job = some (viewedJob s) := rfl

theorem curAgent_spad (s : State) (off n : Nat) :
    (curAgent s).spad off n = grantAddr s.cur.core (curJob s).grant off n :=
  congrArg (grantAddr s.cur.core · off n) (seenJob_grant s s.cur _)

theorem inSealed_curAgent {s : State} (h : (curJob s).sealedSet = []) (off n : Nat) :
    inSealed (curAgent s) off n = false := by
  show ((viewedJob s).sealedSet.any fun r => decide (off < r.1 + r.2) && decide (r.1 < off + n)) = false
  rw [viewedJob, seenJob_sealedSet, h]
  rfl

/-! ### Where an address leads (R171, R388, R395) -/

/-- No stash window of a job is mapped. -/
def Unmapped (j : Job) : Prop := ∀ w < 4, stashSizeOf j w = 0

theorem winOfVa_none {j : Job} (h : Unmapped j) (va : Nat) : winOfVa j va = none := by
  rw [winOfVa, Option.map_eq_none_iff, List.find?_eq_none]
  intro w hw
  simp [h w (List.mem_range.1 hw)]

theorem winOfOff_none {j : Job} (h : Unmapped j) (off : Nat) : winOfOff j off = none := by
  rw [winOfOff, Option.map_eq_none_iff, List.find?_eq_none]
  intro w hw
  simp [h w (List.mem_range.1 hw)]

theorem locate_spad {s : State} (h : Unmapped (viewedJob s)) {va : Word} (hva : inSpadWindow va = true) :
    locate (curAgent s) va = .spad (va.toNat - Config.spadWindow) none false := by
  simp only [locate, hva, if_true, curAgent_job, Option.bind_some, winOfOff_none h]

theorem locate_glob {s : State} (h : Unmapped (viewedJob s)) {va : Word} (hva : inSpadWindow va = false) :
    locate (curAgent s) va = .glob va := by
  simp only [locate, hva, Bool.false_eq_true, if_false, curAgent_job, Option.bind_some, winOfVa_none h]

/-- An address in device memory needs no translation of the host's. -/
theorem usesAts_device {s : State} {pa : Nat} (h : isHostPa pa = false) : usesAts s pa = false := by
  rw [usesAts, h, Bool.false_and]

theorem agentXl_reaches {s : State} {k : AccKind} {va : Word} {x : Xl} (h : Say.Reaches s k va x) :
    agentXl s (curAgent s) va k = .ok x := by
  obtain ⟨y, hy, ⟨hdev, rfl⟩ | ⟨hhost, hlink, hpage, rfl⟩⟩ := h
  all_goals rw [curPart] at *
  · rw [agentXl, curAgent_part, curAgent_pasid, curPart]
    rw [show (curAgent s).tlb = s.cur.core from rfl, hy]
    simp only [hdev, Bool.false_and, Bool.false_eq_true, if_false, hostPage, hostReach, usesAts_device hdev, Bool.not_false,
      Bool.true_or, if_true]
  · rw [agentXl, curAgent_part, curAgent_pasid, curPart]
    rw [show (curAgent s).tlb = s.cur.core from rfl, hy]
    simp only [hhost, hlink, hpage, Bool.not_true, Bool.and_false, Bool.false_eq_true, if_false]

/-! ### Operations that the access overlaps (R95, R161) -/

/-- The job of the executing stream holds no child operation. -/
def HoldsNone (s : State) : Prop := ∀ e ∈ (curCore s).tokens, e.2.holder ≠ some (curJob s).ids.jobid

theorem syncOverlap_none {s : State} (h : HoldsNone s) (ps : List FootPart) :
    syncOverlap s s.cur (curJob s).ids.jobid ps = none := by
  rw [syncOverlap, List.filter_eq_nil_iff.2 ?_, oldest, List.foldl_nil]
  intro e he
  simp [h e he]

theorem ownInFlight_none {s : State} (h : HoldsNone s) (ps : List FootPart) :
    ownInFlight s s.cur (curJob s).ids.jobid ps = false := by
  rw [ownInFlight, List.any_eq_false]
  intro e he
  simp [h e he]

theorem orderChecks_none {s : State} (h : HoldsNone s) (ps : List FootPart) (va : Word) (off : Nat) :
    orderChecks s ps va off = .ok () := by
  simp only [orderChecks, syncOverlap_none h, ite_self, ownInFlight_none h, waitFor, Bool.not_false, if_true]

/-! ### Poison (R172) -/

theorem mem_granules {a n g : Nat} : g ∈ granules a n ↔ n ≠ 0 ∧ a / 8 ≤ g ∧ g ≤ (a + n - 1) / 8 := by
  unfold granules
  split
  · simp [*]
  · simp only [List.mem_map, List.mem_range]
    constructor
    · rintro ⟨i, hi, rfl⟩
      omega
    · rintro ⟨-, hlo, hhi⟩
      exact ⟨g - a / 8, by omega, by omega⟩

/-- A part of a range has no granule beside those of the range. -/
theorem find_granules_part {p : Nat → Bool} {a n o m : Nat} (h : (granules a n).find? p = none) (hle : o + m ≤ n) :
    (granules (a + o) m).find? p = none := by
  rw [List.find?_eq_none] at *
  intro g hg
  obtain ⟨hm, hlo, hhi⟩ := mem_granules.1 hg
  exact h g (mem_granules.2 ⟨by omega, by omega, by omega⟩)

/-! ### The checks of a cell (R172) -/

/-- A cell that no stash window shows. -/
def IsDirect (c : Cell) : Prop := match c with | .spad _ win => win = none | .glob _ => True

/-- The rule of an instruction allows a cell there. -/
def Allows (r : CellRule) (c : Cell) : Prop := match c with | .spad .. => r.spadOk = true | .glob x => r.globOk x = true

/-- The bytes that an instruction reads in a cell hold no poison. -/
theorem readPoison_none {s : State} {k : AccKind} {va : Word} {n : Nat} {c : Cell} (h : Say.place s k va n c) {o m : Nat}
    (hle : o + m ≤ n) : readPoison s (curAgent s) c va (o, m) = .ok () := by
  obtain ⟨-, -, -, hcell⟩ := h
  cases c with
  | spad sp win =>
    obtain ⟨-, -, -, -, hpoison⟩ := hcell
    simp only [readPoison, show spadPoisonIn s (sp + o) m = none from find_granules_part hpoison hle]
  | glob x =>
    obtain ⟨-, -, hpoison⟩ := hcell
    simp only [readPoison, show poisonIn s (curAgent s).view (x.pa + o) m = none from find_granules_part hpoison hle]

theorem cellAt_place {s : State} {r : CellRule} {k : AccKind} {va : Word} {n : Nat} {c : Cell} (h : Say.place s k va n c)
    (hr : Allows r c) :
    cellAt s (curAgent s) r k va n = .ok c := by
  obtain ⟨-, -, hwin, hcell⟩ := h
  cases c with
  | spad sp win =>
    obtain ⟨rfl, hva, -, hgrant, -⟩ := hcell
    rw [cellAt, locate_spad hwin hva]
    have hr : r.spadOk = true := hr
    simp only [curAgent_spad, hgrant, hr, Bool.false_eq_true, if_false, if_true]
  | glob x =>
    obtain ⟨hva, hreach, -⟩ := hcell
    rw [cellAt, locate_glob hwin hva]
    have hr : r.globOk x = true := hr
    simp only [agentXl_reaches hreach, hr, if_true]

/-- An access that nothing stops passes its checks; what they leave is that the stream has accessed the cell. -/
theorem cellChecks_place {s : State} {r : CellRule} {k : AccKind} {va : Word} {n : Nat} {c : Cell} (h : Say.place s k va n c)
    (hr : Allows r c) (writes : Bool) {o m : Nat}
    (hle : o + m ≤ n) : cellChecks s r k va n n writes (o, m) = .ok (Say.accessed s c n, c) := by
  have hat := cellAt_place h hr
  have hpoison := readPoison_none h hle
  obtain ⟨halign, hops, hwin, hcell⟩ := h
  rw [cellChecks, hat]
  cases c with
  | spad sp win =>
    obtain ⟨rfl, -, hsealed, -, -⟩ := hcell
    simp only [halign, check, beq_self_eq_true, if_true, exec_ok_bind, liftAcc, fillRange, inSealed_curAgent hsealed,
      Bool.and_false, Bool.not_false, orderChecks_none hops, hpoison, Say.accessed]
  | glob x =>
    simp only [halign, check, beq_self_eq_true, if_true, exec_ok_bind, liftAcc, orderChecks_none hops, hpoison, Say.accessed]

theorem direct_of_place {s : State} {k : AccKind} {va : Word} {n : Nat} {c : Cell} (h : Say.place s k va n c) :
    IsDirect c := by
  obtain ⟨-, -, -, hcell⟩ := h
  cases c with
  | spad sp win => exact hcell.1
  | glob x => trivial

/-! ### What a synchronisation instruction leaves as it was -/

theorem msOnly_accessed (s : State) (c : Cell) (n : Nat) : MsOnly s (Say.accessed s c n) := by
  cases c with
  | spad sp win => exact msOnly_dropEarly ..
  | glob x => exact (msOnly_readSeen ..).trans (msOnly_dropEarly ..)

theorem msOnly_atomicSide (s : State) (scope : Nat) : MsOnly s (atomicSide s scope) :=
  .ite (msOnly_earlyCure ..) (.refl s)

theorem msOnly_acquired (s : State) (q : ScopeAcq) : MsOnly s (Say.acquired s q) :=
  .ite (msOnly_acquireSide ..) (.refl s)

theorem msOnly_releaseObject (s : State) (scope : Nat) (o : Word) : MsOnly s (releaseObject s scope o) :=
  (msOnly_earlyCure ..).trans (msOnly_publish ..)

theorem msOnly_acquireObject (s : State) (scope : Nat) (o : Word) : MsOnly s (acquireObject s scope o) := by
  unfold acquireObject
  exact MsOnly.trans (.ite (.refl s) (msOnly_modMs s _)) (msOnly_acquirePlaces ..)

/-- A write of a stream in a cell, in a partition that the chalk line does not compare. -/
theorem msOnly_cellWrite {s t : State} {c : Cell} (hc : IsDirect c) (hq : quiet s = true) (hpart : curPart t = curPart s)
    (o : Nat) (bs : List Byte) : MsOnly s (cellWrite s (curAgent t) c o bs) := by
  have hchalk : chalked s (curAgent t).part = false := by
    rw [curAgent_part, hpart]
    exact ((quiet_iff s).1 hq).2.2.2.2.2.2
  cases c with
  | spad sp win =>
    obtain rfl : win = none := hc
    exact (msOnly_writeSpad ..).trans (msOnly_dropEarly ..)
  | glob x =>
    have hnote : noteBy s (curAgent t) x.ipa x.pa = s := by
      show noteWrite s _ _ _ _ = s
      rw [noteWrite, hchalk]
      rfl
    rw [cellWrite, hnote]
    exact msOnly_writePa ..

end Sys2Proof.Proofs
end

section
/-! PROOFS. What the operations on memory leave of the buffers beside it, and of whose the wet granules are. -/

namespace Sys2Proof.Proofs
open Sys2Proof Sys2Proof.Machine

/-! ### Cured writes leave the buffers as they are, and each wet granule to its job (R94, R115, R122) -/

/-- The write-combining buffers and the buffered ordered updates are as they were, and each wet granule is of the job that
it was of. -/
structure KeepsBuffers (s t : State) : Prop where
  wc : t.ms.wc = s.ms.wc
  amoq : t.ms.amoq = s.ms.amoq
  jobs : t.ms.wet.map WetGranule.job = s.ms.wet.map WetGranule.job

theorem KeepsBuffers.refl (s : State) : KeepsBuffers s s := ⟨rfl, rfl, rfl⟩

theorem KeepsBuffers.trans {s t u : State} (a : KeepsBuffers s t) (b : KeepsBuffers t u) : KeepsBuffers s u :=
  ⟨b.wc.trans a.wc, b.amoq.trans a.amoq, b.jobs.trans a.jobs⟩

theorem KeepsBuffers.ite {s t u : State} {c : Prop} [Decidable c] (a : KeepsBuffers s t) (b : KeepsBuffers s u) :
    KeepsBuffers s (if c then t else u) := by
  split
  · exact a
  · exact b

theorem keepsBuffers_foldl {α : Type} (f : State → α → State) (hf : ∀ s x, KeepsBuffers s (f s x)) (l : List α) (s : State) :
    KeepsBuffers s (l.foldl f s) :=
  foldl_keeps (KeepsBuffers s) f (fun t x h => h.trans (hf t x)) l s (.refl s)

/-- Wet granules are changed in place, each in its job. -/
theorem map_job_update (l : List WetGranule) (p : WetGranule → Prop) [DecidablePred p] (f : WetGranule → WetGranule)
    (hf : ∀ w, (f w).job = w.job) :
    (l.map fun w => if p w then f w else w).map WetGranule.job = l.map WetGranule.job := by
  rw [List.map_map]
  refine List.map_congr_left fun w _ => ?_
  rw [Function.comp_apply]
  split
  · exact hf w
  · rfl

theorem keepsBuffers_noteOld (s : State) (jobs : List Nat) (g : Nat) (a b : Granule) :
    KeepsBuffers s (noteOld s jobs g a b) := .ite (.refl s) ⟨rfl, rfl, rfl⟩

theorem keepsBuffers_writeGranule (s : State) (own : Option Nat) (cmp : Bool) (g o : Nat) (bs : List Byte) :
    KeepsBuffers s (writeGranule s own cmp g o bs) := by
  unfold writeGranule
  extract_lets old s1 s2 s3
  have h1 : KeepsBuffers s s1 := keepsBuffers_noteOld ..
  have h2 : KeepsBuffers s1 s2 := by
    dsimp only [s2]
    split
    · exact keepsBuffers_noteOld ..
    · exact .refl s1
  have h3 : KeepsBuffers s2 s3 := .ite ⟨rfl, rfl, rfl⟩ ⟨rfl, rfl, rfl⟩
  refine ((h1.trans h2).trans h3).trans ⟨rfl, rfl, ?_⟩
  cases own with
  | none => rfl
  | some j => exact map_job_update _ _ _ fun _ => rfl

theorem keepsBuffers_writePa (s : State) (who : Nat × Nat) (own : Option Nat) (cmp : Bool) (pa : Nat) (bs : List Byte)
    (keep : Option StashLine) : KeepsBuffers s (writePa s who own cmp pa bs keep) := by
  unfold writePa
  have hmissed : KeepsBuffers s (noteMissed s who pa bs.length) := .ite (.refl s) ⟨rfl, rfl, rfl⟩
  exact (hmissed.trans (keepsBuffers_foldl _ (fun _ _ => keepsBuffers_writeGranule ..) _ _)).trans ⟨rfl, rfl, rfl⟩

theorem keepsBuffers_dropEarly (s : State) (h : Hart) (sel : EarlyPlace → Bool) : KeepsBuffers s (dropEarly s h sel) :=
  .ite (.refl s) ⟨rfl, rfl, rfl⟩

theorem keepsBuffers_readSeen (s : State) (v : Viewer) (pa n : Nat) : KeepsBuffers s (readSeen s v pa n) :=
  .ite (.refl s) ⟨rfl, rfl, rfl⟩

theorem keepsBuffers_accessed (s : State) (c : Cell) (n : Nat) : KeepsBuffers s (Say.accessed s c n) := by
  cases c with
  | spad sp win => exact keepsBuffers_dropEarly ..
  | glob x => exact (keepsBuffers_readSeen ..).trans (keepsBuffers_dropEarly ..)

theorem keepsBuffers_cellNow (s : State) (c : Cell) (n : Nat) : KeepsBuffers s (cellNow s c n) := by
  cases c with
  | spad sp win => exact .refl s
  | glob x => exact keepsBuffers_foldl arrive1 (fun _ _ => ⟨rfl, rfl, rfl⟩) _ s

theorem keepsBuffers_publish (s : State) (scope : Nat) (sel : LateWrite → Bool) : KeepsBuffers s (publish s scope sel) :=
  .ite (.refl s) ⟨rfl, rfl, rfl⟩

theorem keepsBuffers_finishStores (s : State) (sel : Hart → Bool) : KeepsBuffers s (finishStores s sel) := by
  have hwritten := keepsBuffers_foldl (fun s (b : LateStore) => writeSpad s b.addr b.bytes) (fun _ _ => ⟨rfl, rfl, rfl⟩)
    (s.ms.begun.filter fun b => sel b.hart) (modMs s fun m => { m with begun := m.begun.filter fun b => !sel b.hart })
  exact .ite (.refl s) ⟨hwritten.wc, hwritten.amoq, hwritten.jobs⟩

theorem keepsBuffers_poisonGranule (s : State) (jobid g : Nat) : KeepsBuffers s (poisonGranule s jobid g) :=
  ⟨rfl, rfl, map_job_update _ _ _ fun _ => rfl⟩

theorem keepsBuffers_writeBackLine (s : State) (core : Nat) (j : Job) (l : StashLine) :
    KeepsBuffers s (writeBackLine s core j l) := by
  unfold writeBackLine
  split
  · exact .refl s
  · refine (keepsBuffers_foldl _ (fun t g => ?_) _ s).trans ⟨rfl, rfl, rfl⟩
    exact .ite (.ite ((keepsBuffers_writePa ..).trans (keepsBuffers_poisonGranule ..)) (keepsBuffers_writePa ..)) (.refl t)

theorem keepsBuffers_stashWriteBack (s : State) (core : Nat) (j : Job) : KeepsBuffers s (stashWriteBack s core j) :=
  (keepsBuffers_finishStores ..).trans (keepsBuffers_foldl _ (fun _ _ => keepsBuffers_writeBackLine ..) _ _)

/-! ### Buffered stores and wet versions are performed (R94, R113) -/

/-- But for the job's wet granules, which are written, a cure leaves everything of these. -/
theorem keepsBuffers_cure (s : State) (jobid : Nat) :
    KeepsBuffers (modMs s fun m => { m with wet := m.wet.filter fun w => w.job != jobid }) (cure s jobid) := by
  refine keepsBuffers_foldl _ (fun t w => ?_) _ _
  extract_lets a b
  have ha : KeepsBuffers t a := (keepsBuffers_writePa ..).trans (.ite ⟨rfl, rfl, rfl⟩ (.refl _))
  have hb : KeepsBuffers a b := .ite ⟨rfl, rfl, rfl⟩ (.refl a)
  exact (ha.trans hb).trans (.ite ⟨rfl, rfl, rfl⟩ (.refl b))

theorem buffers_writeWet (s : State) (w : WetWriter) (cmp : Bool) (pa : Nat) (bs : List Byte) :
    (writeWet s w cmp pa bs).ms.wc = s.ms.wc ∧ (writeWet s w cmp pa bs).ms.amoq = s.ms.amoq := by
  refine foldl_keeps (fun t : State => t.ms.wc = s.ms.wc ∧ t.ms.amoq = s.ms.amoq) _ (fun t g ht => ?_) _ s ⟨rfl, rfl⟩
  have hnoted := fun js a b => keepsBuffers_noteOld t js g a b
  exact ⟨(hnoted ..).wc.trans ht.1, (hnoted ..).amoq.trans ht.2⟩

theorem buffers_performWc (s : State) (w : WcStore) :
    (performWc s w).ms.wc = s.ms.wc ∧ (performWc s w).ms.amoq = s.ms.amoq :=
  ⟨(keepsBuffers_dropEarly ..).wc.trans (buffers_writeWet ..).1, (keepsBuffers_dropEarly ..).amoq.trans (buffers_writeWet ..).2⟩

theorem buffers_flushWc (s : State) (core : Nat) :
    (flushWc s core).ms.wc = (s.ms.wc.filter fun w => w.hart.core != core) ∧ (flushWc s core).ms.amoq = s.ms.amoq :=
  foldl_keeps (fun t : State => t.ms.wc = (s.ms.wc.filter fun w => w.hart.core != core) ∧ t.ms.amoq = s.ms.amoq) performWc
    (fun t w ht => ⟨(buffers_performWc t w).1.trans ht.1, (buffers_performWc t w).2.trans ht.2⟩) _ _ ⟨rfl, rfl⟩

/-- What a release does once the buffered stores are performed and the wet granules cured leaves those buffers. -/
theorem keepsBuffers_earlyCure (s : State) (scope : Nat) :
    KeepsBuffers (cure (flushWc s s.cur.core) (curJob s).ids.jobid) (earlyCure s scope) := by
  have hjob : curJob (flushWc s s.cur.core) = curJob s := (msOnly_flushWc ..).frame.curJob
  unfold earlyCure
  dsimp only
  rw [hjob]
  exact .ite (keepsBuffers_stashWriteBack ..) (.refl _)

/-- What comes before a release performs the core's buffered stores, and no others. -/
theorem wc_earlyCure (s : State) (scope : Nat) :
    (earlyCure s scope).ms.wc = s.ms.wc.filter fun w => w.hart.core != s.cur.core :=
  ((keepsBuffers_earlyCure ..).wc.trans (keepsBuffers_cure ..).wc).trans (buffers_flushWc ..).1

theorem amoq_earlyCure (s : State) (scope : Nat) : (earlyCure s scope).ms.amoq = s.ms.amoq :=
  ((keepsBuffers_earlyCure ..).amoq.trans (keepsBuffers_cure ..).amoq).trans (buffers_flushWc ..).2

/-- No granule of the job is wet after what comes before a release. -/
theorem not_wet_of_earlyCure (s : State) (scope : Nat) : ∀ w ∈ (earlyCure s scope).ms.wet, w.job ≠ (curJob s).ids.jobid := by
  intro w hw
  have hjob := List.mem_map_of_mem (f := WetGranule.job) hw
  rw [(keepsBuffers_earlyCure s scope).jobs, List.mem_map] at hjob
  obtain ⟨x, hx, hxw⟩ := hjob
  exact hxw ▸ not_wet_of_cure _ _ x hx

theorem amoq_atomicSide (s : State) (scope : Nat) : (atomicSide s scope).ms.amoq = s.ms.amoq := by
  unfold atomicSide
  split
  · exact amoq_earlyCure ..
  · rfl

end Sys2Proof.Proofs
end

section
/-! PROOFS. Atomics: read-modify-write of a cell, and ordered updates (R111, R122, R176 to R178). -/

namespace Sys2Proof.Proofs
open Sys2Proof Sys2Proof.Machine

/-! ### Read-modify-write -/

theorem early_cellNow (s : State) (c : Cell) (n : Nat) : (cellNow s c n).ms.early = s.ms.early := by
  cases c with
  | spad sp win => rfl
  | glob x => exact foldl_keeps (fun t : State => t.ms.early = s.ms.early) arrive1 (fun _ _ h => h) _ s rfl

/-- The agent of the executing stream is known by what the stream has read early, beside its stream and its job. -/
theorem ExecFrame.curAgent {s t : State} (h : ExecFrame s t) (hearly : t.ms.early = s.ms.early) :
    curAgent t = curAgent s := by
  simp only [Machine.curAgent, agentOf, seenJob, csrSeen, earlyAt, getJob, getStream, h.cur, h.strs, h.jobs, hearly]

theorem curAgent_cellNow (s : State) (c : Cell) (n : Nat) : curAgent (cellNow s c n) = curAgent s :=
  (msOnly_cellNow s c n).frame.curAgent (early_cellNow s c n)

theorem allows_spadOrWb {c : Cell} (h : Say.isWb c) : Allows .spadOrWb c := by
  cases c with
  | spad sp win => rfl
  | glob x => exact beq_iff_eq.2 h

/-- What the executing stream stores in a cell, where it stores anything. -/
def storedWord (s : State) (c : Cell) (r : Option Word) : State :=
  match r with
  | some v => cellWrite s (curAgent s) c 0 (leBytes 8 v.toNat)
  | none => s

theorem msOnly_storedWord {s : State} {c : Cell} (hc : IsDirect c) (hq : quiet s = true) (r : Option Word) :
    MsOnly s (storedWord s c r) := by
  cases r with
  | none => exact .refl s
  | some v => exact msOnly_cellWrite hc hq rfl ..

/-- An update reads the last write in coherence order, and stores what `f` makes of it. -/
theorem atomicUpdate_eq (s : State) (c : Cell) (f : Word → Option Word) :
    let t := cellNow s c 8
    atomicUpdate s c f = (storedWord t c (f (Say.wordAt t c 8)), Say.wordAt t c 8) := by
  intro t
  rw [atomicUpdate, ← curAgent_cellNow s c 8]
  rw [show BitVec.ofNat 64 (ofLe (cellRead (cellNow s c 8) (curAgent (cellNow s c 8)).view c 8)) = Say.wordAt t c 8 from rfl]
  cases f (Say.wordAt t c 8) <;> rfl

/-- A read-modify-write instruction at a cell that nothing keeps it from, `g` being what it stores by the state and the
old value. -/
theorem atomic_completes {i : Instr} {q : ScopeAcq} {d a : Reg} {g : State → Word → Option Word} {s : State} {c : Cell}
    (hsize : i.size = 4) (hready : ready s 4 none = true) (hplace : Say.place s .atomic (rd s a) 8 c) (hwb : Say.isWb c)
    (hg : ∀ t, ExecFrame s t → g t = g s) :
    let s1 := cellNow (atomicSide (Say.accessed s c 8) q.scope.toNat) c 8
    let old := Say.wordAt s1 c 8
    atomic i q d a g s = .next (retire 4 (wr (Say.acquired (storedWord s1 c (g s old)) q) d old)) := by
  intro s1 old
  obtain ⟨hq, hp, -⟩ := (ready_iff _ _ _).1 hready
  have h0 : MsOnly s (Say.accessed s c 8) := msOnly_accessed ..
  have h1 : MsOnly s s1 := (h0.trans (msOnly_atomicSide ..)).trans (msOnly_cellNow ..)
  have h2 : MsOnly s (storedWord s1 c (g s old)) :=
    h1.trans (msOnly_storedWord (direct_of_place hplace) (h1.frame.keeps hq hp).quiet _)
  have hlast := (h2.trans (msOnly_acquired _ q)).frame.keeps hq hp
  refine any_next rfl hsize hready ?_ (hlast.trans (keeps_wr _ 4 d old hlast.quiet hlast.plain))
  dsimp only
  rw [cellChecks_place hplace (allows_spadOrWb hwb) true (by decide), exec_ok_bind]
  dsimp only
  rw [hg _ h0.frame, atomicUpdate_eq]
  rfl

/-- The read-modify-write instructions, each with what it stores by the state and the old value. -/
theorem atomicForm_runs {i : Instr} {s : State} {q : ScopeAcq} {d a : Reg} {f : Word → Option Word}
    (h : Say.atomicForm s i = some (q, d, a, f)) :
    ∃ g : State → Word → Option Word, exec i s = atomic i q d a g s ∧ i.size = 4 ∧ g s = f ∧
      ∀ t, ExecFrame s t → g t = g s := by
  unfold Say.atomicForm at h
  split at h
  case h_1 q d a b =>
    cases h
    exact ⟨fun t v => some (v + rd t b), rfl, rfl, rfl, fun t ht => by simp only [ht.rd]⟩
  case h_2 q d a b =>
    cases h
    exact ⟨fun t v => some (minS v (rd t b)), rfl, rfl, by simp only [minS_eq], fun t ht => by simp only [ht.rd]⟩
  case h_3 q d a b =>
    cases h
    exact ⟨fun t v => some (maxS v (rd t b)), rfl, rfl, by simp only [maxS_eq], fun t ht => by simp only [ht.rd]⟩
  case h_4 q d a b =>
    cases h
    exact ⟨fun t v => some (minU v (rd t b)), rfl, rfl, by simp only [minU_eq], fun t ht => by simp only [ht.rd]⟩
  case h_5 q d a b =>
    cases h
    exact ⟨fun t v => some (maxU v (rd t b)), rfl, rfl, by simp only [maxU_eq], fun t ht => by simp only [ht.rd]⟩
  case h_6 q d a b =>
    cases h
    exact ⟨fun t v => some (v &&& rd t b), rfl, rfl, rfl, fun t ht => by simp only [ht.rd]⟩
  case h_7 q d a b =>
    cases h
    exact ⟨fun t v => some (v ||| rd t b), rfl, rfl, rfl, fun t ht => by simp only [ht.rd]⟩
  case h_8 q d a b =>
    cases h
    exact ⟨fun t v => some (rd t b), rfl, rfl, rfl, fun t ht => by simp only [ht.rd]⟩
  case h_9 q d a b =>
    cases h
    exact ⟨fun t v => if v = rd t d then some (rd t b) else none, rfl, rfl, rfl, fun t ht => by simp only [ht.rd]⟩
  case h_10 => cases h

theorem atomics_hold : Say.Atomics := by
  intro i s q d a f c hform hready hplace hwb
  obtain ⟨g, hexec, hsize, hf, hg⟩ := atomicForm_runs hform
  rw [hexec]
  subst hf
  exact atomic_completes hsize hready hplace hwb hg

/-! ### Ordered updates -/

/-- A write in global memory depends on no more of its stream than which it is, and of which job. -/
theorem cellWrite_glob_frame {s t : State} (h : ExecFrame s t) (u : State) (x : Xl) (o : Nat) (bs : List Byte) :
    cellWrite u (curAgent s) (.glob x) o bs = cellWrite u (curAgent t) (.glob x) o bs := by
  show writePa (noteWrite u s.cur (curAgent s).part _ _) _ _ _ _ _ = writePa (noteWrite u t.cur (curAgent t).part _ _) _ _ _ _ _
  rw [curAgent_part, curAgent_part, curAgent_jobid, curAgent_jobid, h.curPart, h.curJob, h.cur]

theorem curAgent_view_frame {s t : State} (h : ExecFrame s t) : (curAgent s).view = (curAgent t).view := by
  show Viewer.mk (curAgent s).jobid none (some s.cur.core) (some (curAgent s).part) =
    Viewer.mk (curAgent t).jobid none (some t.cur.core) (some (curAgent t).part)
  rw [curAgent_part, curAgent_part, curAgent_jobid, curAgent_jobid, h.curPart, h.curJob, h.cur]

theorem modMs_amoq_nil {s : State} (h : s.ms.amoq = []) : modMs s (fun m => { m with amoq := [] }) = s := by
  rw [← h]
  rfl

theorem modMs_amoq_append {s : State} (h : s.ms.amoq = []) (l : List AmoqEntry) :
    modMs s (fun m => { m with amoq := m.amoq ++ l }) = modMs s fun m => { m with amoq := l } := by
  simp only [modMs, h, List.nil_append]

/-- What an update does at a cell for which none is buffered, `a` being the agent: it takes its turn, waits for it, or comes
late (R122). -/
theorem amoqAt_empty {s t : State} {x : Xl} {u n : BitVec 32} (hframe : ExecFrame s t)
    (hempty : (cellNow t (.glob x) 8).ms.amoq = []) :
    let c := Cell.glob x
    let t' := cellNow t c 8
    let v := orderedCell t' (curAgent t').view c
    (n = v.2 → amoqAt t (curAgent s) c n u = some (cellWrite t' (curAgent t') c 0
      (leBytes 4 (fp32Add v.1 u).toNat ++ leBytes 4 (v.2 + 1).toNat)))
    ∧ (n ≠ v.2 → (n - v.2).toNat < 2 ^ 31 → amoqAt t (curAgent s) c n u = some (modMs t' fun m =>
      { m with amoq := [⟨Config.homeSlice (x.pa / 256) % Config.llcSlices, x.pa, n, u⟩] }))
    ∧ (2 ^ 31 ≤ (n - v.2).toNat → amoqAt t (curAgent s) c n u =
      some (modPart t' (curPart t') fun p => { p with stale := satInc p.stale })) := by
  intro c t' v
  have ht' : ExecFrame s t' := hframe.trans (msOnly_cellNow ..).frame
  have hview : orderedCell (cellNow t c 8) (curAgent s).view c = v := by rw [curAgent_view_frame ht']
  have hamoq : (cellNow t c 8).ms.amoq = [] := hempty
  refine ⟨fun hturn => ?_, fun hahead hnear => ?_, fun hlate => ?_⟩
  · have hzero : (n - v.2).toNat = 0 := by simp [hturn]
    simp only [amoqAt, hview, hzero, if_true, hamoq, List.length_nil, applyBuffered, modMs_amoq_nil hamoq]
    rw [cellWrite_glob_frame ht']
  · have hne : (n - v.2).toNat ≠ 0 := fun h => hahead (by bv_omega)
    have hroom : ¬Config.amoqBuffer ≤ 0 := by decide
    simp only [amoqAt, hview, hne, if_false, Nat.not_le.2 hnear, hamoq, List.any_nil, Bool.false_eq_true, List.filter_nil,
      List.length_nil, hroom, modMs_amoq_append hamoq]
    rfl
  · have hne : (n - v.2).toNat ≠ 0 := by omega
    simp only [amoqAt, hview, hne, if_false, hlate, if_true, curAgent_part, ← ht'.curPart]
    rfl

/-- An AMOQ at a cell that nothing keeps it from does as an update at its home slice, and then the acquire side. -/
theorem amoq_completes {s t : State} {q : ScopeAcq} {d a b : Reg} {x : Xl} (hready : ready s 4 none = true)
    (hplace : Say.place s .atomic (rd s a) 16 (.glob x)) (htype : effType x = 0) (hdevice : isHostPa x.pa = false)
    (hat : amoqAt (atomicSide (Say.accessed s (.glob x) 16) q.scope.toNat) (curAgent (Say.accessed s (.glob x) 16)) (.glob x)
      ((rd s d).setWidth 32) ((rd s b).setWidth 32) = some t) (hk : Keeps s t 4) :
    exec (.amoq q d a b) s = .next (retire 4 (Say.acquired t q)) := by
  have hframe : ExecFrame s (Say.accessed s (.glob x) 16) := (msOnly_accessed ..).frame
  have hallows : Allows .wbDevice (.glob x) := by simp [Allows, CellRule.globOk, htype, hdevice]
  change execAmoq q d a b s = _
  refine any_next rfl rfl hready ?_ (hk.trans ((msOnly_acquired t q).frame.keeps hk.quiet hk.plain))
  dsimp only
  rw [cellChecks_place hplace hallows true (by decide), exec_ok_bind]
  dsimp only
  rw [hframe.rd, hframe.rd, hat]
  rfl

theorem orderedAtomic_holds : Say.OrderedAtomic := by
  intro s q d a b x hready hplace htype hdevice hempty c s0 t v n
  obtain ⟨hq, hp, -⟩ := (ready_iff _ _ _).1 hready
  have hside : ExecFrame s0 (atomicSide s0 q.scope.toNat) := (msOnly_atomicSide ..).frame
  have ht : MsOnly s t := ((msOnly_accessed ..).trans (msOnly_atomicSide ..)).trans (msOnly_cellNow ..)
  have hk := ht.frame.keeps hq hp
  have hamoq : t.ms.amoq = [] :=
    ((keepsBuffers_cellNow ..).amoq.trans (amoq_atomicSide ..)).trans ((keepsBuffers_accessed ..).amoq.trans hempty)
  obtain ⟨hturn, hahead, hlate⟩ := amoqAt_empty (u := (rd s b).setWidth 32) (n := n) hside hamoq
  refine ⟨fun h => ?_, fun h h' => ?_, fun h => ?_⟩
  · exact amoq_completes hready hplace htype hdevice (hturn h)
      (hk.trans ((msOnly_cellWrite (c := .glob x) trivial hk.quiet rfl ..).frame.keeps hk.quiet hk.plain))
  · exact amoq_completes hready hplace htype hdevice (hahead h h')
      (hk.trans ((msOnly_modMs t _).frame.keeps hk.quiet hk.plain))
  · refine (amoq_completes hready hplace htype hdevice (hlate h) ?_).trans ?_
    · exact hk.trans (keeps_modPart t _ 4 _ (fun _ => rfl) hk.quiet hk.plain)
    · rw [ht.frame.curPart]

/-- Settles O36: the checks of the cell pass, and what follows them changes the memory system alone. -/
theorem atomics : Obligations.Atomics := ⟨atomics_hold, orderedAtomic_holds⟩

end Sys2Proof.Proofs
end

section
/-! PROOFS. REL, ACQ and FENCE, and what a release leaves wet, buffered or late (R106 to R110, R114, R179, R180). -/

namespace Sys2Proof.Proofs
open Sys2Proof Sys2Proof.Machine

/-! ### The instructions -/

theorem keeps_countedRelease {s : State} {n : Nat} (hq : quiet s = true) (hp : plain s n = true) :
    Keeps s (countedRelease s) n := by
  rw [countedRelease_quiet hq]
  exact keeps_modCurStream s n _ hq hp (fun _ => rfl) (fun _ => rfl) (fun _ => rfl) (fun _ => rfl)

theorem allows_wb {c : Cell} (hwb : Say.isWb c) (hglob : Say.isGlobal c) : Allows .wb c := by
  cases c with
  | spad sp win => exact hglob.elim
  | glob x => exact beq_iff_eq.2 hwb

theorem rel_completes {s : State} {sc : BitVec 4} {a : Reg} {c : Cell} (hready : ready s 4 none = true)
    (hplace : Say.place s .atomic (rd s a) 16 c) (hwb : Say.isWb c) (hglob : Say.isGlobal c) :
    let t := cellNow (countedRelease (releaseObject (Say.accessed s c 16) sc.toNat (rd s a))) c 8
    exec (.rel sc a) s = .next (retire 4 (cellWrite t (curAgent t) c 0
      (leBytes 8 (ofLe (cellRead t (curAgent t).view c 8) + 1)))) := by
  intro t
  obtain ⟨hq, hp, -⟩ := (ready_iff _ _ _).1 hready
  have h0 : MsOnly s (Say.accessed s c 16) := msOnly_accessed ..
  have hreleased := (h0.trans (msOnly_releaseObject _ sc.toNat (rd s a))).frame.keeps hq hp
  have hcounted := hreleased.trans (keeps_countedRelease hreleased.quiet hreleased.plain)
  have ht := hcounted.trans ((msOnly_cellNow _ c 8).frame.keeps hcounted.quiet hcounted.plain)
  have hwritten := msOnly_cellWrite (t := t) (direct_of_place hplace) ht.quiet rfl 0
    (leBytes 8 (ofLe (cellRead t (curAgent t).view c 8) + 1))
  change execRel sc a s = _
  refine any_next rfl rfl hready ?_ (ht.trans (hwritten.frame.keeps ht.quiet ht.plain))
  dsimp only
  rw [cellChecks_place hplace (allows_wb hwb hglob) true (by decide), exec_ok_bind]
  dsimp only
  rw [h0.frame.rd]

theorem acq_completes {s : State} {sc : BitVec 4} {a : Reg} {c : Cell} (hready : ready s 4 none = true)
    (hplace : Say.place s .read (rd s a) 16 c) (hwb : Say.isWb c) (hglob : Say.isGlobal c) :
    exec (.acq sc a) s = .next (retire 4 (acquireObject (Say.accessed s c 16) sc.toNat (rd s a))) := by
  obtain ⟨hq, hp, -⟩ := (ready_iff _ _ _).1 hready
  have h0 : MsOnly s (Say.accessed s c 16) := msOnly_accessed ..
  change execAcq sc a s = _
  refine any_next rfl rfl hready ?_ ((h0.trans (msOnly_acquireObject ..)).frame.keeps hq hp)
  dsimp only
  rw [cellChecks_place hplace (allows_wb hwb hglob) false (by decide), exec_ok_bind]
  dsimp only
  rw [h0.frame.rd]

theorem fenceRelease_eq (s : State) (sc : BitVec 4) :
    fenceRelease s sc.toNat = if sc = 0 then releaseSide s 0 else countedRelease (releaseSide s sc.toNat) := by
  unfold fenceRelease
  by_cases h : sc = 0
  · subst h
    rfl
  · have hpos : 1 ≤ sc.toNat := by bv_omega
    rw [if_neg h, if_pos hpos]

theorem keeps_fenceRelease {s : State} (sc : BitVec 4) (hq : quiet s = true) (hp : plain s 4 = true) :
    Keeps s (fenceRelease s sc.toNat) 4 := by
  have hreleased := (msOnly_releaseSide s sc.toNat).frame.keeps hq hp
  unfold fenceRelease
  dsimp only
  split
  · exact hreleased.trans (keeps_countedRelease hreleased.quiet hreleased.plain)
  · exact hreleased

theorem releaseAcquire_holds : Say.ReleaseAcquire := by
  intro s sc hready
  obtain ⟨hq, hp, -⟩ := (ready_iff _ _ _).1 hready
  have hreleased := keeps_fenceRelease sc hq hp
  refine ⟨fun a c hplace hwb hglob => rel_completes hready hplace hwb hglob,
    fun a c hplace hwb hglob => acq_completes hready hplace hwb hglob, ?_, ?_⟩
  · change execFenceAcqside sc s = _
    exact any_simple rfl hready ((msOnly_acquireSide ..).frame.keeps hq hp)
  · dsimp only
    rw [← fenceRelease_eq]
    constructor
    · change execFenceRelside sc s = _
      exact any_simple rfl hready hreleased
    · change execFenceFull sc s = _
      exact any_simple rfl hready (hreleased.trans ((msOnly_acquireSide ..).frame.keeps hreleased.quiet hreleased.plain))

/-! ### What a release leaves -/

/-- One late write, from the last on: `r` is what becomes of the later ones, with the granules of which one is performed. -/
def raiseOne (scope : Nat) (sel : LateWrite → Bool) (e : LateWrite) (r : List LateWrite × List Nat) :
    List LateWrite × List Nat :=
  let up := sel e || r.2.contains e.granule
  let e := if up then { e with scope := max scope e.scope } else e
  (if 7 ≤ e.scope then r.1 else e :: r.1, if up then e.granule :: r.2 else r.2)

theorem raiseLate_eq (scope : Nat) (sel : LateWrite → Bool) (l : List LateWrite) :
    raiseLate scope sel l = (l.foldr (raiseOne scope sel) ([], [])).1 := rfl

/-- At system scope a write that is selected is late no longer, and one that is kept is as it was. -/
theorem mem_raiseOne {scope : Nat} (hscope : 7 ≤ scope) {sel : LateWrite → Bool} {x e : LateWrite}
    {r : List LateWrite × List Nat} (h : e ∈ (raiseOne scope sel x r).1) : e ∈ r.1 ∨ e = x ∧ sel e = false := by
  cases hup : sel x || r.2.contains x.granule with
  | true =>
    have hfar : 7 ≤ max scope x.scope := le_trans hscope (le_max_left ..)
    simp only [raiseOne, hup, if_true, if_pos hfar] at h
    exact .inl h
  | false =>
    simp only [raiseOne, hup, Bool.false_eq_true, if_false] at h
    split at h
    · exact .inl h
    · rcases List.mem_cons.1 h with rfl | h
      · exact .inr ⟨rfl, (Bool.or_eq_false_iff.1 hup).1⟩
      · exact .inl h

/-- Of the writes that a release at system scope selects none is late any longer. -/
theorem not_late_of_raiseLate {scope : Nat} (hscope : 7 ≤ scope) (sel : LateWrite → Bool) (l : List LateWrite) :
    ∀ e ∈ raiseLate scope sel l, sel e = false := by
  rw [raiseLate_eq]
  induction l with
  | nil => simp
  | cons x l ih =>
    intro e he
    exact (mem_raiseOne hscope he).elim (ih e) And.right

theorem not_late_of_publish {s : State} {scope : Nat} (hscope : 7 ≤ scope) (sel : LateWrite → Bool) :
    ∀ e ∈ (publish s scope sel).ms.late, sel e = false := by
  intro e he
  unfold publish at he
  split at he
  · rename_i hempty
    rw [List.isEmpty_iff.1 hempty] at he
    cases he
  · exact not_late_of_raiseLate hscope sel _ e he

/-- Publishing late writes leaves what is wet and buffered. -/
theorem wet_publish (s : State) (scope : Nat) (sel : LateWrite → Bool) : (publish s scope sel).ms.wet = s.ms.wet := by
  unfold publish
  split <;> rfl

/-- A release, of whichever late writes, leaves no wet granule of its job and no buffered store of its core. -/
theorem published_earlyCure (s : State) (scope : Nat) (sel : LateWrite → Bool) :
    (∀ w ∈ (publish (earlyCure s scope) scope sel).ms.wet, w.job ≠ (curJob s).ids.jobid)
      ∧ ∀ w ∈ (publish (earlyCure s scope) scope sel).ms.wc, w.hart.core ≠ s.cur.core := by
  rw [wet_publish, (keepsBuffers_publish ..).wc, wc_earlyCure]
  exact ⟨not_wet_of_earlyCure s scope, fun w hw => bne_iff_ne.1 (List.mem_filter.1 hw).2⟩

theorem releaseCures_holds : Say.ReleaseCures := by
  intro s sc o
  have hside := published_earlyCure s sc fun e => e.byStream (curJob s).ids.jobid s.cur.strm
  have hobject := published_earlyCure s sc fun e =>
    (e.byStream (curJob s).ids.jobid s.cur.strm || e.acquired.contains ((curJob s).ids.jobid, s.cur.strm, o))
      && boundTo s o e.granule
  refine ⟨?_, ?_, fun hscope => ⟨fun e he => ?_, fun e he hown => ?_⟩⟩
  · exact fun w hw => (List.mem_append.1 hw).elim (hside.1 w) (hobject.1 w)
  · exact fun w hw => (List.mem_append.1 hw).elim (hside.2 w) (hobject.2 w)
  · exact not_late_of_publish hscope _ e he
  · have hsel := not_late_of_publish hscope _ e he
    simpa [hown] using hsel

/-- Settles O37: the instructions complete by the checks of their cell, and a release leaves what `earlyCure` and
`publish` do. -/
theorem releaseAcquire : Obligations.ReleaseAcquire := ⟨releaseAcquire_holds, releaseCures_holds⟩

end Sys2Proof.Proofs
end

section
/-! PROOFS. WAITA and the sync words (R118, R119, R173, R182 to R184). -/

namespace Sys2Proof.Proofs
open Sys2Proof Sys2Proof.Machine

/-! ### WAITA -/

theorem allows_any (c : Cell) : Allows .any c := by cases c <;> rfl

/-- WAITA at a cell that nothing keeps it from, `f` being its comparison. -/
theorem waita_outcome {i : Instr} {q : ScopeAcq} {d a b : Reg} {f : Word → Word → Bool} {s : State} {c : Cell}
    (hsize : i.size = 4) (hready : ready s 4 none = true) (hplace : Say.place s .read (rd s a) 8 c) :
    let t := Say.accessed s c 8
    let v := polled t c
    waita i q d a b f s = if f v (rd s b) then .next (retire 4 (wr (Say.acquired t q) d v))
      else Say.blocked t (.value d v 2081) := by
  intro t v
  obtain ⟨hq, hp, -⟩ := (ready_iff _ _ _).1 hready
  have ht : MsOnly s t := msOnly_accessed ..
  cases hf : f v (rd s b) with
  | true =>
    have hlast := (ht.trans (msOnly_acquired t q)).frame.keeps hq hp
    refine any_next rfl hsize hready ?_ (hlast.trans (keeps_wr _ 4 d v hlast.quiet hlast.plain))
    dsimp only
    rw [cellChecks_place hplace (allows_any c) false (by decide), exec_ok_bind]
    dsimp only
    rw [ht.frame.rd, hf]
    rfl
  | false =>
    refine any_stay rfl hsize hready ?_ ht.cur
    dsimp only
    rw [cellChecks_place hplace (allows_any c) false (by decide), exec_ok_bind]
    dsimp only
    rw [ht.frame.rd, hf]
    rfl

theorem waitOnWord_holds : Say.WaitOnWord := by
  intro s q d a b c hready hplace t v go
  have hout {i : Instr} {f : Word → Word → Bool} (hexec : exec i s = waita i q d a b f s) (hsize : i.size = 4) :
      go (f v (rd s b) = true) i := by
    rw [waita_outcome hsize hready hplace] at hexec
    exact ⟨fun h => hexec.trans (if_pos h), fun h => hexec.trans (if_neg h)⟩
  refine ⟨?_, ?_, ?_⟩
  · rw [← bne_iff_ne]
    exact hout (f := (· != ·)) rfl rfl
  · rw [← beq_iff_eq]
    exact hout (f := (· == ·)) rfl rfl
  · rw [← decide_eq_true_eq (p := (rd s b).toNat ≤ v.toNat)]
    exact hout (f := fun v b => decide (b.toNat ≤ v.toNat)) rfl rfl

/-! ### Sync words -/

theorem syncWordUpdate_holds : Say.SyncWordUpdate := by
  intro w n
  constructor
  · intro htarget hreached
    simp [SyncWord.add, SyncWord.advance, htarget, hreached]
  · intro hnot
    have : ¬(w.target ≠ 0 ∧ w.target ≤ w.count + n) := by omega
    simp only [SyncWord.add, SyncWord.advance, Bool.and_eq_true, bne_iff_ne, decide_eq_true_eq, this, if_false]

theorem ofLe_lt (l : List Byte) : ofLe l < 256 ^ l.length := by
  induction l with
  | nil => decide
  | cons b l ih =>
    have := b.isLt
    rw [ofLe, List.length_cons, pow_succ]
    omega

/-- The generation of a sync word has 32 bits. -/
theorem gen_syncRead_lt (s : State) (v : Viewer) (c : Cell) : (syncRead s v c).gen < 2 ^ 32 := by
  have hlen : (slice (cellRead s v c 16) 8 4).length ≤ 4 := List.length_take_le ..
  calc (syncRead s v c).gen < 256 ^ (slice (cellRead s v c 16) 8 4).length := ofLe_lt _
    _ ≤ 256 ^ 4 := Nat.pow_le_pow_right (by decide) hlen
    _ = 2 ^ 32 := by decide

/-- A TARGET that is reached is set with one advance, which writes COUNT and GENERATION. -/
theorem syncSet_advance {s : State} {a : Agent} {c : Cell} {n : Nat} (hn : n ≠ 0) (hle : n ≤ (syncRead s a.view c).count) :
    syncSet s a c n = cellWrite (cellWrite (cellWrite s a c 0 (leBytes 4 n)) a c 4
      (leBytes 4 ((syncRead s a.view c).count - n))) a c 8 (leBytes 4 (((syncRead s a.view c).gen + 1) % 2 ^ 32)) := by
  have hgen := gen_syncRead_lt s a.view c
  have hcount : (syncRead s a.view c).count - n ≠ (syncRead s a.view c).count := by omega
  have hstep : ((syncRead s a.view c).gen + 1) % 2 ^ 32 ≠ (syncRead s a.view c).gen := by omega
  simp only [syncSet, syncCount, SyncWord.advance, bne_iff_ne, ne_eq, hn, not_false_eq_true, hle, decide_true, Bool.and_true,
    if_true, hcount, hstep, if_false]

/-- A TARGET that is zero or not reached is set without an advance. -/
theorem syncSet_stay {s : State} {a : Agent} {c : Cell} {n : Nat} (h : n = 0 ∨ (syncRead s a.view c).count < n) :
    syncSet s a c n = cellWrite s a c 0 (leBytes 4 n) := by
  have hnot : ¬(n ≠ 0 ∧ n ≤ (syncRead s a.view c).count) := by omega
  simp only [syncSet, syncCount, SyncWord.advance, Bool.and_eq_true, bne_iff_ne, decide_eq_true_eq, hnot, if_false, if_true]

theorem msOnly_syncCount {s t : State} {c : Cell} (hc : IsDirect c) (hq : quiet s = true) (hpart : curPart t = curPart s)
    (old new : SyncWord) : MsOnly s (syncCount s (curAgent t) c old new) := by
  have hcount : MsOnly s (if new.count = old.count then s else cellWrite s (curAgent t) c 4 (leBytes 4 new.count)) :=
    .ite (.refl s) (msOnly_cellWrite hc hq hpart ..)
  exact hcount.trans (.ite (.refl _)
    (msOnly_cellWrite hc (hcount.frame.keeps_quiet hq) (hpart.trans hcount.frame.curPart.symm) ..))

theorem swset_completes {s : State} {sc : BitVec 4} {a b : Reg} {c : Cell} (hready : ready s 4 none = true)
    (hwb : Say.isWb c) (hplace : Say.place s .atomic (rd s a) 16 c) :
    let t := cellNow (atomicSide (Say.accessed s c 16) sc.toNat) c 16
    exec (.swset sc a b) s = .next (retire 4 (syncSet t (curAgent t) c ((rd s b).toNat % 2 ^ 32))) := by
  intro t
  obtain ⟨hq, hp, -⟩ := (ready_iff _ _ _).1 hready
  have ht : MsOnly s t := ((msOnly_accessed ..).trans (msOnly_atomicSide ..)).trans (msOnly_cellNow ..)
  have hk := ht.frame.keeps hq hp
  have hset : MsOnly t (syncSet t (curAgent t) c ((rd s b).toNat % 2 ^ 32)) := by
    have htarget : MsOnly t (cellWrite t (curAgent t) c 0 (leBytes 4 ((rd s b).toNat % 2 ^ 32))) :=
      msOnly_cellWrite (direct_of_place hplace) hk.quiet rfl ..
    exact htarget.trans
      (msOnly_syncCount (direct_of_place hplace) (htarget.frame.keeps_quiet hk.quiet) htarget.frame.curPart.symm ..)
  change execSwset sc a b s = _
  refine any_next rfl rfl hready ?_ (hk.trans (hset.frame.keeps hk.quiet hk.plain))
  dsimp only
  rw [cellChecks_place hplace (allows_spadOrWb hwb) true (by decide), exec_ok_bind]
  dsimp only
  rw [ht.frame.rd]

theorem swwait_outcome {s : State} {q : ScopeAcq} {d a b : Reg} {c : Cell} (hready : ready s 4 none = true)
    (hwb : Say.isWb c) (hplace : Say.place s .read (rd s a) 16 c) :
    let t := Say.accessed s c 16
    let g := ofLe (slice (cellRead t (curAgent t).view c 16) 8 4)
    exec (.swwait q d a b) s = if passed g (rd s b).toNat
      then .next (retire 4 (wr (acquireSide t q.scope.toNat) d (BitVec.ofNat 64 g)))
      else Say.blocked t (.value d (BitVec.ofNat 64 g) 2082) := by
  intro t g
  obtain ⟨hq, hp, -⟩ := (ready_iff _ _ _).1 hready
  have ht : MsOnly s t := msOnly_accessed ..
  change execSwwait q d a b s = _
  cases hpassed : passed g (rd s b).toNat with
  | true =>
    have hlast := (ht.trans (msOnly_acquireSide t q.scope.toNat)).frame.keeps hq hp
    refine any_next rfl rfl hready ?_ (hlast.trans (keeps_wr _ 4 d _ hlast.quiet hlast.plain))
    dsimp only
    rw [cellChecks_place hplace (allows_spadOrWb hwb) false (by decide), exec_ok_bind]
    dsimp only
    rw [ht.frame.rd, hpassed]
    rfl
  | false =>
    refine any_stay rfl rfl hready ?_ ht.cur
    dsimp only
    rw [cellChecks_place hplace (allows_spadOrWb hwb) false (by decide), exec_ok_bind]
    dsimp only
    rw [ht.frame.rd, hpassed]
    rfl

theorem syncWords_hold : Say.SyncWords := by
  intro s q sc d a b c hready hwb
  constructor
  · intro hplace s0 t w n set
    rw [swset_completes hready hwb hplace]
    exact ⟨fun hn hle => by rw [syncSet_advance hn hle], fun h => by rw [syncSet_stay h]⟩
  · intro hplace t g
    rw [swwait_outcome hready hwb hplace]
    exact ⟨fun h => if_pos h, fun h => if_neg (Bool.eq_false_iff.1 h)⟩

/-- Settles O38: each instruction passes the checks of its cell, and compares what it reads there. -/
theorem syncWords : Obligations.SyncWords := ⟨waitOnWord_holds, syncWordUpdate_holds, syncWords_hold⟩

end Sys2Proof.Proofs
end

section
/-! PROOFS. RDQ and WRQ: lines of scratchpad and the row queues (R103, R138, R187, R188). -/

namespace Sys2Proof.Proofs
open Sys2Proof Sys2Proof.Machine

/-! ### Lines of scratchpad that nothing keeps the stream from -/

/-- The offset of an access of the executing stream leads to the scratchpads, without a stash window or an operation in
between, and not into its job's sealed set. -/
structure Reached (s : State) (off n sp : Nat) : Prop where
  noOps : HoldsNone s
  unmapped : Unmapped (viewedJob s)
  unsealed : (curJob s).sealedSet = []
  grant : grantAddr s.cur.core (curJob s).grant off n = some sp

theorem locateOff_unmapped {s : State} (h : Unmapped (viewedJob s)) (off : Nat) :
    locateOff (curAgent s) off = .spad off none false := by
  rw [locateOff, curAgent_job, Option.bind_some, winOfOff_none h]

theorem lineWins_unmapped {s : State} (h : Unmapped (viewedJob s)) (off n : Nat) :
    ∀ x ∈ lineWins (curAgent s) off none n, x.2.1 = none := by
  intro x hx
  unfold lineWins at hx
  split at hx
  · rw [List.mem_singleton.1 hx]
  · obtain ⟨i, -, rfl⟩ := List.mem_map.1 hx
    rw [curAgent_job, Option.bind_some, winOfOff_none h]

/-- Without a window there is no line to fill. -/
theorem fillEach_unmapped {s : State} (h : Unmapped (viewedJob s)) (off : Nat) (va : Word) (n : Nat) :
    fillEach s (curAgent s) off none va n = .ok s := by
  refine foldl_eq_self _ _ _ fun x hx => ?_
  rw [lineWins_unmapped h off n x hx]
  rfl

theorem loadSpad_reached {s : State} {off n sp : Nat} (h : Reached s off n sp) (hpoison : spadPoisonIn s sp n = none)
    (va : Word) : loadSpad s (curAgent s) (locateOff (curAgent s) off) va none n =
      .ok (dropEarly s s.cur (spadPlaces sp n), withEarly s s.cur .spad sp (Memory.bytes s.ms.spad sp n)) := by
  rw [locateOff_unmapped h.unmapped, loadSpad, curAgent_spad, h.grant]
  simp only [Bool.false_eq_true, if_false, fillEach_unmapped h.unmapped, exec_ok_bind, orderChecks_none h.noOps, hpoison]

/-- A store that is not split writes its bytes, and its stream reads nothing older there later. -/
theorem storeSpad_reached {s : State} {off sp : Nat} {bs : List Byte} (h : Reached s off bs.length sp)
    (hsplit : s.ms.split = none) (va : Word) :
    storeSpad s (curAgent s) (locateOff (curAgent s) off) va none bs =
      .ok (writeSpad (dropEarly s s.cur (spadPlaces sp bs.length)) sp bs) := by
  have hwin := lineWins_unmapped h.unmapped off bs.length
  have hdirty (t : State) : (lineWins (curAgent s) off none bs.length).foldl
      (fun s' x => dirtyWin s' (curAgent s) x.2.1 x.2.2) t = t := foldl_eq_self _ _ _ fun x hx => by
    rw [hwin x hx]
    rfl
  have hstore : ownStore s sp bs = writeSpad (dropEarly s s.cur (spadPlaces sp bs.length)) sp bs := by
    have hkeeps : (dropEarly s s.cur (spadPlaces sp bs.length)).ms.split = none := by
      unfold dropEarly
      split <;> exact hsplit
    rw [ownStore, hkeeps]
  rw [locateOff_unmapped h.unmapped, storeSpad, curAgent_spad, h.grant]
  simp only [Bool.false_eq_true, if_false, fillEach_unmapped h.unmapped, exec_ok_bind, orderChecks_none h.noOps,
    inSealed_curAgent h.unsealed, check, Bool.not_false, if_true, hdirty, hstore]

/-! ### The row queues -/

theorem queueLength_row (qs : Queues) (k : Fin 8) : queueLength qs k.val = qs.q[k].length := by
  simp [queueLength, queueLengths, List.getElem?_append]

/-- A push of rows appends them to their queue. -/
theorem pushRows_changes (s : State) (k : Fin 8) (rows : List QRow) (hq : quiet s = true) :
    ∃ q, QueuesChanged s q (pushRows s k.val rows)
      ∧ q.q = (curJob s).queues.q.set k.val ((curJob s).queues.q[k] ++ rows) := by
  have h := queuesChanged_modQueues s (fun qs =>
    countPush { qs with q := qs.q.setIfInBounds k.val (qs.q.getD k.val [] ++ rows) } k.val rows.length (curSeen s)) hq
  exact ⟨_, h, by simp only [countPush, vector_setIfInBounds, vector_getD]; rfl⟩

/-- A pop of rows removes them from the head of their queue, after which the stream's early reads are used up. -/
theorem popRows_changes (s : State) (k : Fin 8) (n : Nat) (hq : quiet s = true) (hp : plain s 4 = true) :
    ∃ q, QueuesChanged (orderReads s s.cur) q (popRows s k.val n)
      ∧ q.q = (curJob s).queues.q.set k.val ((curJob s).queues.q[k].drop n) := by
  have hf := frame_passSeen s k.val n
  have h := queuesChanged_modQueues (passSeen s k.val n) (fun qs =>
    dropSeen { qs with q := qs.q.setIfInBounds k.val ((qs.q.getD k.val []).drop n) } k.val n) (hf.keeps hq hp).quiet
  rw [hf.curJob] at h
  exact ⟨_, h.of_frame (frame_markSeen ..) (ms_passSeen ..), by simp only [dropSeen, vector_setIfInBounds, vector_getD]; rfl⟩

theorem rowsOf_eq (t : BitVec 11) (n : Nat) (bs : List Byte) :
    rowsOf t n bs = (List.range n).map fun i => ⟨t, BitVec.ofNat 2048 (ofLe ((bs.drop (256 * i)).take 256))⟩ := by
  induction n generalizing bs with
  | zero => rfl
  | succ n ih =>
    rw [rowsOf, ih, List.range_succ_eq_map, List.map_cons, List.map_map]
    simp [Function.comp_def, Nat.mul_succ, Nat.add_comm]

/-! ### RDQ -/

/-- What other streams have read early is no read of this one. -/
theorem withEarly_others {s : State} {h : Hart} (he : ∀ e ∈ s.ms.early, e.hart ≠ h) (place : Nat → EarlyPlace) (a : Nat)
    (bs : List Byte) : withEarly s h place a bs = bs := by
  have hnone (p : EarlyPlace) : earlyAt s h p = none := by
    rw [earlyAt, Option.map_eq_none_iff, List.find?_eq_none]
    intro e hmem
    simp [he e hmem]
  unfold withEarly
  split
  · rfl
  · refine foldl_keeps (fun l : List Byte => l = bs) _ (fun l g hl => ?_) _ _ rfl
    simpa only [hnone] using hl

section
variable {s : State} {g : Guard} {f : BitVec 3} {d : BitVec 2} {a b : Reg} {k : Fin 8}

/-- RDQ where its queue has room, its tag may stand and its address is aligned: the lines are pushed. -/
theorem rdq_completes {sp : Nat} (hready : ready s 4 (some g) = true) (hstrm : s.cur.strm = .l) (hk : k.val = d.toNat)
    (hroom : (curJob s).queues.q[k].length + (f.toNat + 1) ≤ 8) (htag : rdqTagOk ((rd s b).setWidth 11) = true)
    (halign : (rd s a).toNat % 256 = 0) (h : Reached s (rd s a).toNat (256 * (f.toNat + 1)) sp)
    (hpoison : spadPoisonIn s sp (256 * (f.toNat + 1)) = none) :
    let used := drainWc (dropEarly s s.cur (spadPlaces sp (256 * (f.toNat + 1)))) s.cur
    let bs := withEarly s s.cur .spad sp (Memory.bytes s.ms.spad sp (256 * (f.toNat + 1)))
    exec (.rdq g f d a b) s =
      .next (retire 4 (pushRows used k.val (rowsOf ((rd s b).setWidth 11) (f.toNat + 1) bs))) := by
  intro used bs
  obtain ⟨hq, hp, hg⟩ := (ready_iff _ _ _).1 hready
  have hdrop : MsOnly s (dropEarly s s.cur (spadPlaces sp (256 * (f.toNat + 1)))) := msOnly_dropEarly ..
  have hused := (hdrop.trans (msOnly_drainWc _ s.cur)).frame.keeps hq hp
  obtain ⟨_, hpush, -⟩ := pushRows_changes used k (rowsOf ((rd s b).setWidth 11) (f.toNat + 1) bs) hused.quiet
  change execRdq g f d a b s = _
  refine issue_next (.rdq g f d a b) _ _ free _ s _ hq hp (by rw [hstrm]; rfl) rfl hg ?_
    (hused.trans (hpush.keeps hused.quiet hused.plain))
  dsimp only
  rw [← hk, queueLength_row, offsetOf, loadSpad_reached h hpoison]
  simp only [waitFor, hroom, decide_true, if_true, exec_ok_bind, htag, halign, check, beq_self_eq_true, hdrop.cur]
  rfl

theorem rdq_blocks (hready : ready s 4 (some g) = true) (hstrm : s.cur.strm = .l) (hk : k.val = d.toNat)
    (hfull : 8 < (curJob s).queues.q[k].length + (f.toNat + 1)) :
    exec (.rdq g f d a b) s = Say.blocked s (.queue k.val) := by
  obtain ⟨-, hp, hg⟩ := (ready_iff _ _ _).1 hready
  change execRdq g f d a b s = _
  refine issue_wait (.rdq g f d a b) _ _ free _ s hp (by rw [hstrm]; rfl) rfl hg _ ?_
  dsimp only
  rw [← hk, queueLength_row, waitFor, if_neg (by simpa using hfull)]
  rfl

/-- RDQ takes FORMAT, and ALIGN, after it has found room in its queue. -/
theorem rdq_traps (hready : ready s 4 (some g) = true) (hstrm : s.cur.strm = .l) (hk : k.val = d.toNat)
    (hroom : (curJob s).queues.q[k].length + (f.toNat + 1) ≤ 8) {c : Cause} {addr : Word}
    (hcheck : (do
      check (rdqTagOk ((rd s b).setWidth 11)) .format
      check ((rd s a).toNat % 256 == 0) .align (rd s a) : Exec Unit) = .error (.trap c addr 0)) :
    exec (.rdq g f d a b) s = .next (trapNow s (.rdq g f d a b) c addr 0) := by
  obtain ⟨-, hp, hg⟩ := (ready_iff _ _ _).1 hready
  change execRdq g f d a b s = _
  refine issue_trap (.rdq g f d a b) _ _ free _ s hp (by rw [hstrm]; rfl) rfl hg c addr 0 ?_
  dsimp only
  rw [← hk, queueLength_row, waitFor, if_pos (by simpa using hroom), exec_ok_bind]
  cases htag : rdqTagOk ((rd s b).setWidth 11) with
  | false =>
    rw [htag] at hcheck
    rw [← show Stop.trap .format 0 0 = Stop.trap c addr 0 from Except.error.inj hcheck]
    rfl
  | true =>
    rw [htag] at hcheck
    cases halign : (rd s a).toNat % 256 == 0 with
    | false =>
      rw [halign] at hcheck
      rw [← show Stop.trap .align (rd s a) 0 = Stop.trap c addr 0 from Except.error.inj hcheck]
      rfl
    | true =>
      rw [halign] at hcheck
      cases hcheck

/-! ### WRQ -/

/-- The bytes that WRQ stores. -/
def headBytes (s : State) (k : Fin 8) (n : Nat) : List Byte :=
  ((curJob s).queues.q[k].take n).flatMap fun r => rowBytes r.data

theorem length_rowBytes (d : RowBits) : (rowBytes d).length = 256 := length_leBytes ..

theorem length_headBytes {n : Nat} (h : n ≤ (curJob s).queues.q[k].length) : (headBytes s k n).length = 256 * n := by
  simp only [headBytes, List.length_flatMap, length_rowBytes, List.map_const', List.sum_replicate, List.length_take,
    Nat.min_eq_left h, smul_eq_mul, Nat.mul_comm]

/-- WRQ where its queue holds the rows and its address is aligned: they are stored, and popped. -/
theorem wrq_completes {sp : Nat} (hready : ready s 4 (some g) = true) (hstrm : s.cur.strm = .s) (hk : k.val = 4 + d.toNat)
    (hrows : f.toNat + 1 ≤ (curJob s).queues.q[k].length) (halign : (rd s a).toNat % 256 = 0)
    (h : Reached s (rd s a).toNat (256 * (f.toNat + 1)) sp) (hsplit : s.ms.split = none) :
    let bs := headBytes s k (f.toNat + 1)
    let stored := writeSpad (dropEarly s s.cur (spadPlaces sp (256 * (f.toNat + 1)))) sp bs
    exec (.wrq g f d a) s = .next (retire 4 (popRows stored k.val (f.toNat + 1))) := by
  intro bs stored
  obtain ⟨hq, hp, hg⟩ := (ready_iff _ _ _).1 hready
  have hstored := ((msOnly_dropEarly s s.cur (spadPlaces sp (256 * (f.toNat + 1)))).trans (msOnly_writeSpad _ sp bs)).frame.keeps hq hp
  have hordered := (msOnly_orderReads stored stored.cur).frame.keeps hstored.quiet hstored.plain
  obtain ⟨_, hpop, -⟩ := popRows_changes stored k (f.toNat + 1) hstored.quiet hstored.plain
  have hlen : bs.length = 256 * (f.toNat + 1) := length_headBytes hrows
  change execWrq g f d a s = _
  refine issue_next (.wrq g f d a) _ _ free _ s _ hq hp (by rw [hstrm]; rfl) rfl hg ?_
    ((hstored.trans hordered).trans (hpop.keeps hordered.quiet hordered.plain))
  have hbytes : (((curJob s).queues.q.getD k.val []).take (f.toNat + 1)).flatMap (fun r => rowBytes r.data) = bs := by
    rw [vector_getD]
    rfl
  dsimp only
  rw [← hk, queueLength_row, offsetOf, hbytes, storeSpad_reached (hlen ▸ h) hsplit, hlen]
  simp only [waitFor, hrows, decide_true, if_true, exec_ok_bind, halign, check, beq_self_eq_true]
  rfl

theorem wrq_blocks (hready : ready s 4 (some g) = true) (hstrm : s.cur.strm = .s) (hk : k.val = 4 + d.toNat)
    (hshort : (curJob s).queues.q[k].length < f.toNat + 1) : exec (.wrq g f d a) s = Say.blocked s (.queue k.val) := by
  obtain ⟨-, hp, hg⟩ := (ready_iff _ _ _).1 hready
  change execWrq g f d a s = _
  refine issue_wait (.wrq g f d a) _ _ free _ s hp (by rw [hstrm]; rfl) rfl hg _ ?_
  dsimp only
  rw [← hk, queueLength_row, waitFor, if_neg (by simpa using hshort)]
  rfl

theorem wrq_traps (hready : ready s 4 (some g) = true) (hstrm : s.cur.strm = .s) (hk : k.val = 4 + d.toNat)
    (hrows : f.toNat + 1 ≤ (curJob s).queues.q[k].length) (halign : (rd s a).toNat % 256 ≠ 0) :
    exec (.wrq g f d a) s = .next (trapNow s (.wrq g f d a) .align (rd s a) 0) := by
  obtain ⟨-, hp, hg⟩ := (ready_iff _ _ _).1 hready
  change execWrq g f d a s = _
  refine issue_trap (.wrq g f d a) _ _ free _ s hp (by rw [hstrm]; rfl) rfl hg _ _ 0 ?_
  dsimp only
  rw [← hk, queueLength_row, waitFor, if_pos (by simpa using hrows), exec_ok_bind, check, if_neg (by simpa using halign)]
  rfl

end

/-- Block `i` of blocks of one length, laid one after another. -/
theorem getElem?_flatMap_block {α β : Type} {f : α → List β} {n : Nat} (hf : ∀ x, (f x).length = n) (l : List α) (i : Nat)
    {j : Nat} (hj : j < n) : (l.flatMap f)[n * i + j]? = (l[i]?.bind fun x => (f x)[j]?) := by
  induction l generalizing i with
  | nil => simp
  | cons x l ih =>
    rw [List.flatMap_cons]
    cases i with
    | zero =>
      rw [Nat.mul_zero, Nat.zero_add, List.getElem?_append_left (by rw [hf]; exact hj)]
      rfl
    | succ i =>
      rw [List.getElem?_append_right (by rw [hf, Nat.mul_succ]; omega), hf,
        show n * (i + 1) + j - n = n * i + j by rw [Nat.mul_succ]; omega, ih]
      rfl

theorem Memory.bytes_eq {m : Memory} {a : Nat} {bs : List Byte} (h : ∀ i, (hi : i < bs.length) → Memory.byte m (a + i) = bs[i]) :
    Memory.bytes m a bs.length = bs := by
  induction bs generalizing a with
  | nil => rfl
  | cons b bs ih =>
    rw [List.length_cons, Memory.bytes, ih fun i hi => ?_]
    · exact congrArg (· :: bs) (h 0 (Nat.succ_pos _))
    · rw [Nat.add_assoc, Nat.add_comm 1]
      exact h (i + 1) (Nat.succ_lt_succ hi)

/-- A row reads back from the place of its line. -/
theorem bytes_rows {m : Memory} (hm : m.wf = true) (sp : Nat) (rows : List QRow) {i : Nat} (hi : i < rows.length) :
    Memory.bytes (Memory.putBytes m sp (rows.flatMap fun r => rowBytes r.data)) (sp + 256 * i) 256 = rowBytes rows[i].data := by
  have hlen : (rowBytes rows[i].data).length = 256 := length_rowBytes _
  suffices hbytes : Memory.bytes _ (sp + 256 * i) (rowBytes rows[i].data).length = _ by rwa [hlen] at hbytes
  refine Memory.bytes_eq fun j hj => ?_
  have hget : (rows.flatMap fun r => rowBytes r.data)[256 * i + j]? = (rowBytes rows[i].data)[j]? := by
    rw [getElem?_flatMap_block (fun r : QRow => length_rowBytes r.data) rows i (hlen ▸ hj), List.getElem?_eq_getElem hi]
    rfl
  rw [List.getElem?_eq_getElem hj] at hget
  obtain ⟨hin, heq⟩ := List.getElem?_eq_some_iff.1 hget
  rw [Nat.add_assoc, Memory.byte_putBytes_inside m sp _ _ hm hin, heq]

/-- Early reads that are used up, and queues that change, leave what the memory system holds. -/
theorem held_popRows {s : State} {k : Fin 8} {n : Nat} (hq : quiet s = true) (hp : plain s 4 = true) :
    (popRows s k.val n).ms.spad = s.ms.spad ∧ (popRows s k.val n).ms.mem = s.ms.mem := by
  obtain ⟨_, hpop, -⟩ := popRows_changes s k n hq hp
  rw [hpop.ms, orderReads]
  split <;> exact ⟨rfl, rfl⟩

theorem held_dropEarly (s : State) (h : Hart) (sel : EarlyPlace → Bool) :
    (dropEarly s h sel).ms.spad = s.ms.spad ∧ (dropEarly s h sel).ms.mem = s.ms.mem := by
  unfold dropEarly
  split <;> exact ⟨rfl, rfl⟩

/-- What WRQ leaves: the rows popped, their data in the lines, and every other byte as before. -/
theorem wrq_leaves {s : State} {k : Fin 8} {n sp : Nat} (hq : quiet s = true) (hp : plain s 4 = true)
    (hmem : memOk s = true) (hrows : n ≤ (curJob s).queues.q[k].length) (sel : EarlyPlace → Bool) :
    let q := (curJob s).queues.q[k]
    let t := popRows (writeSpad (dropEarly s s.cur sel) sp (headBytes s k n)) k.val n
    (curJob t).queues.q = (curJob s).queues.q.set k.val (q.drop n)
      ∧ (∀ i < n, Memory.bytes t.ms.spad (sp + 256 * i) 256 =
          leBytes 256 ((q.map fun r : QRow => r.data).getD i 0).toNat)
      ∧ (∀ c, c < sp ∨ sp + 256 * n ≤ c → Memory.byte t.ms.spad c = Memory.byte s.ms.spad c) ∧ t.ms.mem = s.ms.mem := by
  intro q t
  obtain ⟨-, hwf⟩ := (memOk_iff s).1 hmem
  have hframe := ((msOnly_dropEarly s s.cur sel).trans (msOnly_writeSpad _ sp (headBytes s k n))).frame
  have hk := hframe.keeps hq hp
  obtain ⟨_, hpop, hq'⟩ := popRows_changes _ k n hk.quiet hk.plain
  obtain ⟨hspad, hheld⟩ := held_popRows (k := k) (n := n) hk.quiet hk.plain
  have hspad : t.ms.spad = Memory.putBytes s.ms.spad sp (headBytes s k n) :=
    hspad.trans (congrArg (Memory.putBytes · sp (headBytes s k n)) (held_dropEarly ..).1)
  refine ⟨?_, fun i hi => ?_, fun c hc => ?_, hheld.trans (held_dropEarly ..).2⟩
  · rw [hpop.job, hq', hframe.curJob]
  · have hi' : i < (q.take n).length := by rw [List.length_take_of_le hrows]; exact hi
    have hdata : (q.map fun r : QRow => r.data).getD i 0 = (q.take n)[i].data := by
      simp [List.getD_eq_getElem?_getD, List.getElem?_eq_getElem (lt_of_lt_of_le hi hrows : i < q.length)]
    rw [hspad, headBytes, bytes_rows hwf sp _ hi', hdata, rowBytes]
  · rw [hspad, Memory.byte_putBytes_outside _ _ _ _ hwf]
    rwa [length_headBytes hrows]

theorem wrq_stores {s : State} {g : Guard} {f : BitVec 3} {d : BitVec 2} {a : Reg} {k : Fin 8} {sp : Nat}
    (hready : ready s 4 (some g) = true) (hstrm : s.cur.strm = .s) (hk : k.val = 4 + d.toNat)
    (hrows : f.toNat + 1 ≤ (curJob s).queues.q[k].length) (halign : (rd s a).toNat % 256 = 0)
    (h : Reached s (rd s a).toNat (256 * (f.toNat + 1)) sp) (hmem : memOk s = true) (hsplit : s.ms.split = none) :
    let q := (curJob s).queues.q[k]
    ∃ t, exec (.wrq g f d a) s = .next (retire 4 t) ∧ (curJob t).queues.q = (curJob s).queues.q.set k.val (q.drop (f.toNat + 1))
      ∧ (∀ i < f.toNat + 1, Memory.bytes t.ms.spad (sp + 256 * i) 256 =
          leBytes 256 ((q.map fun r : QRow => r.data).getD i 0).toNat)
      ∧ (∀ c, c < sp ∨ sp + 256 * (f.toNat + 1) ≤ c → Memory.byte t.ms.spad c = Memory.byte s.ms.spad c)
      ∧ t.ms.mem = s.ms.mem := by
  obtain ⟨hq, hp, -⟩ := (ready_iff _ _ _).1 hready
  exact ⟨_, wrq_completes hready hstrm hk hrows halign h hsplit, wrq_leaves hq hp hmem hrows _⟩

/-- Settles O22: RDQ and WRQ wait, trap or complete as their queue, tag and address say, and what the completing forms
push, pop and write is read off the state they leave. -/
theorem rowQueues : Obligations.RowQueues := by
  intro s g f d a b sp hready n tag reachable
  have hreached (h : reachable) : Reached s (rd s a).toNat (256 * n) sp := by
    obtain ⟨hops, hwin, hsealed, hgrant, -⟩ := h
    exact ⟨hops, hwin, hsealed, hgrant⟩
  constructor
  · intro k hk hstrm q bs used
    refine ⟨fun hothers => withEarly_others hothers .., fun hroom htag halign hr => ?_,
      fun hfull => rdq_blocks hready hstrm hk hfull, fun hroom htag => ?_, fun hroom htag halign => ?_⟩
    · obtain ⟨hq, hp, -⟩ := (ready_iff _ _ _).1 hready
      have hframe := ((msOnly_dropEarly s s.cur (spadPlaces sp (256 * n))).trans (msOnly_drainWc used s.cur)).frame
      obtain ⟨_, hpush, hq'⟩ := pushRows_changes (drainWc used s.cur) k (rowsOf tag n bs) (hframe.keeps hq hp).quiet
      obtain ⟨-, -, -, -, hpoison⟩ := id hr
      refine ⟨_, rdq_completes hready hstrm hk hroom htag halign (hreached hr) hpoison, hpush.onlyQueues, ?_⟩
      rw [hpush.job, hq', hframe.curJob, rowsOf_eq]
    · exact rdq_traps hready hstrm hk hroom (by rw [htag]; rfl)
    · exact rdq_traps hready hstrm hk hroom (by rw [htag, beq_eq_false_iff_ne.2 halign]; rfl)
  · intro k hk hstrm q
    exact ⟨fun hrows halign hr hmem hsplit => wrq_stores hready hstrm hk hrows halign (hreached hr) hmem hsplit, fun hshort => wrq_blocks hready hstrm hk hshort,
      fun hrows halign => wrq_traps hready hstrm hk hrows halign⟩

end Sys2Proof.Proofs
end

section
/-! PROOFS. Writes performed at the LLC through the uncompressed view, and how the host and the device read them back
(R92, R104, R115). -/

namespace Sys2Proof.Proofs
open Sys2Proof Sys2Proof.Machine

/-! ### The bytes of memory, granule by granule -/

theorem Memory.getElem?_bytes (m : Memory) (a n i : Nat) :
    (Memory.bytes m a n)[i]? = if i < n then some (Memory.byte m (a + i)) else none := by
  induction n generalizing a i with
  | zero => rfl
  | succ n ih =>
    rw [Memory.bytes]
    cases i with
    | zero => rfl
    | succ i =>
      rw [List.getElem?_cons_succ, ih]
      simp only [Nat.add_lt_add_iff_right, Nat.add_assoc, Nat.add_comm 1]

theorem leBytes_ofLe (bs : List Byte) : leBytes bs.length (ofLe bs) = bs := by
  induction bs with
  | nil => rfl
  | cons b bs ih =>
    have hb := b.isLt
    have hlow : BitVec.ofNat 8 (b.toNat + 256 * ofLe bs) = b := BitVec.eq_of_toNat_eq (by rw [BitVec.toNat_ofNat]; omega)
    have hrest : (b.toNat + 256 * ofLe bs) / 256 = ofLe bs := by omega
    rw [List.length_cons, leBytes, ofLe, hlow, hrest, ih]

/-- The bytes of a granule as it stands in memory. -/
theorem leBytes_plainGranule (s : State) (g : Nat) : leBytes 8 (plainGranule s g).toNat = Memory.bytes s.ms.mem (8 * g) 8 := by
  have hlen := Memory.length_bytes s.ms.mem (8 * g) 8
  have hlt : ofLe (Memory.bytes s.ms.mem (8 * g) 8) < 2 ^ 64 := by
    have := ofLe_lt (Memory.bytes s.ms.mem (8 * g) 8)
    rwa [hlen] at this
  have h := leBytes_ofLe (Memory.bytes s.ms.mem (8 * g) 8)
  rw [hlen] at h
  rw [plainGranule, BitVec.toNat_ofNat, Nat.mod_eq_of_lt hlt, h]

theorem getElem?_granules {a n i : Nat} (h : a / 8 + i ≤ (a + n - 1) / 8) (hn : n ≠ 0) : (granules a n)[i]? = some (a / 8 + i) := by
  rw [granules, if_neg hn, List.getElem?_map, List.getElem?_range (by omega)]
  rfl

/-- A range read granule by granule, each as it stands in memory. -/
theorem slice_granules {s : State} {f : Nat → Granule} {pa n : Nat} (h : ∀ g ∈ granules pa n, f g = plainGranule s g) :
    slice ((granules pa n).flatMap fun g => leBytes 8 (f g).toNat) (pa % 8) n = Memory.bytes s.ms.mem pa n := by
  have hflat : ((granules pa n).flatMap fun g => leBytes 8 (f g).toNat) =
      (granules pa n).flatMap fun g => Memory.bytes s.ms.mem (8 * g) 8 :=
    List.flatMap_congr fun g hg => by rw [h g hg, leBytes_plainGranule]
  rw [hflat]
  refine List.ext_getElem? fun i => ?_
  rw [slice, List.getElem?_take, List.getElem?_drop, Memory.getElem?_bytes]
  split
  · rename_i hi
    have hgran := getElem?_granules (a := pa) (n := n) (i := (pa % 8 + i) / 8) (by omega) (by omega)
    have hblock := getElem?_flatMap_block (fun g => Memory.length_bytes s.ms.mem (8 * g) 8) (granules pa n)
      ((pa % 8 + i) / 8) (j := (pa % 8 + i) % 8) (by omega)
    rw [Nat.div_add_mod] at hblock
    rw [hblock, hgran, Option.bind_some, Memory.getElem?_bytes, if_pos (by omega)]
    congr 2
    omega
  · rfl

/-! ### A cured write -/

/-- The bytes of a range that lie in one of its granules. -/
theorem granulePart_spec {pa g : Nat} {bs : List Byte} (hg : g ∈ granules pa bs.length) (b : Nat) :
    let p := granulePart pa bs g
    (8 * g + p.1 ≤ b ∧ b < 8 * g + p.1 + p.2.length ↔ pa ≤ b ∧ b < pa + bs.length ∧ b / 8 = g)
      ∧ (8 * g + p.1 ≤ b → b < 8 * g + p.1 + p.2.length → p.2[b - (8 * g + p.1)]? = bs[b - pa]?) := by
  obtain ⟨hn, hlo, hhi⟩ := mem_granules.1 hg
  unfold granulePart
  split
  · simp only [List.length_take]
    refine ⟨by omega, fun h1 h2 => ?_⟩
    rw [List.getElem?_take, if_pos (by omega)]
    congr 1
    omega
  · simp only [slice, List.length_take, List.length_drop]
    refine ⟨by omega, fun h1 h2 => ?_⟩
    rw [List.getElem?_take, if_pos (by omega), List.getElem?_drop]
    congr 1
    omega

/-- What a write through the uncompressed view changes in a granule, of what others read of it. -/
theorem writeGranule_plain (s : State) (own : Option Nat) (g o : Nat) (bs : List Byte) :
    let t := writeGranule s own false g o bs
    t.ms.mem = Memory.putBytes s.ms.mem (8 * g + o) bs ∧ t.ms.late = (s.ms.late.filter fun e => e.granule != g)
      ∧ ∃ f, t.ms.comp = Tab.modify s.ms.comp (g / 32) f := by
  have hold (u : State) (js : List Nat) (a b : Granule) : (noteOld u js g a b).ms.mem = u.ms.mem
      ∧ (noteOld u js g a b).ms.late = u.ms.late ∧ (noteOld u js g a b).ms.comp = u.ms.comp := by
    unfold noteOld
    split <;> exact ⟨rfl, rfl, rfl⟩
  unfold writeGranule
  cases own with
  | none =>
    simp only [Bool.false_eq_true, if_false, modMs, hold]
    exact ⟨trivial, trivial, _, rfl⟩
  | some j =>
    simp only [Bool.false_eq_true, if_false, modMs, hold]
    exact ⟨trivial, trivial, _, rfl⟩

theorem get?_modify_none {α : Type} {t : Tab α} {k l : Nat} {f : α → α} (h : Tab.get? t l = none) :
    Tab.get? (Tab.modify t k f) l = none := by
  by_cases hl : l = k
  · subst hl
    rw [Tab.get?_modify_self, h]
    rfl
  · rw [Tab.get?_modify_ne _ _ _ _ hl, h]

/-- Bytes have been written through the uncompressed view, those of some granules of their range. -/
structure PlainWritten (s : State) (pa : Nat) (bs : List Byte) (gs : List Nat) (t : State) : Prop where
  bytes : ∀ b, Memory.byte t.ms.mem b =
    if pa ≤ b ∧ b < pa + bs.length ∧ b / 8 ∈ gs then bs.getD (b - pa) 0 else Memory.byte s.ms.mem b
  late : ∀ e ∈ t.ms.late, e.granule ∉ gs
  comp : ∀ l, Tab.get? s.ms.comp l = none → Tab.get? t.ms.comp l = none
  ok : memOk t = true

theorem PlainWritten.step {s t : State} {pa g : Nat} {bs : List Byte} {gs : List Nat} (h : PlainWritten s pa bs gs t)
    (hg : g ∈ granules pa bs.length) (own : Option Nat) :
    PlainWritten s pa bs (g :: gs) (writeGranule t own false g (granulePart pa bs g).1 (granulePart pa bs g).2) := by
  obtain ⟨hmem, hlate, f, hcomp⟩ := writeGranule_plain t own g (granulePart pa bs g).1 (granulePart pa bs g).2
  have hwf := ((memOk_iff t).1 h.ok).1
  refine ⟨fun b => ?_, fun e he => ?_, fun l hl => ?_, memOk_writeGranule _ _ _ _ _ _ h.ok⟩
  · obtain ⟨hplace, hbyte⟩ := granulePart_spec hg b
    rw [hmem]
    by_cases hin : pa ≤ b ∧ b < pa + bs.length ∧ b / 8 = g
    · obtain ⟨hlo, hhi⟩ := hplace.2 hin
      have hput := Memory.byte_putBytes_inside t.ms.mem (8 * g + (granulePart pa bs g).1) (b - (8 * g + (granulePart pa bs g).1))
        (granulePart pa bs g).2 hwf (by omega)
      rw [show 8 * g + (granulePart pa bs g).1 + (b - (8 * g + (granulePart pa bs g).1)) = b by omega] at hput
      have hget := hbyte hlo hhi
      rw [List.getElem?_eq_getElem (by omega), List.getElem?_eq_getElem (by omega : b - pa < bs.length)] at hget
      rw [hput, if_pos ⟨hin.1, hin.2.1, List.mem_cons.2 (.inl hin.2.2)⟩, Option.some.inj hget,
        List.getD_eq_getElem _ _ (by omega : b - pa < bs.length)]
    · rw [Memory.byte_putBytes_outside _ _ _ _ hwf (by have := mt hplace.1 hin; omega), h.bytes b]
      refine if_congr ?_ rfl rfl
      rw [List.mem_cons]
      tauto
  · rw [hlate, List.mem_filter] at he
    rw [List.mem_cons, not_or]
    exact ⟨bne_iff_ne.1 he.2, h.late e he.1⟩
  · rw [hcomp]
    exact get?_modify_none (h.comp l hl)

/-- A write through the uncompressed view writes its bytes, and performs what was late in their granules. -/
theorem plainWritten_writePa {s : State} (hok : memOk s = true) (who : Nat × Nat) (own : Option Nat) (pa : Nat)
    (bs : List Byte) : PlainWritten s pa bs (granules pa bs.length) (writePa s who own false pa bs) := by
  have hmissed : PlainWritten s pa bs [] (noteMissed s who pa bs.length) := by
    have hsame : (noteMissed s who pa bs.length).ms.mem = s.ms.mem ∧ (noteMissed s who pa bs.length).ms.comp = s.ms.comp := by
      unfold noteMissed
      split <;> exact ⟨rfl, rfl⟩
    refine ⟨fun b => by simp [hsame.1], fun e _ => List.not_mem_nil, fun l hl => by rw [hsame.2, hl],
      memOk_noteMissed _ _ _ _ hok⟩
  have hfold (l done : List Nat) (hl : ∀ g ∈ l, g ∈ granules pa bs.length) (t : State) (ht : PlainWritten s pa bs done t) :
      PlainWritten s pa bs (l.reverse ++ done) (l.foldl (fun u g =>
        writeGranule u own false g (granulePart pa bs g).1 (granulePart pa bs g).2) t) := by
    induction l generalizing done t with
    | nil => exact ht
    | cons g l ih =>
      rw [List.reverse_cons, List.append_assoc]
      exact ih (g :: done) (fun k hk => hl k (List.mem_cons_of_mem _ hk)) _ (ht.step (hl g (List.mem_cons_self ..)) own)
  have h := hfold (granules pa bs.length) [] (fun _ hg => hg) _ hmissed
  rw [List.append_nil] at h
  refine ⟨fun b => ?_, fun e he => ?_, h.comp, memOk_of_eq _ _ rfl rfl h.ok⟩
  · refine (h.bytes b).trans (if_congr ?_ rfl rfl)
    rw [List.mem_reverse]
  · exact fun hg => h.late e he (List.mem_reverse.2 hg)

/-! ### Reading back -/

/-- Where no write of a range is late and no line of it is compressed, the host reads what stands in memory. -/
theorem hostBytes_plain {s : State} {pa n : Nat} (hlate : ∀ e ∈ s.ms.late, e.granule ∉ granules pa n)
    (hcomp : ∀ g ∈ granules pa n, Tab.get? s.ms.comp (g / 32) = none) : hostBytes s pa n = Memory.bytes s.ms.mem pa n := by
  refine slice_granules fun g hg => ?_
  have hnone : hostLate s g = none := by
    rw [hostLate, List.find?_eq_none]
    intro e he
    have hne : e.granule ≠ g := fun h => hlate e he (h ▸ hg)
    simp [hne]
  rw [hostGranule, hnone]
  exact viewGranule_plain (hcomp g hg) false

/-- An agent for no job sees no wet version. -/
theorem jobGranule_nobody {s : State} {v : Viewer} (hv : v.job = 0) (cmp : Bool) (g : Nat) :
    jobGranule s v cmp g = sharedGranule s v cmp g := by
  have hnone : wetFind s v g = none := by simp [wetFind, Viewer.ownSight, hv]
  rw [jobGranule, hnone]

theorem lateFor_none {s : State} {g : Nat} (h : ∀ e ∈ s.ms.late, e.granule ≠ g) (v : Viewer) (cmp : Bool) :
    lateFor s v cmp g = none := by
  rw [lateFor]
  refine foldl_eq_self _ _ _ fun e he => ?_
  simp [h e he]

/-- So does the device. -/
theorem readPa_plain {s : State} {v : Viewer} {pa n : Nat} (hv : v.job = 0)
    (hlate : ∀ e ∈ s.ms.late, e.granule ∉ granules pa n)
    (hcomp : ∀ g ∈ granules pa n, Tab.get? s.ms.comp (g / 32) = none) : readPa s v false pa n = Memory.bytes s.ms.mem pa n := by
  refine slice_granules fun g hg => ?_
  have hne : ∀ e ∈ s.ms.late, e.granule ≠ g := fun e he h => hlate e he (h ▸ hg)
  rw [jobGranule_nobody hv, sharedGranule, lateFor_none hne]
  exact viewGranule_plain (hcomp g hg) false

section
variable {s t : State} {pa : Nat} {bs : List Byte} (h : PlainWritten s pa bs (granules pa bs.length) t)
include h

theorem PlainWritten.byte_ne {b : Nat} (hb : b < pa ∨ pa + bs.length ≤ b) : Memory.byte t.ms.mem b = Memory.byte s.ms.mem b := by
  rw [h.bytes b, if_neg (by omega)]

theorem PlainWritten.bytes_self : Memory.bytes t.ms.mem pa bs.length = bs := by
  refine Memory.bytes_eq fun i hi => ?_
  have hg : (pa + i) / 8 ∈ granules pa bs.length := mem_granules.2 (by omega)
  rw [h.bytes, if_pos ⟨by omega, by omega, hg⟩, Nat.add_sub_cancel_left, List.getD_eq_getElem _ _ hi]

variable (hcomp : ∀ g ∈ granules pa bs.length, Tab.get? s.ms.comp (g / 32) = none)
include hcomp

theorem PlainWritten.readPa {v : Viewer} (hv : v.job = 0) : readPa t v false pa bs.length = bs := by
  rw [readPa_plain hv h.late fun g hg => h.comp _ (hcomp g hg), h.bytes_self]

theorem PlainWritten.hostBytes : hostBytes t pa bs.length = bs := by
  rw [hostBytes_plain h.late fun g hg => h.comp _ (hcomp g hg), h.bytes_self]

end

/-- A line of which the table holds no entry. -/
theorem get?_none_of_ne {α : Type} {t : Tab α} {k : Nat} (h : ∀ l ∈ t, l.1 ≠ k) : Tab.get? t k = none := by
  cases hget : Tab.get? t k with
  | none => rfl
  | some x => exact absurd rfl (h _ (Tab.mem_of_get? t k x hget))

end Sys2Proof.Proofs
end

section
/-! PROOFS. Errors, temperature, resets, and the host's coherent writes (R98, R456 to R458, R488 to R492). -/

namespace Sys2Proof.Proofs
open Sys2Proof Sys2Proof.Machine

/-! ### Soft errors (R456 to R458) -/

theorem patrolScrub_corrected (s : State) (loc : ErrLoc) :
    exec (.patrolScrub loc false) s = .next (bumpErr s (match loc with
      | .mem _ => 0
      | .savedRow j _ _ | .savedAcc j _ _ | .savedTable j =>
        if ∃ x ∈ s.saved, x.job.ids.jobid = j ∧ x.inMemory = true then 0 else 2
      | _ => 2)) := by
  have harea (j : Nat) : (if savedInArea s j = true then 0 else 2) =
      if ∃ x ∈ s.saved, x.job.ids.jobid = j ∧ x.inMemory = true then 0 else 2 :=
    if_congr (by simp [savedInArea, List.any_eq_true]) rfl rfl
  refine congrArg (fun n => Host.Outcome.next (bumpErr s n)) (?_ : errBase s loc = _)
  cases loc with
  | savedRow j r g => exact harea j
  | savedAcc j a e => exact harea j
  | savedTable j => exact harea j
  | _ => rfl

theorem patrolScrub_mem (s : State) (g : Nat) :
    ∃ t, exec (.patrolScrub (.mem g) true) s = .next t ∧ NatSet.has t.ms.memPoison g = true
      ∧ t.ms = { s.ms with memPoison := t.ms.memPoison } ∧ t.jobs = s.jobs :=
  ⟨_, rfl, NatSet.has_add_self s.ms.memPoison g, rfl, rfl⟩

theorem patrolScrub_wet (s : State) (g j : Nat) :
    ∃ t, exec (.patrolScrub (.llc (some j) g) true) s = .next t ∧ t.jobs = s.jobs
      ∧ ∀ w ∈ t.ms.wet, w.job = j → w.granule = g → w.poison = true := by
  refine ⟨_, rfl, rfl, fun w hw hjob hgranule => ?_⟩
  obtain ⟨x, -, rfl⟩ := List.mem_map.1 hw
  by_cases hx : x.job = j ∧ x.granule = g
  · have hx : (decide (x.job = j) && decide (x.granule = g)) = true := by simpa using hx
    simp only [hx, if_true]
  · have hx' : ¬(decide (x.job = j) && decide (x.granule = g)) = true := by simpa using hx
    simp only [hx'] at hjob hgranule
    exact absurd ⟨hjob, hgranule⟩ hx

/-! ### Clock and supply (R488, R489) -/

/-- What moves of the platform with the supply is the supply alone. -/
theorem moveSupply_eq (s : State) (up : Bool) :
    moveSupply s up = { s with
      fresh := s.fresh + 1, platform := { s.platform with supply := (moveSupply s up).platform.supply } } := rfl

/-- A lowered supply does not fall below 360 mV, and does not rise. -/
theorem supply_lowered (s : State) : let v := (moveSupply s false).platform.supply
    v ≤ s.platform.supply ∧ (360 ≤ s.platform.supply → 360 ≤ v) := by
  have hmv := s.platform.supply.isLt
  have hroom : (Config.freeWord s.fresh 0).toNat % (s.platform.supply.toNat - 360 + 1) ≤ s.platform.supply.toNat - 360 :=
    Nat.lt_succ_iff.1 (Nat.mod_lt _ (Nat.succ_pos _))
  have hv : (moveSupply s false).platform.supply = BitVec.ofNat 64 (s.platform.supply.toNat
      - (Config.freeWord s.fresh 0).toNat % (s.platform.supply.toNat - 360 + 1)) := rfl
  generalize (Config.freeWord s.fresh 0).toNat % (s.platform.supply.toNat - 360 + 1) = r at hroom hv
  simp only [hv, BitVec.le_def, BitVec.toNat_ofNat]
  exact ⟨by omega, by simp; omega⟩

/-- A raised supply does not rise above 480 mV, and does not fall. -/
theorem supply_raised (s : State) : let v := (moveSupply s true).platform.supply
    s.platform.supply ≤ v ∧ (s.platform.supply ≤ 480 → v ≤ 480) := by
  have hmv := s.platform.supply.isLt
  have hroom : (Config.freeWord s.fresh 0).toNat % (480 - s.platform.supply.toNat + 1) ≤ 480 - s.platform.supply.toNat :=
    Nat.lt_succ_iff.1 (Nat.mod_lt _ (Nat.succ_pos _))
  have hv : (moveSupply s true).platform.supply = BitVec.ofNat 64 (s.platform.supply.toNat
      + (Config.freeWord s.fresh 0).toNat % (480 - s.platform.supply.toNat + 1)) := rfl
  generalize (Config.freeWord s.fresh 0).toNat % (480 - s.platform.supply.toNat + 1) = r at hroom hv
  simp only [hv, BitVec.le_def, BitVec.toNat_ofNat]
  exact ⟨by omega, by simp; omega⟩

section
variable {s : State}

/-- The condition under which clock and supply are lowered. -/
theorem throttles_iff : ((degrees 95 ≤ s.platform.temp || 1800 < s.platform.power) && 700 < s.platform.mhz) = true
    ↔ (8 * 95 ≤ s.platform.temp ∨ 1800 < s.platform.power) ∧ 700 < s.platform.mhz := by
  simp only [Bool.and_eq_true, Bool.or_eq_true, decide_eq_true_eq]
  rfl

theorem thermalThrottle_lowers (h : (8 * 95 ≤ s.platform.temp ∨ 1800 < s.platform.power) ∧ 700 < s.platform.mhz) :
    ∃ t, exec .thermalThrottle s = .next t ∧ t.platform.mhz = max 700 (s.platform.mhz - 100)
      ∧ t.platform.throttles = satInc s.platform.throttles ∧ t.ms = s.ms ∧ t.jobs = s.jobs
      ∧ t.platform.supply ≤ s.platform.supply ∧ (360 ≤ s.platform.supply → 360 ≤ t.platform.supply) := by
  refine ⟨modPlatform (moveSupply s false) fun p => { p with mhz := max 700 (p.mhz - 100), throttles := satInc p.throttles },
    ?_, rfl, rfl, rfl, rfl, supply_lowered s⟩
  change execThermalThrottle s = _
  rw [execThermalThrottle, if_pos (throttles_iff.2 h)]

theorem thermalThrottle_stays (h : ¬((8 * 95 ≤ s.platform.temp ∨ 1800 < s.platform.power) ∧ 700 < s.platform.mhz)) :
    exec .thermalThrottle s = .next s := by
  change execThermalThrottle s = _
  rw [execThermalThrottle, if_neg (mt throttles_iff.1 h)]

/-- The condition under which clock and supply are raised. -/
theorem recovers_iff : ¬(s.platform.hold || 1400 ≤ s.platform.mhz || degrees 90 < s.platform.temp || 1700 < s.platform.power) = true
    ↔ s.platform.hold = false ∧ s.platform.mhz < 1400 ∧ s.platform.temp ≤ 8 * 90 ∧ s.platform.power ≤ 1700 := by
  simp only [Bool.or_eq_true, decide_eq_true_eq, not_or, Bool.not_eq_true, not_le, not_lt, and_assoc]
  rfl

theorem throttleRecover_raises
    (h : s.platform.hold = false ∧ s.platform.mhz < 1400 ∧ s.platform.temp ≤ 8 * 90 ∧ s.platform.power ≤ 1700) :
    ∃ t, exec .throttleRecover s = .next t ∧ t.platform.mhz = min 1400 (s.platform.mhz + 100) ∧ t.ms = s.ms
      ∧ s.platform.supply ≤ t.platform.supply ∧ (s.platform.supply ≤ 480 → t.platform.supply ≤ 480) := by
  refine ⟨modPlatform (moveSupply s true) fun p => { p with mhz := min 1400 (p.mhz + 100) }, ?_, rfl, rfl, supply_raised s⟩
  change execThrottleRecover s = _
  rw [execThrottleRecover, if_neg (recovers_iff.2 h)]

theorem throttleRecover_stays
    (h : ¬(s.platform.hold = false ∧ s.platform.mhz < 1400 ∧ s.platform.temp ≤ 8 * 90 ∧ s.platform.power ≤ 1700)) :
    exec .throttleRecover s = .next s := by
  change execThrottleRecover s = _
  rw [execThrottleRecover, if_pos (not_not.1 (mt recovers_iff.1 h))]

/-! ### The thermal hold (R489) -/

/-- One record goes into the fault queue of each partition of a list. -/
theorem faults_foldl_queueFault (r : List Byte) (l : List Nat) (hl : l.Nodup) (s : State) (q : Nat) :
    (getPart (l.foldl (fun s p => queueFault s p r) s) q).faults =
      (getPart s q).faults ++ if q ∈ l then [r] else [] := by
  induction l generalizing s with
  | nil => simp
  | cons p l ih =>
    obtain ⟨hp, hl⟩ := List.nodup_cons.1 hl
    rw [List.foldl_cons, ih hl, queueFault]
    by_cases hq : q = p
    · subst hq
      simp [hp]
    · simp [getPart_modPart_ne _ _ _ _ hq, hq]

/-- Every partition is told: its fault queue receives one record. -/
theorem faults_thermalRecords (s : State) (addr : Word) {q : Nat} (hq : q < 8) :
    (getPart (thermalRecords s addr) q).faults =
      (getPart s q).faults ++ [faultRecord Cause.thermal.code 0 0 0 0 addr 0 0 0 [] []] := by
  have h := faults_foldl_queueFault (faultRecord Cause.thermal.code 0 0 0 0 addr 0 0 0 [] []) (List.range Config.numParts)
    List.nodup_range s q
  rwa [if_pos (List.mem_range.2 (show q < Config.numParts from hq))] at h

theorem platform_thermalRecords (s : State) (addr : Word) : (thermalRecords s addr).platform = s.platform :=
  foldl_keeps (fun t : State => t.platform = s.platform) (fun t p => queueFault t p _) (fun _ _ h => h) _ s rfl

theorem thermalHold_holds (hold : s.platform.hold = false) (htemp : 8 * 105 ≤ s.platform.temp) :
    ∃ t, exec .thermalHold s = .next t ∧ t.platform.hold = true ∧ t.platform.mhz = 700
      ∧ ∀ q < 8, (getPart t q).faults =
          (getPart s q).faults ++ [faultRecord Cause.thermal.code 0 0 0 0 1 0 0 0 [] []] := by
  refine ⟨thermalRecords (modPlatform (if 700 < s.platform.mhz then moveSupply s false else s)
    fun p => { p with hold := true, mhz := 700 }) 1, ?_, ?_, ?_, fun q hq => ?_⟩
  · change execThermalHold s = _
    rw [execThermalHold, if_neg]
    simp only [hold, Bool.false_or, decide_eq_true_eq]
    exact not_lt.2 htemp
  · rw [platform_thermalRecords]
    rfl
  · rw [platform_thermalRecords]
    rfl
  · rw [faults_thermalRecords _ _ hq]
    split <;> rfl

theorem thermalHold_stays (h : s.platform.hold = true ∨ s.platform.temp < 8 * 105) : exec .thermalHold s = .next s := by
  change execThermalHold s = _
  rw [execThermalHold, if_pos]
  simp only [Bool.or_eq_true, decide_eq_true_eq]
  exact h

theorem thermalHoldEnd_ends (hold : s.platform.hold = true) (htemp : s.platform.temp < 8 * 100) :
    ∃ t, exec .thermalHoldEnd s = .next t ∧ t.platform.hold = false
      ∧ ∀ q < 8, (getPart t q).faults =
          (getPart s q).faults ++ [faultRecord Cause.thermal.code 0 0 0 0 2 0 0 0 [] []] := by
  refine ⟨thermalRecords (modPlatform s fun p => { p with hold := false }) 2, ?_, ?_, fun q hq => ?_⟩
  · change execThermalHoldEnd s = _
    rw [execThermalHoldEnd, if_pos]
    simp only [hold, Bool.true_and, decide_eq_true_eq]
    exact htemp
  · rw [platform_thermalRecords]
    rfl
  · exact faults_thermalRecords _ _ hq

theorem thermalHoldEnd_stays (h : s.platform.hold = false ∨ 8 * 100 ≤ s.platform.temp) :
    exec .thermalHoldEnd s = .next s := by
  change execThermalHoldEnd s = _
  rw [execThermalHoldEnd, if_neg]
  simp only [Bool.and_eq_true, decide_eq_true_eq, not_and, not_lt]
  exact fun hold => h.resolve_left (by simp [hold])

/-! ### Resets (R490 to R492) -/

/-- What is left of a memory where some addresses are dropped reads as nothing at those. -/
theorem byte_filter_dropped {p : Nat → Bool} {a : Nat} (ha : p a = false) (m : Memory) :
    Memory.byte (m.filter fun e => p e.1) a = 0 := by
  induction m with
  | nil => rfl
  | cons e m ih =>
    rw [List.filter_cons]
    split
    · rename_i he
      have hne : e.1 ≠ a := fun h => by simp [h, ha] at he
      obtain ⟨k, b⟩ := e
      rw [Memory.byte, if_neg hne, ih]
      split <;> rfl
    · exact ih

theorem imageOk_iff (p : Platform) (im : List Byte) :
    imageOk p im = true ↔ Config.imageVerifies im = true ∧ rollbackOf p ≤ Config.imageVersion im := by
  rw [imageOk, Bool.and_eq_true, decide_eq_true_eq, BitVec.le_def]

/-- A staged image that verifies runs from the reset on. -/
theorem bootPlatform_good {im : List Byte} (hstaged : s.platform.staged = some im) (hok : imageOk s.platform im = true)
    (hdefect : s.platform.defect = none) :
    let p := bootPlatform s
    p.running = some im ∧ p.staged = none ∧ p.mode = .starting := by
  simp [bootPlatform, hstaged, hok, hdefect]

/-- One that does not leaves the device in recovery, after step 1. -/
theorem bootPlatform_bad {im : List Byte} (hstaged : s.platform.staged = some im) (hok : imageOk s.platform im = false) :
    let p := bootPlatform s
    p.running = s.platform.running ∧ p.mode = .recovery ∧ bitsOf p.boot 0 8 = 1 := by
  have hcode := (Config.bootFailure s.fresh).isLt
  have hstep : bitsOf (BitVec.ofNat 64 (1 + max 1 (Config.bootFailure s.fresh).toNat * 256)) 0 8 = 1 := by
    rw [bitsOf, BitVec.toNat_ofNat]
    omega
  simp only [bootPlatform, hstaged, Option.some_or, Option.all_some, hok, Bool.not_false, if_true, Platform.stuck]
  exact ⟨trivial, trivial, hstep⟩

theorem deviceReset_resets (s : State) :
    ∃ t, exec .deviceReset s = .next t ∧ t.dead = false ∧ t.jobs = [] ∧ t.parts = State.reset.parts
      ∧ t.cores = State.reset.cores ∧ t.unitOwner = [] ∧ t.pool = [] ∧ t.time = 0
      ∧ (∀ a, isHostPa a = false → Memory.byte t.ms.mem a = 0)
      ∧ (∀ im, s.platform.staged = some im →
        Config.imageVerifies im = true ∧ rollbackOf s.platform ≤ Config.imageVersion im → s.platform.defect = none →
        t.platform.running = some im ∧ t.platform.staged = none ∧ t.platform.mode = .starting)
      ∧ ∀ im, s.platform.staged = some im →
        ¬(Config.imageVerifies im = true ∧ rollbackOf s.platform ≤ Config.imageVersion im) →
        t.platform.running = s.platform.running ∧ t.platform.mode = .recovery ∧ bitsOf t.platform.boot 0 8 = 1 :=
  ⟨resetDevice s, rfl, rfl, rfl, rfl, rfl, rfl, rfl, rfl, fun _ ha => byte_filter_dropped ha _,
    fun _ hstaged hgood hdefect => bootPlatform_good hstaged ((imageOk_iff ..).2 hgood) hdefect,
    fun _ hstaged hbad => bootPlatform_bad hstaged (Bool.eq_false_iff.2 (mt (imageOk_iff ..).1 hbad))⟩

/-- A port other than port 0 is at its reset, but for its counters and what its link has agreed on. -/
theorem portReset_resets {k : Nat} (h : k < 4) (hk : 1 ≤ k) :
    ∃ t, exec (.portReset k) s = .next t ∧ t.ms.mem = s.ms.mem ∧ t.jobs = s.jobs
      ∧ t.ports[k] = { Port.reset with
          up := decide (s.platform.mode = .running), ide := s.ports[k].ide, ats := s.ports[k].ats
          stray := s.ports[k].stray, dropped := s.ports[k].dropped }
      ∧ ∀ n (h : n < 4), n ≠ k → t.ports[n] = s.ports[n] := by
  have htrains : s.platform.mode.trains k = decide (s.platform.mode = .running) := by
    cases s.platform.mode with
    | running => rfl
    | starting => rfl
    | recovery => exact beq_eq_false_iff_ne.2 (Nat.ne_of_gt hk)
  have hin : (decide (1 ≤ k) && decide (k ≤ 3)) = true := by simp; omega
  have hget : s.ports.getD k .reset = s.ports[k] := vector_getD s.ports ⟨k, h⟩ _
  refine ⟨modMs (modPort s k (resetPort s.platform.mode k)) fun m => { m with ats := m.ats.filter fun e => namedPort e.page != k },
    ?_, rfl, rfl, ?_, fun n hn hne => ?_⟩
  · change execPortReset k s = _
    rw [execPortReset, if_pos hin]
  · show (s.ports.setIfInBounds k (resetPort s.platform.mode k (s.ports.getD k .reset)))[k] = _
    rw [Vector.getElem_setIfInBounds_self, hget, resetPort, retrain, htrains]
  · exact Vector.getElem_setIfInBounds_ne _ (Ne.symm hne)

/-! ### Coherent writes of the host (R98) -/

theorem hostCxlCacheWrite_writes {a : Nat} {bs : List Byte}
    (hhost : ((granules a bs.length).all fun g => isHostPa (8 * g) && hostPort (8 * g) < 2) = true) (hok : memOk s = true)
    (hcomp : ∀ l ∈ s.ms.comp, ∀ b, a ≤ b → b < a + bs.length → l.1 ≠ b / 256) :
    ∃ t, exec (.hostCxlCacheWrite a bs) s = .next t ∧ readPa t deviceView false a bs.length = bs
      ∧ ∀ b, b < a ∨ a + bs.length ≤ b → Memory.byte t.ms.mem b = Memory.byte s.ms.mem b := by
  have hwritten := plainWritten_writePa hok (0, 0) none a bs
  have hlines : ∀ g ∈ granules a bs.length, Tab.get? s.ms.comp (g / 32) = none := fun g hg => by
    obtain ⟨hn, hlo, hhi⟩ := mem_granules.1 hg
    have hline : max a (8 * g) / 256 = g / 32 := by omega
    exact get?_none_of_ne fun l hl => hline ▸ hcomp l hl (max a (8 * g)) (by omega) (by omega)
  refine ⟨noteWindows (writePa s (0, 0) none false a bs) a bs.length, ?_, hwritten.readPa hlines rfl,
    fun b hb => hwritten.byte_ne hb⟩
  change execHostCxlCacheWrite a bs s = _
  rw [execHostCxlCacheWrite, if_pos hhost]

end

/-- Settles O21: each event by what its own definition does. -/
theorem errorsAndResets : Obligations.ErrorsAndResets := by
  intro s g p good
  exact ⟨patrolScrub_corrected s, patrolScrub_mem s g, patrolScrub_wet s g, thermalThrottle_lowers, thermalThrottle_stays,
    throttleRecover_raises, throttleRecover_stays, fun hold htemp _ => thermalHold_holds hold htemp, thermalHold_stays,
    fun hold htemp _ => thermalHoldEnd_ends hold htemp, thermalHoldEnd_stays, rfl, deviceReset_resets s,
    fun k h hk => portReset_resets h hk, rfl, fun a bs hhost hok hcomp _ _ => hostCxlCacheWrite_writes hhost hok hcomp⟩

end Sys2Proof.Proofs
end

section
/-! PROOFS. The host's reads and writes of device memory, ATS and PRI (R395, R404, R409, R410). -/

namespace Sys2Proof.Proofs
open Sys2Proof Sys2Proof.Machine

/-! ### Accesses that lie in one line -/

theorem pieces_line {a n : Nat} (hn : 0 < n) (hline : a % 256 + n ≤ 256) : pieces a n = [(a, n)] := by
  have hk : min n (256 - a % 256) = n := Nat.min_eq_left (by omega)
  have hne : n ≠ 0 := Nat.ne_of_gt hn
  simp only [pieces, piecesFrom, hne, if_false, hk, Nat.sub_self, if_true]

/-- Of an access that lies in one line the only unit met is that of its address. -/
theorem sealedMet_line {s : State} {a n : Nat} (hline : a % 256 + n ≤ 256) :
    sealedMet s a n = (match Tab.get? s.unitOwner (a / 2 ^ 30) with
      | some p => if a < gddrEnd && isSealed s p then [p] else []
      | none => []) := by
  have hunit : (a + max n 1 - 1) / 2 ^ 30 - a / 2 ^ 30 = 0 := by omega
  have hend : decide (a / 2 ^ 30 < Config.numUnits) = decide (a < gddrEnd) := by
    exact decide_eq_decide.2 (Nat.div_lt_iff_lt_mul (Nat.two_pow_pos 30))
  rw [sealedMet, hunit]
  simp only [Nat.zero_add, List.range_one, List.filterMap_cons, List.filterMap_nil, Nat.add_zero, hend]
  cases Tab.get? s.unitOwner (a / 2 ^ 30) with
  | none => rfl
  | some p => cases hsealed : decide (a < gddrEnd) && isSealed s p <;> simp only [hsealed, Bool.false_eq_true, if_true, if_false] <;> rfl

theorem countRefused_open {s : State} {a n : Nat} (hline : a % 256 + n ≤ 256)
    (hopen : ∀ p, Tab.get? s.unitOwner (a / 2 ^ 30) = some p → isSealed s p = false) : countRefused s a n = s := by
  rw [countRefused, sealedMet_line hline]
  cases howner : Tab.get? s.unitOwner (a / 2 ^ 30) with
  | none => rfl
  | some p => simp [hopen p howner]

/-- What a function may reach is no sealed partition's. -/
theorem open_of_hostUnit {s : State} {fn a p : Nat} {cxl : Bool} (h : hostUnit s fn a cxl = some p) :
    ∀ q, Tab.get? s.unitOwner (a / 2 ^ 30) = some q → isSealed s q = false := by
  intro q hq
  rw [hostUnit, hq] at h
  dsimp only at h
  split at h
  · rename_i hif
    simp only [Bool.and_eq_true, Bool.not_eq_true'] at hif
    exact hif.1.1.1.2
  · cases h

theorem hostUnit_sealed {s : State} {fn a p : Nat} (cxl : Bool) (howner : Tab.get? s.unitOwner (a / 2 ^ 30) = some p)
    (hsealed : isSealed s p = true) : hostUnit s fn a cxl = none := by
  rw [hostUnit, howner]
  exact if_neg (by simp [hsealed])

/-! ### The access (R404, R410) -/

section
variable {s : State} {fn a n : Nat}

/-- A host read of one line, where what it meets is not counted. -/
theorem hostRead_line (hfn : fn < 4) (hrun : s.platform.mode = .running) (hn : 0 < n) (hline : a % 256 + n ≤ 256)
    (hopen : ∀ p, Tab.get? s.unitOwner (a / 2 ^ 30) = some p → isSealed s p = false) :
    let bad := (hostUnit s fn a false).isSome && (granules a n).any (hostPoison s)
    ∃ t, exec (.hostMemoryAccess fn a false none n false) s = .next t
      ∧ t.out = s.out ++ [.hostRead fn (hostReadPiece s fn false (a, n)) bad] ∧ t.ms = s.ms ∧ t.parts = s.parts := by
  have hguard : (decide (4 ≤ fn) || s.platform.mode != .running) = false := by simp [hrun, Nat.not_le.2 hfn]
  have hfresh : (useFresh s a n).out = s.out ∧ (useFresh s a n).ms = s.ms ∧ (useFresh s a n).parts = s.parts := by
    unfold useFresh
    split <;> exact ⟨rfl, rfl, rfl⟩
  refine ⟨{ useFresh s a n with out := (useFresh s a n).out ++ [.hostRead fn (hostReadPiece s fn false (a, n)) _] }, ?_,
    by rw [hfresh.1], hfresh.2.1, hfresh.2.2⟩
  change execHostMemoryAccess fn a false none n false s = _
  simp only [execHostMemoryAccess, countRefused_open hline hopen, hguard, Bool.false_eq_true, if_false, pieces_line hn hline, List.any_cons,
    List.any_nil, Bool.or_false, List.flatMap_cons, List.flatMap_nil, List.append_nil]

/-- A host write of one line, where what it meets is not counted. -/
theorem hostWrite_line (hfn : fn < 4) (hrun : s.platform.mode = .running) {bs : List Byte} (hn : 0 < bs.length)
    (hline : a % 256 + bs.length ≤ 256) :
    exec (.hostMemoryAccess fn a false (some bs) 0 false) s =
      .next (hostWritePiece (countRefused s a bs.length) fn false false a bs) := by
  have hguard : (decide (4 ≤ fn) || s.platform.mode != .running) = false := by simp [hrun, Nat.not_le.2 hfn]
  have hall : slice bs (a - a) bs.length = bs := by rw [Nat.sub_self, slice, List.drop_zero, List.take_length]
  change execHostMemoryAccess fn a false (some bs) 0 false s = _
  simp only [execHostMemoryAccess, hguard, Bool.false_eq_true, if_false, pieces_line hn hline, List.foldl_cons, List.foldl_nil, hall]

theorem hostRead_owned (hfn : fn < 4) (hrun : s.platform.mode = .running) (hn : 0 < n) (hline : a % 256 + n ≤ 256) {p : Nat}
    (hunit : hostUnit s fn a false = some p) (hclean : ∀ g ∈ granules a n, hostPoison s g = false) :
    ∃ t, exec (.hostMemoryAccess fn a false none n false) s = .next t
      ∧ t.out = s.out ++ [.hostRead fn (hostBytes s a n) false] ∧ t.ms = s.ms
      ∧ (s.ms.late = [] → hostBytes s a n = readPa s deviceView false a n) := by
  obtain ⟨t, hexec, hout, hms, -⟩ := hostRead_line hfn hrun hn hline (open_of_hostUnit hunit)
  have hbad : (granules a n).any (hostPoison s) = false := List.any_eq_false.2 fun g hg => by simp [hclean g hg]
  rw [hostReadPiece, hunit, hbad] at hout
  refine ⟨t, hexec, hout, hms, fun hlate => ?_⟩
  refine congrArg (slice · (a % 8) n) (List.flatMap_congr fun g _ => ?_)
  rw [jobGranule_nobody rfl, sharedGranule, lateFor_none (by simp [hlate]), hostGranule, hostLate, hlate]
  rfl

theorem hostWrite_owned (hfn : fn < 4) (hrun : s.platform.mode = .running) (hok : memOk s = true) {p : Nat}
    (hunit : hostUnit s fn a false = some p) {bs : List Byte} (hn : 0 < bs.length) (hline : a % 256 + bs.length ≤ 256)
    (hcomp : ∀ l ∈ s.ms.comp, l.1 ≠ a / 256) :
    ∃ t, exec (.hostMemoryAccess fn a false (some bs) 0 false) s = .next t
      ∧ readPa t deviceView false a bs.length = bs ∧ hostBytes t a bs.length = bs
      ∧ (∀ b, b < a ∨ a + bs.length ≤ b → Memory.byte t.ms.mem b = Memory.byte s.ms.mem b) ∧ t.out = s.out := by
  have hwritten := plainWritten_writePa hok (p, 0) none a bs
  have hlines : ∀ g ∈ granules a bs.length, Tab.get? s.ms.comp (g / 32) = none := fun g hg => by
    obtain ⟨-, hlo, hhi⟩ := mem_granules.1 hg
    rw [show g / 32 = a / 256 by omega]
    exact get?_none_of_ne hcomp
  refine ⟨writePa s (p, 0) none false a bs, ?_, hwritten.readPa hlines rfl, hwritten.hostBytes hlines,
    fun b hb => hwritten.byte_ne hb, ?_⟩
  · rw [hostWrite_line hfn hrun hn hline, countRefused_open hline (open_of_hostUnit hunit), hostWritePiece, hunit]
    rfl
  · rw [show writePa s (p, 0) none false a bs = { s with ms := (writePa s (p, 0) none false a bs).ms } from msOnly_writePa ..]

theorem hostAccess_dropped (hfn : fn < 4) (hrun : s.platform.mode = .running) (hn : 0 < n) (hline : a % 256 + n ≤ 256)
    (hunit : hostUnit s fn a false = none)
    (hopen : ∀ p, Tab.get? s.unitOwner (a / 2 ^ 30) = some p → isSealed s p = false) :
    (∃ t, exec (.hostMemoryAccess fn a false none n false) s = .next t
        ∧ t.out = s.out ++ [.hostRead fn (List.replicate n 0xFF) false] ∧ t.ms = s.ms ∧ t.parts = s.parts)
      ∧ ∀ bs : List Byte, bs.length = n → exec (.hostMemoryAccess fn a false (some bs) 0 false) s = .next s := by
  constructor
  · obtain ⟨t, hexec, hout, hms, hparts⟩ := hostRead_line hfn hrun hn hline hopen
    rw [hostReadPiece, hunit] at hout
    exact ⟨t, hexec, hout, hms, hparts⟩
  · rintro bs rfl
    rw [hostWrite_line hfn hrun hn hline, countRefused_open hline hopen, hostWritePiece, hunit]

theorem hostWrite_sealed (hfn : fn < 4) (hrun : s.platform.mode = .running) {bs : List Byte} (hn : 0 < bs.length)
    (hline : a % 256 + bs.length ≤ 256) {p : Nat} (howner : Tab.get? s.unitOwner (a / 2 ^ 30) = some p)
    (hsealed : isSealed s p = true) (hend : a < gddrEnd) :
    ∃ t, exec (.hostMemoryAccess fn a false (some bs) 0 false) s = .next t ∧ t.ms = s.ms
      ∧ (getPart t p).refused = satInc (getPart s p).refused := by
  have hcount : countRefused s a bs.length = modPart s p fun x => { x with refused := satInc x.refused } := by
    rw [countRefused, sealedMet_line hline, howner]
    simp [hend, hsealed]
  have hstill : isSealed (modPart s p fun x => { x with refused := satInc x.refused }) p = true := by
    rw [isSealed, getPart_modPart_self]
    exact hsealed
  refine ⟨modPart s p fun x => { x with refused := satInc x.refused }, ?_, rfl, by rw [getPart_modPart_self]⟩
  rw [hostWrite_line hfn hrun hn hline, hcount, hostWritePiece, hostUnit_sealed (s := modPart s p _) false howner hstill]

end

/-! ### Translations of the host (R395) -/

theorem atsInvalidate_drops {s : State} {p g : Nat} (h : Tab.get? s.ownOwner (312 + namedPort g) = some p) :
    ∃ t, exec (.atsInvalidate p g) s = .next t ∧ (∀ e ∈ t.ms.ats, e.page ≠ g)
      ∧ (∀ e, e.page ≠ g → (e ∈ t.ms.ats ↔ e ∈ s.ms.ats)) ∧ t = { s with ms := { s.ms with ats := t.ms.ats } } := by
  refine ⟨modMs s fun m => { m with ats := m.ats.filter fun e => e.page != g }, ?_, fun e he => ?_, fun e hne => ?_, rfl⟩
  · change execAtsInvalidate p g s = _
    rw [execAtsInvalidate, if_pos (by rw [h]; exact beq_self_eq_true _)]
  · exact bne_iff_ne.1 (List.mem_filter.1 he).2
  · exact ⟨fun he => (List.mem_filter.1 he).1, fun he => List.mem_filter.2 ⟨he, bne_iff_ne.2 hne⟩⟩

theorem NatSet.has_lt {t : NatSet} {k : Nat} (h : ∀ i ∈ t, k < i) : NatSet.has t k = false := by
  cases t with
  | nil => rfl
  | cons i t =>
    have := h i (List.mem_cons_self ..)
    rw [NatSet.has, if_neg (by omega), if_pos this]

/-- What is taken out of a rising set is not in it. -/
theorem NatSet.has_del_self {t : NatSet} (h : t.Pairwise (· < ·)) (k : Nat) : NatSet.has (NatSet.del t k) k = false := by
  induction t with
  | nil => rfl
  | cons i t ih =>
    obtain ⟨hi, ht⟩ := List.pairwise_cons.1 h
    rw [NatSet.del]
    split
    · rename_i hik
      exact NatSet.has_lt (hik ▸ hi)
    · rename_i hik
      split
      · rename_i hlt
        rw [NatSet.has, if_neg hik, if_pos hlt]
      · rename_i hlt
        rw [NatSet.has, if_neg hik, if_neg hlt, ih ht]

theorem priResponse_answers {s : State} (hsent : s.ms.priSent.Pairwise (· < ·)) (habsent : s.ms.hostAbsent.Pairwise (· < ·))
    {g : Nat} (h : NatSet.has s.ms.priSent g = true) :
    (∃ t, exec (.priResponse g true) s = .next t ∧ NatSet.has t.ms.priSent g = false
        ∧ NatSet.has t.ms.hostAbsent g = false ∧ t.ms.mem = s.ms.mem)
      ∧ ∃ t, exec (.priResponse g false) s = .next t ∧ NatSet.has t.ms.priSent g = false
        ∧ (∀ w ∈ waitersFor s g, (w, g) ∈ t.ms.priRefused) ∧ t.ms.hostAbsent = s.ms.hostAbsent
        ∧ t.ms.mem = s.ms.mem := by
  have hexec (granted : Bool) : exec (.priResponse g granted) s = .next (modMs s fun m =>
      { m with
        priSent := NatSet.del m.priSent g
        hostAbsent := if granted then NatSet.del m.hostAbsent g else m.hostAbsent
        priWaiting := m.priWaiting.filter fun e => e.2 != g
        priRefused := m.priRefused.filter (fun e => e.2 != g)
          ++ if granted then [] else (waitersFor s g).map fun w => (w, g) }) := by
    change execPriResponse g granted s = _
    rw [execPriResponse, if_pos h]
  exact ⟨⟨_, hexec true, NatSet.has_del_self hsent g, NatSet.has_del_self habsent g, rfl⟩,
    ⟨_, hexec false, NatSet.has_del_self hsent g,
      fun w hw => List.mem_append.2 (.inr (List.mem_map.2 ⟨w, hw, rfl⟩)), rfl, rfl⟩⟩

theorem priResponse_stray {s : State} {g : Nat} (granted : Bool) (h : NatSet.has s.ms.priSent g = false) :
    exec (.priResponse g granted) s = .next s := by
  change execPriResponse g granted s = _
  rw [execPriResponse, if_neg (by rw [h]; exact Bool.false_ne_true)]

theorem hostMemory_holds : Say.HostMemory := by
  intro s fn a n hfn hrun hn hline hok hsent habsent
  refine ⟨fun p hunit hclean => ⟨hostRead_owned hfn hrun hn hline hunit hclean, ?_⟩,
    fun hunit hopen => hostAccess_dropped hfn hrun hn hline hunit hopen, ?_, fun p g h => atsInvalidate_drops h,
    fun g h => priResponse_answers hsent habsent h, fun g granted h => priResponse_stray granted h⟩
  · rintro bs rfl hcomp
    exact hostWrite_owned hfn hrun hok hunit hn hline hcomp
  · rintro p bs rfl howner hsealed hend
    exact hostWrite_sealed hfn hrun hn hline howner hsealed hend

end Sys2Proof.Proofs
end

section
/-! PROOFS. The codecs: their control words, coded frames and records to decode (R227, R228, R419). -/

namespace Sys2Proof.Proofs
open Sys2Proof Sys2Proof.Machine

/-! ### What the accesses of a codec leave as it is -/

theorem MsOnly.ftqs {s t : State} (h : MsOnly s t) : t.ftqs = s.ftqs := by rw [show t = { s with ms := t.ms } from h]

theorem msOnly_ringPut (s : State) (c : Codec) (at_ : Nat) (bs : List Byte) : MsOnly s (ringPut s c at_ bs) :=
  msOnly_foldl _ (fun _ _ => msOnly_writePa ..) _ _

/-- What each step of a fold that may fail keeps, the fold keeps. -/
theorem foldl_option_bind_keeps {α β : Type} (P : β → Prop) (f : β → α → Option β) (hf : ∀ x a y, P x → f x a = some y → P y)
    (l : List α) (x : Option β) (y : β) (hx : ∀ z, x = some z → P z)
    (h : l.foldl (fun r a => r.bind fun x => f x a) x = some y) : P y := by
  induction l generalizing x with
  | nil => exact hx y h
  | cons a l ih =>
    refine ih _ (fun z hz => ?_) h
    obtain ⟨w, hw, hfw⟩ := Option.bind_eq_some_iff.1 hz
    exact hf w a z (hx w hw) hfw

theorem msOnly_writeIpa {s t : State} {p ipa : Nat} {bs : List Byte} (h : writeIpa s p ipa bs = some t) : MsOnly s t := by
  refine foldl_option_bind_keeps (MsOnly s) _ (fun x a y hx hy => ?_) _ (some s) t (fun z hz => Option.some.inj hz ▸ .refl s) h
  split at hy
  · cases hy
  · split at hy
    · cases hy
    · exact Option.some.inj hy ▸ hx.trans (msOnly_writePa ..)

theorem devOnly_ringWrite {s t : State} {p ipa : Nat} {bs : List Byte} (h : ringWrite s p ipa bs = .ok t) : DevOnly s t := by
  unfold ringWrite at h
  split at h
  · rename_i hw
    exact Except.ok.inj h ▸ (msOnly_writeIpa hw).dev
  · cases h

theorem devOnly_metaWrite (s : State) (b : Bulk) (x : Xl) (o : Nat) (bs : List Byte) : DevOnly s (metaWrite s b x o bs) :=
  (msOnly_writePa ..).dev

section
variable {b : Bulk} (hb : Bulk.Plain b)
include hb

theorem devOnly_returnPage {s t : State} {va : Word} {page : Nat} (h : returnPage s b va page = .ok t) : DevOnly s t := by
  obtain ⟨p, -, h⟩ := Except.of_bind_ok h
  obtain ⟨u, hu, h⟩ := Except.of_bind_ok h
  exact Except.ok.inj h ▸ (devOnly_writeAll hb hu).trans (devOnly_metaWrite ..)

theorem devOnly_clearRecord {s t : State} {va : Word} {i page : Nat} (h : clearRecord s b va i page = .ok t) :
    DevOnly s t := by
  obtain ⟨u, hu, h⟩ := Except.of_bind_ok h
  obtain ⟨p, -, h⟩ := Except.of_bind_ok h
  obtain ⟨w, hw, h⟩ := Except.of_bind_ok h
  obtain ⟨n, -, h⟩ := Except.of_bind_ok h
  exact Except.ok.inj h ▸ ((devOnly_returnPage hb hu).trans (devOnly_writeAll hb hw)).trans (devOnly_metaWrite ..)

theorem devOnly_appendRecord {s t : State} {va : Word} {pa : Nat} {k : KvBits} (h : appendRecord s b va pa k = .ok t) :
    DevOnly s t := by
  obtain ⟨p, -, h⟩ := Except.of_bind_ok h
  obtain ⟨_, -, h⟩ := Except.of_bind_ok h
  obtain ⟨u, hu, h⟩ := Except.of_bind_ok h
  have hlisted := (devOnly_writeAll hb hu).trans (devOnly_metaWrite u b p.x 0x24 (leBytes 4 (p.retTail + 1)))
  dsimp only at h
  split at h
  · exact hlisted.trans (devOnly_clearRecord hb h)
  · exact Except.ok.inj h ▸ hlisted.trans (msOnly_modMs ..).dev

theorem devOnly_retireAll {s t : State} {pool : Word} {vas : List Word} (h : retireAll s b pool vas = .ok t) :
    DevOnly s t := by
  refine foldl_bind_keeps (DevOnly s) _ (fun x va y hx hy => ?_) vas s t (.refl s) h
  obtain ⟨⟨e, k⟩, -, hy⟩ := Except.of_bind_ok hy
  dsimp only at hy
  split at hy
  · exact Except.ok.inj hy ▸ hx
  · exact (hx.trans (devOnly_metaWrite x b e 0 _)).trans (devOnly_appendRecord hb hy)

end

theorem devOnly_retireDecoded {s t : State} {p st : Nat} {old : SlotHead} (h : retireDecoded s p st old = .ok t) :
    DevOnly s t := by
  unfold retireDecoded at h
  split at h
  · exact Except.ok.inj h ▸ .refl s
  · obtain ⟨gone, -, h⟩ := Except.of_bind_ok h
    exact devOnly_retireAll (plain_dispatcher ..) h

theorem devOnly_ringPublish {s t : State} {p : Nat} {r : Ring} {h : SlotHead} (hr : ringPublish s p r h none = .ok t) :
    DevOnly s t := by
  obtain ⟨u, hu, hr⟩ := Except.of_bind_ok hr
  obtain ⟨w, hw, hr⟩ := Except.of_bind_ok hr
  obtain rfl := Except.ok.inj hw
  exact (devOnly_ringWrite hu).trans (devOnly_ringWrite hr)

theorem devOnly_publishDecoded {s t : State} {p st frame : Nat} {samples : List Byte}
    (h : publishDecoded s p st frame samples = .ok t) : DevOnly s t := by
  obtain ⟨r, -, h⟩ := Except.of_bind_ok h
  obtain ⟨old, -, h⟩ := Except.of_bind_ok h
  obtain ⟨u, hu, h⟩ := Except.of_bind_ok h
  obtain ⟨w, hw, h⟩ := Except.of_bind_ok h
  exact ((devOnly_retireDecoded hu).trans (devOnly_ringWrite hw)).trans (devOnly_ringPublish h)

/-! ### Registers of a codec -/

@[simp] theorem getCodec_setCodec_self (s : State) (enc : Bool) (e : Nat) (c : Codec) :
    getCodec (setCodec s enc e c) enc e = c := by
  cases enc <;> exact Tab.getD_set_self ..

@[simp] theorem getFtq_setCodec (s : State) (enc : Bool) (e : Nat) (c : Codec) (q : Nat) :
    getFtq (setCodec s enc e c) q = getFtq s q := by
  cases enc <;> rfl

@[simp] theorem getCodec_modFtq (s : State) (q : Nat) (f : FrameTileQueue → FrameTileQueue) (enc : Bool) (e : Nat) :
    getCodec (modFtq s q f) enc e = getCodec s enc e := rfl

theorem getCodec_takeTiles (s : State) (q : Nat) (enc : Bool) (e : Nat) : getCodec (takeTiles s q) enc e = getCodec s enc e := by
  unfold takeTiles
  split <;> rfl

theorem takeTiles_keeps (s : State) (q : Nat) : (takeTiles s q).ms = s.ms ∧ (takeTiles s q).ownOwner = s.ownOwner := by
  unfold takeTiles
  split <;> exact ⟨rfl, rfl⟩

theorem takeTiles_ftq (s : State) (q : Nat) :
    (getFtq (takeTiles s q) q).closed = (getFtq s q).closed
      ∧ ∀ x ∈ (getFtq (takeTiles s q) q).tiles, ∃ y ∈ (getFtq s q).tiles, x.frame = y.frame := by
  unfold takeTiles
  split
  · rw [getFtq_modFtq_self]
    refine ⟨rfl, fun x hx => ?_⟩
    obtain ⟨y, hy, rfl⟩ := List.mem_map.1 hx
    exact ⟨y, hy, rfl⟩
  · exact ⟨rfl, fun x hx => ⟨x, hx, rfl⟩⟩

theorem frameVector_off {s : State} {c : Codec} (h : c.ifv.getLsbD 8 = false) : frameVector s c = s :=
  if_neg (by rw [h]; exact Bool.false_ne_true)

/-- The registers of encoder `e` in BAR0 (R411). -/
theorem writeBar0_encoder {s : State} {e off : Nat} (hrun : s.platform.mode = .running) (he : e < 8) (hoff : off < 0x40)
    (v : BitVec 32) : writeBar0 s 0 (0x3000 + 0x40 * e + off) v = writeCodec s true e off v := by
  have hcodec : (0x3000 + 0x40 * e + off - 0x3000) / 0x40 = e := by omega
  have hreg : (0x3000 + 0x40 * e + off) % 0x40 = off := by omega
  rw [writeBar0, if_neg (by rw [hrun]; decide), if_neg (by omega), if_neg (by rw [hrun]; decide), if_neg (by omega),
    if_neg (by simp only [Bool.and_eq_true, decide_eq_true_eq]; omega),
    if_pos (by simp only [Bool.and_eq_true, decide_eq_true_eq, true_and]; omega), hcodec, hreg]

theorem execEncoderEnable_eq {s : State} {e : Nat} (hrun : s.platform.mode = .running) (he : e < 8) (v : Word) :
    exec (.encoderEnable e v) s = .next (writeCodecCtl s true e ((v ||| 1).setWidth 32)) := by
  change execEncoderEnable e v s = _
  rw [execEncoderEnable, if_pos (by omega)]
  exact congrArg _ (writeBar0_encoder hrun he (off := 0) (by omega) _)

theorem execRheadWrite_eq {s : State} {e : Nat} (hrun : s.platform.mode = .running) (he : e < 8) (w : BitVec 32) :
    exec (.rheadWrite e w) s = .next (setCodec s true e { getCodec s true e with rhead := w }) := by
  change execRheadWrite e w s = _
  rw [execRheadWrite, if_pos (by omega)]
  have h := writeBar0_encoder hrun he (off := 0x24) (by omega) w
  rw [show 0x3000 + 0x40 * e + 0x24 = 0x3024 + 0x40 * e by omega] at h
  exact congrArg _ h

/-- A control word that sets EN. -/
theorem bitOf_enableWord (v : Word) : bitOf (((v ||| 1).setWidth 32 &&& 0x3FFFF : BitVec 32).setWidth 64) 0 = true := by
  simp [bitOf]

theorem bitOf_clearEnable (w : Word) : bitOf (w &&& ~~~1#64) 0 = false := by
  simp [bitOf]

section
variable {s : State} {e : Nat} {v : BitVec 32} {new : Codec}
  (hnew : new = { getCodec s true e with ctl := (v &&& 0x3FFFF).setWidth 64 }) (hen : bitOf new.ctl 0 = true)
include hnew hen

theorem writeCodecCtl_refused (hok : encoderOk s e new = false) :
    writeCodecCtl s true e v = setCodec s true e { new with ctl := new.ctl &&& ~~~1#64 } := by
  subst hnew
  have hen : bitOf ((v &&& 0x3FFFF : BitVec 32).setWidth 64) 0 = true := hen
  simp only [writeCodecCtl, if_true, hok, hen, Bool.not_false, Bool.and_true, bitOf_clearEnable, Bool.false_and, Bool.and_false,
    Bool.false_eq_true, if_false]

theorem writeCodecCtl_enabled (hok : encoderOk s e new = true) :
    writeCodecCtl s true e v = takeTiles (setCodec s true e
      (if bitOf (getCodec s true e).ctl 0 then new else { new with frames := 0, memory := 0 })) (bitsOf new.ctl 3 5) := by
  subst hnew
  have hen : bitOf ((v &&& 0x3FFFF : BitVec 32).setWidth 64) 0 = true := hen
  cases hold : bitOf (getCodec s true e).ctl 0 <;>
    simp only [writeCodecCtl, if_true, hok, hen, hold, Bool.not_true, Bool.not_false, Bool.and_false, Bool.and_true, Bool.false_eq_true,
      if_false]

end

/-! ### Frames -/

/-- The tiles of closed frame `f` of the queue of encoder `e`. -/
def encodedTiles (s : State) (e : Nat) (f : BitVec 16) : List (Nat × Nat × List Byte) :=
  frameTiles (getSdesc s (bitsOf (getCodec s true e).ctl 8 8)) (getFtq s (bitsOf (getCodec s true e).ctl 3 5)) f

/-- The record that encoder `e` makes of frame `f`. -/
def encodedRecord (s : State) (e : Nat) (f : BitVec 16) : List Byte :=
  let c := getCodec s true e
  codedRecord s.time f (keyFrame c) (Config.codedFrame c.memory (codecInputs s c (bitsOf c.ctl 8 8)) (encodedTiles s e f))

/-- Encoder `e` once it has coded frame `f`. -/
def afterFrame (s : State) (e : Nat) (f : BitVec 16) : Codec :=
  let c := getCodec s true e
  { c with
    rtail := c.rtail + BitVec.ofNat 32 (encodedRecord s e f).length, frames := c.frames + 1
    memory := Config.codedKeep c.memory (codecInputs s c (bitsOf c.ctl 8 8)) (encodedTiles s e f) }

/-- The record of frame `f` is in the ring. -/
def recordPut (s : State) (e : Nat) (f : BitVec 16) : State :=
  let c := getCodec s true e
  setCodec (ringPut s c c.rtail.toNat (encodedRecord s e f)) true e (afterFrame s e f)

theorem getCodec_recordPut (s : State) (e : Nat) (f : BitVec 16) : getCodec (recordPut s e f) true e = afterFrame s e f := by
  rw [recordPut, getCodec_setCodec_self]

theorem getFtq_recordPut (s : State) (e : Nat) (f : BitVec 16) (q : Nat) : getFtq (recordPut s e f) q = getFtq s q := by
  have hms := msOnly_ringPut s (getCodec s true e) (getCodec s true e).rtail.toNat (encodedRecord s e f)
  rw [recordPut, getFtq_setCodec, getFtq, hms.ftqs, getFtq]

/-- The length of the record at RTAIL of decoder `e`, its header and its padding with it. -/
def decodedLength (s : State) (e : Nat) : Nat :=
  let d := getCodec s false e
  (ofLe ((ringBytes s d d.rtail.toNat 16).take 4) + 31) / 16 * 16

/-- Decoder `e` once it has taken the record at RTAIL. -/
def afterRecord (s : State) (e : Nat) : Codec :=
  let d := getCodec s false e
  { d with
    rtail := d.rtail + BitVec.ofNat 32 (decodedLength s e), frames := d.frames + 1
    memory := Config.decodedKeep d.memory (codecInputs s d (bitsOf d.ctl 3 5))
      (ringBytes s d d.rtail.toNat (decodedLength s e)) }

theorem encodeFrame_off {s : State} {e : Nat} (h : bitOf (getCodec s true e).ctl 0 = false) :
    exec (.encodeFrame e) s = .next s := by
  change execEncodeFrame e s = _
  simp only [execEncodeFrame, h, Bool.false_eq_true, if_false]

/-- Nothing is coded where the record has no room in the ring or its owner no link. -/
theorem encodeFrame_stays {s : State} {e : Nat} {f : BitVec 16} {fs : List (BitVec 16)}
    (hon : bitOf (getCodec s true e).ctl 0 = true)
    (hclosed : (getFtq s (bitsOf (getCodec s true e).ctl 3 5)).closed = f :: fs)
    (hno : (getCodec s true e).rsize.toNat < ((getCodec s true e).rtail - (getCodec s true e).rhead).toNat
        + (encodedRecord s e f).length ∨ ringLinked s true e = false) :
    exec (.encodeFrame e) s = .next s := by
  change execEncodeFrame e s = _
  simp only [execEncodeFrame, hon, if_true, hclosed]
  exact congrArg _ (if_pos (by simpa [encodedRecord, encodedTiles] using hno))

theorem encodeFrame_codes {s : State} {e : Nat} {f : BitVec 16} {fs : List (BitVec 16)}
    (hon : bitOf (getCodec s true e).ctl 0 = true)
    (hclosed : (getFtq s (bitsOf (getCodec s true e).ctl 3 5)).closed = f :: fs)
    (hnoVector : (getCodec s true e).ifv.getLsbD 8 = false)
    (hroom : ((getCodec s true e).rtail - (getCodec s true e).rhead).toNat + (encodedRecord s e f).length
        ≤ (getCodec s true e).rsize.toNat) (hlink : ringLinked s true e = true) :
    ∃ t, exec (.encodeFrame e) s = .next t ∧ getCodec t true e = afterFrame s e f
      ∧ (getFtq t (bitsOf (getCodec s true e).ctl 3 5)).closed = fs
      ∧ ∀ x ∈ (getFtq t (bitsOf (getCodec s true e).ctl 3 5)).tiles, x.frame ≠ f := by
  generalize hq : bitsOf (getCodec s true e).ctl 3 5 = q at *
  have hexec : exec (.encodeFrame e) s = .next (takeTiles (modFtq (recordPut s e f) q (dropFrame f)) q) := by
    change execEncodeFrame e s = _
    simp only [execEncodeFrame, hon, if_true, hq, hclosed]
    refine congrArg _ ((if_neg ?_).trans (by rw [frameVector_off hnoVector]; subst hq; rfl))
    subst hq
    simpa [encodedRecord, encodedTiles, hlink] using hroom
  obtain ⟨hleft, htiles⟩ := takeTiles_ftq (modFtq (recordPut s e f) q (dropFrame f)) q
  rw [getFtq_modFtq_self, getFtq_recordPut] at hleft htiles
  refine ⟨_, hexec, ?_, ?_, fun x hx => ?_⟩
  · rw [getCodec_takeTiles, getCodec_modFtq, getCodec_recordPut]
  · rw [hleft, dropFrame, hclosed]
    rfl
  · obtain ⟨y, hy, hxy⟩ := htiles x hx
    rw [hxy]
    exact bne_iff_ne.1 (List.mem_filter.1 hy).2

/-! ### Records to decode -/

theorem paddedLength (len : Nat) : 16 + len + 15 = len + 31 := by omega

section
variable {s : State} {e p : Nat} (howner : Tab.get? s.ownOwner (304 + e) = some p)
include howner

theorem decodeRecord_stays
    (hno : ((getCodec s false e).rhead - (getCodec s false e).rtail).toNat < decodedLength s e ∨ ringLinked s false e = false) :
    exec (.decodeRecord e) s = .next s := by
  change execDecodeRecord e s = _
  simp only [execDecodeRecord, howner, paddedLength]
  refine congrArg _ (if_neg fun h => ?_)
  simp only [Bool.and_eq_true, decide_eq_true_eq] at h
  obtain ⟨⟨-, hthere⟩, hlink⟩ := h
  obtain hshort | hdown := hno
  · exact absurd hthere (Nat.not_le.2 hshort)
  · exact absurd hlink (by rw [hdown]; exact Bool.false_ne_true)

theorem decodeRecord_takes (hon : bitOf (getCodec s false e).ctl 0 = true)
    (hnoVector : (getCodec s false e).ifv.getLsbD 8 = false)
    (hthere : decodedLength s e ≤ ((getCodec s false e).rhead - (getCodec s false e).rtail).toNat)
    (hlink : ringLinked s false e = true) :
    ∃ t, exec (.decodeRecord e) s = .next t ∧ getCodec t false e = afterRecord s e := by
  have hhead : 16 ≤ ((getCodec s false e).rhead - (getCodec s false e).rtail).toNat := by
    rw [decodedLength] at hthere
    omega
  let u := setCodec s false e (afterRecord s e)
  obtain ⟨t, hexec, hdev⟩ : ∃ t, exec (.decodeRecord e) s = .next t ∧ DevOnly u t := by
    change ∃ t, execDecodeRecord e s = .next t ∧ _
    simp only [execDecodeRecord, howner, paddedLength]
    refine ⟨_, congrArg _ ((if_pos ?_).trans (frameVector_off hnoVector)), ?_⟩
    · simp only [Bool.and_eq_true, decide_eq_true_eq]
      exact ⟨⟨⟨hon, hhead⟩, hthere⟩, hlink⟩
    · split
      · rename_i hpub
        exact devOnly_publishDecoded hpub
      · exact .refl u
  refine ⟨t, hexec, ?_⟩
  rw [show t = { u with ms := t.ms, fresh := t.fresh, parts := t.parts } from hdev]
  exact getCodec_setCodec_self s false e (afterRecord s e)

end

theorem codecs_hold : Say.Codecs := by
  intro s e v he hrun
  refine ⟨fun hno => ?_, fun hok => ?_, execRheadWrite_eq hrun he, fun f fs hon hclosed hnoVector => ⟨?_, ?_⟩, encodeFrame_off,
    fun p howner hon hnoVector => ⟨?_, ?_⟩⟩
  · rw [execEncoderEnable_eq hrun he, writeCodecCtl_refused rfl (bitOf_enableWord v) hno]
  · refine ⟨_, (execEncoderEnable_eq hrun he v).trans (congrArg _ (writeCodecCtl_enabled rfl (bitOf_enableWord v) hok)), ?_,
      takeTiles_keeps ..⟩
    rw [getCodec_takeTiles, getCodec_setCodec_self]
  · exact encodeFrame_stays hon hclosed
  · exact encodeFrame_codes hon hclosed hnoVector
  · exact decodeRecord_takes howner hon hnoVector
  · exact decodeRecord_stays howner

/-- Settles O58: the host reaches the units of a partition that owns its port and is not sealed, and a codec takes and
leaves whole records of its ring. -/
theorem hostMemory : Obligations.HostMemory := ⟨hostMemory_holds, codecs_hold⟩

end Sys2Proof.Proofs
end

section
/-! PROOFS. Which operation an engine starts, and when entries leave the token table (R158, R162, R165, R168). -/

namespace Sys2Proof.Proofs
open Sys2Proof Sys2Proof.Machine

/-! ### Entries of a table with rising keys -/

theorem Tab.le_of_mem {α : Type} {t : Tab α} {lo : Nat} (h : Tab.wfFrom lo t = true) {x : Nat × α} (hx : x ∈ t) :
    lo ≤ x.1 := by
  induction t generalizing lo with
  | nil => cases hx
  | cons y t ih =>
    simp only [Tab.wfFrom, Bool.and_eq_true, decide_eq_true_eq] at h
    rcases List.mem_cons.1 hx with rfl | hx
    · exact h.1
    · exact (h.1.trans (Nat.le_succ _)).trans (ih h.2 hx)

/-- Each entry is found under its key. -/
theorem Tab.get?_of_mem {α : Type} {t : Tab α} {lo : Nat} (h : Tab.wfFrom lo t = true) {x : Nat × α} (hx : x ∈ t) :
    Tab.get? t x.1 = some x.2 := by
  induction t generalizing lo with
  | nil => cases hx
  | cons y t ih =>
    obtain ⟨i, y⟩ := y
    simp only [Tab.wfFrom, Bool.and_eq_true, decide_eq_true_eq] at h
    rcases List.mem_cons.1 hx with rfl | hx
    · simp [Tab.get?]
    · have hlt : i < x.1 := Tab.le_of_mem h.2 hx
      rw [Tab.get?, if_neg hlt.ne, if_neg hlt.not_gt]
      exact ih h.2 hx

/-- Setting an entry that is there changes it where it stands. -/
theorem Tab.set_eq_map {α : Type} {t : Tab α} {lo k : Nat} {x : α} (h : Tab.wfFrom lo t = true)
    (hx : Tab.get? t k = some x) (v : α) : Tab.set t k v = t.map fun y => if y.1 = k then (k, v) else y := by
  induction t generalizing lo with
  | nil => cases hx
  | cons y t ih =>
    obtain ⟨i, y⟩ := y
    simp only [Tab.wfFrom, Bool.and_eq_true, decide_eq_true_eq] at h
    by_cases hi : i = k
    · have hrest : (t.map fun y => if y.1 = k then (k, v) else y) = t :=
        (List.map_congr_left fun z hz => if_neg (by have := Tab.le_of_mem h.2 hz; omega)).trans (List.map_id t)
      simp [Tab.set, hi, hrest]
    · have hlt : ¬ k < i := fun hlt => by simp [Tab.get?, hi, hlt] at hx
      rw [Tab.get?, if_neg hi, if_neg hlt] at hx
      simp [Tab.set, hi, hlt, ih h.2 hx]

/-! ### The oldest of some entries (R149) -/

/-- The older of the entry found so far, if there is one, and another. -/
def elder (next : Nat) : Option (Nat × TokenEntry) → Nat × TokenEntry → Option (Nat × TokenEntry)
  | none, e => some e
  | some x, e => if ageOf next x.2.seq < ageOf next e.2.seq then some e else some x

theorem oldest_eq_foldl (next : Nat) (l : List (Nat × TokenEntry)) : oldest next l = l.foldl (elder next) none := by
  unfold oldest
  congr 1
  funext b e
  cases b <;> rfl

/-- The entry than which every other is younger is found, whatever younger one has been found so far. -/
theorem foldl_elder_eq {next : Nat} {x : Nat × TokenEntry} (l : List (Nat × TokenEntry)) (b : Option (Nat × TokenEntry))
    (hb : b = some x ∨ x ∈ l ∧ ∀ y, b = some y → ageOf next y.2.seq < ageOf next x.2.seq)
    (hl : ∀ y ∈ l, y = x ∨ ageOf next y.2.seq < ageOf next x.2.seq) : l.foldl (elder next) b = some x := by
  induction l generalizing b with
  | nil => exact hb.resolve_right fun hn => List.not_mem_nil hn.1
  | cons z l ih =>
    refine ih _ ?_ fun y hy => hl y (List.mem_cons_of_mem z hy)
    rcases hb with rfl | ⟨hmem, hyoung⟩
    · refine .inl (if_neg (Nat.not_lt.2 ?_))
      exact (hl z (List.mem_cons_self ..)).elim (fun h => by rw [h]) Nat.le_of_lt
    · rcases hl z (List.mem_cons_self ..) with hzx | hz
      · left
        rw [hzx]
        cases b with
        | none => rfl
        | some y => exact if_pos (hyoung y rfl)
      · have hne : x ≠ z := fun h => Nat.lt_irrefl _ (h ▸ hz)
        refine .inr ⟨(List.mem_cons.1 hmem).resolve_left hne, fun y hy => ?_⟩
        cases b with
        | none => exact Option.some.inj hy ▸ hz
        | some w =>
          rw [elder] at hy
          split at hy
          · exact Option.some.inj hy ▸ hz
          · exact hyoung y hy

theorem oldest_eq {next : Nat} {l : List (Nat × TokenEntry)} {x : Nat × TokenEntry} (hx : x ∈ l)
    (h : ∀ y ∈ l, y = x ∨ ageOf next y.2.seq < ageOf next x.2.seq) : oldest next l = some x := by
  rw [oldest_eq_foldl]
  exact foldl_elder_eq l none (.inr ⟨hx, fun _ hy => absurd hy (by simp)⟩) h

/-! ### ENGINE_SELECT (R162) -/

/-- Of two READY operations of an engine the one that it takes first: the priority, then the age. -/
def Precedes (next : Nat) (e x : TokenEntry) : Prop :=
  x.prio < e.prio ∨ x.prio = e.prio ∧ ageOf next x.seq < ageOf next e.seq

theorem chosen_eq {s : State} {core slot : Nat} {e : TokenEntry} {eng : Engine} (hmem : (slot, e) ∈ tokens s core)
    (hready : e.state = .ready) (heng : engineOf e.instr = some eng)
    (hbest : ∀ x ∈ tokens s core, x = (slot, e) ∨
      (x.2.state = .ready → engineOf x.2.instr = some eng → Precedes (getCore s core).nextSeq e x.2)) :
    chosen s core eng = some (slot, e) := by
  unfold chosen
  dsimp only
  generalize hl : ((tokens s core).filter fun x => x.2.state == .ready && engineOf x.2.instr == some eng) = l
  have hin : (slot, e) ∈ l := by rw [← hl]; exact List.mem_filter.2 ⟨hmem, by simp [hready, heng]⟩
  have hfirst : ∀ x ∈ l, x = (slot, e) ∨ Precedes (getCore s core).nextSeq e x.2 := by
    intro x hx
    rw [← hl] at hx
    obtain ⟨hx, hof⟩ := List.mem_filter.1 hx
    simp only [Bool.and_eq_true, beq_iff_eq] at hof
    exact (hbest x hx).imp_right fun h => h hof.1 hof.2
  have hhigher (p : Nat) (hp : e.prio.toNat < p) :
      oldest (getCore s core).nextSeq (l.filter fun x => x.2.prio.toNat == p) = none := by
    have hnone : (l.filter fun x => x.2.prio.toNat == p) = [] := by
      refine List.filter_eq_nil_iff.2 fun x hx => ?_
      rcases hfirst x hx with rfl | hlt | ⟨heq, -⟩
      · simpa using hp.ne
      · simpa using ((BitVec.lt_def.1 hlt).trans hp).ne
      · simpa [heq] using hp.ne
    rw [hnone]
    rfl
  have hown : oldest (getCore s core).nextSeq (l.filter fun x => x.2.prio.toNat == e.prio.toNat) = some (slot, e) := by
    refine oldest_eq (List.mem_filter.2 ⟨hin, by simp⟩) fun x hx => ?_
    obtain ⟨hx, hprio⟩ := List.mem_filter.1 hx
    refine (hfirst x hx).imp_right fun h => h.elim (fun hlt => ?_) (·.2)
    exact absurd (BitVec.lt_def.1 hlt) (by rw [beq_iff_eq.1 hprio]; exact Nat.lt_irrefl _)
  have hlevels : e.prio.toNat = 3 ∨ e.prio.toNat = 2 ∨ e.prio.toNat = 1 ∨ e.prio.toNat = 0 := by
    have := e.prio.isLt
    omega
  rcases hlevels with h | h | h | h <;> rw [h] at hown hhigher <;> simp [hown, hhigher]

/-- The operations of these engines but ATTN make neither translations nor requests as they start. -/
theorem prepareOp_eq_self {s : State} {o : OpRun} {eng : Engine} (heng : engineOf o.e.instr = some eng)
    (hattn : ∀ m, o.e.instr ≠ .attn m) (h : eng = .matrix ∨ eng = .copy ∨ eng = .media) : prepareOp s o = .ok s := by
  have hkv : engineOf o.e.instr ≠ some .kv := by rw [heng]; rcases h with rfl | rfl | rfl <;> exact nofun
  have hcoll : engineOf o.e.instr ≠ some .collective := by rw [heng]; rcases h with rfl | rfl | rfl <;> exact nofun
  unfold prepareOp
  split
  · rfl
  · split
    case h_5 m hi => exact absurd hi (hattn m)
    case h_10 => rfl
    all_goals
      rename_i hi
      rw [hi] at hkv hcoll
      simp [engineOf] at hkv hcoll

theorem engineSelect_takes {s : State} {core slot : Nat} {e : TokenEntry} {eng : Engine} (hfree : engineFree s core eng = true)
    (hchosen : chosen s core eng = some (slot, e)) (heng : engineOf e.instr = some eng) (hattn : ∀ m, e.instr ≠ .attn m)
    (h : eng = .matrix ∨ eng = .copy ∨ eng = .media) :
    exec (.engineSelect core eng) s = .next (modTok s core slot fun e => { e with state := .running }) := by
  change execEngineSelect core eng s = _
  unfold execEngineSelect
  rw [hfree, if_pos rfl, hchosen]
  dsimp only
  rw [prepareOp_eq_self heng hattn h]

theorem engineFree_eq_true_iff {s : State} {core : Nat} {eng : Engine} : engineFree s core eng = true ↔
    eng ≠ .matrix ∨ ∀ x ∈ tokens s core, x.2.state = .running → engineOf x.2.instr ≠ some .matrix := by
  simp [engineFree]

theorem engineSelect_holds : Say.EngineSelect := by
  intro s core slot e eng hmem hwf hready heng hattn hof age hbest
  have hget : Tab.get? (tokens s core) slot = some e := Tab.get?_of_mem hwf hmem
  have hchosen : chosen s core eng = some (slot, e) := by
    refine chosen_eq hmem hready heng fun x hx => ?_
    by_cases hslot : x.1 = slot
    · have hsame := Tab.get?_of_mem hwf hx
      rw [hslot, hget] at hsame
      exact .inl (Prod.ext hslot (Option.some.inj hsame).symm)
    · exact .inr fun hr he => hbest x hx hslot hr he
  refine ⟨fun hfree => ⟨_, engineSelect_takes (engineFree_eq_true_iff.2 hfree) hchosen heng hattn hof, ?_, rfl, rfl, rfl⟩, ?_⟩
  · rw [tokens, modTok, getCore_modCore_self]
    exact (Tab.modify_eq_set _ _ _ _ hget).trans (Tab.set_eq_map hwf hget _)
  · rintro rfl ⟨x, hx, hrunning, hmatrix⟩
    have hbusy : engineFree s core .matrix = false := by
      refine Bool.eq_false_iff.2 fun hfree => ?_
      exact (engineFree_eq_true_iff.1 hfree).elim (fun h => h rfl) fun h => h x hx hrunning hmatrix
    change execEngineSelect core .matrix s = _
    unfold execEngineSelect
    rw [hbusy]
    rfl

/-! ### Entries that leave the table (R158, R165, R168) -/

/-- The entry of a slot has left the table. -/
def slotFreed (s : State) (core slot : Nat) : State := modCore s core fun c => { c with tokens := Tab.del c.tokens slot }

theorem releaseTok_unrecorded {s : State} {core slot : Nat} {e : TokenEntry} (hget : Tab.get? (tokens s core) slot = some e)
    (h : ¬(e.det = true ∧ e.state = .faulted)) : releaseTok s core slot = slotFreed s core slot := by
  unfold releaseTok
  rw [hget]
  dsimp only
  rw [if_neg (by simpa using h)]
  rfl

/-- The record of a detached operation that failed is written as its entry leaves. -/
theorem releaseTok_recorded {s : State} {core slot : Nat} {e : TokenEntry} (hget : Tab.get? (tokens s core) slot = some e)
    (hdet : e.det = true) (hfault : e.state = .faulted) :
    releaseTok s core slot = slotFreed (queueFault s e.ids.part (tokenRecord slot e)) core slot := by
  unfold releaseTok
  rw [hget]
  dsimp only
  rw [if_pos (by simp [hdet, hfault])]
  rfl

theorem ownsAcc_eq {s : State} {slot id : Nat} {e : TokenEntry} {j : Job} (hholder : e.holder = some id)
    (hj : residentJob s id = some j) : ownsAcc s slot e = !(accsOwned j slot e.seq).isEmpty := by
  rw [ownsAcc, hholder, Option.bind_some, hj]

theorem tokenRelease_held {s : State} {core slot id : Nat} {e : TokenEntry} {j : Job}
    (hget : Tab.get? (tokens s core) slot = some e) (hholder : e.holder = some id) (hj : residentJob s id = some j) :
    exec (.tokenRelease core slot) s = .next (if e.state = .done ∧ detMode j = false ∧ accsOwned j slot e.seq = [] then
      releaseTok s core slot else s) := by
  change execTokenRelease core slot s = _
  unfold execTokenRelease
  rw [hget]
  dsimp only
  rw [hholder, Option.bind_some, hj]
  simp [ownsAcc_eq hholder hj, and_assoc]

theorem orphanReap_eq {s : State} {core slot : Nat} {e : TokenEntry} (hget : Tab.get? (tokens s core) slot = some e) :
    exec (.orphanReap core slot) s = .next (if reapDue s core e = true then releaseTok s core slot else s) := by
  change execOrphanReap core slot s = _
  unfold execOrphanReap
  rw [hget]

theorem reapDue_iff {s : State} {core : Nat} {e : TokenEntry} : reapDue s core e = true ↔
    e.holder = none ∧ e.state.inFlight = false ∧ e.endedAt + (getPart s e.ids.part).orphtmo.toNat ≤ cycleOf s core := by
  simp [reapDue, and_assoc]

theorem tableEvents_hold : Say.TableEvents := by
  intro s core slot e hget gone
  refine ⟨fun j id hholder hj hdone hdet hown => ?_, fun j id hholder hj hkept => ?_,
    fun hholder hended hdue => ?_, fun hkept => ?_⟩
  · rw [tokenRelease_held hget hholder hj, if_pos ⟨hdone, hdet, hown⟩,
      releaseTok_unrecorded hget fun h => by simp [hdone] at h]
    rfl
  · rw [tokenRelease_held hget hholder hj, if_neg]
    rintro ⟨hdone, hdet, -⟩
    exact hkept.elim (fun h => h hdone) fun h => Bool.false_ne_true (hdet.symm.trans h)
  · rw [orphanReap_eq hget, if_pos (reapDue_iff.2 ⟨hholder, hended, hdue⟩)]
    refine ⟨fun h => ?_, fun h => ?_⟩
    · rw [releaseTok_unrecorded hget h]
      rfl
    · rw [releaseTok_recorded hget h.1 h.2]
      rfl
  · rw [orphanReap_eq hget, if_neg]
    intro hdue
    obtain ⟨hholder, hended, hcycle⟩ := reapDue_iff.1 hdue
    rcases hkept with h | h | h
    · exact h hholder
    · exact Bool.false_ne_true (hended.symm.trans h)
    · exact Nat.not_lt.2 hcycle h

/-- Settles O51: an engine takes the READY operation that precedes the others, and an entry leaves the table by a release
or by a reaping alone. -/
theorem engineEvents : Obligations.EngineEvents := ⟨engineSelect_holds, tableEvents_hold⟩

end Sys2Proof.Proofs
end

section
/-! PROOFS. The token that a token instruction names: foreign, forward, retired, none (R149, R151, R190). -/

namespace Sys2Proof.Proofs
open Sys2Proof Sys2Proof.Machine

/-! ### Outcomes of instructions that any stream may issue (R42) -/

section
variable {i : Instr} {g : Option Guard} {body : State → Exec Effect} {s : State} {r : Result}

/-- Past the checks of stream and guard, what the body answers decides. -/
theorem any_outcome (hexec : r = issue i allStrms g free body s) (hsize : i.size = 4) (hready : ready s 4 g = true) :
    r = outcome i s (body s) := by
  obtain ⟨-, hp, hg⟩ := (ready_iff _ _ _).1 hready
  rw [hexec, issue_body i _ g _ _ s (by rwa [hsize]) (allStrms_contains _) rfl hg]

theorem any_wait (hexec : r = issue i allStrms g free body s) (hsize : i.size = 4) (hready : ready s 4 g = true)
    {k : WaitKind} (hbody : body s = .error (.wait k)) : r = Say.blocked s k := by
  rw [any_outcome hexec hsize hready, hbody]
  rfl

theorem any_trap (hexec : r = issue i allStrms g free body s) (hsize : i.size = 4) (hready : ready s 4 g = true)
    {c : Cause} {v t : Word} (hbody : body s = .error (.trap c v t)) : r = .next (trapNow s i c v t) := by
  rw [any_outcome hexec hsize hready, hbody]
  rfl

/-- A first part done, the instruction traps. -/
theorem any_trapIn (hexec : r = issue i allStrms g free body s) (hsize : i.size = 4) (hready : ready s 4 g = true)
    {u : State} {c : Cause} {v t : Word} (hbody : body s = .error (.trapIn u c v t)) : r = .next (trapNow u i c v t) := by
  rw [any_outcome hexec hsize hready, hbody]
  rfl

end

/-! ### Judging (R149, R151) -/

theorem slotOf_eq (v : Word) : v.toNat % 2 ^ 32 / 2 ^ 24 = Say.slotOf v := by
  simp only [Say.slotOf, BitVec.extractLsb'_toNat, Nat.shiftRight_eq_div_pow]
  omega

theorem seqOf_eq (v : Word) : v.toNat % 2 ^ 32 % 2 ^ 24 = Say.seqOf v := by
  simp only [Say.seqOf, BitVec.extractLsb'_toNat, Nat.shiftRight_eq_div_pow]
  omega

theorem slotOf_mod (v : Word) : Say.slotOf v % 256 = Say.slotOf v := Nat.mod_eq_of_lt (BitVec.isLt _)

section
variable {s : State} {a : Reg}

/-- Whether a sequence number that no entry has is one still to come, or one that has been (R151). -/
def ofGone (s : State) (q : Nat) : Judgement := if Say.age s q = 0 ∨ 2 ^ 23 < Say.age s q then .forward else .retired

/-- A token whose sequence number is not 0, by the entry of its slot. -/
theorem judgeCur_eq (hseq : Say.seqOf (rd s a) ≠ 0) : judgeCur s ((rd s a).toNat % 2 ^ 32) =
    match Tab.get? (curCore s).tokens (Say.slotOf (rd s a)) with
    | some e =>
      if e.seq = Say.seqOf (rd s a) then
        (if e.holder = some (curJob s).ids.jobid then .live (Say.slotOf (rd s a)) e else .foreign)
      else ofGone s (Say.seqOf (rd s a))
    | none => ofGone s (Say.seqOf (rd s a)) := by
  have hne : (rd s a).toNat % 2 ^ 32 ≠ 0 := fun h => hseq (by rw [← seqOf_eq, h]; rfl)
  rw [judgeCur, judge, if_neg hne]
  dsimp only
  rw [slotOf_eq, slotOf_mod, seqOf_eq, if_neg hseq]
  simp only [Bool.or_eq_true, decide_eq_true_eq]
  rfl

theorem judgeCur_live {e : TokenEntry} (h : Say.liveTok s a e) :
    judgeCur s ((rd s a).toNat % 2 ^ 32) = .live (Say.slotOf (rd s a)) e := by
  obtain ⟨hseq, hget, heq, hholder⟩ := h
  rw [judgeCur_eq hseq, hget]
  dsimp only
  rw [if_pos heq, if_pos hholder]

theorem judgeCur_gone (h : Say.goneTok s a) :
    judgeCur s ((rd s a).toNat % 2 ^ 32) = ofGone s (Say.seqOf (rd s a)) := by
  obtain ⟨hseq, hother⟩ := h
  rw [judgeCur_eq hseq]
  cases hget : Tab.get? (curCore s).tokens (Say.slotOf (rd s a)) with
  | none => rfl
  | some e => exact if_neg (hother e hget)

theorem judgeCur_held {e : TokenEntry} (hseq : Say.seqOf (rd s a) ≠ 0)
    (hget : Tab.get? (curCore s).tokens (Say.slotOf (rd s a)) = some e) (heq : e.seq = Say.seqOf (rd s a))
    (hholder : e.holder ≠ some (curJob s).ids.jobid) : judgeCur s ((rd s a).toNat % 2 ^ 32) = .foreign := by
  rw [judgeCur_eq hseq, hget]
  dsimp only
  rw [if_pos heq, if_neg hholder]

/-- Sequence number 0 names no operation, whatever its slot (R149). -/
theorem judgeCur_unnumbered (ht : (rd s a).toNat % 2 ^ 32 ≠ 0) (hseq : Say.seqOf (rd s a) = 0) :
    judgeCur s ((rd s a).toNat % 2 ^ 32) = .foreign := by
  rw [judgeCur, judge, if_neg ht]
  dsimp only
  rw [seqOf_eq, if_pos hseq]

/-! ### The operand of a token instruction (R190) -/

theorem tokenOperand_foreign (h : judgeCur s ((rd s a).toNat % 2 ^ 32) = .foreign) :
    tokenOperand s a = .error (.trap .tokStale 0 (rd s a)) := by
  rw [tokenOperand]
  rw [h]

theorem tokenOperand_forward (h : judgeCur s ((rd s a).toNat % 2 ^ 32) = .forward) :
    tokenOperand s a = .error (.trap .fwdWait 0 (rd s a)) := by
  rw [tokenOperand]
  rw [h]

theorem tokenOperand_live {e : TokenEntry} (h : Say.liveTok s a e) :
    tokenOperand s a = .ok (some (Say.slotOf (rd s a), e)) := by
  rw [tokenOperand]
  rw [judgeCur_live h]

/-- A token of no operation, or of one that has left the table. -/
theorem tokenOperand_passed (h : (rd s a).toNat % 2 ^ 32 = 0
      ∨ Say.goneTok s a ∧ Say.age s (Say.seqOf (rd s a)) ≠ 0 ∧ Say.age s (Say.seqOf (rd s a)) ≤ 2 ^ 23) :
    tokenOperand s a = .ok none := by
  rw [tokenOperand]
  rcases h with h0 | ⟨hgone, hage, hold⟩
  · rw [h0]
    rfl
  · rw [judgeCur_gone hgone, ofGone, if_neg (by omega)]

end

/-- A token instruction judges its operand first, and traps where the judgement asks for it (R190). -/
theorem tokenInstr_traps {i : Instr} {g : Guard} {a : Reg} {s : State} {c : Cause} {v t : Word}
    (hi : Say.tokenOf i = some (g, a)) (hready : ready s 4 (some g) = true)
    (h : tokenOperand s a = .error (.trap c v t)) : exec i s = .next (trapNow s i c v t) := by
  have hissue : i.size = 4 ∧ ∃ k : State → Option (Nat × TokenEntry) → Exec Effect,
      exec i s = issue i allStrms (some g) free (fun s => tokenOperand s a >>= k s) s := by
    unfold Say.tokenOf at hi
    split at hi <;> cases hi <;> refine ⟨rfl, ?_⟩ <;> unfold exec <;> exact ⟨_, rfl⟩
  obtain ⟨hsize, k, hexec⟩ := hissue
  exact any_trap hexec hsize hready (by rw [h]; rfl)

/-! ### Waits on operations that have left the table (R110, R117, R371) -/

theorem msOnly_waitedWrites (s : State) (jobid : Nat) (t : Strm) (slot seq : Nat) :
    MsOnly s (waitedWrites s jobid t slot seq) := .ite (.refl s) (msOnly_modMs s _)

theorem msOnly_waited (s : State) (a : Reg) : MsOnly s (Say.waited s a) :=
  (msOnly_waitedWrites ..).trans (msOnly_acquireSide ..)

/-- Naming a token commits nothing where no commit is pending. -/
theorem pendingByToken_none {s : State} (t : Nat) (h : ∀ x ∈ (curJob s).accs.toList, x.pending = []) :
    pendingByToken s t = s := by
  unfold pendingByToken
  split
  · refine modCurJob_eq_self s _ ?_
    have haccs : (curJob s).accs.map (fun a => a.commitPending fun v => v.toNat == t) = (curJob s).accs := by
      ext i hi
      have hnil := h ((curJob s).accs[i]) (Vector.mem_toList_iff.2 (Vector.getElem_mem hi))
      simp [commitPending_nil _ _ hnil]
    rw [haccs]
  · rfl

/-- No commit is waited for where none is pending. -/
theorem tokenWaits_eq_false {s : State} (t : Nat) (h : Say.noPending s) : tokenWaits s t = false := by
  have hwaits (sel : Nat → BitVec 32 → Bool) : pendingWaits s s.cur.core (curJob s).ids.jobid sel = false := by
    unfold pendingWaits
    split
    · rename_i j hj
      obtain ⟨x, hx, rfl⟩ := Option.map_eq_some_iff.1 hj
      have hnone : ((List.range 8).filter fun n => (x.2.accs.getD n .start).pending.any fun p => sel n p.1) = [] := by
        refine List.filter_eq_nil_iff.2 fun n hn => ?_
        have hlt : n < 8 := List.mem_range.1 hn
        have hnil := h x (List.mem_of_find?_eq_some hx) (by simpa using List.find?_some hx) _
          (Vector.mem_toList_iff.2 (Vector.getElem_mem hlt))
        simp [Vector.getD, hlt, hnil]
      dsimp only
      rw [hnone]
      refine List.any_eq_false.2 fun e _ => ?_
      unfold priorReads
      split <;> simp
    · rfl
  rw [tokenWaits, hwaits, Bool.and_false]

/-- The wait is over, and the stream has waited for what the operation had written. -/
theorem goneEnds_eq {s : State} {a : Reg} (hq : quiet s = true) (h : Say.noPending s) :
    goneEnds s ((rd s a).toNat % 2 ^ 32) = Say.waited s a := by
  have hframe := (msOnly_waitedWrites s (curJob s).ids.jobid s.cur.strm (Say.slotOf (rd s a)) (Say.seqOf (rd s a))).frame
  rw [goneEnds, slotOf_eq, seqOf_eq, pendingByToken_none _ ?_]
  · rfl
  · rw [hframe.curJob]
    exact h _ (curJob_mem (quiet_job hq)) rfl

section
variable {s : State} {g : Guard} {a : Reg} (hready : ready s 4 (some g) = true) (hop : tokenOperand s a = .ok none)
include hready hop

theorem twait_passed (h : Say.noPending s) : exec (.twait g a) s = .next (retire 4 (Say.waited s a)) := by
  obtain ⟨hq, hp, -⟩ := (ready_iff _ _ _).1 hready
  change execTwait g a s = _
  refine any_next rfl rfl hready ?_ ((msOnly_waited s a).frame.keeps hq hp)
  simp only [hop, exec_ok_bind, tokenWaits_eq_false _ h, Bool.not_false, waitFor, if_true, goneEnds_eq hq h]

theorem ttest_passed (p : BitVec 4) (h : Say.noPending s) :
    exec (.ttest g p a) s = .next (retire 4 (wp (Say.waited s a) p true)) := by
  obtain ⟨hq, hp, -⟩ := (ready_iff _ _ _).1 hready
  have hk := (msOnly_waited s a).frame.keeps hq hp
  change execTtest g p a s = _
  refine any_next rfl rfl hready ?_ (hk.trans (keeps_wp _ 4 p true hk.quiet hk.plain))
  simp only [hop, exec_ok_bind, tokenWaits_eq_false _ h, Bool.not_false, waitFor, if_true, goneEnds_eq hq h]

theorem tstat_passed (d : Reg) : exec (.tstat g d a) s = .next (retire 4 (wr s d 0)) := by
  obtain ⟨hq, hp, -⟩ := (ready_iff _ _ _).1 hready
  change execTstat g d a s = _
  refine any_next rfl rfl hready ?_ (keeps_wr s 4 d 0 hq hp)
  simp only [hop, exec_ok_bind]

/-- The other token instructions do nothing. -/
theorem cncl_passed : exec (.cncl g a) s = .next (retire 4 s) := by
  obtain ⟨hq, hp, -⟩ := (ready_iff _ _ _).1 hready
  change execCncl g a s = _
  exact any_next rfl rfl hready (by simp only [hop, exec_ok_bind]) (.refl s 4 hq hp)

theorem dtch_passed (b : Reg) : exec (.dtch g a b) s = .next (retire 4 s) := by
  obtain ⟨hq, hp, -⟩ := (ready_iff _ _ _).1 hready
  change execDtch g a b s = _
  exact any_next rfl rfl hready (by simp only [hop, exec_ok_bind]) (.refl s 4 hq hp)

theorem tpri_passed (b : Reg) : exec (.tpri g a b) s = .next (retire 4 s) := by
  obtain ⟨hq, hp, -⟩ := (ready_iff _ _ _).1 hready
  change execTpri g a b s = _
  exact any_next rfl rfl hready (by simp only [hop, exec_ok_bind]) (.refl s 4 hq hp)

theorem tfree_passed : exec (.tfree g a) s = .next (retire 4 s) := by
  obtain ⟨hq, hp, -⟩ := (ready_iff _ _ _).1 hready
  change execTfree g a s = _
  exact any_next rfl rfl hready (by simp only [hop, exec_ok_bind]) (.refl s 4 hq hp)

end

/-- Settles O11: each judgement but LIVE, and what the token instructions do by it. -/
theorem tokenOperands : Obligations.TokenOperands := by
  intro s i g a hi hready t q stale
  have ht : t = (rd s a).toNat % 2 ^ 32 := by simp [t]
  refine ⟨fun hne hq => ?_, fun e hne hget heq hholder => ?_, fun hgone hage => ?_, fun hpassed hpending => ?_⟩
  · exact tokenInstr_traps hi hready (tokenOperand_foreign (judgeCur_unnumbered (ht ▸ hne) hq))
  · exact tokenInstr_traps hi hready (tokenOperand_foreign (judgeCur_held hne hget heq hholder))
  · refine tokenInstr_traps hi hready (tokenOperand_forward ?_)
    rw [judgeCur_gone hgone, ofGone, if_pos hage]
  · have hop := tokenOperand_passed (ht ▸ hpassed)
    unfold Say.tokenOf at hi
    split at hi <;> cases hi
    · exact twait_passed hready hop hpending
    · exact ttest_passed hready hop _ hpending
    · exact cncl_passed hready hop
    · exact dtch_passed hready hop _
    · exact tstat_passed hready hop _
    · exact tpri_passed hready hop _
    · exact tfree_passed hready hop

end Sys2Proof.Proofs
end

section
/-! PROOFS. The token instructions on a LIVE operation that is not cancelled by them, and ADOPT (R153, R167, R191 to
R196). -/

namespace Sys2Proof.Proofs
open Sys2Proof Sys2Proof.Machine

/-! ### The entry that a token names -/

theorem tokenValue_operand (v : Word) :
    BitVec.ofNat 64 (tokenValue (Say.slotOf v) (Say.seqOf v)) = (v.setWidth 32).setWidth 64 := by
  refine BitVec.eq_of_toNat_eq ?_
  have h : tokenValue (Say.slotOf v) (Say.seqOf v) = v.toNat % 2 ^ 32 := by
    rw [tokenValue, ← slotOf_eq, ← seqOf_eq]
    omega
  simp only [h, BitVec.toNat_ofNat, BitVec.toNat_setWidth]

/-- A change of the one entry. -/
theorem modTok_eq_setTok {s : State} {slot : Nat} {e : TokenEntry} (f : TokenEntry → TokenEntry)
    (h : Tab.get? (curCore s).tokens slot = some e) : modTok s s.cur.core slot f = Say.setTok s slot (f e) := by
  have hset : Tab.modify (Tab.getD s.cores s.cur.core .reset).tokens slot f
      = Tab.set (Tab.getD s.cores s.cur.core .reset).tokens slot (f e) := Tab.modify_eq_set _ _ _ _ h
  simp only [modTok, Say.setTok, modCurCore, modCore, Tab.upd, hset]

theorem frame_setTok (s : State) (slot : Nat) (e : TokenEntry) : ExecFrame s (Say.setTok s slot e) := frame_modCore ..

theorem ExecFrame.curCore {s t : State} (h : ExecFrame s t) (hcores : t.cores = s.cores) : curCore t = curCore s := by
  rw [Machine.curCore, getCore, h.cur, hcores]
  rfl

theorem MsOnly.curCore {s t : State} (h : MsOnly s t) : curCore t = curCore s := h.frame.curCore h.cores

theorem not_done_of_failed {x : TokState} (h : x = .faulted ∨ x = .cancelled) : x.inFlight = false ∧ x ≠ .done := by
  rcases h with rfl | rfl <;> decide

theorem msOnly_cureLayer (s : State) (jobid slot seq : Nat) : MsOnly s (cureLayer s jobid slot seq) := by
  refine MsOnly.trans (t := discardLayer s jobid slot seq) (.ite (.refl s) (msOnly_modMs s _))
    (msOnly_foldl _ (fun u w => ?_) _ _)
  dsimp only
  split
  · exact (msOnly_writePa ..).trans (msOnly_modMs ..)
  · exact msOnly_writePa ..

/-! ### TWAIT, TTEST and TFREE on operations in flight (R191, R196) -/

section
variable {s : State} {g : Guard} {a : Reg} {e : TokenEntry} (hready : ready s 4 (some g) = true) (hlive : Say.liveTok s a e)
include hready hlive

theorem twait_inFlight (he : e.state.inFlight = true) : exec (.twait g a) s = Say.blocked s (.other (some 2080)) := by
  change execTwait g a s = _
  refine any_wait rfl rfl hready ?_
  simp only [tokenOperand_live hlive, exec_ok_bind, he, if_true]

theorem ttest_inFlight (p : BitVec 4) (he : e.state.inFlight = true) :
    exec (.ttest g p a) s = .next (retire 4 (wp s p false)) := by
  obtain ⟨hq, hp, -⟩ := (ready_iff _ _ _).1 hready
  change execTtest g p a s = _
  refine any_next rfl rfl hready ?_ (keeps_wp s 4 p false hq hp)
  simp only [tokenOperand_live hlive, exec_ok_bind, he, if_true]

theorem tfree_inFlight (he : e.state.inFlight = true) : exec (.tfree g a) s = Say.blocked s (.other (some 2080)) := by
  change execTfree g a s = _
  refine any_wait rfl rfl hready ?_
  simp only [tokenOperand_live hlive, exec_ok_bind, he, if_true]

end

/-! ### Waits on operations that are DONE (R161, R191) -/

/-- A wait on an operation that has ended, in the executing stream. -/
def waitedOn (s : State) (slot : Nat) (e : TokenEntry) : State :=
  waitedWrites s (curJob s).ids.jobid s.cur.strm slot e.seq

theorem msOnly_waitedOn (s : State) (slot : Nat) (e : TokenEntry) : MsOnly s (waitedOn s slot e) := msOnly_waitedWrites ..

/-- What a wait on a DONE operation leaves outside the C-stream. -/
def seenDone (s : State) (slot : Nat) (e : TokenEntry) : State :=
  sweepSeen (acquireSide (markWaited (waitedOn s slot e) ((slot, e.seq) :: e.ancestors)) 0) s.cur.core (curJob s).ids.jobid

theorem frame_markWaited (s : State) (ks : List (Nat × Nat)) : ExecFrame s (markWaited s ks) := frame_markSeen ..

theorem frame_seenDone (s : State) (slot : Nat) (e : TokenEntry) : ExecFrame s (seenDone s slot e) :=
  (((msOnly_waitedOn ..).frame.trans (frame_markWaited ..)).trans (msOnly_acquireSide ..).frame).trans (frame_sweepSeen ..)

/-- What an acquire of scope 0 does to the memory system hangs on the executing stream and its job alone. -/
theorem ms_acquireSide_congr {s t : State} (h : ExecFrame s t) (hms : t.ms = s.ms) :
    (acquireSide t 0).ms = (acquireSide s 0).ms := by
  have houtlives (x : EarlyRead) : x.outlives t 0 = x.outlives s 0 := by
    unfold EarlyRead.outlives
    rw [h.curJob, h.cur]
  simp only [acquireSide, acquirePlaces, if_neg (by decide : ¬1 ≤ 0), hms, houtlives, h.cur]
  by_cases he : s.ms.early.isEmpty = true
  · rw [if_pos he, if_pos he, hms]
  · rw [if_neg he, if_neg he]
    simp only [modMs, hms]

theorem ms_seenDone (s : State) (slot : Nat) (e : TokenEntry) :
    (seenDone s slot e).ms = (acquireSide (waitedOn s slot e) 0).ms := by
  rw [seenDone, ms_sweepSeen]
  exact ms_acquireSide_congr (frame_markWaited ..) (ms_markSeen ..)

/-- Whatever is left in a table when the entries seen by every stream are released was there before. -/
theorem mem_of_mem_sweepSeen {s : State} {core jobid c : Nat} {x : Nat × TokenEntry}
    (h : x ∈ tokens (sweepSeen s core jobid) c) : x ∈ tokens s c := by
  unfold sweepSeen at h
  split at h
  · split at h
    · by_cases hc : c = core
      · subst hc
        rw [tokens, getCore_modCore_self] at h
        exact (List.mem_filter.1 h).1
      · rwa [tokens, getCore_modCore_ne _ _ _ _ hc] at h
    · exact h
  · exact h

/-- The entry as a stream that sees it complete leaves it. -/
def seenEntry (t : Strm) (e : TokenEntry) : TokenEntry :=
  { e with seen := e.seen ||| 1#3 <<< strmIdx t, learned := e.learned ||| 1#3 <<< strmIdx t }

theorem mem_of_mem_markWaited {s : State} {ks : List (Nat × Nat)} (hne : ks ≠ []) {x : Nat × TokenEntry}
    (h : x ∈ tokens (markWaited s ks) s.cur.core) : ∃ e, (x.1, e) ∈ tokens s s.cur.core
      ∧ x.2 = if e.holder = some (curJob s).ids.jobid ∧ tokKey x.1 e.seq ∈ ks.map fun k => tokKey k.1 k.2 then
        seenEntry s.cur.strm e else e := by
  have hempty : (ks.map fun k => tokKey k.1 k.2).isEmpty = false := by
    cases ks with
    | nil => exact absurd rfl hne
    | cons k ks => rfl
  rw [markWaited, markSeen, hempty, if_neg Bool.false_ne_true] at h
  have hmem := mem_of_mem_sweepSeen h
  rw [tokens, getCore_modCore_self] at hmem
  obtain ⟨y, hy, rfl⟩ := List.mem_map.1 hmem
  refine ⟨y.2, ?_, ?_⟩
  · split <;> exact hy
  · simp only [Bool.and_eq_true, beq_iff_eq, List.contains_iff_mem]
    split <;> rfl

/-- The executing stream has seen the operation. -/
theorem seen_seenDone {s : State} {slot : Nat} {e x : TokenEntry} (hwf : Tab.wf (curCore s).tokens = true)
    (hget : Tab.get? (curCore s).tokens slot = some e) (hholder : e.holder = some (curJob s).ids.jobid)
    (hx : Tab.get? (curCore (seenDone s slot e)).tokens slot = some x) : x = seenEntry s.cur.strm e := by
  have hm := msOnly_waitedOn s slot e
  have hmem := Tab.mem_of_get? _ _ _ hx
  rw [curCore, (frame_seenDone s slot e).cur] at hmem
  have hmarked := mem_of_mem_sweepSeen hmem
  rw [tokens, getCore, (msOnly_acquireSide ..).cores, ← hm.cur] at hmarked
  obtain ⟨y, hy, hxy⟩ := mem_of_mem_markWaited (List.cons_ne_nil _ _) hmarked
  change (slot, y) ∈ (curCore (waitedOn s slot e)).tokens at hy
  rw [hm.curCore] at hy
  obtain rfl : e = y := Option.some.inj (hget.symm.trans (Tab.get?_of_mem hwf hy))
  rw [hm.frame.curJob, hm.cur, if_pos ⟨hholder, List.mem_map.2 ⟨(slot, e.seq), List.mem_cons_self .., rfl⟩⟩] at hxy
  exact hxy

theorem seenEntry_bit (t : Strm) (e : TokenEntry) : (seenEntry t e).seen.getLsbD (strmIdx t) = true := by
  cases t <;> simp [seenEntry, strmIdx]

theorem waitEnds_done {s : State} {slot : Nat} {e : TokenEntry} (hq : quiet s = true) (hc : s.cur.strm ≠ .c)
    (hdone : e.state = .done) (f : State → State) : waitEnds s slot e f = .ok (.next (f (seenDone s slot e))) := by
  have hm := (msOnly_waitedOn s slot e).frame
  have hframe := (hm.trans (frame_markWaited _ ((slot, e.seq) :: e.ancestors))).trans (msOnly_acquireSide _ 0).frame
  have hchalk := ((quiet_iff _).1 (hframe.keeps_quiet hq)).2.2.2.2.2.2
  have hmarked := (hm.trans (frame_markWaited _ ((slot, e.seq) :: e.ancestors))).cur
  unfold waitEnds
  dsimp only
  rw [if_pos hdone]
  change (if (decide ((waitedOn s slot e).cur.strm = .c) && _) = true then _ else _) = _
  rw [hm.cur, decide_eq_false hc, Bool.false_and, if_neg Bool.false_ne_true]
  change Except.ok (Effect.next (f (sweepSeen (noteWaited (acquireSide (if (markWaited (waitedOn s slot e) _).cur.strm = _
    then _ else markWaited (waitedOn s slot e) _) 0) slot e) (if (markWaited (waitedOn s slot e) _).cur.strm = _
    then _ else markWaited (waitedOn s slot e) _).cur.core (curJob (waitedOn s slot e)).ids.jobid))) = _
  rw [hmarked, if_neg hc, hmarked, noteWaited, hchalk, hm.curJob]
  rfl

section
variable {s : State} {g : Guard} {a : Reg} {e : TokenEntry} (hready : ready s 4 (some g) = true) (hlive : Say.liveTok s a e)
include hready hlive

theorem twait_done (hdone : e.state = .done) (hc : s.cur.strm ≠ .c) :
    exec (.twait g a) s = .next (retire 4 (seenDone s (Say.slotOf (rd s a)) e)) := by
  obtain ⟨hq, hp, -⟩ := (ready_iff _ _ _).1 hready
  change execTwait g a s = _
  refine any_next rfl rfl hready ?_ ((frame_seenDone ..).keeps hq hp)
  simp only [tokenOperand_live hlive, exec_ok_bind, hdone, TokState.inFlight, Bool.false_eq_true, if_false]
  exact waitEnds_done hq hc hdone id

theorem ttest_done (p : BitVec 4) (hdone : e.state = .done) (hc : s.cur.strm ≠ .c) :
    exec (.ttest g p a) s = .next (retire 4 (wp (seenDone s (Say.slotOf (rd s a)) e) p true)) := by
  obtain ⟨hq, hp, -⟩ := (ready_iff _ _ _).1 hready
  have hk := (frame_seenDone s (Say.slotOf (rd s a)) e).keeps hq hp
  change execTtest g p a s = _
  refine any_next rfl rfl hready ?_ (hk.trans (keeps_wp _ 4 p true hk.quiet hk.plain))
  simp only [tokenOperand_live hlive, exec_ok_bind, hdone, TokState.inFlight, Bool.false_eq_true, if_false]
  exact waitEnds_done hq hc hdone fun s => wp s p true

/-! ### TWAIT on operations that have failed (R191) -/

/-- An attached operation of the executing stream, its fault reported already. -/
theorem twait_reported (hfault : e.state = .faulted) (hdet : e.det = false) (hstrm : e.strm = s.cur.strm)
    (hreported : e.reported = true) : exec (.twait g a) s = .next (retire 4 (waitedOn s (Say.slotOf (rd s a)) e)) := by
  obtain ⟨hq, hp, -⟩ := (ready_iff _ _ _).1 hready
  have hm := (msOnly_waitedOn s (Say.slotOf (rd s a)) e).frame
  have hown : (e.strm != (waitedOn s (Say.slotOf (rd s a)) e).cur.strm) = false := by rw [hm.cur, hstrm, bne_self_eq_false]
  change execTwait g a s = _
  refine any_next rfl rfl hready ?_ (hm.keeps hq hp)
  simp only [tokenOperand_live hlive, exec_ok_bind, waitEnds, hfault, TokState.inFlight, Bool.false_eq_true, if_false,
    reduceCtorEq, hdet, Bool.false_or, hreported, if_true]
  exact if_neg (ne_true_of_eq_false hown)

/-- Its fault is delivered (R164). -/
theorem twait_delivers (hfault : e.state = .faulted) (hdet : e.det = false) (hstrm : e.strm = s.cur.strm)
    (hreported : e.reported = false) : exec (.twait g a) s =
      .next (takeTrap (Say.setTok (waitedOn s (Say.slotOf (rd s a)) e) (Say.slotOf (rd s a)) { e with reported := true }) s.cur
        (deferredTrap (Say.slotOf (rd s a)) e)) := by
  have hm := msOnly_waitedOn s (Say.slotOf (rd s a)) e
  have hget : Tab.get? (curCore (waitedOn s (Say.slotOf (rd s a)) e)).tokens (Say.slotOf (rd s a)) = some e := by
    rw [hm.curCore]
    exact hlive.2.1
  have hown : (e.strm != (waitedOn s (Say.slotOf (rd s a)) e).cur.strm) = false := by rw [hm.cur, hstrm, bne_self_eq_false]
  have hended : e.state.inFlight = false := by rw [hfault]; rfl
  have hends : waitEnds s (Say.slotOf (rd s a)) e id
      = .ok (deliver (waitedOn s (Say.slotOf (rd s a)) e) (Say.slotOf (rd s a)) e) := by
    simp only [waitEnds, hfault, reduceCtorEq, if_false, hdet, Bool.false_or, hreported, Bool.false_eq_true, if_true]
    exact if_neg (ne_true_of_eq_false hown)
  change execTwait g a s = _
  refine (any_outcome rfl rfl hready).trans ?_
  simp only [tokenOperand_live hlive, exec_ok_bind, hended, Bool.false_eq_true, if_false, hends]
  rw [deliver, outcome, report, ← hm.cur, modTok_eq_setTok _ hget]

/-! ### CNCL on operations that are DONE, TFREE (R192, R196) -/

theorem cncl_done (hdone : e.state = .done) : exec (.cncl g a) s = .next (retire 4 (acquireSide s 0)) := by
  obtain ⟨hq, hp, -⟩ := (ready_iff _ _ _).1 hready
  change execCncl g a s = _
  refine any_next rfl rfl hready ?_ ((msOnly_acquireSide s 0).frame.keeps hq hp)
  simp only [tokenOperand_live hlive, exec_ok_bind, hdone, TokState.inFlight, Bool.false_eq_true, if_false, if_true]

theorem tfree_releases (hended : e.state.inFlight = false) (hrecord : ¬(e.det = true ∧ e.state = .faulted))
    (hmay : e.state = .done ∧ accsOwned (curJob s) (Say.slotOf (rd s a)) e.seq = [] ∨ e.state ≠ .done ∧ e.reported = true) :
    exec (.tfree g a) s = .next (retire 4 (slotFreed s s.cur.core (Say.slotOf (rd s a)))) := by
  obtain ⟨hq, hp, -⟩ := (ready_iff _ _ _).1 hready
  change execTfree g a s = _
  refine any_next rfl rfl hready ?_ ((frame_modCore ..).keeps hq hp)
  simp only [tokenOperand_live hlive, exec_ok_bind, hended, Bool.false_eq_true, if_false]
  rw [← releaseTok_unrecorded hlive.2.1 hrecord]
  rcases hmay with ⟨hdone, hfree⟩ | ⟨hdone, hreported⟩
  · rw [if_pos hdone, hfree]
  · rw [if_neg hdone, if_pos hreported]

/-- An accumulator still names the operation. -/
theorem tfree_owns {n : Nat} {l : List Nat} (hdone : e.state = .done)
    (hown : accsOwned (curJob s) (Say.slotOf (rd s a)) e.seq = n :: l) :
    exec (.tfree g a) s
      = .next (trapNow s (.tfree g a) .accOwn (BitVec.ofNat 64 n) (((rd s a).setWidth 32).setWidth 64)) := by
  change execTfree g a s = _
  refine any_trap rfl rfl hready ?_
  simp only [tokenOperand_live hlive, exec_ok_bind, hdone, TokState.inFlight, Bool.false_eq_true, if_false, if_true, hown]
  rw [hlive.2.2.1, tokenValue_operand]

/-- A failure that has not been reported is reported by the trap. -/
theorem tfree_failed (hfailed : e.state = .faulted ∨ e.state = .cancelled) (hreported : e.reported = false) :
    exec (.tfree g a) s = .next (trapNow (Say.setTok s (Say.slotOf (rd s a)) { e with reported := true }) (.tfree g a) .async 0
      (((rd s a).setWidth 32).setWidth 64)) := by
  obtain ⟨hended, hdone⟩ := not_done_of_failed hfailed
  change execTfree g a s = _
  refine any_trapIn rfl rfl hready ?_
  simp only [tokenOperand_live hlive, exec_ok_bind, hended, Bool.false_eq_true, if_false, if_neg hdone, hreported]
  rw [report, modTok_eq_setTok _ hlive.2.1, hlive.2.2.1, tokenValue_operand]

/-! ### DTCH and TPRI (R193, R195) -/

theorem dtch_detaches (b : Reg) (hfoot : footAccs e.foot = []) :
    exec (.dtch g a b) s = .next (retire 4
      (Say.setTok (cureLayer s e.ids.jobid (Say.slotOf (rd s a)) e.seq) (Say.slotOf (rd s a))
        { e with det := true, name := (rd s b).setWidth 32 })) := by
  obtain ⟨hq, hp, -⟩ := (ready_iff _ _ _).1 hready
  have hm := msOnly_cureLayer s e.ids.jobid (Say.slotOf (rd s a)) e.seq
  have hget : Tab.get? (curCore (cureLayer s e.ids.jobid (Say.slotOf (rd s a)) e.seq)).tokens (Say.slotOf (rd s a))
      = some e := by
    rw [hm.curCore]
    exact hlive.2.1
  change execDtch g a b s = _
  refine any_next rfl rfl hready ?_ ((hm.frame.trans (frame_setTok ..)).keeps hq hp)
  simp only [tokenOperand_live hlive, exec_ok_bind, hfoot, List.isEmpty_nil, check, if_true]
  rw [← hm.cur, modTok_eq_setTok _ hget]

theorem dtch_illegal (b : Reg) (hfoot : footAccs e.foot ≠ []) :
    exec (.dtch g a b) s = .next (trapNow s (.dtch g a b) .illegal 0 0) := by
  change execDtch g a b s = _
  refine any_trap rfl rfl hready ?_
  simp only [tokenOperand_live hlive, exec_ok_bind, List.isEmpty_eq_false_iff.2 hfoot, check, Bool.false_eq_true, if_false]
  rfl

theorem tpri_sets (b : Reg) : exec (.tpri g a b) s = .next (retire 4
    (if e.state = .pending ∨ e.state = .ready then
      Say.setTok s (Say.slotOf (rd s a)) { e with prio := (rd s b).setWidth 2 } else s)) := by
  obtain ⟨hq, hp, -⟩ := (ready_iff _ _ _).1 hready
  change execTpri g a b s = _
  refine any_next rfl rfl hready ?_ ((ExecFrame.ite (frame_setTok ..) (.refl s)).keeps hq hp)
  simp only [tokenOperand_live hlive, exec_ok_bind, modTok_eq_setTok _ hlive.2.1, Bool.or_eq_true, beq_iff_eq]

/-! ### TSTAT (R153) -/

theorem tstat_tells (d : Reg) : exec (.tstat g d a) s = .next (retire 4 (wr
    (if e.state = .faulted ∨ e.state = .cancelled then Say.setTok s (Say.slotOf (rd s a)) { e with reported := true } else s) d
      (statusWord s (Say.slotOf (rd s a)) e))) := by
  obtain ⟨hq, hp, -⟩ := (ready_iff _ _ _).1 hready
  have hk := (ExecFrame.ite (c := e.state = .faulted ∨ e.state = .cancelled)
    (frame_setTok s (Say.slotOf (rd s a)) { e with reported := true }) (.refl s)).keeps hq hp
  change execTstat g d a s = _
  refine any_next rfl rfl hready ?_ (hk.trans (keeps_wr _ 4 d _ hk.quiet hk.plain))
  simp only [tokenOperand_live hlive, exec_ok_bind, report, modTok_eq_setTok _ hlive.2.1, Bool.or_eq_true, beq_iff_eq]

end

theorem code_lt_of_state (x : TokState) : x.code < 8 := by cases x <;> decide

theorem code_lt_of_cause (c : Cause) : c.code < 256 := by cases c <;> decide

theorem b2n_le (b : Bool) : b2n b ≤ 1 := by cases b <;> decide

/-- The cause of the fault that a status word shows. -/
def shownCause (e : TokenEntry) : Nat := if e.state = .faulted then (e.fault.map fun f => f.1.code).getD 0 else 0

theorem shownCause_lt (e : TokenEntry) : shownCause e < 256 := by
  unfold shownCause
  split
  · cases e.fault with
    | none => decide
    | some f => exact code_lt_of_cause f.1
  · decide

/-- The fields of a status word. -/
theorem statusWord_fields (s : State) (slot : Nat) (e : TokenEntry) : let w := statusWord s slot e
    bitsOf w 0 3 = e.state.code ∧ bitOf w 3 = e.det ∧ bitsOf w 4 2 = e.prio.toNat ∧ bitOf w 7 = false
      ∧ bitsOf w 16 3 = e.seen.toNat ∧ bitsOf w 19 45 = 0 ∧ bitsOf w 8 8 = shownCause e := by
  intro w
  have hcode := code_lt_of_state e.state
  have hcause := shownCause_lt e
  have hown := b2n_le (ownsAcc s slot e)
  have hprio := e.prio.isLt
  have hseen := e.seen.isLt
  have hdet := b2n_le e.det
  have hw : w.toNat = e.state.code + b2n e.det * 8 + e.prio.toNat * 16 + b2n (ownsAcc s slot e) * 64 + shownCause e * 256
      + e.seen.toNat * 2 ^ 16 := by
    change (BitVec.ofNat 64 (e.state.code + b2n e.det * 8 + e.prio.toNat * 16 + b2n (ownsAcc s slot e) * 64
      + shownCause e * 256 + e.seen.toNat * 2 ^ 16)).toNat = _
    rw [BitVec.toNat_ofNat, Nat.mod_eq_of_lt]
    omega
  have hbit : bitOf w 3 = e.det := by
    rw [bitOf_eq, hw]
    cases e.det <;> simp only [b2n, if_true, if_false, Bool.false_eq_true, decide_eq_true_eq, decide_eq_false_iff_not] <;>
      omega
  refine ⟨?_, hbit, ?_, ?_, ?_, ?_, ?_⟩
  · rw [bitsOf, hw]
    omega
  · rw [bitsOf, hw]
    omega
  · rw [bitOf_eq, hw, decide_eq_false_iff_not]
    omega
  all_goals
    rw [bitsOf, hw]
    omega

/-! ### ADOPT (R167, R194) -/

/-- The executing core once the orphan of a slot has been adopted under this number. -/
def adoptedIn (s : State) (slot old seq : Nat) (c : Core) : Core :=
  { c with nextSeq := nextSeqAfter seq, tokens := renameTok slot old seq (Tab.modify c.tokens slot (adopted s seq)) }

theorem adopt_none {s : State} {g : Guard} {d a : Reg} (hready : ready s 4 (some g) = true)
    (h : (rd s a).setWidth 32 = (0 : BitVec 32)
      ∨ ∀ e ∈ (curCore s).tokens, e.2.holder = none → e.2.name ≠ (rd s a).setWidth 32) :
    exec (.adopt g d a) s = .next (retire 4 (wr s d 0)) := by
  obtain ⟨hq, hp, -⟩ := (ready_iff _ _ _).1 hready
  have hname : ((rd s a).setWidth 32 : BitVec 32).toNat = (rd s a).toNat % 2 ^ 32 := BitVec.toNat_setWidth ..
  have hnone : (if (rd s a).toNat % 2 ^ 32 = 0 then none else orphanNamed s s.cur.core ((rd s a).toNat % 2 ^ 32)) = none := by
    rcases h with h0 | hother
    · rw [if_pos (by rw [← hname, h0]; rfl)]
    · split
      · rfl
      · have hempty : ((tokens s s.cur.core).filter fun e => e.2.holder == none && e.2.name.toNat == (rd s a).toNat % 2 ^ 32)
            = [] := by
          refine List.filter_eq_nil_iff.2 fun e he hof => ?_
          simp only [Bool.and_eq_true, beq_iff_eq] at hof
          exact hother e he hof.1 (BitVec.eq_of_toNat_eq (hof.2.trans hname.symm))
        rw [orphanNamed, hempty]
        rfl
  change execAdopt g d a s = _
  refine any_next rfl rfl hready ?_ (keeps_wr s 4 d 0 hq hp)
  dsimp only
  rw [hnone]

theorem adopt_adopts {s : State} {g : Guard} {d a : Reg} {slot : Nat} {e : TokenEntry} (hready : ready s 4 (some g) = true)
    (hname : (rd s a).setWidth 32 ≠ (0 : BitVec 32))
    (horphan : orphanNamed s s.cur.core ((rd s a).toNat % 2 ^ 32) = some (slot, e))
    (hshare : (heldBy s s.cur.core (curJob s).ids.jobid).length < Config.tokenShare)
    (hfree : (freeSlot s s.cur.core).isSome = true) :
    exec (.adopt g d a) s = .next (retire 4 (wr (modCurCore s (adoptedIn s slot e.seq (curCore s).nextSeq)) d
      (BitVec.ofNat 64 (tokenValue slot (curCore s).nextSeq)))) := by
  obtain ⟨hq, hp, -⟩ := (ready_iff _ _ _).1 hready
  obtain ⟨k, hk⟩ := Option.isSome_iff_exists.1 hfree
  have hne : (rd s a).toNat % 2 ^ 32 ≠ 0 := fun h => hname (BitVec.eq_of_toNat_eq (by simpa using h))
  have hroom : room s = .ready s k := by simp only [room, hshare, if_true, roomAfter, hk]
  have hkeeps := (frame_modCore s s.cur.core (adoptedIn s slot e.seq (curCore s).nextSeq)).keeps hq hp
  change execAdopt g d a s = _
  refine any_next rfl rfl hready ?_ (hkeeps.trans (keeps_wr _ 4 d _ hkeeps.quiet hkeeps.plain))
  dsimp only
  rw [if_neg hne, horphan]
  dsimp only
  rw [hroom]
  rfl

/-- The entry in its slot once it has been adopted, but for the names of other operations in it. -/
theorem get?_adoptedIn {s : State} {slot old seq : Nat} {e : TokenEntry} (c : Core) (hget : Tab.get? c.tokens slot = some e) :
    ∃ ps as, Tab.get? (adoptedIn s slot old seq c).tokens slot
      = some { adopted s seq e with preds := ps, ancestors := as } := by
  simp only [adoptedIn, renameTok, Tab.get?_map, Tab.get?_modify_self, hget, Option.map_some]
  exact ⟨_, _, rfl⟩

theorem adopt_holds : Say.Adopt := by
  intro s g d a hready name
  refine ⟨adopt_none hready, fun slot e hname horphan hget hshare hfree _ => ?_⟩
  rw [show name.toNat = (rd s a).toNat % 2 ^ 32 from BitVec.toNat_setWidth ..] at horphan
  obtain ⟨ps, as, hslot⟩ := get?_adoptedIn (s := s) (old := e.seq) (seq := (curCore s).nextSeq) (curCore s) hget
  have hcore : curCore (modCurCore s (adoptedIn s slot e.seq (curCore s).nextSeq))
      = adoptedIn s slot e.seq (curCore s).nextSeq (curCore s) := getCore_modCore_self ..
  refine ⟨modCurCore s (adoptedIn s slot e.seq (curCore s).nextSeq),
    { adopted s (curCore s).nextSeq e with preds := ps, ancestors := as }, adopt_adopts hready hname horphan hshare hfree,
    by rw [hcore]; exact hslot, rfl, rfl, rfl, rfl, rfl, rfl, rfl, ?_, rfl, rfl, rfl⟩
  rw [hcore]
  rfl

end Sys2Proof.Proofs
end

section
/-! PROOFS. What running an operation leaves as it is: the streams, the jobs, the partitions, and the slots that the token
tables fill (R154, R202). `Calm` above says of the tables only that an empty one stays empty; a cancelled operation is
found in its slot again, so the slots are followed here through the same reads and writes. -/

namespace Sys2Proof.Proofs
open Sys2Proof Sys2Proof.Machine

/-- The executing stream, the streams, the jobs and the partitions are as before, and the same slots are filled. -/
structure RunFrame (s t : State) : Prop where
  frame : ExecFrame s t
  slots : ∀ c, (tokens t c).map Prod.fst = (tokens s c).map Prod.fst

theorem RunFrame.refl (s : State) : RunFrame s s := ⟨.refl s, fun _ => rfl⟩

theorem RunFrame.trans {s t u : State} (a : RunFrame s t) (b : RunFrame t u) : RunFrame s u :=
  ⟨a.frame.trans b.frame, fun c => (b.slots c).trans (a.slots c)⟩

theorem ExecFrame.run {s t : State} (h : ExecFrame s t) (hcores : t.cores = s.cores) : RunFrame s t :=
  ⟨h, fun c => by rw [tokens, getCore, hcores]; rfl⟩

theorem MsOnly.run {s t : State} (h : MsOnly s t) : RunFrame s t := h.frame.run h.cores

theorem RunFrame.ite {s t u : State} {c : Prop} [Decidable c] (a : RunFrame s t) (b : RunFrame s u) :
    RunFrame s (if c then t else u) := by
  split
  · exact a
  · exact b

theorem Tab.keys_modify {α : Type} (t : Tab α) (k : Nat) (f : α → α) :
    (Tab.modify t k f).map Prod.fst = t.map Prod.fst := by
  induction t with
  | nil => rfl
  | cons y t ih =>
    obtain ⟨i, y⟩ := y
    unfold Tab.modify
    split
    · rfl
    · split
      · rfl
      · exact congrArg (i :: ·) ih

theorem run_modTok (s : State) (core slot : Nat) (f : TokenEntry → TokenEntry) : RunFrame s (modTok s core slot f) := by
  refine ⟨frame_modCore .., fun c => ?_⟩
  by_cases hc : c = core
  · rw [hc, tokens, modTok, getCore_modCore_self]
    exact Tab.keys_modify ..
  · rw [tokens, modTok, getCore_modCore_ne _ _ _ _ hc]
    rfl

theorem run_foldl_bind {ε α β : Type} (f : State × β → α → Except ε (State × β))
    (hf : ∀ x a y, f x a = .ok y → RunFrame x.1 y.1) (l : List α) (x y : State × β)
    (h : l.foldl (fun r a => Except.bind r fun x => f x a) (.ok x) = .ok y) : RunFrame x.1 y.1 :=
  foldl_bind_keeps (fun z : State × β => RunFrame x.1 z.1) f (fun z a w hz hw => hz.trans (hf z a w hw)) l x y (.refl _) h

/-! ### Ranges that an operation reads and writes (R202) -/

theorem run_useFresh (s : State) (pa n : Nat) : RunFrame s (useFresh s pa n) :=
  .ite (ExecFrame.run ⟨rfl, rfl, rfl, rfl⟩ rfl) (.refl s)

theorem run_noteOpLine (s : State) (p core slot ipa pa : Nat) : RunFrame s (noteOpLine s p core slot ipa pa) :=
  .ite (run_modTok ..) (.refl s)

theorem run_keepRead (s : State) (b : Bulk) (va : Nat) (bs : List Byte) : RunFrame s (keepRead s b va bs) := by
  unfold keepRead
  split
  · exact run_modTok ..
  · exact .refl s

theorem run_readPiece {s t : State} {b : Bulk} {va : Word} {n : Nat} {bs : List Byte}
    (h : readPiece s b va n = .ok (t, bs)) : RunFrame s t := by
  unfold readPiece at h
  split at h
  · split at h
    · cases h
    · split at h
      · cases h
      · cases h
      · rename_i hfill
        split at h
        · cases h
        · obtain ⟨rfl, -⟩ := Prod.mk.inj (Except.ok.inj h)
          exact (msOnly_fillRange hfill).run.trans (run_keepRead ..)
  · split at h
    · cases h
    · split at h
      · cases h
      · obtain ⟨rfl, -⟩ := Prod.mk.inj (Except.ok.inj h)
        exact ((msOnly_readSeen ..).run.trans (run_useFresh ..)).trans (run_keepRead ..)

theorem run_readRange {s t : State} {b : Bulk} {va : Word} {n : Nat} {bs : List Byte}
    (h : readRange s b va n = .ok (t, bs)) : RunFrame s t := by
  refine run_foldl_bind _ ?_ _ (s, []) (t, bs) h
  intro x p y hy
  obtain ⟨⟨u, us⟩, hu, rfl⟩ := Except.of_map_ok hy
  exact run_readPiece hu

theorem run_noteOpWrite (s : State) (b : Bulk) (x : Xl) : RunFrame s (noteOpWrite s b x) := by
  unfold noteOpWrite
  split
  · exact .refl s
  · exact run_noteOpLine ..

theorem run_noteOpWin (s : State) (b : Bulk) (win : Option (Nat × Nat)) : RunFrame s (noteOpWin s b win) := by
  unfold noteOpWin
  split
  · split
    · exact run_noteOpWrite ..
    · exact .refl s
  · exact .refl s

theorem run_writeXl (s : State) (b : Bulk) (va : Nat) (x : Xl) (bs : List Byte) : RunFrame s (writeXl s b va x bs) :=
  .ite (.ite (.refl s) ((run_noteOpWrite ..).trans (msOnly_foldl _ (fun _ _ => msOnly_writeWet ..) _ _).run))
    ((run_noteOpWrite ..).trans (msOnly_foldl _ (fun _ _ => msOnly_writePa ..) _ _).run)

theorem run_writePiece {s t : State} {b : Bulk} {va : Word} {bs : List Byte} (h : writePiece s b va bs = .ok t) :
    RunFrame s t := by
  unfold writePiece at h
  dsimp only at h
  split at h
  · split at h
    · cases h
    · split at h
      · cases h
      · split at h
        · cases h
        · cases h
        · rename_i hfill
          obtain rfl := Except.ok.inj h
          exact ((msOnly_fillRange hfill).run.trans (run_noteOpWin ..)).trans
            (msOnly_foldl _ (fun _ _ => (msOnly_writeSpad ..).trans (msOnly_dirtyRange ..)) _ _).run
  · split at h
    · cases h
    · split at h
      · cases h
      · obtain rfl := Except.ok.inj h
        exact run_writeXl ..

theorem run_writeRange (w : Written) (b : Bulk) (va : Word) (bs : List Byte) : RunFrame w.st (writeRange w b va bs).st := by
  refine foldl_keeps (fun x : Written => RunFrame w.st x.st) _ (fun x p hx => ?_) _ w (.refl _)
  unfold writePieces
  split
  · exact hx
  · split
    · rename_i hs
      exact hx.trans (run_writePiece hs)
    · exact hx
theorem run_writeAll {s t : State} {b : Bulk} {va : Word} {bs : List Byte} (h : writeAll s b va bs = .ok t) : RunFrame s t := by
  unfold writeAll at h
  dsimp only at h
  split at h
  · obtain rfl := Except.ok.inj h
    exact run_writeRange ⟨s, none⟩ b va bs
  · cases h

theorem run_writeOff (w : Written) (o : OpRun) (off : Nat) (bs : List Byte) : RunFrame w.st (writeOff w o off bs).st := by
  unfold writeOff
  split
  · dsimp only
    split
    · exact run_writeRange ..
    · exact run_writeRange w o.b (offVa off) bs
  · exact .refl _

theorem run_readOff {s t : State} {o : OpRun} {off n : Nat} {bs : List Byte} (h : readOff s o off n = .ok (t, bs)) :
    RunFrame s t := by
  unfold readOff at h
  split at h
  · exact run_readRange (atOffset_ok h)
  · cases h

/-! ### Sync words (R119, R203) -/

/-- The agent is an operation. -/
def isOp (a : Agent) : Prop := ∃ core slot seq, a.who = .op core slot seq

theorem run_noteBy {a : Agent} (ha : isOp a) (s : State) (ipa pa : Nat) : RunFrame s (noteBy s a ipa pa) := by
  obtain ⟨core, slot, seq, hwho⟩ := ha
  rw [noteBy, hwho]
  exact run_noteOpLine ..

theorem run_dirtyWin {a : Agent} (ha : isOp a) (s : State) (win : Option (Nat × Nat)) (n : Nat) :
    RunFrame s (dirtyWin s a win n) := by
  have hd := (msOnly_dirtyRange s a win n).run
  unfold dirtyWin
  dsimp only
  split
  · split
    · split
      · exact hd.trans (run_noteBy ha ..)
      · exact hd
    · exact hd
  · exact hd

theorem run_cellWrite {a : Agent} (ha : isOp a) (s : State) (c : Cell) (o : Nat) (bs : List Byte) :
    RunFrame s (cellWrite s a c o bs) := by
  cases c with
  | spad sp win => exact ((msOnly_writeSpad ..).trans (msOnly_dropEarly ..)).run.trans (run_dirtyWin ha ..)
  | glob x => exact (run_noteBy ha ..).trans (msOnly_writePa ..).run
theorem run_syncCount {a : Agent} (ha : isOp a) (s : State) (c : Cell) (old new : SyncWord) :
    RunFrame s (syncCount s a c old new) :=
  RunFrame.trans (t := if new.count = old.count then s else _) (.ite (.refl s) (run_cellWrite ha ..))
    (.ite (.refl _) (run_cellWrite ha ..))

theorem run_syncDone {o : OpRun} (ha : isOp o.b.ag) (c : Option Cell) (n : Nat) (s : State) :
    RunFrame s (syncDone o c n s) := by
  cases c with
  | none => exact .refl s
  | some c => exact .ite (.refl s) ((msOnly_cellNow ..).run.trans (run_syncCount ha ..))

theorem run_syncAt {s t : State} {o : OpRun} {addr : Word} {c : Cell} (h : syncAt s o addr = .ok (t, c)) : RunFrame s t := by
  unfold syncAt at h
  split at h
  · cases h
  · split at h
    · cases h
    · split at h
      · split at h
        · cases h
        · split at h
          · cases h
          · rename_i hfill
            split at h
            · cases h
            · obtain ⟨rfl, -⟩ := Prod.mk.inj (Except.ok.inj h)
              exact (msOnly_fillRange hfill).run
      · split at h
        · cases h
        · obtain ⟨rfl, -⟩ := Prod.mk.inj (Except.ok.inj h)
          exact .refl s

theorem run_namedSync {s t : State} {o : OpRun} {r : Reg} {c : Option Cell} (h : namedSync s o r = .ok (t, c)) :
    RunFrame s t := by
  unfold namedSync at h
  split at h
  · obtain ⟨rfl, -⟩ := Prod.mk.inj (Except.ok.inj h)
    exact .refl s
  · obtain ⟨⟨u, d⟩, hu, hv⟩ := Except.of_map_ok h
    obtain ⟨rfl, -⟩ := Prod.mk.inj hv
    exact run_syncAt hu

theorem run_putSync {s t : State} {q : OpRun} {r : Reg} {off : Word} {c : Option Cell}
    (h : putSync s q r off = .ok (t, c)) : RunFrame s t := by
  unfold putSync at h
  split at h
  · obtain ⟨rfl, -⟩ := Prod.mk.inj (Except.ok.inj h)
    exact .refl s
  · split at h
    · cases h
    · split at h
      · cases h
      · obtain ⟨⟨u, d⟩, hu, hv⟩ := Except.of_map_ok (atOffset_ok h)
        obtain ⟨rfl, -⟩ := Prod.mk.inj hv
        exact run_syncAt hu

/-! ### What the tearable operations read (R206, R216, R326 to R332) -/

theorem run_readIndices {s t : State} {x : EngOp} {o : OpRun} {xs : List Nat} (h : readIndices s x o = .ok (t, xs)) :
    RunFrame s t := by
  unfold readIndices at h
  dsimp only at h
  split at h
  · cases h
  obtain ⟨⟨u, bs⟩, hu, h⟩ := Except.of_bind_ok h
  dsimp only at h
  split at h
  · cases h
  · obtain ⟨rfl, -⟩ := Prod.mk.inj (Except.ok.inj h)
    exact run_readOff hu

theorem run_readGathered {s t : State} {o : OpRun} {xs : List Nat} {bs : List Byte}
    (h : readGathered s o xs = .ok (t, bs)) : RunFrame s t := by
  refine run_foldl_bind _ ?_ _ (s, []) (t, bs) h
  intro x v y hy
  obtain ⟨⟨u, us⟩, hu, rfl⟩ := Except.of_map_ok hy
  exact run_readRange hu

theorem run_readRows {s t : State} {o : OpRun} {line stride rows n : Nat} {l : List (List Byte)}
    (h : readRows s o line stride rows n = .ok (t, l)) : RunFrame s t := by
  refine run_foldl_bind _ ?_ _ (s, []) (t, l) h
  intro x v y hy
  obtain ⟨⟨u, us⟩, hu, rfl⟩ := Except.of_map_ok hy
  exact run_readOff hu

theorem run_readScales {s t : State} {m : MatOp} {o : OpRun} {l : List (BitVec 32)}
    (h : readScales s m o = .ok (t, l)) : RunFrame s t := by
  obtain ⟨⟨u, us⟩, hu, hv⟩ := Except.of_map_ok h
  obtain ⟨rfl, -⟩ := Prod.mk.inj hv
  exact run_readOff hu

theorem run_heldPage {s t : State} {o : OpRun} {h : HeldEntry} {bs : List Byte} (e : heldPage s o h = .ok (t, bs)) :
    RunFrame s t := by
  unfold heldPage at e
  split at e
  · split at e
    · obtain ⟨rfl, -⟩ := Prod.mk.inj (Except.ok.inj e)
      exact .refl s
    · cases e
    · cases e
  · split at e
    · obtain ⟨rfl, -⟩ := Prod.mk.inj (Except.ok.inj e)
      exact ExecFrame.run ⟨rfl, rfl, rfl, rfl⟩ rfl
    · exact run_readRange e

theorem run_matWriteRows (w : Written) (o : OpRun) (line stride : Nat) (rows : List (List Byte)) :
    RunFrame w.st (matWriteRows w o line stride rows).st :=
  foldl_keeps (fun x : Written => RunFrame w.st x.st) _ (fun _ _ hx => hx.trans (run_writeOff ..)) _ w (.refl _)

/-! ### Runs (R154) -/

/-- Whatever a run comes to, its state is calm. -/
def Runs (s : State) : RunOut → Prop
  | .done t => RunFrame s t
  | .fault t _ _ => RunFrame s t
  | .wait _ => True

theorem Runs.after {α : Type} {s t : State} {x : Except BulkFail α} {k : α → RunOut} (ht : RunFrame s t)
    (hk : ∀ a, x = .ok a → Runs s (k a)) : Runs s (.after t x k) := by
  unfold RunOut.after
  split
  · exact hk _ rfl
  · exact ht
  · trivial

theorem Runs.check {s t : State} {b : Bool} {c : Cause} {addr : Word} {k : RunOut} (ht : RunFrame s t) (hk : Runs s k) :
    Runs s (.check t b c addr k) := by
  unfold RunOut.check
  split
  · exact hk
  · exact ht

theorem Runs.written {s : State} {w : Written} {k : State → State} (hw : RunFrame s w.st) (hk : ∀ t, RunFrame t (k t)) :
    Runs s (.written w k) := by
  unfold RunOut.written
  split
  · exact hw.trans (hk _)
  · exact hw
  · trivial

theorem runs_cpy (x : EngOp) {o : OpRun} (ho : isOp o.b.ag) (s : State) : Runs s (runCpy x o s) := by
  unfold runCpy
  dsimp only
  split
  · exact .refl s
  · refine .check (.refl s) (.check (.refl s) (.after (.refl s) fun r hr => .after (.refl s) fun c hc => ?_))
    exact .written (((run_readRange hr).trans (run_namedSync hc)).trans (run_writeRange ⟨c.1, none⟩ ..))
      (run_syncDone ho _ _)

theorem runs_gath (x : EngOp) {o : OpRun} (ho : isOp o.b.ag) (s : State) : Runs s (runGath x o s) := by
  refine .after (.refl s) fun r hr => .after (.refl s) fun d hd => .after (.refl s) fun c hc => ?_
  have hread := (run_readIndices hr).trans (run_readGathered hd)
  exact .written ((hread.trans (run_namedSync hc)).trans (run_writeOff ⟨c.1, none⟩ ..)) (run_syncDone ho _ _)

theorem runs_scat (x : EngOp) {o : OpRun} (ho : isOp o.b.ag) (s : State) : Runs s (runScat x o s) := by
  refine .after (.refl s) fun r hr => .after (.refl s) fun d hd => .after (.refl s) fun c hc => ?_
  have hread := ((run_readIndices hr).trans (run_readOff hd)).trans (run_namedSync hc)
  exact .written (foldl_keeps (fun x : Written => RunFrame s x.st) _ (fun _ _ hx => hx.trans (run_writeRange ..)) _ _ hread)
    (run_syncDone ho _ _)

theorem runs_put (x : EngOp) {o : OpRun} (ho : isOp o.b.ag) (s : State) : Runs s (runPut x o s) := by
  refine .check (.refl s) ?_
  split
  · exact .refl s
  · exact .refl s
  · split
    · exact .refl s
    · refine .after (.refl s) fun d hd => .after (.refl s) fun c hc => ?_
      exact .written (((run_readOff hd).trans (run_putSync hc)).trans (run_writeOff ⟨c.1, none⟩ ..))
        (run_syncDone (o := putRun o _ _) ho _ _)

theorem runs_kvget (x : EngOp) {o : OpRun} (ho : isOp o.b.ag) (s : State) : Runs s (runKvget x o s) := by
  unfold runKvget
  split
  · refine .after (.refl s) fun pg hpg => .after (.refl s) fun c hc => ?_
    exact .written (((run_heldPage hpg).trans (run_namedSync hc)).trans (run_writeOff ⟨c.1, none⟩ ..)) (run_syncDone ho _ _)
  · trivial

theorem runs_accrd (m : MatOp) (o : OpRun) (s : State) : Runs s (runAccrd m o s) := by
  refine .after (.refl s) fun v _ => .written ?_ .refl
  dsimp only
  split
  · exact ((run_matWriteRows ⟨s, none⟩ ..).trans (run_writeOff ..)).trans (run_writeOff ..)
  · exact run_matWriteRows ⟨s, none⟩ ..

theorem runs_drnq (m : MatOp) (o : OpRun) (s : State) : Runs s (runDrnq m o s) := by
  refine .after (.refl s) fun bias hbias => .after (.refl s) fun mul hmul => .after (.refl s) fun shift hshift =>
    .check (.refl s) (.after (.refl s) fun v _ => .written ?_ .refl)
  exact (((run_readOff hbias).trans (run_readOff hmul)).trans (run_readOff hshift)).trans
    (run_matWriteRows ⟨shift.1, none⟩ ..)

theorem runs_mtrn (m : MatOp) (o : OpRun) (s : State) : Runs s (runMtrn m o s) :=
  .after (.refl s) fun r hr => .written ((run_readRows hr).trans (run_matWriteRows ⟨r.1, none⟩ ..)) .refl

theorem runs_qnt (m : MatOp) (o : OpRun) (s : State) : Runs s (runQnt m o s) := by
  refine .after (.refl s) fun r hr => .check (.refl s) ?_
  split
  · refine .after (.refl s) fun g hg => .check (.refl s) (.written ?_ .refl)
    exact ((run_readRows hr).trans (run_readScales hg)).trans (run_matWriteRows ⟨g.1, none⟩ ..)
  · exact .written (((run_readRows hr).trans (run_matWriteRows ⟨r.1, none⟩ ..)).trans (run_writeOff ..)) .refl

theorem runs_dqnt (m : MatOp) (o : OpRun) (s : State) : Runs s (runDqnt m o s) :=
  .after (.refl s) fun _ hr => .after (.refl s) fun g hg =>
    .written (((run_readRows hr).trans (run_readScales hg)).trans (run_matWriteRows ⟨g.1, none⟩ ..)) .refl

theorem runs_tearable {o : OpRun} (ho : isOp o.b.ag) (s : State) (h : tearable o.e.instr = true) : Runs s (runOp o s) := by
  unfold runOp
  cases hi : o.e.instr with
  | cpy x => exact runs_cpy x ho s
  | gath x => exact runs_gath x ho s
  | scat x => exact runs_scat x ho s
  | put x => exact runs_put x ho s
  | kvget x => exact runs_kvget x ho s
  | accrd m => exact runs_accrd m o s
  | drnq m => exact runs_drnq m o s
  | mtrn m => exact runs_mtrn m o s
  | qnt m => exact runs_qnt m o s
  | dqnt m => exact runs_dqnt m o s
  | _ => rw [hi] at h; exact absurd h Bool.false_ne_true

theorem isOp_opRun (s : State) (core slot : Nat) (e : TokenEntry) (torn : Option Nat) : isOp (opRun s core slot e torn).b.ag :=
  ⟨core, slot, e.seq, rfl⟩

theorem run_tornRun (s : State) (core slot : Nat) (e : TokenEntry) : RunFrame s (tornRun s core slot e) := by
  have hfresh : RunFrame s { s with fresh := s.fresh + 1 } := ExecFrame.run ⟨rfl, rfl, rfl, rfl⟩ rfl
  unfold tornRun
  split
  · rename_i htear
    have hrun := runs_tearable (isOp_opRun { s with fresh := s.fresh + 1 } core slot e (some s.fresh))
      { s with fresh := s.fresh + 1 } htear
    dsimp only
    split
    · rename_i heq
      rw [heq] at hrun
      exact hfresh.trans hrun
    · rename_i heq
      rw [heq] at hrun
      exact hfresh.trans hrun
    · exact .refl s
  · exact .refl s

/-! ### What an operation holds (R203, R213, R214, R422) -/

theorem run_metaWrite (s : State) (b : Bulk) (x : Xl) (o : Nat) (bs : List Byte) : RunFrame s (metaWrite s b x o bs) :=
  (msOnly_writePa ..).run

theorem run_returnPage {s t : State} {b : Bulk} {va : Word} {page : Nat} (h : returnPage s b va page = .ok t) :
    RunFrame s t := by
  obtain ⟨p, -, h⟩ := Except.of_bind_ok h
  obtain ⟨u, hu, h⟩ := Except.of_bind_ok h
  exact Except.ok.inj h ▸ (run_writeAll hu).trans (run_metaWrite ..)

theorem run_clearRecord {s t : State} {b : Bulk} {va : Word} {i page : Nat} (h : clearRecord s b va i page = .ok t) :
    RunFrame s t := by
  obtain ⟨u, hu, h⟩ := Except.of_bind_ok h
  obtain ⟨p, -, h⟩ := Except.of_bind_ok h
  obtain ⟨w, hw, h⟩ := Except.of_bind_ok h
  obtain ⟨n, -, h⟩ := Except.of_bind_ok h
  exact Except.ok.inj h ▸ ((run_returnPage hu).trans (run_writeAll hw)).trans (run_metaWrite ..)

theorem run_releaseRecord {s t : State} {r : KvRecord} (h : releaseRecord s r = .ok t) : RunFrame s t := by
  obtain ⟨p, -, h⟩ := Except.of_bind_ok h
  obtain ⟨⟨u, bs⟩, hu, h⟩ := Except.of_bind_ok h
  dsimp only at h
  split at h
  · obtain ⟨w, hw, h⟩ := Except.of_bind_ok h
    exact Except.ok.inj h ▸ ((run_readRange hu).trans (run_clearRecord hw)).trans (msOnly_modMs ..).run
  · exact (run_readRange hu).trans (run_writeAll h)

theorem run_releaseReader (s : State) (b : Bulk) (h : HeldEntry) : RunFrame s (releaseReader s b h) := by
  have hp := (msOnly_performRange s (granules h.pa 32)).run
  unfold releaseReader
  dsimp only
  split
  · exact hp
  · split
    · exact hp.trans (msOnly_writePa ..).run
    · split
      · exact hp
      · split
        · rename_i hrel
          exact hp.trans (run_releaseRecord hrel)
        · exact hp

theorem run_releaseRemote (s : State) (o : OpRun) (h : HeldEntry) : RunFrame s (releaseRemote s o h) := by
  unfold releaseRemote
  split
  · exact .refl s
  · exact .ite (ExecFrame.run ⟨rfl, rfl, rfl, rfl⟩ rfl) (.refl s)

theorem run_releaseHeld (s : State) (o : OpRun) : RunFrame s (releaseHeld s o) :=
  foldl_keeps (RunFrame s) _ (fun _ _ h => h.trans (.ite (run_releaseRemote ..) (run_releaseReader ..))) _ _ (.refl s)

theorem run_takeBack (s : State) {o : OpRun} (ha : isOp o.b.ag) : RunFrame s (takeBack s o) := by
  unfold takeBack
  dsimp only
  split
  · exact .refl s
  · split
    · rename_i hsync
      exact ((run_namedSync hsync).trans (msOnly_cellNow ..).run).trans (run_syncCount ha ..)
    · exact .refl s

/-- What a running operation that is cancelled leaves before its entry ends. -/
def undone (s : State) (core slot : Nat) (e : TokenEntry) : State :=
  let s := discardLayer (tornRun s core slot e) e.ids.jobid slot e.seq
  releaseHeld (takeBack s (opRun s core slot e none)) (opRun s core slot e none)

theorem run_undone (s : State) (core slot : Nat) (e : TokenEntry) : RunFrame s (undone s core slot e) := by
  have hdiscard (t : State) : RunFrame t (discardLayer t e.ids.jobid slot e.seq) := .ite (.refl t) (msOnly_modMs ..).run
  exact (((run_tornRun ..).trans (hdiscard _)).trans (run_takeBack _ (isOp_opRun ..))).trans (run_releaseHeld ..)

end Sys2Proof.Proofs
end

section
/-! PROOFS. The end of an operation: the token it leaves, and what the executing stream keeps (R154, R156, R158). -/

namespace Sys2Proof.Proofs
open Sys2Proof Sys2Proof.Machine

/-! ### What the executing stream keeps -/

/-- The executing stream goes on with an instruction of this length if it could before. -/
structure Steady (n : Nat) (s t : State) : Prop where
  keeps : quiet s = true → plain s n = true → Keeps s t n

theorem Steady.refl (n : Nat) (s : State) : Steady n s s := ⟨fun hq hp => .refl s n hq hp⟩

theorem Steady.trans {n : Nat} {s t u : State} (a : Steady n s t) (b : Steady n t u) : Steady n s u :=
  ⟨fun hq hp => (a.keeps hq hp).trans (b.keeps (a.keeps hq hp).quiet (a.keeps hq hp).plain)⟩

theorem ExecFrame.steady {s t : State} (h : ExecFrame s t) (n : Nat) : Steady n s t := ⟨fun hq hp => h.keeps hq hp⟩

theorem Steady.ite {n : Nat} {s t u : State} {c : Prop} [Decidable c] (a : Steady n s t) (b : Steady n s u) :
    Steady n s (if c then t else u) := by
  split
  · exact a
  · exact b

theorem steady_foldl {n : Nat} {α : Type} (f : State → α → State) (hf : ∀ s x, Steady n s (f s x)) (l : List α) (s : State) :
    Steady n s (l.foldl f s) :=
  foldl_keeps (Steady n s) f (fun t x h => h.trans (hf t x)) l s (.refl n s)

theorem steady_noteFailed (n : Nat) (s : State) (core : Nat) (e : TokenEntry) : Steady n s (noteFailed s core e) := by
  unfold noteFailed
  split
  · exact .refl n s
  · rename_i x _
    dsimp only
    have hmod (f : List FailedColl → List FailedColl) : Steady n s (modFailed s e.ids.part f) :=
      ⟨keeps_modPart s _ n _ fun _ => rfl⟩
    have hdrop (t : State) : Steady n t (dropRemote t e.ids.part (collKey core e x)) :=
      ExecFrame.steady (s := t) (t := dropRemote t _ _) ⟨rfl, rfl, rfl, rfl⟩ n
    exact .ite (((hmod _).trans (hdrop _)).trans ((frame_tellPeers ..).steady n)) ((hmod _).trans (hdrop _))

theorem steady_noteFailures (n : Nat) (before : Tab TokenEntry) (s : State) (core : Nat) :
    Steady n s (noteFailures before s core) := steady_foldl _ (fun _ _ => steady_noteFailed ..) _ _

theorem steady_releaseTok (n : Nat) (s : State) (core slot : Nat) : Steady n s (releaseTok s core slot) := by
  unfold releaseTok
  split
  · exact .refl n s
  · refine Steady.trans ?_ ((frame_modCore ..).steady n)
    exact .ite ⟨keeps_modPart s _ n _ fun _ => rfl⟩ (.refl n s)

theorem steady_releaseSavedEnded (n : Nat) (before : Tab TokenEntry) (s : State) (core : Nat) :
    Steady n s (releaseSavedEnded before s core) := by
  refine steady_foldl _ (fun t e => ?_) _ s
  split
  · exact .ite (steady_releaseTok ..) (.refl n t)
  · exact .refl n t

theorem steady_settleFrom (n : Nat) (before : Tab TokenEntry) (s : State) (core : Nat) :
    Steady n s (settleFrom before s core) :=
  (((frame_modCore ..).steady n).trans (steady_noteFailures ..)).trans
    (Steady.trans ⟨fun hq hp => (sameIds_disownFailed ..).keeps hq hp⟩ (steady_releaseSavedEnded ..))

/-- An entry as the end of its operation leaves it. -/
def endedEntry (now slot : Nat) (st : TokState) (f : Option (Cause × Word)) (e : TokenEntry) : TokenEntry :=
  { e with state := st, fault := f, endedAt := now, requests := [], held := none,
           faultName := f.map fun _ => (BitVec.ofNat 32 (tokenValue slot e.seq), e.strm) }

/-- The end of an operation and what follows along the edges. -/
def endedState (s : State) (core slot : Nat) (st : TokState) (f : Option (Cause × Word)) : State :=
  settleFrom (tokens s core) (modTok s core slot (endedEntry (cycleOf s core) slot st f)) core

theorem endTok_eq (s : State) (core slot : Nat) (st : TokState) (f : Option (Cause × Word)) : endTok s core slot st f
    = ((Tab.get? (tokens s core) slot).bind (·.holder)).elim (endedState s core slot st f)
        (sweepSeen (endedState s core slot st f) core) := by
  unfold endTok
  dsimp only
  split
  · rename_i h
    rw [h]
    rfl
  · rename_i h
    rw [h]
    rfl

theorem steady_endTok (n : Nat) (s : State) (core slot : Nat) (st : TokState) (f : Option (Cause × Word)) :
    Steady n s (endTok s core slot st f) := by
  have h : Steady n s (endedState s core slot st f) := ((frame_modCore ..).steady n).trans (steady_settleFrom ..)
  rw [endTok_eq]
  cases (Tab.get? (tokens s core) slot).bind (·.holder) with
  | none => exact h
  | some id => exact h.trans ((frame_sweepSeen ..).steady n)

/-! ### The entry that has ended -/

theorem Tab.wfFrom_of_keys {α β : Type} {t : Tab α} {u : Tab β} (hkeys : t.map Prod.fst = u.map Prod.fst) {lo : Nat}
    (hwf : Tab.wfFrom lo u = true) : Tab.wfFrom lo t = true := by
  induction u generalizing t lo with
  | nil => rw [List.map_eq_nil_iff.1 hkeys]; rfl
  | cons y u ih =>
    obtain ⟨x, t, rfl, hx, ht⟩ := List.map_eq_cons_iff.1 hkeys
    simp only [Tab.wfFrom, Bool.and_eq_true, hx] at hwf ⊢
    exact ⟨hwf.1, ih ht hwf.2⟩

theorem Tab.mem_of_mem_del {α : Type} {t : Tab α} {k : Nat} {x : Nat × α} (h : x ∈ Tab.del t k) : x ∈ t := by
  induction t with
  | nil => exact h
  | cons y t ih =>
    unfold Tab.del at h
    split at h
    · exact List.mem_cons_of_mem _ h
    · split at h
      · exact h
      · rcases List.mem_cons.1 h with rfl | h
        · exact List.mem_cons_self
        · exact List.mem_cons_of_mem _ (ih h)

/-- Every entry that a core holds in this slot is in this state. -/
def SlotIs (core slot : Nat) (st : TokState) (s : State) : Prop := ∀ x ∈ tokens s core, x.1 = slot → x.2.state = st

section
variable {core slot : Nat} {st : TokState} {s : State}

theorem SlotIs.of_subset {t : State} (h : SlotIs core slot st s) (hsub : ∀ x ∈ tokens t core, x ∈ tokens s core) :
    SlotIs core slot st t := fun x hx => h x (hsub x hx)

theorem SlotIs.of_cores {t : State} (h : SlotIs core slot st s) (hcores : t.cores = s.cores) : SlotIs core slot st t :=
  h.of_subset fun x hx => by rwa [tokens, getCore, hcores] at hx

theorem settleTable_slot {now n : Nat} {t : Tab TokenEntry} (hst : st ≠ .pending) (h : ∀ x ∈ t, x.1 = slot → x.2.state = st) :
    ∀ x ∈ settleTable now n t, x.1 = slot → x.2.state = st := by
  induction n generalizing t with
  | zero => exact h
  | succ n ih =>
    refine ih fun y hy hslot => ?_
    obtain ⟨x, hx, rfl⟩ := List.mem_map.1 hy
    have hstate := h x hx hslot
    have hsame : settleEntry t now x.1 x.2 = x.2 := by
      rw [settleEntry, if_pos (by rw [hstate]; exact bne_iff_ne.2 hst)]
    rw [hsame]
    exact hstate

/-- Nothing but the partitions and the messages to peers differs. -/
def PeerOnly (s t : State) : Prop := t = { s with parts := t.parts, fabric := t.fabric, out := t.out }

theorem PeerOnly.trans {s t u : State} (a : PeerOnly s t) (b : PeerOnly t u) : PeerOnly s u := by
  rw [PeerOnly] at a b ⊢
  rw [b, a]

theorem peerOnly_sendFlag (s : State) (p chip target : Nat) (body : FlagBody) : PeerOnly s (sendFlag s p chip target body) := by
  simp only [sendFlag, emitFlag]
  split
  · split <;> rfl
  · rfl

theorem peerOnly_noteFailed (s : State) (core : Nat) (e : TokenEntry) : PeerOnly s (noteFailed s core e) := by
  unfold noteFailed
  split
  · rfl
  · dsimp only
    split
    · refine foldl_keeps (PeerOnly s) _ (fun t x h => h.trans (peerOnly_sendFlag ..)) _ _ ?_
      rfl
    · rfl

theorem peerOnly_noteFailures (before : Tab TokenEntry) (s : State) (core : Nat) : PeerOnly s (noteFailures before s core) :=
  foldl_keeps (PeerOnly s) _ (fun _ _ h => h.trans (peerOnly_noteFailed ..)) _ _ rfl

section
variable {s t : State} (h : PeerOnly s t)
include h

theorem PeerOnly.cores : t.cores = s.cores := by
  rw [show t = { s with parts := t.parts, fabric := t.fabric, out := t.out } from h]
theorem PeerOnly.saved : t.saved = s.saved := by
  rw [show t = { s with parts := t.parts, fabric := t.fabric, out := t.out } from h]
theorem PeerOnly.ms : t.ms = s.ms := by
  rw [show t = { s with parts := t.parts, fabric := t.fabric, out := t.out } from h]

end

theorem mem_of_mem_releaseTok {s : State} {core slot : Nat} {x : Nat × TokenEntry}
    (h : x ∈ tokens (releaseTok s core slot) core) : x ∈ tokens s core := by
  unfold releaseTok at h
  split at h
  · exact h
  · rw [tokens, getCore_modCore_self] at h
    have hx := Tab.mem_of_mem_del h
    split at hx <;> exact hx

theorem SlotIs.releaseSavedEnded (before : Tab TokenEntry) (h : SlotIs core slot st s) :
    SlotIs core slot st (releaseSavedEnded before s core) := by
  refine foldl_keeps (SlotIs core slot st) _ (fun t e ht => ?_) _ s h
  split
  · split
    · exact ht.of_subset fun x => mem_of_mem_releaseTok
    · exact ht
  · exact ht

theorem SlotIs.settleFrom (before : Tab TokenEntry) (hst : st ≠ .pending) (h : SlotIs core slot st s) :
    SlotIs core slot st (settleFrom before s core) := by
  have hsettled : SlotIs core slot st (modCore s core settledCore) := by
    rw [SlotIs, tokens, getCore_modCore_self]
    exact settleTable_slot hst h
  refine SlotIs.releaseSavedEnded before ?_
  refine (hsettled.of_cores (peerOnly_noteFailures before _ core).cores).of_subset fun x hx => ?_
  rwa [tokens_sameIds (sameIds_disownFailed ..)] at hx

/-- An operation that ends is in the state in which it ends. -/
theorem slotIs_endTok (f : Option (Cause × Word)) (hwf : Tab.wf (tokens s core) = true) (hst : st ≠ .pending) :
    SlotIs core slot st (endTok s core slot st f) := by
  have hended : SlotIs core slot st (modTok s core slot (endedEntry (cycleOf s core) slot st f)) := by
    rintro ⟨k, x⟩ hx hk
    obtain rfl : k = slot := hk
    have hget := Tab.get?_of_mem (Tab.wfFrom_of_keys ((run_modTok s core k _).slots core) hwf) hx
    rw [tokens, modTok, getCore_modCore_self, Tab.get?_modify_self] at hget
    obtain ⟨e, -, rfl⟩ := Option.map_eq_some_iff.1 hget
    rfl
  have hall := hended.settleFrom (tokens s core) hst
  rw [endTok_eq]
  cases (Tab.get? (tokens s core) slot).bind (·.holder) with
  | none => exact hall
  | some id => exact hall.of_subset fun x => mem_of_mem_sweepSeen

end

/-! ### CNCL (R192) -/

theorem steady_cancelOp (n : Nat) (s : State) (core slot : Nat) (e : TokenEntry) : Steady n s (cancelOp s core slot e) :=
  .ite (((run_undone ..).frame.steady n).trans (steady_endTok ..)) (steady_endTok ..)

theorem slotIs_cancelOp {s : State} {core : Nat} (slot : Nat) (e : TokenEntry) (hwf : Tab.wf (tokens s core) = true) :
    SlotIs core slot .cancelled (cancelOp s core slot e) := by
  unfold cancelOp
  split
  · exact slotIs_endTok none (Tab.wfFrom_of_keys ((run_undone s core slot e).slots core) hwf) nofun
  · exact slotIs_endTok none hwf nofun

theorem cncl_inFlight {s : State} {g : Guard} {a : Reg} {e : TokenEntry} (hready : ready s 4 (some g) = true)
    (hlive : Say.liveTok s a e) (hwf : Tab.wf (curCore s).tokens = true) (he : e.state.inFlight = true) :
    ∃ t, exec (.cncl g a) s = .next (retire 4 t)
      ∧ ∀ e', Tab.get? (curCore t).tokens (Say.slotOf (rd s a)) = some e' → e'.state = .cancelled ∧ e'.reported = true := by
  obtain ⟨hq, hp, -⟩ := (ready_iff _ _ _).1 hready
  have hdone : e.state ≠ .done := fun h => by rw [h] at he; exact absurd he (by decide)
  generalize hslot : Say.slotOf (rd s a) = slot at *
  have hkeeps := (steady_cancelOp 4 s s.cur.core slot e).keeps hq hp
  have hreport : ExecFrame (cancelOp s s.cur.core slot e) (report (cancelOp s s.cur.core slot e) slot) := frame_modCore ..
  have hm := msOnly_acquireSide (report (cancelOp s s.cur.core slot e) slot) 0
  refine ⟨acquireSide (report (cancelOp s s.cur.core slot e) slot) 0, ?_, fun e' he' => ?_⟩
  · change execCncl g a s = _
    refine any_next rfl rfl hready ?_ (hkeeps.trans ((hreport.trans hm.frame).keeps hkeeps.quiet hkeeps.plain))
    simp only [tokenOperand_live hlive, exec_ok_bind, he, if_true, if_neg hdone, hslot]
  · have hcur : (report (cancelOp s s.cur.core slot e) slot).cur = s.cur := hreport.cur.trans hkeeps.cur
    rw [hm.curCore, curCore, hcur, report, hkeeps.cur, modTok, getCore_modCore_self, Tab.get?_modify_self] at he'
    obtain ⟨x, hx, rfl⟩ := Option.map_eq_some_iff.1 he'
    exact ⟨slotIs_cancelOp slot e hwf _ (Tab.mem_of_get? _ _ _ hx) rfl, rfl⟩

end Sys2Proof.Proofs
end

section
/-! PROOFS. Token instructions on live operations, and ADOPT (R153, R167, R191 to R196). -/

namespace Sys2Proof.Proofs
open Sys2Proof Sys2Proof.Machine

theorem tokenEffects_holds : Say.TokenEffects := by
  intro s g d a b p e hready hwf hlive slot k gone
  have hseq : e.seq = Say.seqOf (rd s a) := hlive.2.2.1
  refine ⟨fun he => ⟨twait_inFlight hready hlive he, ttest_inFlight hready hlive p he, tfree_inFlight hready hlive he,
      cncl_inFlight hready hlive hwf he⟩,
    fun hdone hc => ⟨seenDone s slot e, twait_done hready hlive hdone hc, ttest_done hready hlive p hdone hc, ?_,
      (frame_seenDone s slot e).strs, (frame_seenDone s slot e).jobs, fun e' he' => ?_⟩,
    fun hdone => ⟨cncl_done hready hlive hdone,
      fun hfree => tfree_releases hready hlive (by rw [hdone]; rfl) (fun h => ?_) (.inl ⟨hdone, hfree⟩),
      fun n l => tfree_owns hready hlive hdone⟩,
    fun hfault hdet hstrm => ⟨fun hreported => ⟨twait_reported hready hlive hfault hdet hstrm hreported,
        tfree_releases hready hlive (by rw [hfault]; rfl) (fun h => ?_) (.inr ⟨by rw [hfault]; nofun, hreported⟩)⟩,
      twait_delivers hready hlive hfault hdet hstrm⟩,
    tfree_failed hready hlive, dtch_detaches hready hlive b, dtch_illegal hready hlive b, tpri_sets hready hlive b,
    statusWord s slot e, tstat_tells hready hlive d, statusWord_fields s slot e⟩
  · rw [ms_seenDone, Say.waited, ← hseq]
    rfl
  · obtain rfl := seen_seenDone hwf hlive.2.1 hlive.2.2.2 he'
    exact ⟨hdone, seenEntry_bit ..⟩
  · rw [hdone] at h
    exact absurd h.2 nofun
  · rw [hdet] at h
    exact absurd h.1 Bool.false_ne_true

/-- Settles O41: each token instruction on a LIVE operation by the state of its entry; what CNCL cancels is followed
through what the operation was doing and what its end carries along the edges. -/
theorem tokenEffects : Obligations.TokenEffects := ⟨tokenEffects_holds, adopt_holds⟩

end Sys2Proof.Proofs
end

section
/-! PROOFS. How a running operation that nothing observes ends (R154, R156, R158). -/

namespace Sys2Proof.Proofs
open Sys2Proof Sys2Proof.Machine

/-! ### The end of the one operation of a core -/

theorem ms_disownFailed (s : State) (core : Nat) : (disownFailed s core).ms = s.ms := by
  rw [(sameIds_disownFailed s core).only]

theorem ms_releaseSavedEnded (before : Tab TokenEntry) (s : State) (core : Nat) :
    (releaseSavedEnded before s core).ms = s.ms := by
  refine foldl_keeps (fun t : State => t.ms = s.ms) _ (fun t e ht => ?_) _ s rfl
  split
  · split
    · exact (ms_releaseTok t core e.1).trans ht
    · exact ht
  · exact ht

/-- Memory stands as it is while an operation ends. -/
theorem ms_endTok (s : State) (core slot : Nat) (st : TokState) (f : Option (Cause × Word)) :
    (endTok s core slot st f).ms = s.ms := by
  have h : (endedState s core slot st f).ms = s.ms :=
    ((ms_releaseSavedEnded ..).trans (ms_disownFailed ..)).trans (peerOnly_noteFailures ..).ms
  rw [endTok_eq]
  cases (Tab.get? (tokens s core) slot).bind (·.holder) with
  | none => exact h
  | some id => exact (ms_sweepSeen ..).trans h

/-- The table with the entry that has ended, and what follows along the edges. -/
def endedTable (s : State) (core slot : Nat) (st : TokState) (f : Option (Cause × Word)) : State :=
  modCore (modTok s core slot (endedEntry (cycleOf s core) slot st f)) core settledCore

/-- The failures that follow are noted, and what failed owns no accumulator any more. -/
def endedNoted (s : State) (core slot : Nat) (st : TokState) (f : Option (Cause × Word)) : State :=
  disownFailed (noteFailures (tokens s core) (endedTable s core slot st f) core) core

section
variable {s : State} {core slot : Nat} {e : TokenEntry} {st : TokState} (f : Option (Cause × Word))
  (hone : tokens s core = [(slot, e)]) (hst : st ≠ .pending)
include hone hst

theorem tokens_endedTable : tokens (endedTable s core slot st f) core = [(slot, endedEntry (cycleOf s core) slot st f e)] := by
  have hmod : tokens (modTok s core slot (endedEntry (cycleOf s core) slot st f)) core
      = [(slot, endedEntry (cycleOf s core) slot st f e)] := by
    rw [tokens, modTok, getCore_modCore_self]
    change Tab.modify (tokens s core) slot _ = _
    rw [hone, Tab.modify, if_pos rfl]
  rw [endedTable, tokens_settledCore, hmod, settleTable_of_ne]
  rintro x hx
  obtain rfl := List.mem_singleton.1 hx
  exact hst

theorem tokens_endedNoted : tokens (endedNoted s core slot st f) core = [(slot, endedEntry (cycleOf s core) slot st f e)] := by
  rw [endedNoted, tokens_sameIds (sameIds_disownFailed ..), tokens, getCore, (peerOnly_noteFailures ..).cores]
  exact tokens_endedTable f hone hst

theorem endedState_eq (hsaved : ∀ x ∈ s.saved, some x.job.ids.jobid ≠ e.holder) :
    endedState s core slot st f = endedNoted s core slot st f := by
  refine releaseSavedEnded_eq_self _ (endedNoted s core slot st f) _ ?_
  have hsame : (endedNoted s core slot st f).saved = s.saved := by
    rw [endedNoted, (sameIds_disownFailed ..).only]
    exact (peerOnly_noteFailures ..).saved
  rw [tokens_endedNoted f hone hst, hsame]
  intro x hx id hid y hy h
  obtain rfl := List.mem_singleton.1 hx
  exact hsaved y hy (by rw [h]; exact hid.symm)

end

/-- Where the operation has not failed, no job changes. -/
theorem jobs_endedNoted {s : State} {core slot : Nat} {e : TokenEntry} (f : Option (Cause × Word))
    (hone : tokens s core = [(slot, e)]) : (endedNoted s core slot .done f).jobs = s.jobs := by
  have htok := tokens_endedTable (st := .done) f hone nofun
  have hnote : noteFailures (tokens s core) (endedTable s core slot .done f) core = endedTable s core slot .done f := by
    refine noteFailures_eq_self _ _ _ fun x hx => .inr (.inl ?_)
    rw [htok] at hx
    obtain rfl := List.mem_singleton.1 hx
    rfl
  rw [endedNoted, hnote, disownFailed, htok]
  rfl

/-- What the sweep of a table of one entry leaves. -/
theorem tokens_sweepSeen_one {s : State} {core slot id : Nat} {x : TokenEntry} (hone : tokens s core = [(slot, x)])
    (hholder : x.holder = some id) :
    tokens (sweepSeen s core id) core = if x.state = .done ∧ Say.seenByAll s slot x = true then [] else [(slot, x)] := by
  unfold sweepSeen
  cases hjob : residentJob s id with
  | none => simp [Say.seenByAll, hholder, hjob, hone]
  | some j =>
    dsimp only
    by_cases hdet : detMode j = true
    · have hfilter (b : Bool) : [(slot, x)].filter (fun _ => !b) = if b = true then [] else [(slot, x)] := by
        cases b <;> rfl
      rw [if_pos hdet, tokens, getCore_modCore_self]
      change (tokens s core).filter _ = _
      rw [hone]
      refine (List.filter_congr fun y hy => ?_).trans ((hfilter (x.state == .done && Say.seenByAll s slot x)).trans ?_)
      · obtain rfl := List.mem_singleton.1 hy
        simp [ownsAcc, Say.seenByAll, hholder, hjob, hdet, Bool.and_assoc]
      · simp only [Bool.and_eq_true, beq_iff_eq]
    · simp [Say.seenByAll, hholder, hjob, hdet, hone]

theorem seenByAll_congr {s t : State} {slot : Nat} {x e : TokenEntry} (hjobs : t.jobs = s.jobs) (hholder : x.holder = e.holder)
    (hseen : x.seen = e.seen) (hseq : x.seq = e.seq) : Say.seenByAll t slot x = Say.seenByAll s slot e := by
  have hjob : residentJob t = residentJob s := funext fun id => by rw [residentJob, residentJob, hjobs]
  rw [Say.seenByAll, Say.seenByAll, hholder, hseen, hseq, hjob]

/-- An operation that is alone on its core ends as R154, R158 and R163 say. -/
theorem ended_endTok {s : State} {core slot : Nat} {e : TokenEntry} {st : TokState} (f : Option (Cause × Word))
    (hone : tokens s core = [(slot, e)]) (hsaved : ∀ x ∈ s.saved, some x.job.ids.jobid ≠ e.holder)
    (hst : st ≠ .pending) : Say.ended s (endTok s core slot st f) core slot e st f := by
  have htok := tokens_endedNoted f hone hst
  have hget : Tab.get? (tokens s core) slot = some e := by rw [hone, Tab.get?, if_pos rfl]
  have hseen (h : st = .done) : Say.seenByAll (endedNoted s core slot st f) slot (endedEntry (cycleOf s core) slot st f e)
      = Say.seenByAll s slot e := by
    subst h
    exact seenByAll_congr (jobs_endedNoted f hone) rfl rfl rfl
  rw [endTok_eq, hget, endedState_eq f hone hst hsaved]
  change tokens (e.holder.elim _ _) core = if st = .done ∧ Say.seenByAll s slot e = true then [] else
    [(slot, endedEntry (cycleOf s core) slot st f e)]
  have hstate : (endedEntry (cycleOf s core) slot st f e).state = st := rfl
  have hkept : (endedEntry (cycleOf s core) slot st f e).holder = e.holder := rfl
  generalize endedEntry (cycleOf s core) slot st f e = x at htok hseen hstate hkept ⊢
  cases hholder : e.holder with
  | none =>
    have hunseen : Say.seenByAll s slot e = false := by simp [Say.seenByAll, hholder]
    rw [hunseen, if_neg (fun h => Bool.false_ne_true h.2)]
    exact htok
  | some id =>
    refine (tokens_sweepSeen_one htok (hkept.trans hholder)).trans ?_
    rw [hstate]
    by_cases hdone : st = .done
    · rw [hseen hdone]
    · rw [if_neg (fun h => hdone h.1), if_neg (fun h => hdone h.1)]

/-- The end of an operation that has not failed leaves the jobs as they are. -/
theorem jobs_endTok {s : State} {core slot : Nat} {e : TokenEntry} (f : Option (Cause × Word))
    (hone : tokens s core = [(slot, e)]) (hsaved : ∀ x ∈ s.saved, some x.job.ids.jobid ≠ e.holder) : (endTok s core slot .done f).jobs = s.jobs := by
  rw [endTok_eq, endedState_eq (st := .done) f hone nofun hsaved]
  cases (Tab.get? (tokens s core) slot).bind (·.holder) with
  | none => exact jobs_endedNoted f hone
  | some id => exact (frame_sweepSeen ..).jobs.trans (jobs_endedNoted f hone)

end Sys2Proof.Proofs
end

section
/-! PROOFS. Operations that complete or fail by themselves: CPY whose operands are not aligned, PFCH, ACCZ, and the link
time-out (R154, R205, R209, R326, R463). -/

namespace Sys2Proof.Proofs
open Sys2Proof Sys2Proof.Machine

/-! ### What is left to do as an operation ends -/

/-- Nothing but what streams have read ahead differs. -/
structure EarlyOnly (s t : State) : Prop where
  only : MsOnly s t
  memory : Say.sameMemory s t

theorem earlyOnly_orderHolder (s : State) (e : TokenEntry) : EarlyOnly s (orderHolder s e) := by
  unfold orderHolder
  split
  · refine foldl_keeps (EarlyOnly s) _ (fun t h ht => ?_) _ s ⟨.refl s, rfl⟩
    unfold orderReads
    split
    · exact ht
    · exact ⟨ht.only.trans (msOnly_modMs ..), ht.memory⟩
  · exact ⟨.refl s, rfl⟩

/-- What two states of the same memory share. -/
theorem fields_of_sameMemory {s t : State} (h : Say.sameMemory s t) :
    t.ms.mem = s.ms.mem ∧ t.ms.spad = s.ms.spad ∧ t.ms.wet = s.ms.wet := by
  obtain ⟨hmem, hspad, -, -, hwet, -⟩ := MemSys.mk.inj h
  exact ⟨hmem, hspad, hwet⟩

theorem EarlyOnly.wet {s t : State} (h : EarlyOnly s t) : t.ms.wet = s.ms.wet := (fields_of_sameMemory h.memory).2.2

section
variable {s : State} {core slot : Nat} {e : TokenEntry}

theorem settleLayer_eq_self {jobid seq : Nat} (h : ∀ w ∈ s.ms.wet, w.ofLayer jobid slot seq = false) :
    settleLayer s jobid slot seq = s := by
  have hmap : (s.ms.wet.map fun w => if w.ofLayer jobid slot seq then { w with layer := none } else w) = s.ms.wet := by
    refine (List.map_congr_left fun w hw => ?_).trans (List.map_id _)
    rw [h w hw, if_neg Bool.false_ne_true]
    rfl
  unfold settleLayer
  split
  · rfl
  · rw [modMs, hmap]

theorem discardLayer_eq_self {jobid seq : Nat} (h : ∀ w ∈ s.ms.wet, w.ofLayer jobid slot seq = false) :
    discardLayer s jobid slot seq = s := by
  have hfilter : (s.ms.wet.filter fun w => !w.ofLayer jobid slot seq) = s.ms.wet :=
    List.filter_eq_self.2 fun w hw => by rw [h w hw]; rfl
  unfold discardLayer
  split
  · rfl
  · rw [modMs, hfilter]

theorem releaseHeld_none (o : OpRun) (h : o.e.held = none) : releaseHeld s o = s := by rw [releaseHeld, h]; rfl

theorem takeBack_none (o : OpRun) (h : o.b.counted = 0) : takeBack s o = s := by rw [takeBack, if_pos h]

theorem finishOp_eq (hwet : ∀ w ∈ s.ms.wet, w.ofLayer e.ids.jobid slot e.seq = false) (hheld : e.held = none)
    (hoff : ∀ m ∈ (getDebug s e.ids.part).monitors.toList, bitOf m.cfg 0 = false) :
    finishOp s core slot e = endTok (orderHolder s e) core slot .done none := by
  have horder := earlyOnly_orderHolder s e
  have hdebug : getDebug (orderHolder s e) e.ids.part = getDebug s e.ids.part := by
    rw [getDebug, horder.only.frame.getPart]
    rfl
  unfold finishOp
  dsimp only
  rw [settleLayer_eq_self (by rwa [horder.wet]), releaseHeld_none _ hheld, sample_off _ _ _ _ _ (by rwa [hdebug])]

theorem failOp_eq (hwet : ∀ w ∈ s.ms.wet, w.ofLayer e.ids.jobid slot e.seq = false) (hheld : e.held = none)
    (hcounted : e.counted = 0) {c : Cause} (hc : c ≠ .version) (addr : Word) :
    failOp s core slot e c addr = endTok s core slot .faulted (some (c, addr)) := by
  unfold failOp
  dsimp only
  rw [if_neg hc, discardLayer_eq_self hwet, takeBack_none _ hcounted, releaseHeld_none _ hheld]

theorem runningAt_runs (h : Say.runs s core slot e) : runningAt s core slot = some e := by
  obtain ⟨hone, hstate, -⟩ := h
  rw [runningAt, hone, Tab.get?, if_pos rfl]
  exact if_pos hstate

/-- A run that completes ends its operation. -/
theorem childOpDone_ends {u : State} (hruns : Say.runs s core slot e) (hprep : prepareOp s (opRun s core slot e none) = .ok s)
    (hrun : runOp (opRun s core slot e none) s = .done u) (hcores : u.cores = s.cores) (hparts : u.parts = s.parts)
    (hsaved : u.saved = s.saved) (hwet : u.ms.wet = s.ms.wet) (hseen : Say.seenByAll u slot e = Say.seenByAll s slot e) :
    ∃ t, exec (.childOpDone core slot) s = .next t ∧ Say.ended s t core slot e .done none ∧ Say.sameMemory u t
      ∧ t.jobs = u.jobs := by
  have hat := runningAt_runs hruns
  obtain ⟨hone, -, hheld, -, -, hran, -, hlayer, hnosaved, hoff, -⟩ := hruns
  have horder := earlyOnly_orderHolder u e
  have hone' : tokens (orderHolder u e) core = [(slot, e)] := by
    rw [tokens, getCore, horder.only.cores, hcores]
    exact hone
  have hsaved' : ∀ x ∈ (orderHolder u e).saved, some x.job.ids.jobid ≠ e.holder := by
    rw [show orderHolder u e = { u with ms := _ } from horder.only]
    exact hsaved ▸ hnosaved
  have hfinish : finishOp u core slot e = endTok (orderHolder u e) core slot .done none :=
    finishOp_eq (by rwa [hwet]) hheld (by rwa [getDebug, getPart, hparts])
  refine ⟨endTok (orderHolder u e) core slot .done none, ?_, ?_, ?_, ?_⟩
  · change execChildOpDone core slot s = _
    simp only [execChildOpDone, hat, hprep, hran, Bool.false_eq_true, if_false, hrun, hfinish]
  · have hend := ended_endTok (st := .done) none hone' hsaved' nofun
    have hcycle : cycleOf (orderHolder u e) core = cycleOf s core := by
      rw [cycleOf, getCore, horder.only.cores, hcores]
      rfl
    rwa [Say.ended, hcycle, seenByAll_congr horder.only.jobs rfl rfl rfl, hseen] at hend
  · rw [Say.sameMemory, ms_endTok]
    exact horder.memory
  · rw [jobs_endTok none hone' hsaved']
    exact horder.only.jobs

/-- A running operation that fails, memory as it is. -/
theorem failOp_ends {u : State} (hruns : Say.runs s core slot e) (hu : u = { s with fresh := u.fresh }) {c : Cause}
    (hc : c ≠ .version) (addr : Word) :
    Say.ended s (failOp u core slot e c addr) core slot e .faulted (some (c, addr))
      ∧ (failOp u core slot e c addr).ms = s.ms := by
  obtain ⟨hone, -, hheld, -, -, -, hcounted, hlayer, hsaved, -⟩ := hruns
  rw [hu, failOp_eq (s := { s with fresh := u.fresh }) hlayer hheld hcounted hc]
  exact ⟨ended_endTok (s := { s with fresh := u.fresh }) (some (c, addr)) hone hsaved nofun, ms_endTok ..⟩

/-! ### CPY whose operands are not aligned (R205) -/

theorem runCpy_misaligned {x : EngOp} {o : OpRun} (hn : o.w32 .rc ≠ 0) (h : (o.v .ra).toNat % 16 ≠ 0 ∨ o.w32 .rc % 16 ≠ 0) :
    runCpy x o s = .fault s .align (o.v .ra) := by
  have hcheck : ((o.v .ra).toNat % 16 == 0 && o.w32 .rc % 16 == 0) = false := by
    rw [Bool.and_eq_false_iff, beq_eq_false_iff_ne, beq_eq_false_iff_ne]
    exact h
  unfold runCpy
  dsimp only
  rw [if_neg hn, RunOut.check, hcheck]
  rfl

theorem cpy_misaligned (hruns : Say.runs s core slot e) {x : EngOp} (hcpy : e.instr = .cpy x)
    (hn : (opVal e .rc).toNat % 2 ^ 32 ≠ 0) (h : (opVal e .ra).toNat % 16 ≠ 0 ∨ (opVal e .rc).toNat % 2 ^ 32 % 16 ≠ 0) :
    ∃ t, exec (.childOpFault core slot) s = .next t ∧ Say.ended s t core slot e .faulted (some (.align, opVal e .ra))
      ∧ t.ms = s.ms := by
  have hat := runningAt_runs hruns
  have hrun (torn : Option Nat) (u : State) : runOp (opRun u core slot e torn) u = .fault u .align (opVal e .ra) := by
    rw [runOp, show (opRun u core slot e torn).e.instr = .cpy x from hcpy]
    exact runCpy_misaligned hn h
  have htorn : tornRun s core slot e = { s with fresh := s.fresh + 1 } := by
    rw [tornRun, hcpy]
    simp only [tearable, if_true, hrun]
  obtain ⟨hended, hms⟩ := failOp_ends (u := { s with fresh := s.fresh + 1 }) hruns rfl (c := .align) nofun (opVal e .ra)
  refine ⟨_, ?_, hended, hms⟩
  change execChildOpFault core slot s = _
  have ⟨_, _, _, _, _, hran, _⟩ := hruns
  have hprep : prepareOp s (opRun s core slot e none) = .ok s :=
    prepareOp_eq_self (eng := .copy) (by rw [show (opRun s core slot e none).e.instr = .cpy x from hcpy]; rfl)
      (fun m h => by cases h.symm.trans hcpy) (.inr (.inl rfl))
  simp only [execChildOpFault, hat, instanceFailed, hcpy, collOp, Bool.false_eq_true, if_false, hran, hprep, hrun, faultState,
    htorn]
  rfl

/-! ### LINK_TIMEOUT (R463) -/

theorem linkTimeout_overdue (hruns : Say.runs s core slot e) (h : linkOverdue s e = true) :
    ∃ t, exec (.linkTimeout core slot) s = .next t ∧ Say.ended s t core slot e .faulted (some (.link, 0)) ∧ t.ms = s.ms := by
  obtain ⟨hended, hms⟩ := failOp_ends (u := s) hruns rfl (c := .link) nofun 0
  refine ⟨_, ?_, hended, hms⟩
  change execLinkTimeout core slot s = _
  simp only [execLinkTimeout, runningAt_runs hruns, h, if_true]

theorem linkTimeout_early (hruns : Say.runs s core slot e) (h : linkOverdue s e = false) :
    exec (.linkTimeout core slot) s = .next s := by
  change execLinkTimeout core slot s = _
  simp only [execLinkTimeout, runningAt_runs hruns, h, Bool.false_eq_true, if_false]

theorem linkOverdue_of_request {q : PeerReq} (hq : q ∈ e.requests) (hdelivered : q.delivered = false) (hreply : q.reply = none)
    (hsent : q.sentAt + 2000000 ≤ s.time) : linkOverdue s e = true := by
  rw [linkOverdue, Bool.or_eq_true, List.any_eq_true]
  exact .inl ⟨q, hq, by simp [hdelivered, hreply, linkLimit, hsent]⟩

theorem linkOverdue_eq_false (hcoll : collOp e.instr = none)
    (h : ∀ q ∈ e.requests, q.delivered = false → q.reply = none → s.time < q.sentAt + 2000000) : linkOverdue s e = false := by
  rw [linkOverdue, hcoll, Bool.or_false, List.any_eq_false]
  intro q hq
  simp only [Bool.and_eq_true, Bool.not_eq_true', Option.isNone_iff_eq_none, linkLimit, not_and]
  rintro ⟨hdelivered, hreply⟩ hsent
  exact absurd (h q hq hdelivered hreply) (Nat.not_lt.2 (of_decide_eq_true hsent))

/-! ### PFCH and ACCZ (R209, R326) -/

theorem pfch_ends (hruns : Say.runs s core slot e) {x : EngOp} (hpfch : e.instr = .pfch x) :
    ∃ t, exec (.childOpDone core slot) s = .next t ∧ Say.ended s t core slot e .done none ∧ Say.sameMemory s t
      ∧ t.jobs = s.jobs := by
  have hop : (opRun s core slot e none).e.instr = .pfch x := hpfch
  refine childOpDone_ends hruns (prepareOp_eq_self (eng := .copy) (by rw [hop]; rfl) (fun m h => by cases h.symm.trans hop)
    (.inr (.inl rfl))) ?_ rfl rfl rfl rfl rfl
  rw [runOp, hop]
  rfl

theorem residentJob_modJobId {id : Nat} {f : Job → Job} (hids : ∀ j, (f j).ids = j.ids) (k : Nat) :
    residentJob (modJobId s id f) k = (residentJob s k).map fun j => if j.ids.jobid = id then f j else j := by
  rw [residentJob, residentJob, modJobId, List.find?_map, Option.map_map, Option.map_map]
  have hkey : ((fun x : Nat × Job => x.2.ids.jobid == k) ∘ fun x => if x.2.ids.jobid = id then (x.1, f x.2) else x)
      = fun x => x.2.ids.jobid == k := by
    funext x
    dsimp only [Function.comp]
    split
    · rw [hids]
    · rfl
  rw [hkey]
  refine Option.map_congr fun x _ => ?_
  dsimp only [Function.comp]
  split <;> rfl

/-- A job once one of its operations has left a value in an accumulator. -/
def accSet (o : OpRun) (a : Nat) (els : List Nat) (v : AccVal) (j : Job) : Job :=
  { j with accs := Vector.ofFn fun i : Fin 8 =>
      let x := j.accs[i]
      if i.val = a then
        let x := { x with poison := x.poison.filter fun n => !els.contains n }
        if x.owner = some (o.slot, o.e.seq) then { x with buffer := some v } else { x with val := v }
      else x }

theorem accSet_owner (o : OpRun) (a : Nat) (els : List Nat) (v : AccVal) (j : Job) (i : Fin 8) :
    (accSet o a els v j).accs[i].owner = j.accs[i].owner := by
  simp only [accSet, Fin.getElem_fin, Vector.getElem_ofFn]
  split
  · split <;> rfl
  · rfl

theorem accsOwned_accSet (o : OpRun) (a : Nat) (els : List Nat) (v : AccVal) (j : Job) (k q : Nat) :
    accsOwned (accSet o a els v j) k q = accsOwned j k q := by
  refine List.filter_congr fun i hi => ?_
  have hlt : i < 8 := List.mem_range.1 hi
  have h := accSet_owner o a els v j ⟨i, hlt⟩
  simp only [Fin.getElem_fin] at h
  have hgetD (l : Vector Acc 8) : l.getD i .start = l[i] := by simp [Vector.getD, Array.getD, hlt]
  rw [hgetD, hgetD, h]

theorem residentJob_setAcc (o : OpRun) (a : Nat) (els : List Nat) (v : AccVal) (k : Nat) : residentJob (setAcc s o a els v) k
    = (residentJob s k).map fun j => if j.ids.jobid = o.e.ids.jobid then accSet o a els v j else j :=
  residentJob_modJobId (f := accSet o a els v) (fun _ => rfl) k

theorem seenByAll_setAcc (o : OpRun) (a : Nat) (els : List Nat) (v : AccVal) :
    Say.seenByAll (setAcc s o a els v) slot e = Say.seenByAll s slot e := by
  unfold Say.seenByAll
  cases e.holder with
  | none => rfl
  | some id =>
    simp only [Option.bind_some, residentJob_setAcc]
    cases residentJob s id with
    | none => rfl
    | some j =>
      simp only [Option.map_some]
      split
      · rw [accsOwned_accSet]
        rfl
      · rfl

/-- The job of an operation once it has left a value in an accumulator that it owns. -/
theorem accSet_owned {o : OpRun} {a : Fin 8} {j : Job} (els : List Nat) (v : AccVal)
    (howner : j.accs[a].owner = some (o.slot, o.e.seq)) :
    (accSet o a els v j).accs[a].buffer = some v ∧ (accSet o a els v j).accs[a].val = j.accs[a].val := by
  rw [Fin.getElem_fin] at howner
  simp [accSet, howner]

theorem jobid_of_residentJob {id : Nat} {j : Job} (h : residentJob s id = some j) : j.ids.jobid = id := by
  obtain ⟨x, hx, rfl⟩ := Option.map_eq_some_iff.1 h
  simpa using List.find?_some hx

theorem accz_ends (hruns : Say.runs s core slot e) {m : MatOp} (haccz : e.instr = .accz m) {j : Job}
    (hjob : residentJob s e.ids.jobid = some j) (howner : j.accs[m.acc.toNat].owner = some (slot, e.seq)) :
    ∃ t j', exec (.childOpDone core slot) s = .next t ∧ Say.ended s t core slot e .done none
      ∧ residentJob t e.ids.jobid = some j'
      ∧ j'.accs[m.acc.toNat].buffer = some { AccVal.start with isInt := m.h.fmt == 4 }
      ∧ j'.accs[m.acc.toNat].val = j.accs[m.acc.toNat].val ∧ Say.sameMemory s t := by
  have hop : (opRun s core slot e none).e.instr = .accz m := haccz
  have hrun : runOp (opRun s core slot e none) s = .done (setAcc s (opRun s core slot e none) m.acc.toNat
      (tileIndex 64 64 ++ maxIndex 64 ++ sumIndex 64) { AccVal.start with isInt := m.h.fmt == 4 }) := by
    rw [runOp, hop]
    rfl
  have hprep : prepareOp s (opRun s core slot e none) = .ok s :=
    prepareOp_eq_self (eng := .matrix) (by rw [hop]; rfl) (fun m h => by cases h.symm.trans hop) (.inl rfl)
  generalize ({ AccVal.start with isInt := m.h.fmt == 4 } : AccVal) = v at hrun ⊢
  generalize tileIndex 64 64 ++ maxIndex 64 ++ sumIndex 64 = els at hrun
  obtain ⟨t, hexec, hended, hmemory, hjobs⟩ := childOpDone_ends hruns hprep hrun rfl rfl rfl rfl (seenByAll_setAcc ..)
  obtain ⟨hbuffer, hval⟩ := accSet_owned (o := opRun s core slot e none) (a := ⟨m.acc.toNat, m.acc.isLt⟩) els v howner
  refine ⟨t, _, hexec, hended, ?_, hbuffer, hval, hmemory⟩
  rw [residentJob, hjobs]
  change residentJob (setAcc ..) _ = _
  rw [residentJob_setAcc, hjob]
  exact congrArg some (if_pos (jobid_of_residentJob hjob))

end

end Sys2Proof.Proofs
end

section
/-! PROOFS. A CPY in scratchpad (R154, R201, R205). -/

namespace Sys2Proof.Proofs
open Sys2Proof Sys2Proof.Machine

/-! ### The pieces of a range -/

/-- What holds before the first piece of a range and is carried on by each piece holds after the last. -/
theorem foldl_piecesFrom {σ : Type} {P : Nat → σ → Prop} {f : σ → Nat × Nat → σ} {lo hi : Nat}
    (hstep : ∀ p k x, lo ≤ p → 0 < k → p + k ≤ hi → P p x → P (p + k) (f x (p, k))) (fuel p n : Nat) (x : σ) (hlo : lo ≤ p)
    (hhi : p + n = hi) (hfuel : n = 0 ∨ p % 256 + n ≤ 256 * fuel) (hx : P p x) : P hi ((piecesFrom fuel p n).foldl f x) := by
  induction fuel generalizing p n x with
  | zero =>
    obtain rfl : n = 0 := by omega
    rwa [← hhi]
  | succ fuel ih =>
    unfold piecesFrom
    split
    · rename_i hn
      rw [← hhi, hn]
      exact hx
    · dsimp only
      rw [List.foldl_cons]
      exact ih _ _ _ (by omega) (by omega) (by omega) (hstep p _ x hlo (by omega) (by omega) hx)

theorem foldl_pieces {σ : Type} {P : Nat → σ → Prop} {f : σ → Nat × Nat → σ} {va n : Nat}
    (hstep : ∀ p k x, va ≤ p → 0 < k → p + k ≤ va + n → P p x → P (p + k) (f x (p, k))) {x : σ} (hx : P va x) :
    P (va + n) ((pieces va n).foldl f x) :=
  foldl_piecesFrom hstep _ va n x (Nat.le_refl va) rfl (by omega) hx

theorem Memory.bytes_add (m : Memory) (a n k : Nat) :
    Memory.bytes m a (n + k) = Memory.bytes m a n ++ Memory.bytes m (a + n) k := by
  induction n generalizing a with
  | zero => rw [Nat.zero_add]; rfl
  | succ n ih => rw [Nat.succ_add, Memory.bytes, ih, Memory.bytes, List.cons_append, Nat.add_right_comm, Nat.add_assoc]

/-! ### A piece of a range in scratchpad -/

section
variable {s : State} {core : Nat} {j : Job} {va : Word} {n a : Nat} (h : Say.inSpad s core j va n a) {p k : Nat}
  (hlo : va.toNat ≤ p) (hk : 0 < k) (hhi : p + k ≤ va.toNat + n)
include h hlo hk hhi

omit hlo in
theorem toNat_piece : (BitVec.ofNat 64 p).toNat = p := by
  obtain ⟨hwin, hspan, -⟩ := h
  rw [BitVec.toNat_ofNat, Nat.mod_eq_of_lt]
  have hw : Config.spadWindow + Config.spadSpan < 2 ^ 64 := by decide
  omega

theorem locate_piece {ag : Agent} (hjob : ag.job = some j) :
    locate ag (BitVec.ofNat 64 p) = .spad (p - Config.spadWindow) none false := by
  have hp := toNat_piece h hk hhi
  obtain ⟨hwin, hspan, -, -, hstash, -⟩ := h
  have hin : inSpadWindow (BitVec.ofNat 64 p) = true := by
    rw [inSpadWindow, hp, Bool.and_eq_true, decide_eq_true_eq, decide_eq_true_eq]
    omega
  have hnone (off : Nat) : winOfOff j off = none := by
    rw [winOfOff, Option.map_eq_none_iff, List.find?_eq_none]
    intro w hw
    simp [hstash w (List.mem_range.1 hw)]
  rw [locate, hin, if_pos rfl, hp, hjob]
  simp only [Option.bind_some, hnone]

theorem spad_piece {ag : Agent} (hjob : ag.job = some j) (hcore : ag.hart.core = core) :
    ag.spad (p - Config.spadWindow) k = some (a + (p - va.toNat)) := by
  obtain ⟨hwin, hspan, hhalf, -, -, hgrant, -⟩ := h
  rw [Agent.spad, hjob]
  dsimp only
  rw [hcore]
  unfold grantAddr at hgrant ⊢
  split at hgrant
  · obtain rfl := Option.some.inj hgrant
    rw [if_pos (by omega)]
    exact congrArg some (by omega)
  · split at hgrant
    · rename_i hhigh
      rw [Bool.and_eq_true, decide_eq_true_eq, decide_eq_true_eq] at hhigh
      obtain rfl := Option.some.inj hgrant
      rw [if_neg (by omega), if_pos (by rw [Bool.and_eq_true, decide_eq_true_eq, decide_eq_true_eq]; omega)]
      exact congrArg some (by omega)
    · cases hgrant

omit hk in
theorem firstBad_piece (b : Bulk) :
    b.firstBad p (granules (a + (p - va.toNat)) k) (fun g => NatSet.has s.ms.spadPoison g) = none := by
  obtain ⟨-, -, -, -, -, -, hpoison⟩ := h
  have hpart := find_granules_part hpoison (o := p - va.toNat) (m := k) (by omega)
  rw [Bulk.firstBad, Option.map_eq_none_iff, List.find?_eq_none]
  rintro ⟨g, i⟩ hg
  have hgood := List.find?_eq_none.1 hpart g (List.fst_mem_of_mem_zipIdx hg)
  rw [Bool.not_eq_true] at hgood
  dsimp only
  rw [hgood]
  exact Bool.false_ne_true

theorem readPiece_spad {b : Bulk} (hjob : b.ag.job = some j) (hcore : b.ag.hart.core = core) (hearly : b.early = [])
    (hkeep : b.keep = false) :
    readPiece s b (BitVec.ofNat 64 p) k = .ok (s, Memory.bytes s.ms.spad (a + (p - va.toNat)) k) := by
  have hlay (v : Nat) (bs : List Byte) : b.lay v bs = bs := by rw [Bulk.lay, hearly]; rfl
  have hread (v : Nat) (bs : List Byte) : keepRead s b v bs = s := by rw [keepRead, hkeep]; rfl
  rw [readPiece, locate_piece h hlo hk hhi hjob]
  simp only [spad_piece h hlo hk hhi hjob hcore, Bool.false_eq_true, if_false, fillRange, toNat_piece h hk hhi,
    firstBad_piece h hlo hhi, hlay, hread]

theorem writePiece_spad {t : State} {b : Bulk} (hjob : b.ag.job = some j) (hcore : b.ag.hart.core = core)
    (htorn : b.torn = none) (honly : b.only = none) (hperformed : b.performed = []) {bs : List Byte} (hlen : bs.length = k) :
    writePiece t b (BitVec.ofNat 64 p) bs = .ok (writeSpad t (a + (p - va.toNat)) bs) := by
  have hparts (v sp : Nat) : b.parts v sp bs = [(0, bs)] := by rw [Bulk.parts, htorn, honly, hperformed]; rfl
  have ⟨_, _, _, hunsealed, _⟩ := h
  have hsealed (off : Nat) : inSealed b.ag off bs.length = false := by rw [inSealed, hjob]; dsimp only; rw [hunsealed]; rfl
  rw [writePiece, locate_piece h hlo hk hhi hjob]
  simp only [hlen, spad_piece h hlo hk hhi hjob hcore, Bool.false_eq_true, if_false, fillRange, hparts]
  rw [← hlen, hsealed]
  rfl

end

/-! ### Ranges in scratchpad (R172, R205) -/

theorem readRange_spad {s : State} {core : Nat} {j : Job} {va : Word} {n a : Nat} (h : Say.inSpad s core j va n a) {b : Bulk}
    (hjob : b.ag.job = some j) (hcore : b.ag.hart.core = core) (hearly : b.early = []) (hkeep : b.keep = false) :
    readRange s b va n = .ok (s, Memory.bytes s.ms.spad a n) := by
  have hall := foldl_pieces (va := va.toNat) (n := n) (P := fun p (x : Except BulkFail (State × List Byte)) =>
      x = .ok (s, Memory.bytes s.ms.spad a (p - va.toNat)))
    (f := fun r p => r.bind fun x => (readPiece x.1 b (BitVec.ofNat 64 p.1) p.2).map fun y => (y.1, x.2 ++ y.2))
    (fun p k x hlo hk hhi hx => ?_) (x := .ok (s, [])) (by rw [Nat.sub_self]; rfl)
  · rw [Nat.add_sub_cancel_left] at hall
    exact hall
  · subst hx
    dsimp only [Except.bind]
    rw [readPiece_spad h hlo hk hhi hjob hcore hearly hkeep, show p + k - va.toNat = p - va.toNat + k by omega,
      Memory.bytes_add]
    rfl

/-- The scratchpads hold the first `m` of these bytes from byte `a` on, and nothing else has changed. -/
structure Laid (s : State) (a : Nat) (bs : List Byte) (m : Nat) (t : State) : Prop where
  only : t = { s with ms := { s.ms with spad := t.ms.spad, spadPoison := t.ms.spadPoison } }
  wf : t.ms.spad.wf = true
  inside : ∀ i, (hi : i < bs.length) → i < m → Memory.byte t.ms.spad (a + i) = bs[i]
  outside : ∀ c, c < a ∨ a + m ≤ c → Memory.byte t.ms.spad c = Memory.byte s.ms.spad c

theorem Laid.writeSpad {s t : State} {a m k : Nat} {bs : List Byte} (h : Laid s a bs m t) (hk : m + k ≤ bs.length) :
    Laid s a bs (m + k) (writeSpad t (a + m) (slice bs m k)) := by
  have hlen : (slice bs m k).length = k := by rw [slice, List.length_take, List.length_drop]; omega
  refine ⟨?_, Memory.putBytes_wf _ _ _ h.wf, fun i hi hm => ?_, fun c hc => ?_⟩
  · rw [Machine.writeSpad, modMs, h.only]
  · by_cases hlow : i < m
    · exact (Memory.byte_putBytes_outside _ _ _ _ h.wf (.inl (by omega))).trans (h.inside i hi hlow)
    · have hin := Memory.byte_putBytes_inside t.ms.spad (a + m) (i - m) (slice bs m k) h.wf (by omega)
      rw [show a + m + (i - m) = a + i by omega] at hin
      refine hin.trans ?_
      simp only [slice, List.getElem_take, List.getElem_drop]
      congr 1
      omega
  · exact (Memory.byte_putBytes_outside _ _ _ _ h.wf (by omega)).trans (h.outside c (by omega))

theorem writeRange_spad {s : State} {core : Nat} {j : Job} {va : Word} {n a : Nat} (h : Say.inSpad s core j va n a) {b : Bulk}
    (hjob : b.ag.job = some j) (hcore : b.ag.hart.core = core) (htorn : b.torn = none) (honly : b.only = none)
    (hperformed : b.performed = []) {bs : List Byte} (hlen : bs.length = n) (hwf : s.ms.spad.wf = true) :
    (writeRange ⟨s, none⟩ b va bs).fail = none ∧ Laid s a bs n (writeRange ⟨s, none⟩ b va bs).st := by
  have hall := foldl_pieces (va := va.toNat) (n := n)
    (P := fun p (w : Written) => w.fail = none ∧ Laid s a bs (p - va.toNat) w.st)
    (f := writePieces b va.toNat bs) (fun p k w hlo hk hhi hw => ?_) (x := ⟨s, none⟩)
    ⟨rfl, rfl, hwf, fun i _ hi => absurd hi (by omega), fun _ _ => rfl⟩
  · rw [Nat.add_sub_cancel_left] at hall
    rw [writeRange, hlen]
    exact hall
  · obtain ⟨hfail, hlaid⟩ := hw
    have hslice : (slice bs (p - va.toNat) k).length = k := by rw [slice, List.length_take, List.length_drop]; omega
    have hnext := hlaid.writeSpad (k := k) (by omega)
    rw [show p - va.toNat + k = p + k - va.toNat by omega] at hnext
    simp only [writePieces, hfail, isVersion, Bool.false_eq_true, if_false,
      writePiece_spad h hlo hk hhi hjob hcore htorn honly hperformed hslice]
    exact ⟨trivial, hnext⟩

/-! ### CPY (R205) -/

theorem runCpy_done {x : EngOp} {o : OpRun} {s : State} {bs : List Byte} (hsync : x.rw = 0) (hn : o.w32 .rc ≠ 0)
    (hn16 : o.w32 .rc % 16 = 0) (hsrc16 : (o.v .ra).toNat % 16 = 0) (hdst16 : (o.v .rb).toNat % 16 = 0)
    (hread : readRange s o.b (o.v .ra) (o.w32 .rc) = .ok (s, bs))
    (hfail : (writeRange ⟨s, none⟩ (o.wetBulk x.rw) (o.v .rb) bs).fail = none) :
    runCpy x o s = .done (writeRange ⟨s, none⟩ (o.wetBulk x.rw) (o.v .rb) bs).st := by
  have hnamed : namedSync s o x.rw = .ok (s, none) := by rw [namedSync, if_pos hsync]
  unfold runCpy
  simp only [if_neg hn, RunOut.check, hsrc16, hn16, hdst16, hread, RunOut.after, hnamed, RunOut.written, hfail,
    beq_self_eq_true, Bool.and_self, if_true]
  rfl

section
variable {s : State} {core slot : Nat} {e : TokenEntry} {j : Job} (hruns : Say.runs s core slot e) (hok : memOk s = true)
  (hjob : residentJob s e.ids.jobid = some j) {x : EngOp} {a b : Nat} (hcpy : e.instr = .cpy x) (hsync : x.rw = 0)
  (hn : (opVal e .rc).toNat % 2 ^ 32 ≠ 0) (hn16 : (opVal e .rc).toNat % 2 ^ 32 % 16 = 0) (hsrc16 : (opVal e .ra).toNat % 16 = 0)
  (hdst16 : (opVal e .rb).toNat % 16 = 0) (hsrc : Say.inSpad s core j (opVal e .ra) ((opVal e .rc).toNat % 2 ^ 32) a)
  (hdst : Say.inSpad s core j (opVal e .rb) ((opVal e .rc).toNat % 2 ^ 32) b)
include hruns hok hjob hcpy hsync hn hn16 hsrc16 hdst16 hsrc hdst

theorem cpy_lays : ∃ u, runOp (opRun s core slot e none) s = .done u
    ∧ Laid s b (Memory.bytes s.ms.spad a ((opVal e .rc).toNat % 2 ^ 32)) ((opVal e .rc).toNat % 2 ^ 32) u := by
  have hag : (opRun s core slot e none).b.ag.job = some j := by
    change jobById s e.ids.jobid = some j
    rw [jobById, hjob]
  obtain ⟨-, -, -, hearly, hperformed, -⟩ := hruns
  have hread := readRange_spad (b := (opRun s core slot e none).b) hsrc hag rfl hearly rfl
  obtain ⟨hfail, hlaid⟩ := writeRange_spad (b := (opRun s core slot e none).wetBulk x.rw) hdst hag rfl rfl rfl hperformed
    (Memory.length_bytes ..) ((memOk_iff s).1 hok).2
  refine ⟨_, ?_, hlaid⟩
  rw [runOp, show (opRun s core slot e none).e.instr = .cpy x from hcpy]
  exact runCpy_done hsync hn hn16 hsrc16 hdst16 hread hfail

theorem cpy_moves :
    ∃ t, exec (.childOpDone core slot) s = .next t ∧ Say.ended s t core slot e .done none
      ∧ Memory.bytes t.ms.spad b ((opVal e .rc).toNat % 2 ^ 32) = Memory.bytes s.ms.spad a ((opVal e .rc).toNat % 2 ^ 32)
      ∧ (∀ c, c < b ∨ b + (opVal e .rc).toNat % 2 ^ 32 ≤ c → Memory.byte t.ms.spad c = Memory.byte s.ms.spad c)
      ∧ t.ms.mem = s.ms.mem ∧ t.ms.wet = s.ms.wet := by
  have hop : (opRun s core slot e none).e.instr = .cpy x := hcpy
  obtain ⟨u, hrun, hlaid⟩ := cpy_lays hruns hok hjob hcpy hsync hn hn16 hsrc16 hdst16 hsrc hdst
  obtain ⟨t, hexec, hended, hmemory, -⟩ := childOpDone_ends hruns
    (prepareOp_eq_self (eng := .copy) (by rw [hop]; rfl) (fun m h => by cases h.symm.trans hop) (.inr (.inl rfl))) hrun
    (by rw [hlaid.only]) (by rw [hlaid.only]) (by rw [hlaid.only]) (by rw [hlaid.only])
    (seenByAll_congr (by rw [hlaid.only]) rfl rfl rfl)
  obtain ⟨hmem, hspad, hwet⟩ := fields_of_sameMemory hmemory
  have hlen := Memory.length_bytes s.ms.spad a ((opVal e .rc).toNat % 2 ^ 32)
  have hbytes := Memory.bytes_eq (a := b) (m := u.ms.spad) fun i hi => hlaid.inside i hi (hlen ▸ hi)
  rw [hlen] at hbytes
  refine ⟨t, hexec, hended, hspad ▸ hbytes, fun c hc => hspad ▸ hlaid.outside c hc, ?_, ?_⟩
  · rw [hmem, hlaid.only]
  · rw [hwet, hlaid.only]

end

/-- Settles O16, clause by clause: each run comes to what its instruction says, and what the end of an operation adds to
memory and to the token table does not depend on what it ran. -/
theorem operationEnds : Obligations.OperationEnds := by
  intro s core slot e j hruns hok hjob va n
  exact ⟨fun x a b hcpy hsync hn hn16 hsrc16 hdst16 hsrc hdst =>
      cpy_moves hruns hok hjob hcpy hsync hn hn16 hsrc16 hdst16 hsrc hdst,
    fun x hcpy hn h => cpy_misaligned hruns hcpy hn h, fun x hpfch => pfch_ends hruns hpfch,
    fun m haccz howner => accz_ends hruns haccz hjob howner,
    fun q hq hdelivered hreply hsent => linkTimeout_overdue hruns (linkOverdue_of_request hq hdelivered hreply hsent),
    fun hcoll hrequests => linkTimeout_early hruns (linkOverdue_eq_false hcoll hrequests)⟩

end Sys2Proof.Proofs
end
